-- ==== Sys2Proof/Word.lean ====
section
/-! DEFINITION. The plain types of the machine: words, bytes, lane values and the two kinds of finite map the
state is made of. Every quantity the manual treats as bits is a `BitVec`; addresses used as keys are `Nat`. -/

namespace Sys2Proof

/-- One byte (R2). -/
abbrev Byte := BitVec 8

/-- One 32-bit lane register of one lane, and one instruction word (R2, R62). -/
abbrev Word := BitVec 32

/-- One uniform register (R22). -/
abbrev DWord := BitVec 64

/-- The value of one lane register in the 32 lanes of a wave, lane 0 first; a missing entry reads as zero. -/
abbrev LaneVec := List Word

/-- A finite map with `Nat` keys, kept in strictly rising key order. -/
abbrev FMap (α : Type) := List (Nat × α)

end Sys2Proof
end

