-- ==== Sys2Proof/Machine/Data.lean ====
section
/-! DEFINITION. The data of waves, launches and jobs, and of what stands in them: fault records, translations, strands, splits,
store-buffer entries, parts, loads, barriers. State gathers them; the debugger's steps name some (Syntax). -/

namespace Sys2Proof.Machine

/-- A memory: (address, byte) pairs in rising address order. A byte that nothing has written is not listed. -/
abbrev Memory := List Host.Cell

/-- The trap causes of R302. -/
inductive Cause where
  | illegalOp | lookahead | window | partialMask | barrierDiverged | fetchBound | vaultBound | align
  | xlateMiss | xlatePerm | regBudget | tileShape | mmaCheck | shadowMismatch | eccUncorrectable
  | softTrap | breakpoint | watchdog | gangAbort | footprint
deriving DecidableEq, Repr

/-- One 32-byte fault record (R304). -/
structure FaultRec where
  cause  : Cause
  /-- [0] recoverable, [1] job record, [2] a task record follows. -/
  flags  : BitVec 8
  strand : BitVec 8
  launch : BitVec 8
  wave   : BitVec 16
  pc     : BitVec 48
  addr   : DWord
  mask   : Word
  prog   : Word
deriving DecidableEq, Repr

/-- The ordering attribute of a page (R140). -/
inductive PageOrd where
  | so | rc | uo
deriving DecidableEq, Repr

/-- A finished translation (R141): the page's virtual base, its size, its frame and its attributes. -/
structure Trans where
  vbase : Nat
  size  : Nat
  frame : Nat
  ord   : PageOrd
  r     : Bool
  w     : Bool
  ch    : Bool
  key   : Nat
deriving DecidableEq, Repr

/-- A translation register (R142). -/
structure XReg where
  valid : Bool
  vb    : DWord
  lim   : Nat
  trans : Option Trans
  stale : Bool
deriving DecidableEq, Repr

/-- The name of a register as R71 and R72 compare names. -/
inductive RegName where
  | v (n : Nat) | p (n : Nat) | s (n : Nat) | q (n : Nat) | x (n : Nat) | t (n : Nat)
deriving DecidableEq, Repr

/-- One write to a register of the wave or of the strand. -/
inductive Wr where
  | v (r : Nat) (mask : Word) (val : LaneVec)
  | p (r : Nat) (mask val : Word)
  | s (r : Nat) (val : DWord)
  | q (r : Nat) (val : Bool)
  | x (r : Nat) (val : XReg)
  /-- Bytes of a tile, by their offset in it. -/
  | t (tile : Nat) (bytes : List (Nat × Byte))
  /-- Flags ORed into FPSTAT (R98). -/
  | fp (flags : BitVec 6)
  /-- An addition to SKIPCNT (R252). -/
  | skip (n : DWord)
deriving DecidableEq, Repr

/-- Ordering marks of an access (R148). -/
structure Marks where
  scope : BitVec 3
  acq   : Bool
  rel   : Bool
deriving DecidableEq, Repr

/-- A vault read under way: the accesses still to perform at their banks, each a step of its own, and what has been read (R133,
R193, R195). -/
structure VaultRead where
  /-- The step at which it issued. -/
  issued : Nat
  /-- (index of the access, vault address, EA) still to perform. -/
  todo  : List (Nat × Nat × Word)
  /-- (index of the access, bytes) already returned. -/
  got   : List (Nat × List Byte)
  width : Nat
  /-- What to do with the bytes: destination register or tile, registers per lane, sign extension, uniform, a tile (then an
  index is an offset in it). -/
  dst   : Nat
  regs  : Nat
  sx    : Bool
  uni   : Bool
  tile  : Bool
  acq   : Bool
  /-- A SLOTRD: each access clears FRESH in the step that reads the slot (R157). -/
  clear : Bool
  /-- Bytes whose FRESH this read has cleared: a trap sets it again (R8, R313). -/
  cleared : List Nat
  /-- The scope of its ordering field (R148). -/
  scope : BitVec 3
deriving DecidableEq, Repr

/-- How far the result of an issued instruction is. -/
inductive FlightState where
  /-- The result is known and its write may take place. -/
  | ready
  /-- The result exists: every destination is written. -/
  | done
  /-- The result waits for the drain of a store-buffer entry (R49). -/
  | drain (entry : Nat)
  /-- The result waits for vault reads (R193). -/
  | reading (r : VaultRead)
  /-- A JOIN: the registers that are not joined yet (R44). -/
  | join
  /-- The result waits for the matrix array (R268) or a step-cache job (R254). -/
  | job (id : Nat)
deriving DecidableEq, Repr

/-- An issued instruction whose window is open or whose destinations do not all exist (R71, R72). -/
structure Flight where
  /-- Its PC, and the PC that a record of it carries (R332). -/
  pc     : Nat
  recPc  : Nat
  left   : Nat
  dests  : List RegName
  state  : FlightState
  writes : List Wr
  /-- Program-order number of the instruction, for accesses that acquire (R206). -/
  num    : Nat
  /-- The instruction's reads acquire (R206). -/
  acq    : Bool
deriving DecidableEq, Repr

/-- The conditions of WAITA (R181). -/
inductive WaitCond where
  | eq | ne | geu | ge
deriving DecidableEq, Repr

/-- The kinds of FENCE (R184). -/
inductive FenceKind where
  | acq | rel | full | eng
deriving DecidableEq, Repr

/-- A blocking wait of a strand (R166). -/
inductive Wait where
  | barrier (b : Nat) (phase : Word) (qd : Nat)
  | group (g : Nat) (phase : Nat) (qd : Nat)
  | cluster (phase : Nat) (qd : Nat)
  /-- `issued` is the step at which it issued, `first` says that it has still to read for the first time, `num` is its place in program order. -/
  | waita (ea : Word) (cond : WaitCond) (cmp : DWord) (sd : Nat) (acq : Bool) (scope : BitVec 3) (issued : Nat) (first : Bool) (num : Nat)
  /-- Unstalled cycles of the quadrant still to pass (R183). -/
  | sleep (left : Nat)
  | fence (kind : FenceKind) (scope : BitVec 3) (num : Nat)
  | joinmem
  /-- An END that waits for open splits to close (R47). -/
  | ending
  /-- A TSTG until its capture (R281). -/
  | capture (job : Nat)
deriving DecidableEq, Repr

/-- A strand parked on translation (R144, R307). -/
structure Park where
  /-- Lanes not yet done; mask(S) for a uniform instruction. -/
  mask   : Word
  /-- active(S) of the instruction, or mask(S) (R304). -/
  act    : Word
  /-- Virtual addresses whose pages' walks are pending, each with the address of the lane that needs it. -/
  pages  : List (Nat × Nat)
  /-- The lowest unfinished lane's address. -/
  addr   : DWord
  /-- A record of a walk that misses carries the failing page's address, not the lowest lane's (R251). -/
  each   : Bool
  /-- A recoverable record has been posted and the strand waits for the firmware. -/
  posted : Bool
  /-- Every page whose walk was pending when the strand parked, in lane order with the lanes' addresses, and what the instruction asks of them: a
  leaf without it is an outcome of XLATE_PERM (R141, R144, R151). -/
  asked  : List (Nat × Nat)
  rd     : Bool
  wr     : Bool
deriving DecidableEq, Repr

/-- What a strand is (R34): the root, arm `i` of its frame, or its frame's continuation. -/
inductive Role where
  | root | arm (i : Nat) | cont
deriving DecidableEq, Repr

/-- What an acquire mark waits for: the landing of a load (R206), or the fill, refusal or acknowledgement that answers a
subscription request (R233). -/
inductive Acq where
  | load (id : Nat) | answer (request : Nat)
deriving DecidableEq, Repr

/-- Where a strand stands among the agents of the scopes (R203): its wave, cohort, cluster and die, and its own key in the wave. -/
structure Agent where
  cohort  : Nat
  widx    : Nat
  cluster : Nat
  die     : Nat
  strand  : List Nat
deriving DecidableEq, Repr

/-- A release that has performed (R207): its scope, who made it, and the parts that happen before it and have not performed
at every scope. -/
structure Release where
  scope : BitVec 3
  who   : Agent
  parts : List Nat
  /-- An acquire that reads it synchronises with it whatever its scope: the FLAG write of a region (R201). -/
  any   : Bool
deriving DecidableEq, Repr

/-- Something that happens before the accesses of a strand (R207): part `part` happens before every access later than number
`num` of the strand with this key where `all` is set, else before its later releases and before what accesses the same bytes. -/
structure Before where
  key   : List Nat
  num   : Nat
  part  : Nat
  all   : Bool
  space : Nat
  addr  : Nat
  width : Nat
deriving DecidableEq, Repr

/-- A strand that issues (R34). `up` names the frame above it: the lattice entry and the depth in it. -/
structure Run where
  role    : Role
  up      : Option (Nat × Nat)
  mask    : Word
  pc      : Nat
  /-- PC of the instruction that passed control to `pc` (R65). -/
  fromPc  : Nat
  /-- The PC that a record of the instruction issued last carries (R332). -/
  lastPc  : Nat
  /-- s48 to s63. -/
  priv    : FMap DWord
  /-- q0 to q7; bit 0 reads true. -/
  q       : BitVec 8
  /-- Position in drain order (R49), compared lexicographically. -/
  key     : List Nat
  /-- Subtrees whose accesses count as earlier: closed splits (R196). -/
  covers  : List (List Nat)
  /-- JOINMEM has completed: every strand before this key in drain order counts as earlier (R51, R196). -/
  jm      : Option (List Nat)
  joinedV : BitVec 128
  joinedP : BitVec 8
  /-- Registers of the arms' windows of closed splits whose continuation this strand was (R44, R46). -/
  lapsedV : BitVec 128
  lapsedP : BitVec 8
  flights : List Flight
  wait    : Option Wait
  park    : Option Park
  /-- A strand of a serialised split that has not started (R35). -/
  held    : Bool
  /-- Inside the substitute of patch entry `n` that stands at address `a` (R332). -/
  sub     : Option (Nat × Nat)
  /-- What this strand's acquire marks still wait for (R206, R233). -/
  acqs    : List Acq
  /-- The substitute in which the instruction issued last stood (R303, R332). -/
  lastSub : Option (Nat × Nat)
  /-- The next instruction is a TLD whose checks have passed and that waits for its strand's entries (R263). -/
  passed  : Bool
deriving DecidableEq, Repr

/-- One arm of an open split: its windows, what it has sealed, and whether it has ended (R40, R43). -/
structure Arm where
  wA      : BitVec 16
  sealedV : BitVec 128
  sealedP : BitVec 8
  ended   : Bool
  /-- The link value a CALLI wrote into s63 of a call strand (R57, R59). -/
  link    : Option DWord
deriving DecidableEq, Repr

/-- An open split (R34, R37). -/
structure Frame where
  role   : Role
  up     : Option (Nat × Nat)
  key    : List Nat
  covers : List (List Nat)
  jm     : Option (List Nat)
  /-- Joined set of the strand that split, when it is a continuation. -/
  joinedV : BitVec 128
  joinedP : BitVec 8
  lapsedV : BitVec 128
  lapsedP : BitVec 8
  wC     : BitVec 16
  pA     : BitVec 8
  pC     : BitVec 8
  uC     : BitVec 12
  arms   : List Arm
  /-- Strands of a serialised split still to run, in order (R35). -/
  pending : List Run
  serial  : Bool
deriving DecidableEq, Repr

/-- One entry of the lattice (R34): the open frames it holds, outermost first, and the strand that runs in it. -/
structure Entry where
  frames : List Frame
  run    : Option Run
deriving DecidableEq, Repr

/-- The operations of the atomics (R156). -/
inductive AtomOp where
  | add | min | max | and | or | xor | xchg | cas
deriving DecidableEq, Repr

/-- One lane's part of an atomic. -/
structure AtomLane where
  lane : Nat
  addr : Nat
  /-- The EA, for a record (R313). -/
  ea   : Word
  opnd : DWord
  cmp  : DWord
deriving DecidableEq, Repr

/-- What an access at a home does (R197). -/
inductive PartKind where
  | read
  | write
  | atomic (op : AtomOp) (unsigned : Bool) (opnd cmp : DWord)
  | subscribe (slot : Nat)
  | unsubscribe (slot : Nat)
deriving DecidableEq, Repr

/-- One lane part of a global access (R196). -/
structure Part where
  id     : Nat
  /-- Drain key and program-order number of the strand that made it. -/
  key    : List Nat
  num    : Nat
  covers : List (List Nat)
  jm     : Option (List Nat)
  lane   : Nat
  kind   : PartKind
  /-- Physical and virtual address of its first byte. -/
  pa     : Nat
  va     : Nat
  width  : Nat
  data   : List Byte
  ord    : PageOrd
  marks  : Marks
  /-- Memory key the page selects (R147). -/
  mkey   : Nat
  /-- The load it returns to, and its byte offset in that load. -/
  load   : Option (Nat × Nat)
  sent   : Bool
  /-- The step at which it left for its home or the host port (R202). -/
  sentAt : Nat
  /-- What happens before it through earlier accesses of the wave to its bytes (R207). -/
  mates  : List Nat
  /-- Offsets of bytes that have not performed. -/
  rem    : List Nat
  /-- A host-memory part that has performed and is not yet acknowledged (R202). -/
  unacked : Bool
deriving DecidableEq, Repr

/-- A GLD or GATOM lane whose bytes are on their way to the vault (R158, R160). -/
structure Load where
  id      : Nat
  slot    : Nat
  cohort  : Nat
  /-- The cohort whose window the landing names, if it names one (R30, R308). -/
  target  : Option Nat
  /-- Vault address of the landing and its width. -/
  ea      : Nat
  land    : Nat
  sx      : Bool
  atomic  : Bool
  barrier : Nat
  /-- Global width, the bytes returned so far, and the parts still to return. -/
  width   : Nat
  bytes   : FMap Byte
  parts   : Nat
  /-- Virtual address of the first poisoned byte read. -/
  poison  : Option Nat
  /-- What a record of the issuing instruction holds: PC, lattice entry and active lanes; and the lane's virtual address. -/
  pc      : Nat
  entry   : Nat
  mask    : Word
  va      : Nat
  num     : Nat
  key     : List Nat
  acq     : Bool
deriving DecidableEq, Repr

/-- What an undrained store-buffer entry does at its drain (R48, R49). -/
inductive SBKind where
  /-- A vault store: the bytes of each access, the bytes in the order they are written, and the layout tag a TST sets (R259). -/
  | vst (width : Nat) (bytes : List (Nat × Byte)) (tag : Option Nat)
  | vatom (op : AtomOp) (w64 unsigned : Bool) (lanes : List AtomLane) (dst : Nat) (uni : Bool)
  | global (parts : List Part)
  | subscr (lanes : List (Nat × Part))
  | unsub (lanes : List (Nat × Part))
  | nextw (slot : Nat)
deriving DecidableEq, Repr

/-- One store-buffer entry (R48). -/
structure SBEntry where
  id     : Nat
  key    : List Nat
  num    : Nat
  kind   : SBKind
  marks  : Marks
  /-- Subtrees and strands that count as earlier, as they were at issue (R196). -/
  covers : List (List Nat)
  jm     : Option (List Nat)
  /-- Acquires, by strand and number, that have read this release's bytes before its drain: they synchronise with it (R50, R207). -/
  taken  : List (List Nat × Nat)
deriving DecidableEq, Repr

/-- One entry of a task's signal buffer (R188). -/
inductive Signal where
  | sig (block : Trans) (va : Nat)
  | post (block : Trans) (va : Nat) (value : DWord)
deriving DecidableEq, Repr

/-- The task a wave is in (R185): its record as taken and its signal buffer. -/
structure Task where
  record  : List Byte
  signals : List Signal
deriving DecidableEq, Repr

/-- The states of a unit (R28). -/
inductive UnitState where
  | bound | running | halted
  /-- Killed: it counts as retired; what it had drained still performs (R308). -/
  | killed
deriving DecidableEq, Repr

/-- A wave in its slot (R14, R26). -/
structure Wave where
  cohort  : Nat
  widx    : Nat
  state   : UnitState
  live    : Word
  budget  : Nat
  ntiles  : Nat
  v       : FMap LaneVec
  p       : FMap Word
  s       : FMap DWord
  x       : FMap XReg
  tmem    : Memory
  shape   : FMap (BitVec 14)
  layout  : FMap (BitVec 4)
  tmask   : Word
  warn    : BitVec 8
  /-- For a WARN bit that one instruction alone has set, its program-order number (R86). -/
  warnBy  : FMap Nat
  fpstat  : BitVec 6
  fpmode  : BitVec 4
  mmatol  : Word
  skipcnt : DWord
  splitser : DWord
  lattice : FMap Entry
  /-- Entries of demoted strands (R54). -/
  demoted : List Nat
  sb      : List SBEntry
  pq      : List Part
  /-- What happens before accesses of its strands (R207). -/
  before  : List Before
  /-- What acquire marks of arms that have ended still wait for, with the arm's key and how far program order had come (R196, R233). -/
  lateAcqs : List (Acq × List Nat × Nat)
  /-- Next identifier and next program-order number. -/
  nextId  : Nat
  issued  : Nat
  task    : Option Task
  /-- NEXTW requests whose answers have not landed (R298). -/
  nextw   : Nat
  /-- A trap to be taken at the next instruction boundary: its record (R279, R282, R313). -/
  due     : Option FaultRec
  /-- A strand that the debugger lets issue one instruction (R310). -/
  single  : Option Nat
  /-- The wave was halted by a fatal trap and can only be killed; the record's cause (R310). -/
  fatal   : Option Cause
  /-- The strands that took a halting trap, the PC at which each resumes and the substitute that PC lies in (R190, R310, R332). -/
  resumeAt : List (Nat × Nat × Option (Nat × Nat))
deriving DecidableEq, Repr

/-- A named barrier (R175). -/
structure Barrier where
  wexp   : Nat
  eexp   : Nat
  wcnt   : Nat
  ecnt   : Nat
  pend   : Word
  phase  : Word
  status : Nat
  /-- Parts that happen before its arrivals and have not performed at every scope (R176, R207). -/
  parts  : List Nat
deriving DecidableEq, Repr

/-- A cohort (R14, R15), with its window and barriers. -/
structure Cohort where
  launch   : Nat
  index    : Nat
  die      : Nat
  core     : Nat
  /-- Window base in the core's vault and its size, both in bytes (R25). -/
  wbase    : Nat
  wsize    : Nat
  nwaves   : Nat
  retired  : List Nat
  barriers : List Barrier
  /-- A wave of the cohort took a fatal fault (R309). -/
  fatal    : Bool
  /-- The cohort has retired (R29). -/
  gone     : Bool
  /-- The window has been freed. -/
  freed    : Bool
  preempted : Bool
  /-- Phases of the cluster barrier and of the groups that this cohort's waves have executed, per wave index. -/
  cbar     : FMap Nat
  gbar     : FMap Nat
deriving DecidableEq, Repr

/-- A group-table entry of a launch and its barrier (R179, R287). -/
structure Group where
  members : List Nat
  valid   : Bool
  rwait   : Bool
  phase   : Nat
  held    : Nat
  lost    : Bool
  parts   : List Nat
deriving DecidableEq, Repr

/-- A cluster's barrier (R180). -/
structure Cluster where
  phase : Nat
  lost  : Bool
  parts : List Nat
deriving DecidableEq, Repr

/-- The phases of a gang launch on this chip (R299); `nacked` has refused to prepare it, with a reason. -/
inductive GangPhase where
  | none | prepared | started | nacked (reason : Nat)
deriving DecidableEq, Repr

/-- A launch: the packet's fields and what the launch has come to (R286). -/
structure Launch where
  queue   : Nat
  /-- HEAD at its acceptance, and the launch of its queue accepted before it (R289). -/
  seq     : DWord
  after   : Option (Nat × DWord)
  part    : Nat
  code    : Nat
  extent  : Nat
  entry   : Nat
  args    : List Byte
  argsz   : Nat
  persistent : Bool
  protect : Bool
  distrib : Bool
  gang    : Bool
  serial  : Bool
  debug   : Bool
  budget  : Nat
  tiles   : Nat
  clsz    : Nat
  lanes   : Nat
  cohorts : Nat
  vault   : Nat
  root    : Nat
  stack   : DWord
  stksz   : Nat
  fpmode  : BitVec 4
  mmatol  : Word
  wdog    : Nat
  dx      : Nat
  dy      : Nat
  dz      : Nat
  gangId  : Nat
  gdead   : Nat
  tag     : DWord
  groups  : FMap Group
  clusters : FMap Cluster
  gphase  : GangPhase
  /-- Cohorts bound so far and cohorts retired. -/
  bound   : List Nat
  done    : List Nat
  /-- Fault records posted, any fatal record, reference cycles counted, records dropped at completion. -/
  faults  : Nat
  anyFatal : Bool
  wcount  : Nat
  /-- The distributor: grant counter, requests waiting and answers on their way (R296). A request whose wave has been killed
  names no wave: its answer is discarded (R298, R308). -/
  grants  : Nat
  reqs    : List (Option Nat × Nat)
  answers : List (Nat × Nat × Nat × DWord)
  ended   : Bool
deriving DecidableEq, Repr

/-- The kinds of copy-engine job (R273, R254). -/
inductive JobKind where
  | copy | copyl | copyc | tstg | stepchk | steprec
deriving DecidableEq, Repr

/-- How far a job is (R200, R281, R282). -/
inductive JobState where
  /-- Issued, not accepted yet. -/
  | handed
  /-- A TSTG that has not captured. -/
  | capturing
  | running
  /-- Parked on a translation miss; the record has been posted. -/
  | parked
  /-- Stopped for good. -/
  | stopped
  /-- A COPYC whose pieces are done and whose MMA has been handed over. -/
  | handedOver
deriving DecidableEq, Repr

/-- Consecutive bytes of one page: physical address, length, page. -/
structure Piece where
  pa  : Nat
  len : Nat
  t   : Trans
deriving DecidableEq, Repr

/-- A piece of a begun sector that has not been written (R197, R282): its length, where its global source and destination
lie, and its bytes once they have been read. -/
structure JobPiece where
  len  : Nat
  src  : List Piece
  dst  : List Piece
  data : Option (List Byte)
deriving DecidableEq, Repr

/-- A copy-engine job (R273 to R282, R249 to R254). -/
structure Job where
  id      : Nat
  kind    : JobKind
  state   : JobState
  slot    : Nat
  widx    : Nat
  cohort  : Nat
  strand  : Nat
  pc      : Nat
  /-- Drain key and program-order number of the instruction. -/
  key     : List Nat
  num     : Nat
  /-- Source and destination: an EA or a 56-bit virtual address; rows as the card has them. An EA is resolved at each access, for it may
  reach another member's window from row to row (R131, R278). -/
  src     : Nat
  dst     : Nat
  srcG    : Bool
  dstG    : Bool
  rows    : Nat
  rowb    : Nat
  sstr    : Nat
  dstr    : Nat
  layout  : BitVec 4
  bar     : Option Nat
  /-- The EA of the flag and its value. -/
  flag    : Option (Nat × DWord)
  ext     : DWord
  tile    : Nat
  staged  : List Byte
  /-- Sectors begun (PROG once they have finished), where in linear order the next one begins, and what is left of the begun ones. -/
  prog    : Nat
  begun   : Nat
  left    : FMap JobPiece
  /-- Step-cache descriptor: THETA, STEP, ENTRY, FMT, COUNT (R249), the phase reached, the outcome (R252, R253), the bytes read so far
  by phase and offset, the physical address of the header once it is known, and an unordered use of the entry (R254). -/
  theta   : Word
  step    : Word
  entry   : Nat
  fmt     : Nat
  count   : Nat
  phase   : Nat
  hit     : Bool
  buf     : FMap (FMap Byte)
  head    : Option Nat
  race    : Bool
  /-- This use of a step-cache entry and the uses that happen before it (R254). -/
  use     : Nat
  after   : List Nat
deriving DecidableEq, Repr

end Sys2Proof.Machine
end

