-- ==== Sys2Proof/Syntax.lean ====
section
/-! DEFINITION. The instructions of ISA 3.0 as a type, one constructor per row of the opcode table: the encoded
instructions with their operands, and the steps of the ordering machine, the firmware and the host with the choice
they make. Field positions are in Decode, meanings in Machine. -/

namespace Sys2Proof

/-- The extension-word fields every lane instruction has (R66): presence, lookahead and lane guard (R70). -/
structure LExt where
  x  : Bool
  la : BitVec 4
  g  : Bool
  gp : BitVec 3
  gn : Bool
deriving DecidableEq, Repr

/-- The extension-word fields every uniform instruction has (R67): presence and lookahead. -/
structure UExt where
  x  : Bool
  la : BitVec 4
deriving DecidableEq, Repr

/-- The ordering field of a memory instruction (R148). -/
structure Ordering where
  poll  : Bool
  rel   : Bool
  acq   : Bool
  scope : BitVec 3
deriving DecidableEq, Repr

/-- Where the firmware puts a cohort: its launch and index, the core, the window base in bytes, the wave slot of
each wave in its quadrant, and the first tile of the core each wave holds (R16, R25, R289, R290). -/
structure Place where
  launch : Nat
  cohort : Nat
  die    : Nat
  core   : Nat
  wbase  : Nat
  slots  : List Nat
  tiles  : List Word
deriving DecidableEq, Repr

/-- A granule that an error strikes (R312). -/
inductive PoisonSite where
  | dram (line : Nat) | vault (granule : Nat) | tile (slot granule : Nat) | register (slot reg lane : Nat)
deriving DecidableEq, Repr

/-- A patch-table entry as loaded (R332). -/
structure PatchSpec where
  pat   : List Word
  msk   : List Word
  subst : List Word
deriving DecidableEq, Repr

/-- A command queue the firmware lays out in a partition's queue area (R283). -/
structure QueueSpec where
  number : Nat
  ring   : Nat
  k      : Nat
  tail   : Nat
  head   : Nat
  compl  : Nat
  ctail  : Nat
deriving DecidableEq, Repr

/-- What the firmware gives a partition when it creates it (R31, R283, R305, R324, R329). -/
structure PartitionSpec where
  cores    : List Nat
  queues   : List QueueSpec
  debug    : Bool
  qarea    : Nat × Nat
  carea    : Nat × Nat
  alloc    : List (Nat × Nat)
  /-- 64ths of each home by its number and of peer link `l` under 2^16 + l. -/
  shares   : FMap Nat
  /-- Base, k and TAIL word of the fault ring and of the migration ring. -/
  faults   : Nat × Nat × Nat
  migs     : Nat × Nat × Nat
deriving DecidableEq, Repr

/-- A piece of a halted wave's state that the debugger writes, or a read of it all (R311, R318). -/
inductive DebugItem where
  | read
  /-- A lattice entry: kind, mask, PC, windows, sealed and joined sets, parent links, open lookahead windows, park, wait, s48 to s63. -/
  | entry (n : Nat) (e : Option Machine.Entry)
  | stores (es : List Machine.SBEntry)
  | task (t : Option Machine.Task)
  | job (j : Machine.Job)
  | tag (offset tag : Nat)
  | lane (reg lane : Nat) (val : Word)
  | pred (reg : Nat) (val : Word)
  | uniform (reg : Nat) (val : BitVec 64)
  | priv (entry reg : Nat) (val : BitVec 64)
  | qpred (entry : Nat) (val : BitVec 8)
  | mask (entry : Nat) (val : Word)
  | pc (entry : Nat) (val : Nat)
  | xreg (reg : Nat) (valid : Bool) (vb : BitVec 64) (lim : Nat)
  | tile (tile offset : Nat) (val : Byte)
  | shape (tile : Nat) (val : BitVec 14)
  | layout (tile : Nat) (val : BitVec 4)
  | window (offset : Nat) (val : Byte)
  | csr (index : Nat) (val : BitVec 64)
  | barrier (b wexp eexp wcnt ecnt : Nat) (pend phase : Word) (status : Nat)
deriving DecidableEq, Repr

/-- A wave that the firmware kills; a `plain` kill is the debugger's (R307 to R310). -/
structure Victim where
  slot  : Nat
  plain : Bool
deriving DecidableEq, Repr

/-- A gang's launch on a member chip, with the packet that its originator sends to another member (R299). -/
structure GangOffer where
  launch : Nat
  packet : Option (List Byte)
deriving DecidableEq, Repr

/-- A member chip's NACK and its reason (R288, R299). -/
structure GangRefusal where
  chip   : Nat
  reason : Nat
deriving DecidableEq, Repr

/-- The bytes of a firmware image and their signature (R331). -/
structure SignedBytes where
  bytes : List Byte
  sig   : List Byte
deriving DecidableEq, Repr

/-- The instructions and steps, in the opcode table's order. -/
inductive Instr where
  | iadd (e : LExt) (d a b : BitVec 7)
  | isub (e : LExt) (d a b : BitVec 7)
  | imin (e : LExt) (d a b : BitVec 7)
  | imax (e : LExt) (d a b : BitVec 7)
  | iminu (e : LExt) (d a b : BitVec 7)
  | imaxu (e : LExt) (d a b : BitVec 7)
  | iabs (e : LExt) (d a : BitVec 7)
  | ineg (e : LExt) (d a : BitVec 7)
  | iaddImm (e : LExt) (d a : BitVec 7) (imm : BitVec 16)
  | isubImm (e : LExt) (d a : BitVec 7) (imm : BitVec 16)
  | iminImm (e : LExt) (d a : BitVec 7) (imm : BitVec 16)
  | imaxImm (e : LExt) (d a : BitVec 7) (imm : BitVec 16)
  | iminuImm (e : LExt) (d a : BitVec 7) (imm : BitVec 16)
  | imaxuImm (e : LExt) (d a : BitVec 7) (imm : BitVec 16)
  | land (e : LExt) (d a b : BitVec 7)
  | lor (e : LExt) (d a b : BitVec 7)
  | lxor (e : LExt) (d a b : BitVec 7)
  | landn (e : LExt) (d a b : BitVec 7)
  | lorn (e : LExt) (d a b : BitVec 7)
  | lxnor (e : LExt) (d a b : BitVec 7)
  | lnot (e : LExt) (d a : BitVec 7)
  | mov (e : LExt) (d a : BitVec 7)
  | landImm (e : LExt) (d a : BitVec 7) (imm : BitVec 16)
  | lorImm (e : LExt) (d a : BitVec 7) (imm : BitVec 16)
  | lxorImm (e : LExt) (d a : BitVec 7) (imm : BitVec 16)
  | landnImm (e : LExt) (d a : BitVec 7) (imm : BitVec 16)
  | lornImm (e : LExt) (d a : BitVec 7) (imm : BitVec 16)
  | lxnorImm (e : LExt) (d a : BitVec 7) (imm : BitVec 16)
  | movhi (e : LExt) (d : BitVec 7) (imm : BitVec 16)
  | movi (e : LExt) (d : BitVec 7) (imm : BitVec 16)
  | shl (e : LExt) (d a b : BitVec 7)
  | shr (e : LExt) (d a b : BitVec 7)
  | sar (e : LExt) (d a b : BitVec 7)
  | rol (e : LExt) (d a b : BitVec 7)
  | ror (e : LExt) (d a b : BitVec 7)
  | fshl (e : LExt) (d a b c : BitVec 7)
  | fshr (e : LExt) (d a b c : BitVec 7)
  | shlImm (e : LExt) (d a : BitVec 7) (n : BitVec 5)
  | shrImm (e : LExt) (d a : BitVec 7) (n : BitVec 5)
  | sarImm (e : LExt) (d a : BitVec 7) (n : BitVec 5)
  | rolImm (e : LExt) (d a : BitVec 7) (n : BitVec 5)
  | rorImm (e : LExt) (d a : BitVec 7) (n : BitVec 5)
  | fshlImm (e : LExt) (d a : BitVec 7) (n : BitVec 5) (c : BitVec 7)
  | fshrImm (e : LExt) (d a : BitVec 7) (n : BitVec 5) (c : BitVec 7)
  | clz (e : LExt) (d a : BitVec 7)
  | ctz (e : LExt) (d a : BitVec 7)
  | popc (e : LExt) (d a : BitVec 7)
  | brev (e : LExt) (d a : BitVec 7)
  | bswap (e : LExt) (d a : BitVec 7)
  | bfx (e : LExt) (d a : BitVec 7) (pos : BitVec 5) (len : BitVec 6)
  | bfxs (e : LExt) (d a : BitVec 7) (pos : BitVec 5) (len : BitVec 6)
  | bfi (e : LExt) (d a b : BitVec 7) (pos : BitVec 5) (len : BitVec 6)
  | imul (e : LExt) (d a b : BitVec 7)
  | imulhi (e : LExt) (d a b : BitVec 7)
  | imulhiu (e : LExt) (d a b : BitVec 7)
  | imad (e : LExt) (d a b c : BitVec 7)
  | imulw (e : LExt) (d a b : BitVec 7)
  | imulwu (e : LExt) (d a b : BitVec 7)
  | imadw (e : LExt) (d a b c : BitVec 7)
  | idiv (e : LExt) (d a b : BitVec 7)
  | idivu (e : LExt) (d a b : BitVec 7)
  | irem (e : LExt) (d a b : BitVec 7)
  | iremu (e : LExt) (d a b : BitVec 7)
  | ceq (e : LExt) (d : BitVec 3) (a b : BitVec 7)
  | cne (e : LExt) (d : BitVec 3) (a b : BitVec 7)
  | clt (e : LExt) (d : BitVec 3) (a b : BitVec 7)
  | cge (e : LExt) (d : BitVec 3) (a b : BitVec 7)
  | cltu (e : LExt) (d : BitVec 3) (a b : BitVec 7)
  | cgeu (e : LExt) (d : BitVec 3) (a b : BitVec 7)
  | cle (e : LExt) (d : BitVec 3) (a b : BitVec 7)
  | cgt (e : LExt) (d : BitVec 3) (a b : BitVec 7)
  | ceqImm (e : LExt) (d : BitVec 3) (a : BitVec 7) (imm : BitVec 16)
  | cneImm (e : LExt) (d : BitVec 3) (a : BitVec 7) (imm : BitVec 16)
  | cltImm (e : LExt) (d : BitVec 3) (a : BitVec 7) (imm : BitVec 16)
  | cgeImm (e : LExt) (d : BitVec 3) (a : BitVec 7) (imm : BitVec 16)
  | cltuImm (e : LExt) (d : BitVec 3) (a : BitVec 7) (imm : BitVec 16)
  | cgeuImm (e : LExt) (d : BitVec 3) (a : BitVec 7) (imm : BitVec 16)
  | cleImm (e : LExt) (d : BitVec 3) (a : BitVec 7) (imm : BitVec 16)
  | cgtImm (e : LExt) (d : BitVec 3) (a : BitVec 7) (imm : BitVec 16)
  | sel (e : LExt) (d a b : BitVec 7) (c : BitVec 3)
  | pand (e : LExt) (d a b : BitVec 3)
  | por (e : LExt) (d a b : BitVec 3)
  | pxor (e : LExt) (d a b : BitVec 3)
  | pnot (e : LExt) (d a : BitVec 3)
  | p2v (e : LExt) (d : BitVec 7)
  | v2p (e : LExt) (a mask : BitVec 7)
  | pmov (e : LExt) (d a : BitVec 3)
  | iadd64 (e : LExt) (d a b : BitVec 7)
  | isub64 (e : LExt) (d a b : BitVec 7)
  | shl64 (e : LExt) (d a b : BitVec 7)
  | shr64 (e : LExt) (d a b : BitVec 7)
  | sar64 (e : LExt) (d a b : BitVec 7)
  | icmp64 (e : LExt) (d : BitVec 3) (a b : BitVec 7) (cond : BitVec 3)
  | mov64 (e : LExt) (d a : BitVec 7)
  | imul64 (e : LExt) (d a b : BitVec 7)
  | sxtb (e : LExt) (d a : BitVec 7)
  | sxth (e : LExt) (d a : BitVec 7)
  | zxtb (e : LExt) (d a : BitVec 7)
  | zxth (e : LExt) (d a : BitVec 7)
  | sxtw (e : LExt) (d a : BitVec 7)
  | zxtw (e : LExt) (d a : BitVec 7)
  | laneid (e : LExt) (d : BitVec 7)
  | tid (e : LExt) (d : BitVec 7)
  | faddF64 (e : LExt) (d a b : BitVec 7) (rm : BitVec 3)
  | fsubF64 (e : LExt) (d a b : BitVec 7) (rm : BitVec 3)
  | fmulF64 (e : LExt) (d a b : BitVec 7) (rm : BitVec 3)
  | ffmaF64 (e : LExt) (d a b c : BitVec 7) (rm : BitVec 3)
  | fminF64 (e : LExt) (d a b : BitVec 7) (rm : BitVec 3)
  | fmaxF64 (e : LExt) (d a b : BitVec 7) (rm : BitVec 3)
  | fcmpF64 (e : LExt) (d : BitVec 3) (a b : BitVec 7) (cond rm : BitVec 3)
  | fabsF64 (e : LExt) (d a : BitVec 7) (rm : BitVec 3)
  | fnegF64 (e : LExt) (d a : BitVec 7) (rm : BitVec 3)
  | ffloorF64 (e : LExt) (d a : BitVec 7) (rm : BitVec 3)
  | fceilF64 (e : LExt) (d a : BitVec 7) (rm : BitVec 3)
  | ftruncF64 (e : LExt) (d a : BitVec 7) (rm : BitVec 3)
  | frintF64 (e : LExt) (d a : BitVec 7) (rm : BitVec 3)
  | fclassF64 (e : LExt) (d a : BitVec 7) (rm : BitVec 3)
  | faddF32 (e : LExt) (d a b : BitVec 7) (rm : BitVec 3)
  | fsubF32 (e : LExt) (d a b : BitVec 7) (rm : BitVec 3)
  | fmulF32 (e : LExt) (d a b : BitVec 7) (rm : BitVec 3)
  | ffmaF32 (e : LExt) (d a b c : BitVec 7) (rm : BitVec 3)
  | fminF32 (e : LExt) (d a b : BitVec 7) (rm : BitVec 3)
  | fmaxF32 (e : LExt) (d a b : BitVec 7) (rm : BitVec 3)
  | fcmpF32 (e : LExt) (d : BitVec 3) (a b : BitVec 7) (cond rm : BitVec 3)
  | fabsF32 (e : LExt) (d a : BitVec 7) (rm : BitVec 3)
  | fnegF32 (e : LExt) (d a : BitVec 7) (rm : BitVec 3)
  | ffloorF32 (e : LExt) (d a : BitVec 7) (rm : BitVec 3)
  | fceilF32 (e : LExt) (d a : BitVec 7) (rm : BitVec 3)
  | ftruncF32 (e : LExt) (d a : BitVec 7) (rm : BitVec 3)
  | frintF32 (e : LExt) (d a : BitVec 7) (rm : BitVec 3)
  | fclassF32 (e : LExt) (d a : BitVec 7) (rm : BitVec 3)
  | faddF16x2 (e : LExt) (d a b : BitVec 7) (rm : BitVec 3)
  | fsubF16x2 (e : LExt) (d a b : BitVec 7) (rm : BitVec 3)
  | fmulF16x2 (e : LExt) (d a b : BitVec 7) (rm : BitVec 3)
  | ffmaF16x2 (e : LExt) (d a b c : BitVec 7) (rm : BitVec 3)
  | fminF16x2 (e : LExt) (d a b : BitVec 7) (rm : BitVec 3)
  | fmaxF16x2 (e : LExt) (d a b : BitVec 7) (rm : BitVec 3)
  | fcmpF16x2 (e : LExt) (d : BitVec 3) (a b : BitVec 7) (cond rm : BitVec 3)
  | fabsF16x2 (e : LExt) (d a : BitVec 7) (rm : BitVec 3)
  | fnegF16x2 (e : LExt) (d a : BitVec 7) (rm : BitVec 3)
  | ffloorF16x2 (e : LExt) (d a : BitVec 7) (rm : BitVec 3)
  | fceilF16x2 (e : LExt) (d a : BitVec 7) (rm : BitVec 3)
  | ftruncF16x2 (e : LExt) (d a : BitVec 7) (rm : BitVec 3)
  | frintF16x2 (e : LExt) (d a : BitVec 7) (rm : BitVec 3)
  | fclassF16x2 (e : LExt) (d a : BitVec 7) (rm : BitVec 3)
  | faddBf16x2 (e : LExt) (d a b : BitVec 7) (rm : BitVec 3)
  | fsubBf16x2 (e : LExt) (d a b : BitVec 7) (rm : BitVec 3)
  | fmulBf16x2 (e : LExt) (d a b : BitVec 7) (rm : BitVec 3)
  | ffmaBf16x2 (e : LExt) (d a b c : BitVec 7) (rm : BitVec 3)
  | fminBf16x2 (e : LExt) (d a b : BitVec 7) (rm : BitVec 3)
  | fmaxBf16x2 (e : LExt) (d a b : BitVec 7) (rm : BitVec 3)
  | fcmpBf16x2 (e : LExt) (d : BitVec 3) (a b : BitVec 7) (cond rm : BitVec 3)
  | fabsBf16x2 (e : LExt) (d a : BitVec 7) (rm : BitVec 3)
  | fnegBf16x2 (e : LExt) (d a : BitVec 7) (rm : BitVec 3)
  | ffloorBf16x2 (e : LExt) (d a : BitVec 7) (rm : BitVec 3)
  | fceilBf16x2 (e : LExt) (d a : BitVec 7) (rm : BitVec 3)
  | ftruncBf16x2 (e : LExt) (d a : BitVec 7) (rm : BitVec 3)
  | frintBf16x2 (e : LExt) (d a : BitVec 7) (rm : BitVec 3)
  | fclassBf16x2 (e : LExt) (d a : BitVec 7) (rm : BitVec 3)
  | fdivF64 (e : LExt) (d a b : BitVec 7) (rm : BitVec 3)
  | fdivF32 (e : LExt) (d a b : BitVec 7) (rm : BitVec 3)
  | fsqrtF64 (e : LExt) (d a : BitVec 7) (rm : BitVec 3)
  | fsqrtF32 (e : LExt) (d a : BitVec 7) (rm : BitVec 3)
  | frcpF64 (e : LExt) (d a : BitVec 7) (rm : BitVec 3)
  | frcpF32 (e : LExt) (d a : BitVec 7) (rm : BitVec 3)
  | frsqF64 (e : LExt) (d a : BitVec 7) (rm : BitVec 3)
  | frsqF32 (e : LExt) (d a : BitVec 7) (rm : BitVec 3)
  | fexp2 (e : LExt) (d a : BitVec 7)
  | flog2 (e : LExt) (d a : BitVec 7)
  | fsinpi (e : LExt) (d a : BitVec 7)
  | fcospi (e : LExt) (d a : BitVec 7)
  | ftanh (e : LExt) (d a : BitVec 7)
  | cvt (e : LExt) (d a : BitVec 7) (src dst : BitVec 4) (rm : BitVec 3)
  | cvtSat (e : LExt) (d a : BitVec 7) (src dst : BitVec 4) (rm : BitVec 3)
  | shfl (e : LExt) (d a b : BitVec 7) (pick : BitVec 5) (i w64 : Bool)
  | shflx (e : LExt) (d a b : BitVec 7) (pick : BitVec 5) (i w64 : Bool)
  | shflup (e : LExt) (d a b : BitVec 7) (pick : BitVec 5) (i w64 : Bool)
  | shfldn (e : LExt) (d a b : BitVec 7) (pick : BitVec 5) (i w64 : Bool)
  | bcast (e : LExt) (d a : BitVec 7) (src : BitVec 5) (w64 first : Bool)
  | vote (e : LExt) (d : BitVec 7) (a : BitVec 3) (mode : BitVec 2)
  | gathg (e : LExt) (d a b : BitVec 7) (w : BitVec 2) (sg : Bool)
  | redadd (e : LExt) (d a : BitVec 7) (w64 : Bool)
  | redmin (e : LExt) (d a : BitVec 7) (w64 un : Bool)
  | redmax (e : LExt) (d a : BitVec 7) (w64 un : Bool)
  | redaddF32 (e : LExt) (d a : BitVec 7)
  | redaddF64 (e : LExt) (d a : BitVec 7)
  | scan (e : LExt) (d a : BitVec 7) (w64 : Bool)
  | scanx (e : LExt) (d a : BitVec 7) (w64 : Bool)
  | scanF32 (e : LExt) (d a : BitVec 7)
  | confl (e : LExt) (d a : BitVec 7) (w64 : Bool)
  | rebal (e : LExt) (d a b : BitVec 7)
  | mrgu (e : LExt) (d a b : BitVec 7) (px py pe : BitVec 3)
  | mrgi (e : LExt) (d a b : BitVec 7) (px py pe : BitVec 3)
  | compact (e : LExt) (d a : BitVec 7) (c : BitVec 3) (w64 : Bool)
  | expand (e : LExt) (d a : BitVec 7) (c : BitVec 3) (w64 : Bool)
  | vldB (e : LExt) (d a : BitVec 7) (o : Ordering) (off : BitVec 16)
  | vldBs (e : LExt) (d a : BitVec 7) (o : Ordering) (off : BitVec 16)
  | vldH (e : LExt) (d a : BitVec 7) (o : Ordering) (off : BitVec 16)
  | vldHs (e : LExt) (d a : BitVec 7) (o : Ordering) (off : BitVec 16)
  | vldW (e : LExt) (d a : BitVec 7) (o : Ordering) (off : BitVec 16)
  | vldD (e : LExt) (d a : BitVec 7) (o : Ordering) (off : BitVec 16)
  | vldQ (e : LExt) (d a : BitVec 7) (o : Ordering) (off : BitVec 16)
  | vldl (e : LExt) (d a : BitVec 7) (o : Ordering) (off : BitVec 16)
  | vstB (e : LExt) (a b : BitVec 7) (o : Ordering) (off : BitVec 16)
  | vstH (e : LExt) (a b : BitVec 7) (o : Ordering) (off : BitVec 16)
  | vstW (e : LExt) (a b : BitVec 7) (o : Ordering) (off : BitVec 16)
  | vstD (e : LExt) (a b : BitVec 7) (o : Ordering) (off : BitVec 16)
  | vstQ (e : LExt) (a b : BitVec 7) (o : Ordering) (off : BitVec 16)
  | vatomAdd (e : LExt) (d a b : BitVec 7) (o : Ordering) (w64 un : Bool)
  | vatomMin (e : LExt) (d a b : BitVec 7) (o : Ordering) (w64 un : Bool)
  | vatomMax (e : LExt) (d a b : BitVec 7) (o : Ordering) (w64 un : Bool)
  | vatomAnd (e : LExt) (d a b : BitVec 7) (o : Ordering) (w64 un : Bool)
  | vatomOr (e : LExt) (d a b : BitVec 7) (o : Ordering) (w64 un : Bool)
  | vatomXor (e : LExt) (d a b : BitVec 7) (o : Ordering) (w64 un : Bool)
  | vatomXchg (e : LExt) (d a b : BitVec 7) (o : Ordering) (w64 un : Bool)
  | vatomCas (e : LExt) (d a b : BitVec 7) (o : Ordering) (w64 un : Bool)
  | slotrd (e : LExt) (d a : BitVec 7) (o : Ordering) (off : BitVec 16)
  | gldB (e : LExt) (x : BitVec 3) (k : BitVec 4) (a b : BitVec 7) (o : Ordering) (off : BitVec 16)
  | gldBs (e : LExt) (x : BitVec 3) (k : BitVec 4) (a b : BitVec 7) (o : Ordering) (off : BitVec 16)
  | gldH (e : LExt) (x : BitVec 3) (k : BitVec 4) (a b : BitVec 7) (o : Ordering) (off : BitVec 16)
  | gldHs (e : LExt) (x : BitVec 3) (k : BitVec 4) (a b : BitVec 7) (o : Ordering) (off : BitVec 16)
  | gldW (e : LExt) (x : BitVec 3) (k : BitVec 4) (a b : BitVec 7) (o : Ordering) (off : BitVec 16)
  | gldD (e : LExt) (x : BitVec 3) (k : BitVec 4) (a b : BitVec 7) (o : Ordering) (off : BitVec 16)
  | gldQ (e : LExt) (x : BitVec 3) (k : BitVec 4) (a b : BitVec 7) (o : Ordering) (off : BitVec 16)
  | gstB (e : LExt) (x : BitVec 3) (a b : BitVec 7) (o : Ordering)
  | gstH (e : LExt) (x : BitVec 3) (a b : BitVec 7) (o : Ordering)
  | gstW (e : LExt) (x : BitVec 3) (a b : BitVec 7) (o : Ordering)
  | gstD (e : LExt) (x : BitVec 3) (a b : BitVec 7) (o : Ordering)
  | gstQ (e : LExt) (x : BitVec 3) (a b : BitVec 7) (o : Ordering)
  | gatomAdd (e : LExt) (x : BitVec 3) (k : BitVec 4) (a b : BitVec 7) (o : Ordering) (w64 un : Bool) (vo : BitVec 7)
  | gatomMin (e : LExt) (x : BitVec 3) (k : BitVec 4) (a b : BitVec 7) (o : Ordering) (w64 un : Bool) (vo : BitVec 7)
  | gatomMax (e : LExt) (x : BitVec 3) (k : BitVec 4) (a b : BitVec 7) (o : Ordering) (w64 un : Bool) (vo : BitVec 7)
  | gatomAnd (e : LExt) (x : BitVec 3) (k : BitVec 4) (a b : BitVec 7) (o : Ordering) (w64 un : Bool) (vo : BitVec 7)
  | gatomOr (e : LExt) (x : BitVec 3) (k : BitVec 4) (a b : BitVec 7) (o : Ordering) (w64 un : Bool) (vo : BitVec 7)
  | gatomXor (e : LExt) (x : BitVec 3) (k : BitVec 4) (a b : BitVec 7) (o : Ordering) (w64 un : Bool) (vo : BitVec 7)
  | gatomXchg (e : LExt) (x : BitVec 3) (k : BitVec 4) (a b : BitVec 7) (o : Ordering) (w64 un : Bool) (vo : BitVec 7)
  | gatomCas (e : LExt) (x : BitVec 3) (k : BitVec 4) (a b : BitVec 7) (o : Ordering) (w64 un : Bool) (vo : BitVec 7)
  | subscr (e : LExt) (x : BitVec 3) (a b : BitVec 7) (o : Ordering) (off : BitVec 16)
  | unsub (e : LExt) (x : BitVec 3) (a b : BitVec 7) (o : Ordering) (off : BitVec 16)
  | trd (e : LExt) (d : BitVec 7) (t : BitVec 3) (row : BitVec 6) (part : BitVec 2) (w64 : Bool)
  | twr (e : LExt) (t : BitVec 3) (b : BitVec 7) (row : BitVec 6) (part : BitVec 2) (w64 : Bool)
  | sadd (e : UExt) (d a b : BitVec 6)
  | ssub (e : UExt) (d a b : BitVec 6)
  | smul (e : UExt) (d a b : BitVec 6)
  | smulhi (e : UExt) (d a b : BitVec 6)
  | smulhiu (e : UExt) (d a b : BitVec 6)
  | sdiv (e : UExt) (d a b : BitVec 6)
  | sdivu (e : UExt) (d a b : BitVec 6)
  | srem (e : UExt) (d a b : BitVec 6)
  | sremu (e : UExt) (d a b : BitVec 6)
  | smin (e : UExt) (d a b : BitVec 6)
  | smax (e : UExt) (d a b : BitVec 6)
  | sminu (e : UExt) (d a b : BitVec 6)
  | smaxu (e : UExt) (d a b : BitVec 6)
  | sand (e : UExt) (d a b : BitVec 6)
  | sor (e : UExt) (d a b : BitVec 6)
  | sxor (e : UExt) (d a b : BitVec 6)
  | sandn (e : UExt) (d a b : BitVec 6)
  | snot (e : UExt) (d a : BitVec 6)
  | smov (e : UExt) (d a : BitVec 6)
  | sshl (e : UExt) (d a b : BitVec 6)
  | sshr (e : UExt) (d a b : BitVec 6)
  | ssar (e : UExt) (d a b : BitVec 6)
  | sclz (e : UExt) (d a : BitVec 6)
  | sctz (e : UExt) (d a : BitVec 6)
  | spopc (e : UExt) (d a : BitVec 6)
  | saddImm (e : UExt) (d a : BitVec 6) (imm : BitVec 28)
  | ssubImm (e : UExt) (d a : BitVec 6) (imm : BitVec 28)
  | smulImm (e : UExt) (d a : BitVec 6) (imm : BitVec 28)
  | smulhiImm (e : UExt) (d a : BitVec 6) (imm : BitVec 28)
  | smulhiuImm (e : UExt) (d a : BitVec 6) (imm : BitVec 28)
  | sdivImm (e : UExt) (d a : BitVec 6) (imm : BitVec 28)
  | sdivuImm (e : UExt) (d a : BitVec 6) (imm : BitVec 28)
  | sremImm (e : UExt) (d a : BitVec 6) (imm : BitVec 28)
  | sremuImm (e : UExt) (d a : BitVec 6) (imm : BitVec 28)
  | sminImm (e : UExt) (d a : BitVec 6) (imm : BitVec 28)
  | smaxImm (e : UExt) (d a : BitVec 6) (imm : BitVec 28)
  | sminuImm (e : UExt) (d a : BitVec 6) (imm : BitVec 28)
  | smaxuImm (e : UExt) (d a : BitVec 6) (imm : BitVec 28)
  | sandImm (e : UExt) (d a : BitVec 6) (imm : BitVec 28)
  | sorImm (e : UExt) (d a : BitVec 6) (imm : BitVec 28)
  | sxorImm (e : UExt) (d a : BitVec 6) (imm : BitVec 28)
  | sandnImm (e : UExt) (d a : BitVec 6) (imm : BitVec 28)
  | smovImm (e : UExt) (d : BitVec 6) (imm : BitVec 28)
  | sshlImm (e : UExt) (d a : BitVec 6) (imm : BitVec 28)
  | sshrImm (e : UExt) (d a : BitVec 6) (imm : BitVec 28)
  | ssarImm (e : UExt) (d a : BitVec 6) (imm : BitVec 28)
  | qeq (e : UExt) (d : BitVec 3) (a b : BitVec 6)
  | qne (e : UExt) (d : BitVec 3) (a b : BitVec 6)
  | qlt (e : UExt) (d : BitVec 3) (a b : BitVec 6)
  | qge (e : UExt) (d : BitVec 3) (a b : BitVec 6)
  | qltu (e : UExt) (d : BitVec 3) (a b : BitVec 6)
  | qgeu (e : UExt) (d : BitVec 3) (a b : BitVec 6)
  | qle (e : UExt) (d : BitVec 3) (a b : BitVec 6)
  | qgt (e : UExt) (d : BitVec 3) (a b : BitVec 6)
  | qeqImm (e : UExt) (d : BitVec 3) (a : BitVec 6) (imm : BitVec 28)
  | qneImm (e : UExt) (d : BitVec 3) (a : BitVec 6) (imm : BitVec 28)
  | qltImm (e : UExt) (d : BitVec 3) (a : BitVec 6) (imm : BitVec 28)
  | qgeImm (e : UExt) (d : BitVec 3) (a : BitVec 6) (imm : BitVec 28)
  | qltuImm (e : UExt) (d : BitVec 3) (a : BitVec 6) (imm : BitVec 28)
  | qgeuImm (e : UExt) (d : BitVec 3) (a : BitVec 6) (imm : BitVec 28)
  | qleImm (e : UExt) (d : BitVec 3) (a : BitVec 6) (imm : BitVec 28)
  | qgtImm (e : UExt) (d : BitVec 3) (a : BitVec 6) (imm : BitVec 28)
  | sli (e : UExt) (d : BitVec 6) (imm : BitVec 28)
  | slis (e : UExt) (d : BitVec 6) (imm : BitVec 28)
  | s2v (e : UExt) (a : BitVec 6) (v : BitVec 7) (w64 : Bool)
  | v2s (e : UExt) (d : BitVec 6) (v : BitVec 7) (w64 : Bool) (src : BitVec 5) (first : Bool)
  | qopAnd (e : UExt) (d a b : BitVec 3)
  | qopOr (e : UExt) (d a b : BitVec 3)
  | qopXor (e : UExt) (d a b : BitVec 3)
  | qopAndn (e : UExt) (d a b : BitVec 3)
  | qopNot (e : UExt) (d a b : BitVec 3)
  | qopMov (e : UExt) (d a b : BitVec 3)
  | p2s (e : UExt) (d : BitVec 6) (a : BitVec 3)
  | s2p (e : UExt) (d : BitVec 3) (a : BitVec 6)
  | actmask (e : UExt) (d : BitVec 6)
  | sldk (e : UExt) (d : BitVec 6) (off : BitVec 12)
  | sldv (e : UExt) (d a : BitVec 6) (w : BitVec 2) (o : Ordering) (off : BitVec 20)
  | sstv (e : UExt) (a b : BitVec 6) (w : BitVec 2) (o : Ordering) (off : BitVec 20)
  | satomvAdd (e : UExt) (d a b : BitVec 6) (w : BitVec 2) (o : Ordering) (un : Bool)
  | satomvMin (e : UExt) (d a b : BitVec 6) (w : BitVec 2) (o : Ordering) (un : Bool)
  | satomvMax (e : UExt) (d a b : BitVec 6) (w : BitVec 2) (o : Ordering) (un : Bool)
  | satomvAnd (e : UExt) (d a b : BitVec 6) (w : BitVec 2) (o : Ordering) (un : Bool)
  | satomvOr (e : UExt) (d a b : BitVec 6) (w : BitVec 2) (o : Ordering) (un : Bool)
  | satomvXor (e : UExt) (d a b : BitVec 6) (w : BitVec 2) (o : Ordering) (un : Bool)
  | satomvXchg (e : UExt) (d a b : BitVec 6) (w : BitVec 2) (o : Ordering) (un : Bool)
  | scasv (e : UExt) (d a b : BitVec 6) (w : BitVec 2) (o : Ordering)
  | bra (e : UExt) (imm : BitVec 28)
  | brq (e : UExt) (a : BitVec 3) (imm : BitVec 28)
  | brnq (e : UExt) (a : BitVec 3) (imm : BitVec 28)
  | call (e : UExt) (q : BitVec 3) (neg : Bool) (imm : BitVec 28)
  | callr (e : UExt) (a : BitVec 6) (q : BitVec 3) (neg : Bool)
  | ret (e : UExt) (a : BitVec 6)
  | endStrand (e : UExt)
  | loopd (e : UExt) (d : BitVec 6) (imm : BitVec 28)
  | split (e : UExt) (p : BitVec 3) (b : BitVec 6) (els cont : BitVec 14)
  | calli (e : UExt) (d : BitVec 6) (p : BitVec 3) (neg : Bool) (b : BitVec 6) (cont : BitVec 14)
  | endarm (e : UExt)
  | seal (e : UExt) (lo hi : BitVec 7) (pred : Bool)
  | join (e : UExt) (lo hi : BitVec 7) (pred : Bool)
  | joinmem (e : UExt)
  | binit (e : UExt) (k : BitVec 4) (waves : BitVec 5) (engines : BitVec 10)
  | bexpect (e : UExt) (k : BitVec 4) (a : BitVec 6) (r : Bool) (n : BitVec 27)
  | barrive (e : UExt) (d : BitVec 6) (k : BitVec 4)
  | bwait (e : UExt) (q : BitVec 3) (k : BitVec 4) (b : BitVec 6)
  | bsync (e : UExt) (q : BitVec 3) (k : BitVec 4)
  | gbar (e : UExt) (q : BitVec 3) (g : BitVec 2)
  | cbar (e : UExt) (q : BitVec 3)
  | bstat (e : UExt) (d : BitVec 6) (k : BitVec 4) (pick : Bool)
  | waita (e : UExt) (d a b : BitVec 6) (cond : BitVec 2) (o : Ordering) (off : BitVec 20)
  | sleep (e : UExt) (a : BitVec 6) (r : Bool) (n : BitVec 27)
  | yieldS (e : UExt)
  | fenceAcq (e : UExt) (scope : BitVec 3)
  | fenceRel (e : UExt) (scope : BitVec 3)
  | fenceFull (e : UExt) (scope : BitVec 3)
  | fenceEng (e : UExt) (scope : BitVec 3)
  | xlat (e : UExt) (x : BitVec 3) (a b : BitVec 6)
  | xdrop (e : UExt) (x : BitVec 3)
  | copy (e : UExt) (a : BitVec 6) (off : BitVec 20)
  | copyc (e : UExt) (a : BitVec 6) (off : BitVec 20)
  | copyl (e : UExt) (a : BitVec 6) (off : BitVec 20)
  | tstg (e : UExt) (a : BitVec 6) (t : BitVec 3) (off : BitVec 20)
  | stepchk (e : UExt) (q : BitVec 3) (a : BitVec 6)
  | steprec (e : UExt) (q : BitVec 3) (a : BitVec 6)
  | tcfg (e : UExt) (t : BitVec 3) (a : BitVec 6) (r : Bool) (shape : BitVec 14)
  | tlay (e : UExt) (t : BitVec 3) (layout : BitVec 4)
  | tld (e : UExt) (t : BitVec 3) (a : BitVec 6) (off : BitVec 20) (stride : BitVec 8)
  | tst (e : UExt) (a : BitVec 6) (t : BitVec 3) (off : BitVec 20) (stride : BitVec 8)
  | tzero (e : UExt) (t : BitVec 3)
  | tmov (e : UExt) (t s : BitVec 3)
  | mmaF64 (e : UExt) (c a b : BitVec 3) (part tb : Bool)
  | mmaF32 (e : UExt) (c a b : BitVec 3) (part tb : Bool)
  | mmaF16 (e : UExt) (c a b : BitVec 3) (part tb : Bool)
  | mmaBf16 (e : UExt) (c a b : BitVec 3) (part tb : Bool)
  | mmaE4m3 (e : UExt) (c a b : BitVec 3) (part tb : Bool)
  | mmaE5m2 (e : UExt) (c a b : BitVec 3) (part tb : Bool)
  | mmaDs8 (e : UExt) (c a b : BitVec 3) (part tb : Bool)
  | mmaI8 (e : UExt) (c a b : BitVec 3) (part tb : Bool)
  | scacc (e : UExt) (c a b q : BitVec 3) (neg : Bool) (ra rb : BitVec 6)
  | quant (e : UExt) (c a b : BitVec 3) (fmt : BitVec 4) (col : Bool) (r : BitVec 6)
  | rarm (e : UExt) (d a : BitVec 6) (off : BitVec 20)
  | rdisarm (e : UExt) (d a : BitVec 6)
  | rqry (e : UExt) (d a : BitVec 6) (pick : Bool)
  | fork (e : UExt) (q : BitVec 3) (a : BitVec 6)
  | tnext (e : UExt) (q : BitVec 3)
  | tsig (e : UExt) (a : BitVec 6)
  | tdone (e : UExt)
  | tpost (e : UExt) (a b : BitVec 6)
  | nextw (e : UExt) (a : BitVec 6) (off : BitVec 20)
  | trap (e : UExt) (code : BitVec 16)
  | bkpt (e : UExt)
  | csrr (e : UExt) (d : BitVec 6) (csr : BitVec 12)
  | csrw (e : UExt) (a : BitVec 6) (csr : BitVec 12)
  | nop (e : UExt)
  | resultWrite (slot entry flight : Nat)
  | serialisedStrandStart (slot entry : Nat)
  | storeBufferDrain (slot id : Nat)
  | joinmemComplete (slot entry : Nat)
  | fenceComplete (slot entry : Nat)
  | endComplete (slot entry : Nat)
  | remoteVaultRead (slot entry flight access : Nat)
  | postQueueSend (slot part : Nat)
  | homePerform (slot part byte : Nat)
  | subscribeRequest (slot part : Nat)
  | unsubscribeRequest (slot part : Nat)
  | pushDelivery (home core : Nat)
  | refusalDelivery (home core : Nat)
  | unsubAckDelivery (home core : Nat)
  | gldLanding (load : Nat)
  | gatomLanding (load : Nat)
  | waitaWake (slot entry : Nat)
  | sleepExpire (slot entry : Nat)
  | pageWalkComplete (slot entry run : Nat)
  | faultResume (slot entry : Nat)
  | shootdown (die root va size : Nat)
  | ownershipStep (pte frame size : Nat) (host : Bool)
  | jobAccept (core job : Nat)
  | tstgCapture (core job : Nat)
  | copyPiece (core job piece : Nat)
  | jobCompletion (core job : Nat)
  | jobResume (core job : Nat)
  | mmaStart (core : Nat)
  | mmaComplete (core : Nat)
  | regionCount (home : Nat)
  | regionArrive (die entry : Nat)
  | regionRelease (die entry : Nat)
  | regionTask (die entry : Nat)
  | regionFlag (die entry : Nat)
  | regionLaunch (die entry : Nat)
  | distributorGrant (launch request : Nat)
  | nextwAnswer (launch answer : Nat)
  | overflowMove (part core : Nat)
  | hostPortPerform (slot part byte : Nat)
  | hostPortAck (slot part : Nat)
  | hostRead (addr count : Nat)
  | hostWrite (addr : Nat) (data : List Byte)
  | packetAccept (part queue launch : Nat)
  | cohortBind (launch : Nat) (places : List Place)
  | waveRetire (slot : Nat)
  | cohortRetire (cohort : Nat)
  | waveKill (victim : Victim)
  | gangPrepare (part queue : Nat) (offer : GangOffer) (places : List Place)
  | gangAck (gang chip : Nat)
  | gangNack (gang : Nat) (nack : GangRefusal)
  | prepareDeadline (gang : Nat)
  | gangCancel (launch : Nat)
  | gangStart (launch : Nat)
  | gangStartAck (gang chip : Nat)
  | startDeadline (gang : Nat)
  | gangAbort (launch : Nat)
  | watchdog (launch cycles : Nat)
  | preempt (cohorts : List Nat)
  | restore (places : List Place)
  | debugHalt (slot : Nat)
  | debugResume (slot : Nat)
  | singleStep (slot entry : Nat)
  | eccCorrectable (site : PoisonSite)
  | eccPoison (site : PoisonSite)
  | flitRetransmit (link : Nat)
  | linkFailure (link : Nat)
  | clockThrottle (mhz : Nat)
  | currentStepStall (quadrant cycles : Nat)
  | thermalShutdown
  | boot
  | patchLoad (entries : List PatchSpec) (image : List Byte)
  | icacheFill (core launch va : Nat)
  | routingTableWrite (chip : Nat) (value : BitVec 64)
  | partitionCreate (part : Nat) (spec : PartitionSpec)
  | attestationRequest (nonce : Nat)
  | partitionTeardown (part : Nat)
  | channelCreate (channel part1 part2 : Nat)
  | debugStateWrite (slot : Nat) (item : DebugItem)
  | mailboxImageWrite (version : Nat) (image : SignedBytes)
deriving DecidableEq, Repr

end Sys2Proof
end

