-- ==== Sys2Proof/WellFormed.lean ====
section
/-! DEFINITION. Which instructions the encodings of the manual admit: the conditions decided by the instruction's
words alone (R68, R69, R70, R82 item 2). An instruction that fails one traps ILLEGAL_OP. -/

namespace Sys2Proof

/-- An even lane register: the lower register of a pair (R68). -/
def even (r : BitVec 7) : Bool := r.toNat % 2 == 0

/-- The first register of a quad (R149). -/
def quad (r : BitVec 7) : Bool := r.toNat % 4 == 0

/-- `r` is even, for a lane predicate that names the first of two (R123). -/
def evenP (r : BitVec 3) : Bool := r.toNat % 2 == 0

/-- CVT format codes whose values occupy a pair: F64, I64, U64 (R129). -/
def wide (c : BitVec 4) : Bool := c == 0 || c == 9 || c == 10

/-- A shape word whose ROWS is 1 to 64 and whose RBC is 1 to 16 (R257, R261). -/
def shapeOk (s : BitVec 14) : Bool :=
  let rows := (s.extractLsb' 2 7).toNat
  let rbc := (s.extractLsb' 9 5).toNat
  1 ≤ rows && rows ≤ 64 && 1 ≤ rbc && rbc ≤ 16

/-- The CSR indices of R171. -/
def csrExists (c : BitVec 12) : Bool :=
  let n := c.toNat
  n == 0 || n == 1 || (0x10 ≤ n && n ≤ 0x1D) || (0x20 ≤ n && n ≤ 0x22) || (0x30 ≤ n && n ≤ 0x32) || n == 0x40

/-- SCOPE is 0 when neither ACQ nor REL is set (R148). -/
def Ordering.wf (o : Ordering) : Bool := o.acq || o.rel || o.scope == 0

/-- Without an extension word its fields are 0 (R64); without G the guard fields are 0 (R70). -/
def LExt.wf (e : LExt) : Bool :=
  (e.x || (e.la == 0 && !e.g)) && (e.g || (e.gp == 0 && !e.gn))

/-- Without an extension word LA is 0 (R64). -/
def UExt.wf (e : UExt) : Bool := e.x || e.la == 0

/-- Without an extension word every operand taken from it is 0 (R64). -/
def absent (x : Bool) (zero : Bool) : Bool := x || zero

/-- The instruction is one the encodings admit (R82 item 2). -/
def Instr.wf : Instr → Bool
  | .iadd e _ _ _ => e.wf
  | .isub e _ _ _ => e.wf
  | .imin e _ _ _ => e.wf
  | .imax e _ _ _ => e.wf
  | .iminu e _ _ _ => e.wf
  | .imaxu e _ _ _ => e.wf
  | .iabs e _ _ => e.wf
  | .ineg e _ _ => e.wf
  | .iaddImm e _ _ imm => e.wf && (absent e.x (imm == 0))
  | .isubImm e _ _ imm => e.wf && (absent e.x (imm == 0))
  | .iminImm e _ _ imm => e.wf && (absent e.x (imm == 0))
  | .imaxImm e _ _ imm => e.wf && (absent e.x (imm == 0))
  | .iminuImm e _ _ imm => e.wf && (absent e.x (imm == 0))
  | .imaxuImm e _ _ imm => e.wf && (absent e.x (imm == 0))
  | .land e _ _ _ => e.wf
  | .lor e _ _ _ => e.wf
  | .lxor e _ _ _ => e.wf
  | .landn e _ _ _ => e.wf
  | .lorn e _ _ _ => e.wf
  | .lxnor e _ _ _ => e.wf
  | .lnot e _ _ => e.wf
  | .mov e _ _ => e.wf
  | .landImm e _ _ imm => e.wf && (absent e.x (imm == 0))
  | .lorImm e _ _ imm => e.wf && (absent e.x (imm == 0))
  | .lxorImm e _ _ imm => e.wf && (absent e.x (imm == 0))
  | .landnImm e _ _ imm => e.wf && (absent e.x (imm == 0))
  | .lornImm e _ _ imm => e.wf && (absent e.x (imm == 0))
  | .lxnorImm e _ _ imm => e.wf && (absent e.x (imm == 0))
  | .movhi e _ imm => e.wf && (absent e.x (imm == 0))
  | .movi e _ imm => e.wf && (absent e.x (imm == 0))
  | .shl e _ _ _ => e.wf
  | .shr e _ _ _ => e.wf
  | .sar e _ _ _ => e.wf
  | .rol e _ _ _ => e.wf
  | .ror e _ _ _ => e.wf
  | .fshl e _ _ _ c => e.wf && (absent e.x (c == 0))
  | .fshr e _ _ _ c => e.wf && (absent e.x (c == 0))
  | .shlImm e _ _ _ => e.wf
  | .shrImm e _ _ _ => e.wf
  | .sarImm e _ _ _ => e.wf
  | .rolImm e _ _ _ => e.wf
  | .rorImm e _ _ _ => e.wf
  | .fshlImm e _ _ _ c => e.wf && (absent e.x (c == 0))
  | .fshrImm e _ _ _ c => e.wf && (absent e.x (c == 0))
  | .clz e _ _ => e.wf
  | .ctz e _ _ => e.wf
  | .popc e _ _ => e.wf
  | .brev e _ _ => e.wf
  | .bswap e _ _ => e.wf
  | .bfx e _ _ pos len => e.wf && (absent e.x (pos == 0 && len == 0))
  | .bfxs e _ _ pos len => e.wf && (absent e.x (pos == 0 && len == 0))
  | .bfi e _ _ _ pos len => e.wf && (absent e.x (pos == 0 && len == 0))
  | .imul e _ _ _ => e.wf
  | .imulhi e _ _ _ => e.wf
  | .imulhiu e _ _ _ => e.wf
  | .imad e _ _ _ c => e.wf && (absent e.x (c == 0))
  | .imulw e d _ _ => e.wf && even d
  | .imulwu e d _ _ => e.wf && even d
  | .imadw e d _ _ c => e.wf && (absent e.x (c == 0)) && even d && even c
  | .idiv e _ _ _ => e.wf
  | .idivu e _ _ _ => e.wf
  | .irem e _ _ _ => e.wf
  | .iremu e _ _ _ => e.wf
  | .ceq e _ _ _ => e.wf
  | .cne e _ _ _ => e.wf
  | .clt e _ _ _ => e.wf
  | .cge e _ _ _ => e.wf
  | .cltu e _ _ _ => e.wf
  | .cgeu e _ _ _ => e.wf
  | .cle e _ _ _ => e.wf
  | .cgt e _ _ _ => e.wf
  | .ceqImm e _ _ imm => e.wf && (absent e.x (imm == 0))
  | .cneImm e _ _ imm => e.wf && (absent e.x (imm == 0))
  | .cltImm e _ _ imm => e.wf && (absent e.x (imm == 0))
  | .cgeImm e _ _ imm => e.wf && (absent e.x (imm == 0))
  | .cltuImm e _ _ imm => e.wf && (absent e.x (imm == 0))
  | .cgeuImm e _ _ imm => e.wf && (absent e.x (imm == 0))
  | .cleImm e _ _ imm => e.wf && (absent e.x (imm == 0))
  | .cgtImm e _ _ imm => e.wf && (absent e.x (imm == 0))
  | .sel e _ _ _ c => e.wf && (absent e.x (c == 0))
  | .pand e _ _ _ => e.wf
  | .por e _ _ _ => e.wf
  | .pxor e _ _ _ => e.wf
  | .pnot e _ _ => e.wf
  | .p2v e _ => e.wf
  | .v2p e _ mask => e.wf && (absent e.x (mask == 0))
  | .pmov e _ _ => e.wf
  | .iadd64 e d a b => e.wf && even d && even a && even b
  | .isub64 e d a b => e.wf && even d && even a && even b
  | .shl64 e d a _ => e.wf && even d && even a
  | .shr64 e d a _ => e.wf && even d && even a
  | .sar64 e d a _ => e.wf && even d && even a
  | .icmp64 e _ a b cond => e.wf && (absent e.x (cond == 0)) && even a && even b
  | .mov64 e d a => e.wf && even d && even a
  | .imul64 e d a b => e.wf && even d && even a && even b
  | .sxtb e _ _ => e.wf
  | .sxth e _ _ => e.wf
  | .zxtb e _ _ => e.wf
  | .zxth e _ _ => e.wf
  | .sxtw e d _ => e.wf && even d
  | .zxtw e d _ => e.wf && even d
  | .laneid e _ => e.wf
  | .tid e _ => e.wf
  | .faddF64 e d a b rm => e.wf && (absent e.x (rm == 0)) && even d && even a && even b
  | .fsubF64 e d a b rm => e.wf && (absent e.x (rm == 0)) && even d && even a && even b
  | .fmulF64 e d a b rm => e.wf && (absent e.x (rm == 0)) && even d && even a && even b
  | .ffmaF64 e d a b c rm => e.wf && (absent e.x (c == 0 && rm == 0)) && even d && even a && even b && even c
  | .fminF64 e d a b rm => e.wf && (absent e.x (rm == 0)) && even d && even a && even b
  | .fmaxF64 e d a b rm => e.wf && (absent e.x (rm == 0)) && even d && even a && even b
  | .fcmpF64 e _ a b cond rm => e.wf && (absent e.x (cond == 0 && rm == 0)) && even a && even b
  | .fabsF64 e d a rm => e.wf && (absent e.x (rm == 0)) && even d && even a
  | .fnegF64 e d a _ => e.wf && e.x && even d && even a
  | .ffloorF64 e d a _ => e.wf && e.x && even d && even a
  | .fceilF64 e d a _ => e.wf && e.x && even d && even a
  | .ftruncF64 e d a _ => e.wf && e.x && even d && even a
  | .frintF64 e d a _ => e.wf && e.x && even d && even a
  | .fclassF64 e _ a _ => e.wf && e.x && even a
  | .faddF32 e _ _ _ rm => e.wf && (absent e.x (rm == 0))
  | .fsubF32 e _ _ _ rm => e.wf && (absent e.x (rm == 0))
  | .fmulF32 e _ _ _ rm => e.wf && (absent e.x (rm == 0))
  | .ffmaF32 e _ _ _ c rm => e.wf && (absent e.x (c == 0 && rm == 0))
  | .fminF32 e _ _ _ rm => e.wf && (absent e.x (rm == 0))
  | .fmaxF32 e _ _ _ rm => e.wf && (absent e.x (rm == 0))
  | .fcmpF32 e _ _ _ cond rm => e.wf && (absent e.x (cond == 0 && rm == 0))
  | .fabsF32 e _ _ rm => e.wf && (absent e.x (rm == 0))
  | .fnegF32 e _ _ _ => e.wf && e.x
  | .ffloorF32 e _ _ _ => e.wf && e.x
  | .fceilF32 e _ _ _ => e.wf && e.x
  | .ftruncF32 e _ _ _ => e.wf && e.x
  | .frintF32 e _ _ _ => e.wf && e.x
  | .fclassF32 e _ _ _ => e.wf && e.x
  | .faddF16x2 e _ _ _ rm => e.wf && (absent e.x (rm == 0))
  | .fsubF16x2 e _ _ _ rm => e.wf && (absent e.x (rm == 0))
  | .fmulF16x2 e _ _ _ rm => e.wf && (absent e.x (rm == 0))
  | .ffmaF16x2 e _ _ _ c rm => e.wf && (absent e.x (c == 0 && rm == 0))
  | .fminF16x2 e _ _ _ rm => e.wf && (absent e.x (rm == 0))
  | .fmaxF16x2 e _ _ _ rm => e.wf && (absent e.x (rm == 0))
  | .fcmpF16x2 e d _ _ cond rm => e.wf && (absent e.x (cond == 0 && rm == 0)) && evenP d
  | .fabsF16x2 e _ _ rm => e.wf && (absent e.x (rm == 0))
  | .fnegF16x2 e _ _ _ => e.wf && e.x
  | .ffloorF16x2 e _ _ _ => e.wf && e.x
  | .fceilF16x2 e _ _ _ => e.wf && e.x
  | .ftruncF16x2 e _ _ _ => e.wf && e.x
  | .frintF16x2 e _ _ _ => e.wf && e.x
  | .fclassF16x2 e _ _ _ => e.wf && e.x
  | .faddBf16x2 e _ _ _ rm => e.wf && (absent e.x (rm == 0))
  | .fsubBf16x2 e _ _ _ rm => e.wf && (absent e.x (rm == 0))
  | .fmulBf16x2 e _ _ _ rm => e.wf && (absent e.x (rm == 0))
  | .ffmaBf16x2 e _ _ _ c rm => e.wf && (absent e.x (c == 0 && rm == 0))
  | .fminBf16x2 e _ _ _ rm => e.wf && (absent e.x (rm == 0))
  | .fmaxBf16x2 e _ _ _ rm => e.wf && (absent e.x (rm == 0))
  | .fcmpBf16x2 e d _ _ cond rm => e.wf && (absent e.x (cond == 0 && rm == 0)) && evenP d
  | .fabsBf16x2 e _ _ rm => e.wf && (absent e.x (rm == 0))
  | .fnegBf16x2 e _ _ _ => e.wf && e.x
  | .ffloorBf16x2 e _ _ _ => e.wf && e.x
  | .fceilBf16x2 e _ _ _ => e.wf && e.x
  | .ftruncBf16x2 e _ _ _ => e.wf && e.x
  | .frintBf16x2 e _ _ _ => e.wf && e.x
  | .fclassBf16x2 e _ _ _ => e.wf && e.x
  | .fdivF64 e d a b rm => e.wf && (absent e.x (rm == 0)) && even d && even a && even b
  | .fdivF32 e _ _ _ rm => e.wf && (absent e.x (rm == 0))
  | .fsqrtF64 e d a rm => e.wf && (absent e.x (rm == 0)) && even d && even a
  | .fsqrtF32 e _ _ rm => e.wf && (absent e.x (rm == 0))
  | .frcpF64 e d a rm => e.wf && (absent e.x (rm == 0)) && even d && even a
  | .frcpF32 e _ _ rm => e.wf && (absent e.x (rm == 0))
  | .frsqF64 e d a rm => e.wf && (absent e.x (rm == 0)) && even d && even a
  | .frsqF32 e _ _ rm => e.wf && (absent e.x (rm == 0))
  | .fexp2 e _ _ => e.wf
  | .flog2 e _ _ => e.wf
  | .fsinpi e _ _ => e.wf
  | .fcospi e _ _ => e.wf
  | .ftanh e _ _ => e.wf
  | .cvt e d a src dst rm => e.wf && (absent e.x (src == 0 && dst == 0 && rm == 0)) && decide (src.toNat < 13) && decide (dst.toNat < 13) && (!wide src || even a) && (!wide dst || even d)
  | .cvtSat e d a src dst rm => e.wf && (absent e.x (src == 0 && dst == 0 && rm == 0)) && decide (src.toNat < 13) && decide (dst.toNat < 13) && (!wide src || even a) && (!wide dst || even d)
  | .shfl e d a b pick i w64 => e.wf && (absent e.x (pick == 0 && !i && !w64)) && (i || pick == 0) && (!i || b == 0) && (!w64 || (even d && even a))
  | .shflx e d a b pick i w64 => e.wf && (absent e.x (pick == 0 && !i && !w64)) && (i || pick == 0) && (!i || b == 0) && (!w64 || (even d && even a))
  | .shflup e d a b pick i w64 => e.wf && (absent e.x (pick == 0 && !i && !w64)) && (i || pick == 0) && (!i || b == 0) && (!w64 || (even d && even a))
  | .shfldn e d a b pick i w64 => e.wf && (absent e.x (pick == 0 && !i && !w64)) && (i || pick == 0) && (!i || b == 0) && (!w64 || (even d && even a))
  | .bcast e d a src w64 first => e.wf && (absent e.x (src == 0 && !w64 && !first)) && (!first || src == 0) && (!w64 || (even d && even a))
  | .vote e d _ mode => e.wf && (absent e.x (mode == 0)) && (mode == 3 || d.toNat < 8)
  | .gathg e d a _ w sg => e.wf && (absent e.x (w == 0 && !sg)) && quad a && (!sg || w.toNat < 2) && (w != 3 || even d)
  | .redadd e d a w64 => e.wf && absent e.x (!w64) && (!w64 || (even d && even a))
  | .redmin e d a w64 un => e.wf && absent e.x (!w64 && !un) && (!w64 || (even d && even a))
  | .redmax e d a w64 un => e.wf && absent e.x (!w64 && !un) && (!w64 || (even d && even a))
  | .redaddF32 e _ _ => e.wf
  | .redaddF64 e d a => e.wf && even d && even a
  | .scan e d a w64 => e.wf && absent e.x (!w64) && (!w64 || (even d && even a))
  | .scanx e d a w64 => e.wf && absent e.x (!w64) && (!w64 || (even d && even a))
  | .scanF32 e _ _ => e.wf
  | .confl e _ a w64 => e.wf && absent e.x (!w64) && (!w64 || even a)
  | .rebal e d _ _ => e.wf && even d
  | .mrgu e d _ _ px py pe => e.wf && (absent e.x (px == 0 && py == 0 && pe == 0)) && even d
  | .mrgi e d _ _ px py pe => e.wf && (absent e.x (px == 0 && py == 0 && pe == 0)) && even d
  | .compact e d a c w64 => e.wf && (absent e.x (c == 0 && !w64)) && (!w64 || (even d && even a))
  | .expand e d a c w64 => e.wf && (absent e.x (c == 0 && !w64)) && (!w64 || (even d && even a))
  | .vldB e _ _ o off => e.wf && (absent e.x (o == ⟨false, false, false, 0⟩ && off == 0)) && o.wf
  | .vldBs e _ _ o off => e.wf && (absent e.x (o == ⟨false, false, false, 0⟩ && off == 0)) && o.wf
  | .vldH e _ _ o off => e.wf && (absent e.x (o == ⟨false, false, false, 0⟩ && off == 0)) && o.wf
  | .vldHs e _ _ o off => e.wf && (absent e.x (o == ⟨false, false, false, 0⟩ && off == 0)) && o.wf
  | .vldW e _ _ o off => e.wf && (absent e.x (o == ⟨false, false, false, 0⟩ && off == 0)) && o.wf
  | .vldD e d _ o off => e.wf && (absent e.x (o == ⟨false, false, false, 0⟩ && off == 0)) && o.wf && even d
  | .vldQ e d _ o off => e.wf && (absent e.x (o == ⟨false, false, false, 0⟩ && off == 0)) && o.wf && quad d
  | .vldl e d _ o off => e.wf && (absent e.x (o == ⟨false, false, false, 0⟩ && off == 0)) && o.wf && quad d
  | .vstB e _ _ o off => e.wf && (absent e.x (o == ⟨false, false, false, 0⟩ && off == 0)) && o.wf
  | .vstH e _ _ o off => e.wf && (absent e.x (o == ⟨false, false, false, 0⟩ && off == 0)) && o.wf
  | .vstW e _ _ o off => e.wf && (absent e.x (o == ⟨false, false, false, 0⟩ && off == 0)) && o.wf
  | .vstD e _ b o off => e.wf && (absent e.x (o == ⟨false, false, false, 0⟩ && off == 0)) && o.wf && even b
  | .vstQ e _ b o off => e.wf && (absent e.x (o == ⟨false, false, false, 0⟩ && off == 0)) && o.wf && quad b
  | .vatomAdd e d _ b o w64 un => e.wf && (absent e.x (o == ⟨false, false, false, 0⟩ && !w64 && !un)) && o.wf && (!w64 || even d) && (!w64 || even b) && !un
  | .vatomMin e d _ b o w64 un => e.wf && (absent e.x (o == ⟨false, false, false, 0⟩ && !w64 && !un)) && o.wf && (!w64 || even d) && (!w64 || even b)
  | .vatomMax e d _ b o w64 un => e.wf && (absent e.x (o == ⟨false, false, false, 0⟩ && !w64 && !un)) && o.wf && (!w64 || even d) && (!w64 || even b)
  | .vatomAnd e d _ b o w64 un => e.wf && (absent e.x (o == ⟨false, false, false, 0⟩ && !w64 && !un)) && o.wf && (!w64 || even d) && (!w64 || even b) && !un
  | .vatomOr e d _ b o w64 un => e.wf && (absent e.x (o == ⟨false, false, false, 0⟩ && !w64 && !un)) && o.wf && (!w64 || even d) && (!w64 || even b) && !un
  | .vatomXor e d _ b o w64 un => e.wf && (absent e.x (o == ⟨false, false, false, 0⟩ && !w64 && !un)) && o.wf && (!w64 || even d) && (!w64 || even b) && !un
  | .vatomXchg e d _ b o w64 un => e.wf && (absent e.x (o == ⟨false, false, false, 0⟩ && !w64 && !un)) && o.wf && (!w64 || even d) && (!w64 || even b) && !un
  | .vatomCas e d _ b o w64 un => e.wf && (absent e.x (o == ⟨false, false, false, 0⟩ && !w64 && !un)) && o.wf && (!w64 || even d) && (if w64 then quad b else even b) && !un
  | .slotrd e d _ o off => e.wf && (absent e.x (o == ⟨false, false, false, 0⟩ && off == 0)) && o.wf && quad d
  | .gldB e _ _ _ _ o off => e.wf && (absent e.x (o == ⟨false, false, false, 0⟩ && off == 0)) && o.wf
  | .gldBs e _ _ _ _ o off => e.wf && (absent e.x (o == ⟨false, false, false, 0⟩ && off == 0)) && o.wf
  | .gldH e _ _ _ _ o off => e.wf && (absent e.x (o == ⟨false, false, false, 0⟩ && off == 0)) && o.wf
  | .gldHs e _ _ _ _ o off => e.wf && (absent e.x (o == ⟨false, false, false, 0⟩ && off == 0)) && o.wf
  | .gldW e _ _ _ _ o off => e.wf && (absent e.x (o == ⟨false, false, false, 0⟩ && off == 0)) && o.wf
  | .gldD e _ _ _ _ o off => e.wf && (absent e.x (o == ⟨false, false, false, 0⟩ && off == 0)) && o.wf
  | .gldQ e _ _ _ _ o off => e.wf && (absent e.x (o == ⟨false, false, false, 0⟩ && off == 0)) && o.wf
  | .gstB e _ _ _ o => e.wf && (absent e.x (o == ⟨false, false, false, 0⟩)) && o.wf
  | .gstH e _ _ _ o => e.wf && (absent e.x (o == ⟨false, false, false, 0⟩)) && o.wf
  | .gstW e _ _ _ o => e.wf && (absent e.x (o == ⟨false, false, false, 0⟩)) && o.wf
  | .gstD e _ a _ o => e.wf && (absent e.x (o == ⟨false, false, false, 0⟩)) && o.wf && even a
  | .gstQ e _ a _ o => e.wf && (absent e.x (o == ⟨false, false, false, 0⟩)) && o.wf && quad a
  | .gatomAdd e _ _ _ _ o w64 un vo => e.wf && (absent e.x (o == ⟨false, false, false, 0⟩ && !w64 && !un && vo == 0)) && o.wf && (!w64 || even vo) && !un
  | .gatomMin e _ _ _ _ o w64 un vo => e.wf && (absent e.x (o == ⟨false, false, false, 0⟩ && !w64 && !un && vo == 0)) && o.wf && (!w64 || even vo)
  | .gatomMax e _ _ _ _ o w64 un vo => e.wf && (absent e.x (o == ⟨false, false, false, 0⟩ && !w64 && !un && vo == 0)) && o.wf && (!w64 || even vo)
  | .gatomAnd e _ _ _ _ o w64 un vo => e.wf && (absent e.x (o == ⟨false, false, false, 0⟩ && !w64 && !un && vo == 0)) && o.wf && (!w64 || even vo) && !un
  | .gatomOr e _ _ _ _ o w64 un vo => e.wf && (absent e.x (o == ⟨false, false, false, 0⟩ && !w64 && !un && vo == 0)) && o.wf && (!w64 || even vo) && !un
  | .gatomXor e _ _ _ _ o w64 un vo => e.wf && (absent e.x (o == ⟨false, false, false, 0⟩ && !w64 && !un && vo == 0)) && o.wf && (!w64 || even vo) && !un
  | .gatomXchg e _ _ _ _ o w64 un vo => e.wf && (absent e.x (o == ⟨false, false, false, 0⟩ && !w64 && !un && vo == 0)) && o.wf && (!w64 || even vo) && !un
  | .gatomCas e _ _ _ _ o w64 un vo => e.wf && (absent e.x (o == ⟨false, false, false, 0⟩ && !w64 && !un && vo == 0)) && o.wf && (if w64 then quad vo else even vo) && !un
  | .subscr e _ _ _ o off => e.wf && (absent e.x (o == ⟨false, false, false, 0⟩ && off == 0)) && o.wf
  | .unsub e _ _ _ o off => e.wf && (absent e.x (o == ⟨false, false, false, 0⟩ && off == 0)) && o.wf
  | .trd e d _ row part w64 => e.wf && (absent e.x (row == 0 && part == 0 && !w64)) && (!w64 || (even d && part.toNat < 2))
  | .twr e _ b row part w64 => e.wf && (absent e.x (row == 0 && part == 0 && !w64)) && (!w64 || (even b && part.toNat < 2))
  | .sadd e _ _ _ => e.wf
  | .ssub e _ _ _ => e.wf
  | .smul e _ _ _ => e.wf
  | .smulhi e _ _ _ => e.wf
  | .smulhiu e _ _ _ => e.wf
  | .sdiv e _ _ _ => e.wf
  | .sdivu e _ _ _ => e.wf
  | .srem e _ _ _ => e.wf
  | .sremu e _ _ _ => e.wf
  | .smin e _ _ _ => e.wf
  | .smax e _ _ _ => e.wf
  | .sminu e _ _ _ => e.wf
  | .smaxu e _ _ _ => e.wf
  | .sand e _ _ _ => e.wf
  | .sor e _ _ _ => e.wf
  | .sxor e _ _ _ => e.wf
  | .sandn e _ _ _ => e.wf
  | .snot e _ _ => e.wf
  | .smov e _ _ => e.wf
  | .sshl e _ _ _ => e.wf
  | .sshr e _ _ _ => e.wf
  | .ssar e _ _ _ => e.wf
  | .sclz e _ _ => e.wf
  | .sctz e _ _ => e.wf
  | .spopc e _ _ => e.wf
  | .saddImm e _ _ imm => e.wf && (absent e.x (imm == 0))
  | .ssubImm e _ _ imm => e.wf && (absent e.x (imm == 0))
  | .smulImm e _ _ imm => e.wf && (absent e.x (imm == 0))
  | .smulhiImm e _ _ imm => e.wf && (absent e.x (imm == 0))
  | .smulhiuImm e _ _ imm => e.wf && (absent e.x (imm == 0))
  | .sdivImm e _ _ imm => e.wf && (absent e.x (imm == 0))
  | .sdivuImm e _ _ imm => e.wf && (absent e.x (imm == 0))
  | .sremImm e _ _ imm => e.wf && (absent e.x (imm == 0))
  | .sremuImm e _ _ imm => e.wf && (absent e.x (imm == 0))
  | .sminImm e _ _ imm => e.wf && (absent e.x (imm == 0))
  | .smaxImm e _ _ imm => e.wf && (absent e.x (imm == 0))
  | .sminuImm e _ _ imm => e.wf && (absent e.x (imm == 0))
  | .smaxuImm e _ _ imm => e.wf && (absent e.x (imm == 0))
  | .sandImm e _ _ imm => e.wf && (absent e.x (imm == 0))
  | .sorImm e _ _ imm => e.wf && (absent e.x (imm == 0))
  | .sxorImm e _ _ imm => e.wf && (absent e.x (imm == 0))
  | .sandnImm e _ _ imm => e.wf && (absent e.x (imm == 0))
  | .smovImm e _ imm => e.wf && (absent e.x (imm == 0))
  | .sshlImm e _ _ imm => e.wf && (absent e.x (imm == 0))
  | .sshrImm e _ _ imm => e.wf && (absent e.x (imm == 0))
  | .ssarImm e _ _ imm => e.wf && (absent e.x (imm == 0))
  | .qeq e _ _ _ => e.wf
  | .qne e _ _ _ => e.wf
  | .qlt e _ _ _ => e.wf
  | .qge e _ _ _ => e.wf
  | .qltu e _ _ _ => e.wf
  | .qgeu e _ _ _ => e.wf
  | .qle e _ _ _ => e.wf
  | .qgt e _ _ _ => e.wf
  | .qeqImm e _ _ imm => e.wf && (absent e.x (imm == 0))
  | .qneImm e _ _ imm => e.wf && (absent e.x (imm == 0))
  | .qltImm e _ _ imm => e.wf && (absent e.x (imm == 0))
  | .qgeImm e _ _ imm => e.wf && (absent e.x (imm == 0))
  | .qltuImm e _ _ imm => e.wf && (absent e.x (imm == 0))
  | .qgeuImm e _ _ imm => e.wf && (absent e.x (imm == 0))
  | .qleImm e _ _ imm => e.wf && (absent e.x (imm == 0))
  | .qgtImm e _ _ imm => e.wf && (absent e.x (imm == 0))
  | .sli e _ imm => e.wf && (absent e.x (imm == 0))
  | .slis e _ imm => e.wf && (absent e.x (imm == 0))
  | .s2v e _ v w64 => e.wf && (absent e.x (v == 0 && !w64)) && (!w64 || even v)
  | .v2s e _ v w64 src first => e.wf && (absent e.x (v == 0 && !w64 && src == 0 && !first)) && (!w64 || even v) && (!first || src == 0)
  | .qopAnd e _ _ _ => e.wf
  | .qopOr e _ _ _ => e.wf && e.x
  | .qopXor e _ _ _ => e.wf && e.x
  | .qopAndn e _ _ _ => e.wf && e.x
  | .qopNot e _ _ _ => e.wf && e.x
  | .qopMov e _ _ _ => e.wf && e.x
  | .p2s e _ _ => e.wf
  | .s2p e _ _ => e.wf
  | .actmask e _ => e.wf
  | .sldk e _ off => e.wf && (absent e.x (off == 0))
  | .sldv e _ _ w o off => e.wf && (absent e.x (w == 0 && o == ⟨false, false, false, 0⟩ && off == 0)) && o.wf
  | .sstv e _ _ w o off => e.wf && (absent e.x (w == 0 && o == ⟨false, false, false, 0⟩ && off == 0)) && o.wf
  | .satomvAdd e _ _ _ w o un => e.wf && (absent e.x (w == 0 && o == ⟨false, false, false, 0⟩ && !un)) && o.wf && decide (2 ≤ w.toNat) && !un
  | .satomvMin e _ _ _ w o _ => e.wf && e.x && o.wf && decide (2 ≤ w.toNat)
  | .satomvMax e _ _ _ w o _ => e.wf && e.x && o.wf && decide (2 ≤ w.toNat)
  | .satomvAnd e _ _ _ w o un => e.wf && e.x && o.wf && decide (2 ≤ w.toNat) && !un
  | .satomvOr e _ _ _ w o un => e.wf && e.x && o.wf && decide (2 ≤ w.toNat) && !un
  | .satomvXor e _ _ _ w o un => e.wf && e.x && o.wf && decide (2 ≤ w.toNat) && !un
  | .satomvXchg e _ _ _ w o un => e.wf && e.x && o.wf && decide (2 ≤ w.toNat) && !un
  | .scasv e _ _ b w o => e.wf && (absent e.x (w == 0 && o == ⟨false, false, false, 0⟩)) && o.wf && decide (2 ≤ w.toNat) && (b != 63)
  | .bra e imm => e.wf && (absent e.x (imm == 0))
  | .brq e _ imm => e.wf && (absent e.x (imm == 0))
  | .brnq e _ imm => e.wf && (absent e.x (imm == 0))
  | .call e _ _ imm => e.wf && (absent e.x (imm == 0))
  | .callr e _ _ _ => e.wf
  | .ret e _ => e.wf
  | .endStrand e => e.wf
  | .loopd e _ imm => e.wf && (absent e.x (imm == 0))
  | .split e _ _ els cont => e.wf && (absent e.x (els == 0 && cont == 0))
  | .calli e _ _ _ _ cont => e.wf && (absent e.x (cont == 0))
  | .endarm e => e.wf
  | .seal e lo hi pred => e.wf && (absent e.x (lo == 0 && hi == 0 && !pred)) && decide (lo.toNat ≤ hi.toNat) && (!pred || hi.toNat < 8)
  | .join e lo hi pred => e.wf && (absent e.x (lo == 0 && hi == 0 && !pred)) && decide (lo.toNat ≤ hi.toNat) && (!pred || hi.toNat < 8)
  | .joinmem e => e.wf
  | .binit e _ waves engines => e.wf && (absent e.x (waves == 0 && engines == 0)) && decide (waves.toNat ≤ 16) && (waves != 0 || engines != 0)
  | .bexpect e _ a r n => e.wf && (absent e.x (!r && n == 0)) && (!r || n == 0) && (r || a == 0)
  | .barrive e _ _ => e.wf
  | .bwait e _ _ _ => e.wf
  | .bsync e _ _ => e.wf
  | .gbar e _ _ => e.wf
  | .cbar e _ => e.wf
  | .bstat e _ _ pick => e.wf && absent e.x (!pick)
  | .waita e _ _ _ cond o off => e.wf && (absent e.x (cond == 0 && o == ⟨false, false, false, 0⟩ && off == 0)) && o.wf
  | .sleep e a r n => e.wf && (absent e.x (!r && n == 0)) && (!r || n == 0) && (r || a == 0)
  | .yieldS e => e.wf
  | .fenceAcq e scope => e.wf && (absent e.x (scope == 0))
  | .fenceRel e _ => e.wf && e.x
  | .fenceFull e _ => e.wf && e.x
  | .fenceEng e _ => e.wf && e.x
  | .xlat e _ _ _ => e.wf
  | .xdrop e _ => e.wf
  | .copy e _ off => e.wf && (absent e.x (off == 0))
  | .copyc e _ off => e.wf && (absent e.x (off == 0))
  | .copyl e _ off => e.wf && (absent e.x (off == 0))
  | .tstg e _ _ off => e.wf && (absent e.x (off == 0))
  | .stepchk e _ _ => e.wf
  | .steprec e _ _ => e.wf
  | .tcfg e _ a r shape => e.wf && (absent e.x (!r && shape == 0)) && (r || a == 0) && (!r || shape == 0) && (r || shapeOk shape)
  | .tlay e _ layout => e.wf && (absent e.x (layout == 0))
  | .tld e _ _ off stride => e.wf && (absent e.x (off == 0 && stride == 0))
  | .tst e _ _ off stride => e.wf && (absent e.x (off == 0 && stride == 0))
  | .tzero e _ => e.wf
  | .tmov e _ _ => e.wf
  | .mmaF64 e _ _ _ part tb => e.wf && absent e.x (!part && !tb) && !part
  | .mmaF32 e _ _ _ part tb => e.wf && absent e.x (!part && !tb) && !part
  | .mmaF16 e _ _ _ part tb => e.wf && absent e.x (!part && !tb) && !part
  | .mmaBf16 e _ _ _ part tb => e.wf && absent e.x (!part && !tb) && !part
  | .mmaE4m3 e _ _ _ part tb => e.wf && absent e.x (!part && !tb)
  | .mmaE5m2 e _ _ _ part tb => e.wf && absent e.x (!part && !tb)
  | .mmaDs8 e _ _ _ part tb => e.wf && absent e.x (!part && !tb)
  | .mmaI8 e _ _ _ part tb => e.wf && absent e.x (!part && !tb) && !part
  | .scacc e _ _ _ q neg ra rb => e.wf && (absent e.x (q == 0 && !neg && ra == 0 && rb == 0))
  | .quant e _ _ _ fmt col r => e.wf && (absent e.x (fmt == 0 && !col && r == 0)) && decide (4 ≤ fmt.toNat) && decide (fmt.toNat ≤ 6)
  | .rarm e _ _ off => e.wf && (absent e.x (off == 0))
  | .rdisarm e _ _ => e.wf
  | .rqry e _ _ pick => e.wf && absent e.x (!pick)
  | .fork e _ _ => e.wf
  | .tnext e _ => e.wf
  | .tsig e _ => e.wf
  | .tdone e => e.wf
  | .tpost e _ _ => e.wf
  | .nextw e _ off => e.wf && (absent e.x (off == 0))
  | .trap e code => e.wf && (absent e.x (code == 0))
  | .bkpt e => e.wf
  | .csrr e _ csr => e.wf && (absent e.x (csr == 0)) && csrExists csr
  | .csrw e _ csr => e.wf && (absent e.x (csr == 0)) && csrExists csr
  | .nop e => e.wf
  | .resultWrite _ _ _ => true
  | .serialisedStrandStart _ _ => true
  | .storeBufferDrain _ _ => true
  | .joinmemComplete _ _ => true
  | .fenceComplete _ _ => true
  | .endComplete _ _ => true
  | .remoteVaultRead _ _ _ _ => true
  | .postQueueSend _ _ => true
  | .homePerform _ _ _ => true
  | .subscribeRequest _ _ => true
  | .unsubscribeRequest _ _ => true
  | .pushDelivery _ _ => true
  | .refusalDelivery _ _ => true
  | .unsubAckDelivery _ _ => true
  | .gldLanding _ => true
  | .gatomLanding _ => true
  | .waitaWake _ _ => true
  | .sleepExpire _ _ => true
  | .pageWalkComplete _ _ _ => true
  | .faultResume _ _ => true
  | .shootdown _ _ _ _ => true
  | .ownershipStep _ _ _ _ => true
  | .jobAccept _ _ => true
  | .tstgCapture _ _ => true
  | .copyPiece _ _ _ => true
  | .jobCompletion _ _ => true
  | .jobResume _ _ => true
  | .mmaStart _ => true
  | .mmaComplete _ => true
  | .regionCount _ => true
  | .regionArrive _ _ => true
  | .regionRelease _ _ => true
  | .regionTask _ _ => true
  | .regionFlag _ _ => true
  | .regionLaunch _ _ => true
  | .distributorGrant _ _ => true
  | .nextwAnswer _ _ => true
  | .overflowMove _ _ => true
  | .hostPortPerform _ _ _ => true
  | .hostPortAck _ _ => true
  | .hostRead _ _ => true
  | .hostWrite _ _ => true
  | .packetAccept _ _ _ => true
  | .cohortBind _ _ => true
  | .waveRetire _ => true
  | .cohortRetire _ => true
  | .waveKill _ => true
  | .gangPrepare _ _ _ _ => true
  | .gangAck _ _ => true
  | .gangNack _ _ => true
  | .prepareDeadline _ => true
  | .gangCancel _ => true
  | .gangStart _ => true
  | .gangStartAck _ _ => true
  | .startDeadline _ => true
  | .gangAbort _ => true
  | .watchdog _ _ => true
  | .preempt _ => true
  | .restore _ => true
  | .debugHalt _ => true
  | .debugResume _ => true
  | .singleStep _ _ => true
  | .eccCorrectable _ => true
  | .eccPoison _ => true
  | .flitRetransmit _ => true
  | .linkFailure _ => true
  | .clockThrottle _ => true
  | .currentStepStall _ _ => true
  | .thermalShutdown => true
  | .boot => true
  | .patchLoad _ _ => true
  | .icacheFill _ _ _ => true
  | .routingTableWrite _ _ => true
  | .partitionCreate _ _ => true
  | .attestationRequest _ => true
  | .partitionTeardown _ => true
  | .channelCreate _ _ _ => true
  | .debugStateWrite _ _ => true
  | .mailboxImageWrite _ _ => true

end Sys2Proof
end

