-- ==== Sys2Proof/Decode.lean ====
section
/-! DEFINITION. From words to instructions and back (R62 to R69, R77 to R83). A word pair is cut into its fields once;
the opcode maps name the instruction those fields could be; the fields are accepted when they are exactly that
instruction's encoding, so that every field or bit its entry does not assign is 0. -/

namespace Sys2Proof

/-- The fields of a lane instruction (R66). -/
structure RawL where
  x  : Bool
  op : BitVec 6
  d  : BitVec 7
  a  : BitVec 7
  b  : BitVec 7
  f  : BitVec 3
  la : BitVec 4
  g  : Bool
  gp : BitVec 3
  gn : Bool
  c  : BitVec 7
  m  : BitVec 16
deriving DecidableEq, Repr

/-- The fields of a uniform instruction (R67). -/
structure RawU where
  x   : Bool
  op  : BitVec 6
  d   : BitVec 6
  a   : BitVec 6
  b   : BitVec 6
  f   : BitVec 6
  la  : BitVec 4
  imm : BitVec 28
deriving DecidableEq, Repr

/-- The fields of an instruction of either set (R63). -/
inductive Raw where
  | lane (r : RawL)
  | uni (r : RawU)
deriving DecidableEq, Repr

/-- Why a word is no instruction; each is a case of ILLEGAL_OP by the words alone (R82 item 2). -/
inductive DecodeError where
  /-- A reserved OP, F value or sub-selector (R77, R79, R80). -/
  | reservedOpcode
  /-- A non-zero reserved field or sub-field (R69). -/
  | reservedField
  /-- An odd pair register, a malformed range, modifier or code. -/
  | malformed
  /-- Too few bytes for the instruction. -/
  | truncated
deriving DecidableEq, Repr

/-- The instruction word's X bit (R63). -/
def hasExt (w : Word) : Bool := w.getLsbD 30

/-- Cuts an instruction word and its extension word into fields (R66, R67). Without X the extension counts as 0 (R64). -/
def Raw.ofWords (w ext : Word) : Raw :=
  let y := if hasExt w then ext else 0
  if w.getLsbD 31 then
    .uni { x := hasExt w, op := w.extractLsb' 24 6, d := w.extractLsb' 18 6, a := w.extractLsb' 12 6,
           b := w.extractLsb' 6 6, f := w.extractLsb' 0 6, la := y.extractLsb' 28 4, imm := y.extractLsb' 0 28 }
  else
    .lane { x := hasExt w, op := w.extractLsb' 24 6, d := w.extractLsb' 17 7, a := w.extractLsb' 10 7,
            b := w.extractLsb' 3 7, f := w.extractLsb' 0 3, la := y.extractLsb' 28 4, g := y.getLsbD 27,
            gp := y.extractLsb' 24 3, gn := y.getLsbD 23, c := y.extractLsb' 16 7, m := y.extractLsb' 0 16 }

/-- One bit as a field. -/
def bitOf (b : Bool) : BitVec 1 := BitVec.ofBool b

/-- The words of a set of fields. -/
def Raw.words : Raw → Word × Word
  | .lane r => (bitOf false ++ bitOf r.x ++ r.op ++ r.d ++ r.a ++ r.b ++ r.f,
                r.la ++ bitOf r.g ++ r.gp ++ bitOf r.gn ++ r.c ++ r.m)
  | .uni r => (bitOf true ++ bitOf r.x ++ r.op ++ r.d ++ r.a ++ r.b ++ r.f, r.la ++ r.imm)

/-- The guard and lookahead fields of a lane instruction. -/
def RawL.ext (r : RawL) : LExt := ⟨r.x, r.la, r.g, r.gp, r.gn⟩

/-- The lookahead field of a uniform instruction. -/
def RawU.ext (r : RawU) : UExt := ⟨r.x, r.la⟩

/-- The six bits of an ordering field (R148). -/
def Ordering.ofBits (b : BitVec 6) : Ordering :=
  ⟨b.getLsbD 5, b.getLsbD 4, b.getLsbD 3, b.extractLsb' 0 3⟩

/-- An ordering field as six bits (R148). -/
def Ordering.bits (o : Ordering) : BitVec 6 := bitOf o.poll ++ bitOf o.rel ++ bitOf o.acq ++ o.scope

/-- The lane fields with everything but set, X, OP, F and the common extension fields 0. -/
def RawL.base (e : LExt) (op : BitVec 6) (f : BitVec 3) : RawL :=
  { x := e.x, op, d := 0, a := 0, b := 0, f, la := e.la, g := e.g, gp := e.gp, gn := e.gn, c := 0, m := 0 }

/-- The uniform fields with everything but set, X, OP, F and LA 0. -/
def RawU.base (e : UExt) (op f : BitVec 6) : RawU :=
  { x := e.x, op, d := 0, a := 0, b := 0, f, la := e.la, imm := 0 }

/-- Lane OP 0x00 by F (R77). -/
def laneOp00 (r : RawL) : Option Instr :=
  match r.f.toNat with
  | 0 => some (.iadd r.ext r.d r.a r.b)
  | 1 => some (.isub r.ext r.d r.a r.b)
  | 2 => some (.imin r.ext r.d r.a r.b)
  | 3 => some (.imax r.ext r.d r.a r.b)
  | 4 => some (.iminu r.ext r.d r.a r.b)
  | 5 => some (.imaxu r.ext r.d r.a r.b)
  | 6 => some (.iabs r.ext r.d r.a)
  | 7 => some (.ineg r.ext r.d r.a)
  | _ => none

/-- Lane OP 0x01 by F (R77). -/
def laneOp01 (r : RawL) : Option Instr :=
  match r.f.toNat with
  | 0 => some (.iaddImm r.ext r.d r.a r.m)
  | 1 => some (.isubImm r.ext r.d r.a r.m)
  | 2 => some (.iminImm r.ext r.d r.a r.m)
  | 3 => some (.imaxImm r.ext r.d r.a r.m)
  | 4 => some (.iminuImm r.ext r.d r.a r.m)
  | 5 => some (.imaxuImm r.ext r.d r.a r.m)
  | _ => none

/-- Lane OP 0x02 by F (R77). -/
def laneOp02 (r : RawL) : Option Instr :=
  match r.f.toNat with
  | 0 => some (.land r.ext r.d r.a r.b)
  | 1 => some (.lor r.ext r.d r.a r.b)
  | 2 => some (.lxor r.ext r.d r.a r.b)
  | 3 => some (.landn r.ext r.d r.a r.b)
  | 4 => some (.lorn r.ext r.d r.a r.b)
  | 5 => some (.lxnor r.ext r.d r.a r.b)
  | 6 => some (.lnot r.ext r.d r.a)
  | 7 => some (.mov r.ext r.d r.a)
  | _ => none

/-- Lane OP 0x03 by F (R77). -/
def laneOp03 (r : RawL) : Option Instr :=
  match r.f.toNat with
  | 0 => some (.landImm r.ext r.d r.a r.m)
  | 1 => some (.lorImm r.ext r.d r.a r.m)
  | 2 => some (.lxorImm r.ext r.d r.a r.m)
  | 3 => some (.landnImm r.ext r.d r.a r.m)
  | 4 => some (.lornImm r.ext r.d r.a r.m)
  | 5 => some (.lxnorImm r.ext r.d r.a r.m)
  | 6 => some (.movhi r.ext r.d r.m)
  | 7 => some (.movi r.ext r.d r.m)
  | _ => none

/-- Lane OP 0x04 by F (R77). -/
def laneOp04 (r : RawL) : Option Instr :=
  match r.f.toNat with
  | 0 => some (.shl r.ext r.d r.a r.b)
  | 1 => some (.shr r.ext r.d r.a r.b)
  | 2 => some (.sar r.ext r.d r.a r.b)
  | 3 => some (.rol r.ext r.d r.a r.b)
  | 4 => some (.ror r.ext r.d r.a r.b)
  | 5 => some (.fshl r.ext r.d r.a r.b r.c)
  | 6 => some (.fshr r.ext r.d r.a r.b r.c)
  | _ => none

/-- Lane OP 0x05 by F (R77). -/
def laneOp05 (r : RawL) : Option Instr :=
  match r.f.toNat with
  | 0 => some (.shlImm r.ext r.d r.a (r.b.extractLsb' 0 5))
  | 1 => some (.shrImm r.ext r.d r.a (r.b.extractLsb' 0 5))
  | 2 => some (.sarImm r.ext r.d r.a (r.b.extractLsb' 0 5))
  | 3 => some (.rolImm r.ext r.d r.a (r.b.extractLsb' 0 5))
  | 4 => some (.rorImm r.ext r.d r.a (r.b.extractLsb' 0 5))
  | 5 => some (.fshlImm r.ext r.d r.a (r.b.extractLsb' 0 5) r.c)
  | 6 => some (.fshrImm r.ext r.d r.a (r.b.extractLsb' 0 5) r.c)
  | _ => none

/-- Lane OP 0x06 by F (R77). -/
def laneOp06 (r : RawL) : Option Instr :=
  match r.f.toNat with
  | 0 => some (.clz r.ext r.d r.a)
  | 1 => some (.ctz r.ext r.d r.a)
  | 2 => some (.popc r.ext r.d r.a)
  | 3 => some (.brev r.ext r.d r.a)
  | 4 => some (.bswap r.ext r.d r.a)
  | 5 => some (.bfx r.ext r.d r.a (r.m.extractLsb' 0 5) (r.m.extractLsb' 5 6))
  | 6 => some (.bfxs r.ext r.d r.a (r.m.extractLsb' 0 5) (r.m.extractLsb' 5 6))
  | 7 => some (.bfi r.ext r.d r.a r.b (r.m.extractLsb' 0 5) (r.m.extractLsb' 5 6))
  | _ => none

/-- Lane OP 0x07 by F (R77). -/
def laneOp07 (r : RawL) : Option Instr :=
  match r.f.toNat with
  | 0 => some (.imul r.ext r.d r.a r.b)
  | 1 => some (.imulhi r.ext r.d r.a r.b)
  | 2 => some (.imulhiu r.ext r.d r.a r.b)
  | 3 => some (.imad r.ext r.d r.a r.b r.c)
  | 4 => some (.imulw r.ext r.d r.a r.b)
  | 5 => some (.imulwu r.ext r.d r.a r.b)
  | 6 => some (.imadw r.ext r.d r.a r.b r.c)
  | _ => none

/-- Lane OP 0x08 by F (R77). -/
def laneOp08 (r : RawL) : Option Instr :=
  match r.f.toNat with
  | 0 => some (.idiv r.ext r.d r.a r.b)
  | 1 => some (.idivu r.ext r.d r.a r.b)
  | 2 => some (.irem r.ext r.d r.a r.b)
  | 3 => some (.iremu r.ext r.d r.a r.b)
  | _ => none

/-- Lane OP 0x09 by F (R77). -/
def laneOp09 (r : RawL) : Option Instr :=
  match r.f.toNat with
  | 0 => some (.ceq r.ext (r.d.extractLsb' 0 3) r.a r.b)
  | 1 => some (.cne r.ext (r.d.extractLsb' 0 3) r.a r.b)
  | 2 => some (.clt r.ext (r.d.extractLsb' 0 3) r.a r.b)
  | 3 => some (.cge r.ext (r.d.extractLsb' 0 3) r.a r.b)
  | 4 => some (.cltu r.ext (r.d.extractLsb' 0 3) r.a r.b)
  | 5 => some (.cgeu r.ext (r.d.extractLsb' 0 3) r.a r.b)
  | 6 => some (.cle r.ext (r.d.extractLsb' 0 3) r.a r.b)
  | 7 => some (.cgt r.ext (r.d.extractLsb' 0 3) r.a r.b)
  | _ => none

/-- Lane OP 0x0A by F (R77). -/
def laneOp0A (r : RawL) : Option Instr :=
  match r.f.toNat with
  | 0 => some (.ceqImm r.ext (r.d.extractLsb' 0 3) r.a r.m)
  | 1 => some (.cneImm r.ext (r.d.extractLsb' 0 3) r.a r.m)
  | 2 => some (.cltImm r.ext (r.d.extractLsb' 0 3) r.a r.m)
  | 3 => some (.cgeImm r.ext (r.d.extractLsb' 0 3) r.a r.m)
  | 4 => some (.cltuImm r.ext (r.d.extractLsb' 0 3) r.a r.m)
  | 5 => some (.cgeuImm r.ext (r.d.extractLsb' 0 3) r.a r.m)
  | 6 => some (.cleImm r.ext (r.d.extractLsb' 0 3) r.a r.m)
  | 7 => some (.cgtImm r.ext (r.d.extractLsb' 0 3) r.a r.m)
  | _ => none

/-- Lane OP 0x0B by F (R77). -/
def laneOp0B (r : RawL) : Option Instr :=
  match r.f.toNat with
  | 0 => some (.sel r.ext r.d r.a r.b (r.c.extractLsb' 0 3))
  | 1 => some (.pand r.ext (r.d.extractLsb' 0 3) (r.a.extractLsb' 0 3) (r.b.extractLsb' 0 3))
  | 2 => some (.por r.ext (r.d.extractLsb' 0 3) (r.a.extractLsb' 0 3) (r.b.extractLsb' 0 3))
  | 3 => some (.pxor r.ext (r.d.extractLsb' 0 3) (r.a.extractLsb' 0 3) (r.b.extractLsb' 0 3))
  | 4 => some (.pnot r.ext (r.d.extractLsb' 0 3) (r.a.extractLsb' 0 3))
  | 5 => some (.p2v r.ext r.d)
  | 6 => some (.v2p r.ext r.a (r.m.extractLsb' 1 7))
  | 7 => some (.pmov r.ext (r.d.extractLsb' 0 3) (r.a.extractLsb' 0 3))
  | _ => none

/-- Lane OP 0x0C by F (R77). -/
def laneOp0C (r : RawL) : Option Instr :=
  match r.f.toNat with
  | 0 => some (.iadd64 r.ext r.d r.a r.b)
  | 1 => some (.isub64 r.ext r.d r.a r.b)
  | 2 => some (.shl64 r.ext r.d r.a r.b)
  | 3 => some (.shr64 r.ext r.d r.a r.b)
  | 4 => some (.sar64 r.ext r.d r.a r.b)
  | 5 => some (.icmp64 r.ext (r.d.extractLsb' 0 3) r.a r.b (r.m.extractLsb' 0 3))
  | 6 => some (.mov64 r.ext r.d r.a)
  | 7 => some (.imul64 r.ext r.d r.a r.b)
  | _ => none

/-- Lane OP 0x0D by F (R77). -/
def laneOp0D (r : RawL) : Option Instr :=
  match r.f.toNat with
  | 0 => some (.sxtb r.ext r.d r.a)
  | 1 => some (.sxth r.ext r.d r.a)
  | 2 => some (.zxtb r.ext r.d r.a)
  | 3 => some (.zxth r.ext r.d r.a)
  | 4 => some (.sxtw r.ext r.d r.a)
  | 5 => some (.zxtw r.ext r.d r.a)
  | 6 => some (.laneid r.ext r.d)
  | 7 => some (.tid r.ext r.d)
  | _ => none

/-- Lane OP 0x10 by F (R77). -/
def laneOp10 (r : RawL) : Option Instr :=
  match r.f.toNat with
  | 0 => some (.faddF64 r.ext r.d r.a r.b (r.m.extractLsb' 4 3))
  | 1 => some (.fsubF64 r.ext r.d r.a r.b (r.m.extractLsb' 4 3))
  | 2 => some (.fmulF64 r.ext r.d r.a r.b (r.m.extractLsb' 4 3))
  | 3 => some (.ffmaF64 r.ext r.d r.a r.b r.c (r.m.extractLsb' 4 3))
  | 4 => some (.fminF64 r.ext r.d r.a r.b (r.m.extractLsb' 4 3))
  | 5 => some (.fmaxF64 r.ext r.d r.a r.b (r.m.extractLsb' 4 3))
  | 6 => some (.fcmpF64 r.ext (r.d.extractLsb' 0 3) r.a r.b (r.m.extractLsb' 0 3) (r.m.extractLsb' 4 3))
  | 7 =>
    match (r.m.extractLsb' 0 4).toNat with
    | 0 => some (.fabsF64 r.ext r.d r.a (r.m.extractLsb' 4 3))
    | 1 => some (.fnegF64 r.ext r.d r.a (r.m.extractLsb' 4 3))
    | 2 => some (.ffloorF64 r.ext r.d r.a (r.m.extractLsb' 4 3))
    | 3 => some (.fceilF64 r.ext r.d r.a (r.m.extractLsb' 4 3))
    | 4 => some (.ftruncF64 r.ext r.d r.a (r.m.extractLsb' 4 3))
    | 5 => some (.frintF64 r.ext r.d r.a (r.m.extractLsb' 4 3))
    | 6 => some (.fclassF64 r.ext r.d r.a (r.m.extractLsb' 4 3))
    | _ => none
  | _ => none

/-- Lane OP 0x11 by F (R77). -/
def laneOp11 (r : RawL) : Option Instr :=
  match r.f.toNat with
  | 0 => some (.faddF32 r.ext r.d r.a r.b (r.m.extractLsb' 4 3))
  | 1 => some (.fsubF32 r.ext r.d r.a r.b (r.m.extractLsb' 4 3))
  | 2 => some (.fmulF32 r.ext r.d r.a r.b (r.m.extractLsb' 4 3))
  | 3 => some (.ffmaF32 r.ext r.d r.a r.b r.c (r.m.extractLsb' 4 3))
  | 4 => some (.fminF32 r.ext r.d r.a r.b (r.m.extractLsb' 4 3))
  | 5 => some (.fmaxF32 r.ext r.d r.a r.b (r.m.extractLsb' 4 3))
  | 6 => some (.fcmpF32 r.ext (r.d.extractLsb' 0 3) r.a r.b (r.m.extractLsb' 0 3) (r.m.extractLsb' 4 3))
  | 7 =>
    match (r.m.extractLsb' 0 4).toNat with
    | 0 => some (.fabsF32 r.ext r.d r.a (r.m.extractLsb' 4 3))
    | 1 => some (.fnegF32 r.ext r.d r.a (r.m.extractLsb' 4 3))
    | 2 => some (.ffloorF32 r.ext r.d r.a (r.m.extractLsb' 4 3))
    | 3 => some (.fceilF32 r.ext r.d r.a (r.m.extractLsb' 4 3))
    | 4 => some (.ftruncF32 r.ext r.d r.a (r.m.extractLsb' 4 3))
    | 5 => some (.frintF32 r.ext r.d r.a (r.m.extractLsb' 4 3))
    | 6 => some (.fclassF32 r.ext r.d r.a (r.m.extractLsb' 4 3))
    | _ => none
  | _ => none

/-- Lane OP 0x12 by F (R77). -/
def laneOp12 (r : RawL) : Option Instr :=
  match r.f.toNat with
  | 0 => some (.faddF16x2 r.ext r.d r.a r.b (r.m.extractLsb' 4 3))
  | 1 => some (.fsubF16x2 r.ext r.d r.a r.b (r.m.extractLsb' 4 3))
  | 2 => some (.fmulF16x2 r.ext r.d r.a r.b (r.m.extractLsb' 4 3))
  | 3 => some (.ffmaF16x2 r.ext r.d r.a r.b r.c (r.m.extractLsb' 4 3))
  | 4 => some (.fminF16x2 r.ext r.d r.a r.b (r.m.extractLsb' 4 3))
  | 5 => some (.fmaxF16x2 r.ext r.d r.a r.b (r.m.extractLsb' 4 3))
  | 6 => some (.fcmpF16x2 r.ext (r.d.extractLsb' 0 3) r.a r.b (r.m.extractLsb' 0 3) (r.m.extractLsb' 4 3))
  | 7 =>
    match (r.m.extractLsb' 0 4).toNat with
    | 0 => some (.fabsF16x2 r.ext r.d r.a (r.m.extractLsb' 4 3))
    | 1 => some (.fnegF16x2 r.ext r.d r.a (r.m.extractLsb' 4 3))
    | 2 => some (.ffloorF16x2 r.ext r.d r.a (r.m.extractLsb' 4 3))
    | 3 => some (.fceilF16x2 r.ext r.d r.a (r.m.extractLsb' 4 3))
    | 4 => some (.ftruncF16x2 r.ext r.d r.a (r.m.extractLsb' 4 3))
    | 5 => some (.frintF16x2 r.ext r.d r.a (r.m.extractLsb' 4 3))
    | 6 => some (.fclassF16x2 r.ext r.d r.a (r.m.extractLsb' 4 3))
    | _ => none
  | _ => none

/-- Lane OP 0x13 by F (R77). -/
def laneOp13 (r : RawL) : Option Instr :=
  match r.f.toNat with
  | 0 => some (.faddBf16x2 r.ext r.d r.a r.b (r.m.extractLsb' 4 3))
  | 1 => some (.fsubBf16x2 r.ext r.d r.a r.b (r.m.extractLsb' 4 3))
  | 2 => some (.fmulBf16x2 r.ext r.d r.a r.b (r.m.extractLsb' 4 3))
  | 3 => some (.ffmaBf16x2 r.ext r.d r.a r.b r.c (r.m.extractLsb' 4 3))
  | 4 => some (.fminBf16x2 r.ext r.d r.a r.b (r.m.extractLsb' 4 3))
  | 5 => some (.fmaxBf16x2 r.ext r.d r.a r.b (r.m.extractLsb' 4 3))
  | 6 => some (.fcmpBf16x2 r.ext (r.d.extractLsb' 0 3) r.a r.b (r.m.extractLsb' 0 3) (r.m.extractLsb' 4 3))
  | 7 =>
    match (r.m.extractLsb' 0 4).toNat with
    | 0 => some (.fabsBf16x2 r.ext r.d r.a (r.m.extractLsb' 4 3))
    | 1 => some (.fnegBf16x2 r.ext r.d r.a (r.m.extractLsb' 4 3))
    | 2 => some (.ffloorBf16x2 r.ext r.d r.a (r.m.extractLsb' 4 3))
    | 3 => some (.fceilBf16x2 r.ext r.d r.a (r.m.extractLsb' 4 3))
    | 4 => some (.ftruncBf16x2 r.ext r.d r.a (r.m.extractLsb' 4 3))
    | 5 => some (.frintBf16x2 r.ext r.d r.a (r.m.extractLsb' 4 3))
    | 6 => some (.fclassBf16x2 r.ext r.d r.a (r.m.extractLsb' 4 3))
    | _ => none
  | _ => none

/-- Lane OP 0x14 by F (R77). -/
def laneOp14 (r : RawL) : Option Instr :=
  match r.f.toNat with
  | 0 => some (.fdivF64 r.ext r.d r.a r.b (r.m.extractLsb' 4 3))
  | 1 => some (.fdivF32 r.ext r.d r.a r.b (r.m.extractLsb' 4 3))
  | 2 => some (.fsqrtF64 r.ext r.d r.a (r.m.extractLsb' 4 3))
  | 3 => some (.fsqrtF32 r.ext r.d r.a (r.m.extractLsb' 4 3))
  | 4 => some (.frcpF64 r.ext r.d r.a (r.m.extractLsb' 4 3))
  | 5 => some (.frcpF32 r.ext r.d r.a (r.m.extractLsb' 4 3))
  | 6 => some (.frsqF64 r.ext r.d r.a (r.m.extractLsb' 4 3))
  | 7 => some (.frsqF32 r.ext r.d r.a (r.m.extractLsb' 4 3))
  | _ => none

/-- Lane OP 0x15 by F (R77). -/
def laneOp15 (r : RawL) : Option Instr :=
  match r.f.toNat with
  | 0 => some (.fexp2 r.ext r.d r.a)
  | 1 => some (.flog2 r.ext r.d r.a)
  | 2 => some (.fsinpi r.ext r.d r.a)
  | 3 => some (.fcospi r.ext r.d r.a)
  | 4 => some (.ftanh r.ext r.d r.a)
  | _ => none

/-- Lane OP 0x16 by F (R77). -/
def laneOp16 (r : RawL) : Option Instr :=
  match r.f.toNat with
  | 0 => some (.cvt r.ext r.d r.a (r.m.extractLsb' 0 4) (r.m.extractLsb' 4 4) (r.m.extractLsb' 8 3))
  | 1 => some (.cvtSat r.ext r.d r.a (r.m.extractLsb' 0 4) (r.m.extractLsb' 4 4) (r.m.extractLsb' 8 3))
  | _ => none

/-- Lane OP 0x18 by F (R77). -/
def laneOp18 (r : RawL) : Option Instr :=
  match r.f.toNat with
  | 0 => some (.shfl r.ext r.d r.a r.b (r.m.extractLsb' 0 5) (r.m.getLsbD 5) (r.m.getLsbD 6))
  | 1 => some (.shflx r.ext r.d r.a r.b (r.m.extractLsb' 0 5) (r.m.getLsbD 5) (r.m.getLsbD 6))
  | 2 => some (.shflup r.ext r.d r.a r.b (r.m.extractLsb' 0 5) (r.m.getLsbD 5) (r.m.getLsbD 6))
  | 3 => some (.shfldn r.ext r.d r.a r.b (r.m.extractLsb' 0 5) (r.m.getLsbD 5) (r.m.getLsbD 6))
  | 4 => some (.bcast r.ext r.d r.a (r.m.extractLsb' 0 5) (r.m.getLsbD 6) (r.m.getLsbD 7))
  | 5 => some (.vote r.ext r.d (r.a.extractLsb' 0 3) (r.m.extractLsb' 0 2))
  | 6 => some (.gathg r.ext r.d r.a r.b (r.m.extractLsb' 0 2) (r.m.getLsbD 2))
  | _ => none

/-- Lane OP 0x19 by F (R77). -/
def laneOp19 (r : RawL) : Option Instr :=
  match r.f.toNat with
  | 0 => some (.redadd r.ext r.d r.a (r.m.getLsbD 0))
  | 1 => some (.redmin r.ext r.d r.a (r.m.getLsbD 0) (r.m.getLsbD 1))
  | 2 => some (.redmax r.ext r.d r.a (r.m.getLsbD 0) (r.m.getLsbD 1))
  | 3 => some (.redaddF32 r.ext r.d r.a)
  | 4 => some (.redaddF64 r.ext r.d r.a)
  | 5 => some (.scan r.ext r.d r.a (r.m.getLsbD 0))
  | 6 => some (.scanx r.ext r.d r.a (r.m.getLsbD 0))
  | 7 => some (.scanF32 r.ext r.d r.a)
  | _ => none

/-- Lane OP 0x1A by F (R77). -/
def laneOp1A (r : RawL) : Option Instr :=
  match r.f.toNat with
  | 0 => some (.confl r.ext r.d r.a (r.m.getLsbD 0))
  | 1 => some (.rebal r.ext r.d r.a r.b)
  | 2 => some (.mrgu r.ext r.d r.a r.b (r.c.extractLsb' 0 3) (r.c.extractLsb' 3 3) (r.m.extractLsb' 0 3))
  | 3 => some (.mrgi r.ext r.d r.a r.b (r.c.extractLsb' 0 3) (r.c.extractLsb' 3 3) (r.m.extractLsb' 0 3))
  | 4 => some (.compact r.ext r.d r.a (r.c.extractLsb' 0 3) (r.m.getLsbD 0))
  | 5 => some (.expand r.ext r.d r.a (r.c.extractLsb' 0 3) (r.m.getLsbD 0))
  | _ => none

/-- Lane OP 0x1C by F (R77). -/
def laneOp1C (r : RawL) : Option Instr :=
  match r.f.toNat with
  | 0 => some (.vldB r.ext r.d r.a (.ofBits (r.c.extractLsb' 0 6)) r.m)
  | 1 => some (.vldBs r.ext r.d r.a (.ofBits (r.c.extractLsb' 0 6)) r.m)
  | 2 => some (.vldH r.ext r.d r.a (.ofBits (r.c.extractLsb' 0 6)) r.m)
  | 3 => some (.vldHs r.ext r.d r.a (.ofBits (r.c.extractLsb' 0 6)) r.m)
  | 4 => some (.vldW r.ext r.d r.a (.ofBits (r.c.extractLsb' 0 6)) r.m)
  | 5 => some (.vldD r.ext r.d r.a (.ofBits (r.c.extractLsb' 0 6)) r.m)
  | 6 => some (.vldQ r.ext r.d r.a (.ofBits (r.c.extractLsb' 0 6)) r.m)
  | 7 => some (.vldl r.ext r.d r.a (.ofBits (r.c.extractLsb' 0 6)) r.m)
  | _ => none

/-- Lane OP 0x1D by F (R77). -/
def laneOp1D (r : RawL) : Option Instr :=
  match r.f.toNat with
  | 0 => some (.vstB r.ext r.a r.b (.ofBits (r.c.extractLsb' 0 6)) r.m)
  | 2 => some (.vstH r.ext r.a r.b (.ofBits (r.c.extractLsb' 0 6)) r.m)
  | 4 => some (.vstW r.ext r.a r.b (.ofBits (r.c.extractLsb' 0 6)) r.m)
  | 5 => some (.vstD r.ext r.a r.b (.ofBits (r.c.extractLsb' 0 6)) r.m)
  | 6 => some (.vstQ r.ext r.a r.b (.ofBits (r.c.extractLsb' 0 6)) r.m)
  | _ => none

/-- Lane OP 0x1E by F (R77). -/
def laneOp1E (r : RawL) : Option Instr :=
  match r.f.toNat with
  | 0 => some (.vatomAdd r.ext r.d r.a r.b (.ofBits (r.c.extractLsb' 0 6)) (r.m.getLsbD 0) (r.m.getLsbD 1))
  | 1 => some (.vatomMin r.ext r.d r.a r.b (.ofBits (r.c.extractLsb' 0 6)) (r.m.getLsbD 0) (r.m.getLsbD 1))
  | 2 => some (.vatomMax r.ext r.d r.a r.b (.ofBits (r.c.extractLsb' 0 6)) (r.m.getLsbD 0) (r.m.getLsbD 1))
  | 3 => some (.vatomAnd r.ext r.d r.a r.b (.ofBits (r.c.extractLsb' 0 6)) (r.m.getLsbD 0) (r.m.getLsbD 1))
  | 4 => some (.vatomOr r.ext r.d r.a r.b (.ofBits (r.c.extractLsb' 0 6)) (r.m.getLsbD 0) (r.m.getLsbD 1))
  | 5 => some (.vatomXor r.ext r.d r.a r.b (.ofBits (r.c.extractLsb' 0 6)) (r.m.getLsbD 0) (r.m.getLsbD 1))
  | 6 => some (.vatomXchg r.ext r.d r.a r.b (.ofBits (r.c.extractLsb' 0 6)) (r.m.getLsbD 0) (r.m.getLsbD 1))
  | 7 => some (.vatomCas r.ext r.d r.a r.b (.ofBits (r.c.extractLsb' 0 6)) (r.m.getLsbD 0) (r.m.getLsbD 1))
  | _ => none

/-- Lane OP 0x1F by F (R77). -/
def laneOp1F (r : RawL) : Option Instr :=
  match r.f.toNat with
  | 0 => some (.slotrd r.ext r.d r.a (.ofBits (r.c.extractLsb' 0 6)) r.m)
  | _ => none

/-- Lane OP 0x20 by F (R77). -/
def laneOp20 (r : RawL) : Option Instr :=
  match r.f.toNat with
  | 0 => some (.gldB r.ext (r.d.extractLsb' 4 3) (r.d.extractLsb' 0 4) r.a r.b (.ofBits (r.c.extractLsb' 0 6)) r.m)
  | 1 => some (.gldBs r.ext (r.d.extractLsb' 4 3) (r.d.extractLsb' 0 4) r.a r.b (.ofBits (r.c.extractLsb' 0 6)) r.m)
  | 2 => some (.gldH r.ext (r.d.extractLsb' 4 3) (r.d.extractLsb' 0 4) r.a r.b (.ofBits (r.c.extractLsb' 0 6)) r.m)
  | 3 => some (.gldHs r.ext (r.d.extractLsb' 4 3) (r.d.extractLsb' 0 4) r.a r.b (.ofBits (r.c.extractLsb' 0 6)) r.m)
  | 4 => some (.gldW r.ext (r.d.extractLsb' 4 3) (r.d.extractLsb' 0 4) r.a r.b (.ofBits (r.c.extractLsb' 0 6)) r.m)
  | 5 => some (.gldD r.ext (r.d.extractLsb' 4 3) (r.d.extractLsb' 0 4) r.a r.b (.ofBits (r.c.extractLsb' 0 6)) r.m)
  | 6 => some (.gldQ r.ext (r.d.extractLsb' 4 3) (r.d.extractLsb' 0 4) r.a r.b (.ofBits (r.c.extractLsb' 0 6)) r.m)
  | _ => none

/-- Lane OP 0x21 by F (R77). -/
def laneOp21 (r : RawL) : Option Instr :=
  match r.f.toNat with
  | 0 => some (.gstB r.ext (r.d.extractLsb' 4 3) r.a r.b (.ofBits (r.c.extractLsb' 0 6)))
  | 2 => some (.gstH r.ext (r.d.extractLsb' 4 3) r.a r.b (.ofBits (r.c.extractLsb' 0 6)))
  | 4 => some (.gstW r.ext (r.d.extractLsb' 4 3) r.a r.b (.ofBits (r.c.extractLsb' 0 6)))
  | 5 => some (.gstD r.ext (r.d.extractLsb' 4 3) r.a r.b (.ofBits (r.c.extractLsb' 0 6)))
  | 6 => some (.gstQ r.ext (r.d.extractLsb' 4 3) r.a r.b (.ofBits (r.c.extractLsb' 0 6)))
  | _ => none

/-- Lane OP 0x22 by F (R77). -/
def laneOp22 (r : RawL) : Option Instr :=
  match r.f.toNat with
  | 0 => some (.gatomAdd r.ext (r.d.extractLsb' 4 3) (r.d.extractLsb' 0 4) r.a r.b (.ofBits (r.c.extractLsb' 0 6)) (r.m.getLsbD 0) (r.m.getLsbD 1) (r.m.extractLsb' 2 7))
  | 1 => some (.gatomMin r.ext (r.d.extractLsb' 4 3) (r.d.extractLsb' 0 4) r.a r.b (.ofBits (r.c.extractLsb' 0 6)) (r.m.getLsbD 0) (r.m.getLsbD 1) (r.m.extractLsb' 2 7))
  | 2 => some (.gatomMax r.ext (r.d.extractLsb' 4 3) (r.d.extractLsb' 0 4) r.a r.b (.ofBits (r.c.extractLsb' 0 6)) (r.m.getLsbD 0) (r.m.getLsbD 1) (r.m.extractLsb' 2 7))
  | 3 => some (.gatomAnd r.ext (r.d.extractLsb' 4 3) (r.d.extractLsb' 0 4) r.a r.b (.ofBits (r.c.extractLsb' 0 6)) (r.m.getLsbD 0) (r.m.getLsbD 1) (r.m.extractLsb' 2 7))
  | 4 => some (.gatomOr r.ext (r.d.extractLsb' 4 3) (r.d.extractLsb' 0 4) r.a r.b (.ofBits (r.c.extractLsb' 0 6)) (r.m.getLsbD 0) (r.m.getLsbD 1) (r.m.extractLsb' 2 7))
  | 5 => some (.gatomXor r.ext (r.d.extractLsb' 4 3) (r.d.extractLsb' 0 4) r.a r.b (.ofBits (r.c.extractLsb' 0 6)) (r.m.getLsbD 0) (r.m.getLsbD 1) (r.m.extractLsb' 2 7))
  | 6 => some (.gatomXchg r.ext (r.d.extractLsb' 4 3) (r.d.extractLsb' 0 4) r.a r.b (.ofBits (r.c.extractLsb' 0 6)) (r.m.getLsbD 0) (r.m.getLsbD 1) (r.m.extractLsb' 2 7))
  | 7 => some (.gatomCas r.ext (r.d.extractLsb' 4 3) (r.d.extractLsb' 0 4) r.a r.b (.ofBits (r.c.extractLsb' 0 6)) (r.m.getLsbD 0) (r.m.getLsbD 1) (r.m.extractLsb' 2 7))
  | _ => none

/-- Lane OP 0x23 by F (R77). -/
def laneOp23 (r : RawL) : Option Instr :=
  match r.f.toNat with
  | 0 => some (.subscr r.ext (r.d.extractLsb' 4 3) r.a r.b (.ofBits (r.c.extractLsb' 0 6)) r.m)
  | 1 => some (.unsub r.ext (r.d.extractLsb' 4 3) r.a r.b (.ofBits (r.c.extractLsb' 0 6)) r.m)
  | _ => none

/-- Lane OP 0x24 by F (R77). -/
def laneOp24 (r : RawL) : Option Instr :=
  match r.f.toNat with
  | 0 => some (.trd r.ext r.d (r.a.extractLsb' 0 3) (r.m.extractLsb' 0 6) (r.m.extractLsb' 6 2) (r.m.getLsbD 8))
  | 1 => some (.twr r.ext (r.d.extractLsb' 0 3) r.b (r.m.extractLsb' 0 6) (r.m.extractLsb' 6 2) (r.m.getLsbD 8))
  | _ => none

/-- The lane instruction that the OP, the F value and the sub-selectors name. -/
def laneCand (r : RawL) : Option Instr :=
  match r.op.toNat with
  | 0 => laneOp00 r
  | 1 => laneOp01 r
  | 2 => laneOp02 r
  | 3 => laneOp03 r
  | 4 => laneOp04 r
  | 5 => laneOp05 r
  | 6 => laneOp06 r
  | 7 => laneOp07 r
  | 8 => laneOp08 r
  | 9 => laneOp09 r
  | 10 => laneOp0A r
  | 11 => laneOp0B r
  | 12 => laneOp0C r
  | 13 => laneOp0D r
  | 16 => laneOp10 r
  | 17 => laneOp11 r
  | 18 => laneOp12 r
  | 19 => laneOp13 r
  | 20 => laneOp14 r
  | 21 => laneOp15 r
  | 22 => laneOp16 r
  | 24 => laneOp18 r
  | 25 => laneOp19 r
  | 26 => laneOp1A r
  | 28 => laneOp1C r
  | 29 => laneOp1D r
  | 30 => laneOp1E r
  | 31 => laneOp1F r
  | 32 => laneOp20 r
  | 33 => laneOp21 r
  | 34 => laneOp22 r
  | 35 => laneOp23 r
  | 36 => laneOp24 r
  | _ => none

/-- Uniform OP 0x00 by F (R80). -/
noncomputable def uniOp00 (r : RawU) : Option Instr :=
  match r.f.toNat with
  | 0 => some (.sadd r.ext r.d r.a r.b)
  | 1 => some (.ssub r.ext r.d r.a r.b)
  | 2 => some (.smul r.ext r.d r.a r.b)
  | 3 => some (.smulhi r.ext r.d r.a r.b)
  | 4 => some (.smulhiu r.ext r.d r.a r.b)
  | 5 => some (.sdiv r.ext r.d r.a r.b)
  | 6 => some (.sdivu r.ext r.d r.a r.b)
  | 7 => some (.srem r.ext r.d r.a r.b)
  | 8 => some (.sremu r.ext r.d r.a r.b)
  | 9 => some (.smin r.ext r.d r.a r.b)
  | 10 => some (.smax r.ext r.d r.a r.b)
  | 11 => some (.sminu r.ext r.d r.a r.b)
  | 12 => some (.smaxu r.ext r.d r.a r.b)
  | 16 => some (.sand r.ext r.d r.a r.b)
  | 17 => some (.sor r.ext r.d r.a r.b)
  | 18 => some (.sxor r.ext r.d r.a r.b)
  | 19 => some (.sandn r.ext r.d r.a r.b)
  | 20 => some (.snot r.ext r.d r.a)
  | 21 => some (.smov r.ext r.d r.a)
  | 24 => some (.sshl r.ext r.d r.a r.b)
  | 25 => some (.sshr r.ext r.d r.a r.b)
  | 26 => some (.ssar r.ext r.d r.a r.b)
  | 27 => some (.sclz r.ext r.d r.a)
  | 28 => some (.sctz r.ext r.d r.a)
  | 29 => some (.spopc r.ext r.d r.a)
  | _ => none

/-- Uniform OP 0x01 by F (R80). -/
noncomputable def uniOp01 (r : RawU) : Option Instr :=
  match r.f.toNat with
  | 0 => some (.saddImm r.ext r.d r.a r.imm)
  | 1 => some (.ssubImm r.ext r.d r.a r.imm)
  | 2 => some (.smulImm r.ext r.d r.a r.imm)
  | 3 => some (.smulhiImm r.ext r.d r.a r.imm)
  | 4 => some (.smulhiuImm r.ext r.d r.a r.imm)
  | 5 => some (.sdivImm r.ext r.d r.a r.imm)
  | 6 => some (.sdivuImm r.ext r.d r.a r.imm)
  | 7 => some (.sremImm r.ext r.d r.a r.imm)
  | 8 => some (.sremuImm r.ext r.d r.a r.imm)
  | 9 => some (.sminImm r.ext r.d r.a r.imm)
  | 10 => some (.smaxImm r.ext r.d r.a r.imm)
  | 11 => some (.sminuImm r.ext r.d r.a r.imm)
  | 12 => some (.smaxuImm r.ext r.d r.a r.imm)
  | 16 => some (.sandImm r.ext r.d r.a r.imm)
  | 17 => some (.sorImm r.ext r.d r.a r.imm)
  | 18 => some (.sxorImm r.ext r.d r.a r.imm)
  | 19 => some (.sandnImm r.ext r.d r.a r.imm)
  | 21 => some (.smovImm r.ext r.d r.imm)
  | 24 => some (.sshlImm r.ext r.d r.a r.imm)
  | 25 => some (.sshrImm r.ext r.d r.a r.imm)
  | 26 => some (.ssarImm r.ext r.d r.a r.imm)
  | _ => none

/-- Uniform OP 0x02 by F (R80). -/
noncomputable def uniOp02 (r : RawU) : Option Instr :=
  match r.f.toNat with
  | 0 => some (.qeq r.ext (r.d.extractLsb' 0 3) r.a r.b)
  | 1 => some (.qne r.ext (r.d.extractLsb' 0 3) r.a r.b)
  | 2 => some (.qlt r.ext (r.d.extractLsb' 0 3) r.a r.b)
  | 3 => some (.qge r.ext (r.d.extractLsb' 0 3) r.a r.b)
  | 4 => some (.qltu r.ext (r.d.extractLsb' 0 3) r.a r.b)
  | 5 => some (.qgeu r.ext (r.d.extractLsb' 0 3) r.a r.b)
  | 6 => some (.qle r.ext (r.d.extractLsb' 0 3) r.a r.b)
  | 7 => some (.qgt r.ext (r.d.extractLsb' 0 3) r.a r.b)
  | _ => none

/-- Uniform OP 0x03 by F (R80). -/
noncomputable def uniOp03 (r : RawU) : Option Instr :=
  match r.f.toNat with
  | 0 => some (.qeqImm r.ext (r.d.extractLsb' 0 3) r.a r.imm)
  | 1 => some (.qneImm r.ext (r.d.extractLsb' 0 3) r.a r.imm)
  | 2 => some (.qltImm r.ext (r.d.extractLsb' 0 3) r.a r.imm)
  | 3 => some (.qgeImm r.ext (r.d.extractLsb' 0 3) r.a r.imm)
  | 4 => some (.qltuImm r.ext (r.d.extractLsb' 0 3) r.a r.imm)
  | 5 => some (.qgeuImm r.ext (r.d.extractLsb' 0 3) r.a r.imm)
  | 6 => some (.qleImm r.ext (r.d.extractLsb' 0 3) r.a r.imm)
  | 7 => some (.qgtImm r.ext (r.d.extractLsb' 0 3) r.a r.imm)
  | _ => none

/-- Uniform OP 0x04 by F (R80). -/
noncomputable def uniOp04 (r : RawU) : Option Instr :=
  match r.f.toNat with
  | 0 => some (.sli r.ext r.d r.imm)
  | 1 => some (.slis r.ext r.d r.imm)
  | 2 => some (.s2v r.ext r.a (r.imm.extractLsb' 0 7) (r.imm.getLsbD 14))
  | 3 => some (.v2s r.ext r.d (r.imm.extractLsb' 0 7) (r.imm.getLsbD 14) (r.imm.extractLsb' 15 5) (r.imm.getLsbD 20))
  | 4 =>
    match (r.imm.extractLsb' 0 3).toNat with
    | 0 => some (.qopAnd r.ext (r.d.extractLsb' 0 3) (r.a.extractLsb' 0 3) (r.b.extractLsb' 0 3))
    | 1 => some (.qopOr r.ext (r.d.extractLsb' 0 3) (r.a.extractLsb' 0 3) (r.b.extractLsb' 0 3))
    | 2 => some (.qopXor r.ext (r.d.extractLsb' 0 3) (r.a.extractLsb' 0 3) (r.b.extractLsb' 0 3))
    | 3 => some (.qopAndn r.ext (r.d.extractLsb' 0 3) (r.a.extractLsb' 0 3) (r.b.extractLsb' 0 3))
    | 4 => some (.qopNot r.ext (r.d.extractLsb' 0 3) (r.a.extractLsb' 0 3) (r.b.extractLsb' 0 3))
    | 5 => some (.qopMov r.ext (r.d.extractLsb' 0 3) (r.a.extractLsb' 0 3) (r.b.extractLsb' 0 3))
    | _ => none
  | 5 => some (.p2s r.ext r.d (r.a.extractLsb' 0 3))
  | 6 => some (.s2p r.ext (r.d.extractLsb' 0 3) r.a)
  | 7 => some (.actmask r.ext r.d)
  | _ => none

/-- Uniform OP 0x05 by F (R80). -/
noncomputable def uniOp05 (r : RawU) : Option Instr :=
  match r.f.toNat with
  | 0 => some (.sldk r.ext r.d (r.imm.extractLsb' 0 12))
  | 1 => some (.sldv r.ext r.d r.a (r.imm.extractLsb' 26 2) (.ofBits (r.imm.extractLsb' 20 6)) (r.imm.extractLsb' 0 20))
  | 2 => some (.sstv r.ext r.a r.b (r.imm.extractLsb' 26 2) (.ofBits (r.imm.extractLsb' 20 6)) (r.imm.extractLsb' 0 20))
  | 3 =>
    match (r.imm.extractLsb' 17 3).toNat with
    | 0 => some (.satomvAdd r.ext r.d r.a r.b (r.imm.extractLsb' 26 2) (.ofBits (r.imm.extractLsb' 20 6)) (r.imm.getLsbD 16))
    | 1 => some (.satomvMin r.ext r.d r.a r.b (r.imm.extractLsb' 26 2) (.ofBits (r.imm.extractLsb' 20 6)) (r.imm.getLsbD 16))
    | 2 => some (.satomvMax r.ext r.d r.a r.b (r.imm.extractLsb' 26 2) (.ofBits (r.imm.extractLsb' 20 6)) (r.imm.getLsbD 16))
    | 3 => some (.satomvAnd r.ext r.d r.a r.b (r.imm.extractLsb' 26 2) (.ofBits (r.imm.extractLsb' 20 6)) (r.imm.getLsbD 16))
    | 4 => some (.satomvOr r.ext r.d r.a r.b (r.imm.extractLsb' 26 2) (.ofBits (r.imm.extractLsb' 20 6)) (r.imm.getLsbD 16))
    | 5 => some (.satomvXor r.ext r.d r.a r.b (r.imm.extractLsb' 26 2) (.ofBits (r.imm.extractLsb' 20 6)) (r.imm.getLsbD 16))
    | 6 => some (.satomvXchg r.ext r.d r.a r.b (r.imm.extractLsb' 26 2) (.ofBits (r.imm.extractLsb' 20 6)) (r.imm.getLsbD 16))
    | _ => none
  | 4 => some (.scasv r.ext r.d r.a r.b (r.imm.extractLsb' 26 2) (.ofBits (r.imm.extractLsb' 20 6)))
  | _ => none

/-- Uniform OP 0x08 by F (R80). -/
noncomputable def uniOp08 (r : RawU) : Option Instr :=
  match r.f.toNat with
  | 0 => some (.bra r.ext r.imm)
  | 1 => some (.brq r.ext (r.a.extractLsb' 0 3) r.imm)
  | 2 => some (.brnq r.ext (r.a.extractLsb' 0 3) r.imm)
  | 3 => some (.call r.ext (r.a.extractLsb' 0 3) (r.a.getLsbD 3) r.imm)
  | 4 => some (.callr r.ext r.a (r.b.extractLsb' 0 3) (r.b.getLsbD 3))
  | 5 => some (.ret r.ext r.a)
  | 6 => some (.endStrand r.ext)
  | 7 => some (.loopd r.ext r.d r.imm)
  | _ => none

/-- Uniform OP 0x09 by F (R80). -/
noncomputable def uniOp09 (r : RawU) : Option Instr :=
  match r.f.toNat with
  | 0 => some (.split r.ext (r.a.extractLsb' 0 3) r.b (r.imm.extractLsb' 14 14) (r.imm.extractLsb' 0 14))
  | 1 => some (.calli r.ext r.d (r.a.extractLsb' 0 3) (r.a.getLsbD 3) r.b (r.imm.extractLsb' 0 14))
  | 2 => some (.endarm r.ext)
  | 3 => some (.seal r.ext (r.imm.extractLsb' 0 7) (r.imm.extractLsb' 7 7) (r.imm.getLsbD 14))
  | 4 => some (.join r.ext (r.imm.extractLsb' 0 7) (r.imm.extractLsb' 7 7) (r.imm.getLsbD 14))
  | 5 => some (.joinmem r.ext)
  | _ => none

/-- Uniform OP 0x0A by F (R80). -/
noncomputable def uniOp0A (r : RawU) : Option Instr :=
  match r.f.toNat with
  | 0 => some (.binit r.ext (r.d.extractLsb' 0 4) (r.imm.extractLsb' 0 5) (r.imm.extractLsb' 5 10))
  | 1 => some (.bexpect r.ext (r.d.extractLsb' 0 4) r.a (r.imm.getLsbD 27) (r.imm.extractLsb' 0 27))
  | 2 => some (.barrive r.ext r.d (r.a.extractLsb' 0 4))
  | 3 => some (.bwait r.ext (r.d.extractLsb' 0 3) (r.a.extractLsb' 0 4) r.b)
  | 4 => some (.bsync r.ext (r.d.extractLsb' 0 3) (r.a.extractLsb' 0 4))
  | 5 => some (.gbar r.ext (r.d.extractLsb' 0 3) (r.a.extractLsb' 0 2))
  | 6 => some (.cbar r.ext (r.d.extractLsb' 0 3))
  | 7 => some (.bstat r.ext r.d (r.a.extractLsb' 0 4) (r.imm.getLsbD 0))
  | _ => none

/-- Uniform OP 0x0B by F (R80). -/
noncomputable def uniOp0B (r : RawU) : Option Instr :=
  match r.f.toNat with
  | 0 => some (.waita r.ext r.d r.a r.b (r.imm.extractLsb' 26 2) (.ofBits (r.imm.extractLsb' 20 6)) (r.imm.extractLsb' 0 20))
  | 1 => some (.sleep r.ext r.a (r.imm.getLsbD 27) (r.imm.extractLsb' 0 27))
  | 2 => some (.yieldS r.ext)
  | 3 =>
    match (r.imm.extractLsb' 0 2).toNat with
    | 0 => some (.fenceAcq r.ext (r.imm.extractLsb' 20 3))
    | 1 => some (.fenceRel r.ext (r.imm.extractLsb' 20 3))
    | 2 => some (.fenceFull r.ext (r.imm.extractLsb' 20 3))
    | 3 => some (.fenceEng r.ext (r.imm.extractLsb' 20 3))
    | _ => none
  | _ => none

/-- Uniform OP 0x0C by F (R80). -/
noncomputable def uniOp0C (r : RawU) : Option Instr :=
  match r.f.toNat with
  | 0 => some (.xlat r.ext (r.d.extractLsb' 0 3) r.a r.b)
  | 1 => some (.xdrop r.ext (r.d.extractLsb' 0 3))
  | _ => none

/-- Uniform OP 0x0D by F (R80). -/
noncomputable def uniOp0D (r : RawU) : Option Instr :=
  match r.f.toNat with
  | 0 => some (.copy r.ext r.a (r.imm.extractLsb' 0 20))
  | 1 => some (.copyc r.ext r.a (r.imm.extractLsb' 0 20))
  | 2 => some (.copyl r.ext r.a (r.imm.extractLsb' 0 20))
  | 3 => some (.tstg r.ext r.a (r.b.extractLsb' 0 3) (r.imm.extractLsb' 0 20))
  | 4 => some (.stepchk r.ext (r.d.extractLsb' 0 3) r.a)
  | 5 => some (.steprec r.ext (r.d.extractLsb' 0 3) r.a)
  | _ => none

/-- Uniform OP 0x0E by F (R80). -/
noncomputable def uniOp0E (r : RawU) : Option Instr :=
  match r.f.toNat with
  | 0 => some (.tcfg r.ext (r.d.extractLsb' 0 3) r.a (r.imm.getLsbD 27) (r.imm.extractLsb' 0 14))
  | 1 => some (.tlay r.ext (r.d.extractLsb' 0 3) (r.imm.extractLsb' 0 4))
  | 2 => some (.tld r.ext (r.d.extractLsb' 0 3) r.a (r.imm.extractLsb' 0 20) (r.imm.extractLsb' 20 8))
  | 3 => some (.tst r.ext r.a (r.b.extractLsb' 0 3) (r.imm.extractLsb' 0 20) (r.imm.extractLsb' 20 8))
  | 4 => some (.tzero r.ext (r.d.extractLsb' 0 3))
  | 5 => some (.tmov r.ext (r.d.extractLsb' 0 3) (r.a.extractLsb' 0 3))
  | _ => none

/-- Uniform OP 0x0F by F (R80). -/
noncomputable def uniOp0F (r : RawU) : Option Instr :=
  match r.f.toNat with
  | 0 => some (.mmaF64 r.ext (r.d.extractLsb' 0 3) (r.a.extractLsb' 0 3) (r.b.extractLsb' 0 3) (r.imm.getLsbD 0) (r.imm.getLsbD 1))
  | 1 => some (.mmaF32 r.ext (r.d.extractLsb' 0 3) (r.a.extractLsb' 0 3) (r.b.extractLsb' 0 3) (r.imm.getLsbD 0) (r.imm.getLsbD 1))
  | 2 => some (.mmaF16 r.ext (r.d.extractLsb' 0 3) (r.a.extractLsb' 0 3) (r.b.extractLsb' 0 3) (r.imm.getLsbD 0) (r.imm.getLsbD 1))
  | 3 => some (.mmaBf16 r.ext (r.d.extractLsb' 0 3) (r.a.extractLsb' 0 3) (r.b.extractLsb' 0 3) (r.imm.getLsbD 0) (r.imm.getLsbD 1))
  | 4 => some (.mmaE4m3 r.ext (r.d.extractLsb' 0 3) (r.a.extractLsb' 0 3) (r.b.extractLsb' 0 3) (r.imm.getLsbD 0) (r.imm.getLsbD 1))
  | 5 => some (.mmaE5m2 r.ext (r.d.extractLsb' 0 3) (r.a.extractLsb' 0 3) (r.b.extractLsb' 0 3) (r.imm.getLsbD 0) (r.imm.getLsbD 1))
  | 6 => some (.mmaDs8 r.ext (r.d.extractLsb' 0 3) (r.a.extractLsb' 0 3) (r.b.extractLsb' 0 3) (r.imm.getLsbD 0) (r.imm.getLsbD 1))
  | 7 => some (.mmaI8 r.ext (r.d.extractLsb' 0 3) (r.a.extractLsb' 0 3) (r.b.extractLsb' 0 3) (r.imm.getLsbD 0) (r.imm.getLsbD 1))
  | 8 => some (.scacc r.ext (r.d.extractLsb' 0 3) (r.a.extractLsb' 0 3) (r.b.extractLsb' 0 3) (r.imm.extractLsb' 0 3) (r.imm.getLsbD 3) (r.imm.extractLsb' 4 6) (r.imm.extractLsb' 10 6))
  | 9 => some (.quant r.ext (r.d.extractLsb' 0 3) (r.a.extractLsb' 0 3) (r.b.extractLsb' 0 3) (r.imm.extractLsb' 0 4) (r.imm.getLsbD 4) (r.imm.extractLsb' 5 6))
  | _ => none

/-- Uniform OP 0x10 by F (R80). -/
noncomputable def uniOp10 (r : RawU) : Option Instr :=
  match r.f.toNat with
  | 0 => some (.rarm r.ext r.d r.a (r.imm.extractLsb' 0 20))
  | 1 => some (.rdisarm r.ext r.d r.a)
  | 2 => some (.rqry r.ext r.d r.a (r.imm.getLsbD 0))
  | _ => none

/-- Uniform OP 0x11 by F (R80). -/
noncomputable def uniOp11 (r : RawU) : Option Instr :=
  match r.f.toNat with
  | 0 => some (.fork r.ext (r.d.extractLsb' 0 3) r.a)
  | 1 => some (.tnext r.ext (r.d.extractLsb' 0 3))
  | 2 => some (.tsig r.ext r.a)
  | 3 => some (.tdone r.ext)
  | 4 => some (.tpost r.ext r.a r.b)
  | 5 => some (.nextw r.ext r.a (r.imm.extractLsb' 0 20))
  | _ => none

/-- Uniform OP 0x12 by F (R80). -/
noncomputable def uniOp12 (r : RawU) : Option Instr :=
  match r.f.toNat with
  | 0 => some (.trap r.ext (r.imm.extractLsb' 0 16))
  | 1 => some (.bkpt r.ext)
  | 2 => some (.csrr r.ext r.d (r.imm.extractLsb' 0 12))
  | 3 => some (.csrw r.ext r.a (r.imm.extractLsb' 0 12))
  | 4 => some (.nop r.ext)
  | _ => none

/-- The uniform instruction that the OP, the F value and the sub-selectors name. -/
noncomputable def uniCand (r : RawU) : Option Instr :=
  match r.op.toNat with
  | 0 => uniOp00 r
  | 1 => uniOp01 r
  | 2 => uniOp02 r
  | 3 => uniOp03 r
  | 4 => uniOp04 r
  | 5 => uniOp05 r
  | 8 => uniOp08 r
  | 9 => uniOp09 r
  | 10 => uniOp0A r
  | 11 => uniOp0B r
  | 12 => uniOp0C r
  | 13 => uniOp0D r
  | 14 => uniOp0E r
  | 15 => uniOp0F r
  | 16 => uniOp10 r
  | 17 => uniOp11 r
  | 18 => uniOp12 r
  | _ => none

/-- The fields of an instruction, by the encoding tables (R78, R79, R81 and the entries); a step without an
encoding has none. -/
def Instr.toRaw : Instr → Option Raw
  | .iadd e d a b => some (.lane { RawL.base e 0 0 with d := d, a := a, b := b })
  | .isub e d a b => some (.lane { RawL.base e 0 1 with d := d, a := a, b := b })
  | .imin e d a b => some (.lane { RawL.base e 0 2 with d := d, a := a, b := b })
  | .imax e d a b => some (.lane { RawL.base e 0 3 with d := d, a := a, b := b })
  | .iminu e d a b => some (.lane { RawL.base e 0 4 with d := d, a := a, b := b })
  | .imaxu e d a b => some (.lane { RawL.base e 0 5 with d := d, a := a, b := b })
  | .iabs e d a => some (.lane { RawL.base e 0 6 with d := d, a := a })
  | .ineg e d a => some (.lane { RawL.base e 0 7 with d := d, a := a })
  | .iaddImm e d a imm => some (.lane { RawL.base e 1 0 with d := d, a := a, m := imm })
  | .isubImm e d a imm => some (.lane { RawL.base e 1 1 with d := d, a := a, m := imm })
  | .iminImm e d a imm => some (.lane { RawL.base e 1 2 with d := d, a := a, m := imm })
  | .imaxImm e d a imm => some (.lane { RawL.base e 1 3 with d := d, a := a, m := imm })
  | .iminuImm e d a imm => some (.lane { RawL.base e 1 4 with d := d, a := a, m := imm })
  | .imaxuImm e d a imm => some (.lane { RawL.base e 1 5 with d := d, a := a, m := imm })
  | .land e d a b => some (.lane { RawL.base e 2 0 with d := d, a := a, b := b })
  | .lor e d a b => some (.lane { RawL.base e 2 1 with d := d, a := a, b := b })
  | .lxor e d a b => some (.lane { RawL.base e 2 2 with d := d, a := a, b := b })
  | .landn e d a b => some (.lane { RawL.base e 2 3 with d := d, a := a, b := b })
  | .lorn e d a b => some (.lane { RawL.base e 2 4 with d := d, a := a, b := b })
  | .lxnor e d a b => some (.lane { RawL.base e 2 5 with d := d, a := a, b := b })
  | .lnot e d a => some (.lane { RawL.base e 2 6 with d := d, a := a })
  | .mov e d a => some (.lane { RawL.base e 2 7 with d := d, a := a })
  | .landImm e d a imm => some (.lane { RawL.base e 3 0 with d := d, a := a, m := imm })
  | .lorImm e d a imm => some (.lane { RawL.base e 3 1 with d := d, a := a, m := imm })
  | .lxorImm e d a imm => some (.lane { RawL.base e 3 2 with d := d, a := a, m := imm })
  | .landnImm e d a imm => some (.lane { RawL.base e 3 3 with d := d, a := a, m := imm })
  | .lornImm e d a imm => some (.lane { RawL.base e 3 4 with d := d, a := a, m := imm })
  | .lxnorImm e d a imm => some (.lane { RawL.base e 3 5 with d := d, a := a, m := imm })
  | .movhi e d imm => some (.lane { RawL.base e 3 6 with d := d, m := imm })
  | .movi e d imm => some (.lane { RawL.base e 3 7 with d := d, m := imm })
  | .shl e d a b => some (.lane { RawL.base e 4 0 with d := d, a := a, b := b })
  | .shr e d a b => some (.lane { RawL.base e 4 1 with d := d, a := a, b := b })
  | .sar e d a b => some (.lane { RawL.base e 4 2 with d := d, a := a, b := b })
  | .rol e d a b => some (.lane { RawL.base e 4 3 with d := d, a := a, b := b })
  | .ror e d a b => some (.lane { RawL.base e 4 4 with d := d, a := a, b := b })
  | .fshl e d a b c => some (.lane { RawL.base e 4 5 with d := d, a := a, b := b, c := c })
  | .fshr e d a b c => some (.lane { RawL.base e 4 6 with d := d, a := a, b := b, c := c })
  | .shlImm e d a n => some (.lane { RawL.base e 5 0 with d := d, a := a, b := 0#2 ++ n })
  | .shrImm e d a n => some (.lane { RawL.base e 5 1 with d := d, a := a, b := 0#2 ++ n })
  | .sarImm e d a n => some (.lane { RawL.base e 5 2 with d := d, a := a, b := 0#2 ++ n })
  | .rolImm e d a n => some (.lane { RawL.base e 5 3 with d := d, a := a, b := 0#2 ++ n })
  | .rorImm e d a n => some (.lane { RawL.base e 5 4 with d := d, a := a, b := 0#2 ++ n })
  | .fshlImm e d a n c => some (.lane { RawL.base e 5 5 with d := d, a := a, b := 0#2 ++ n, c := c })
  | .fshrImm e d a n c => some (.lane { RawL.base e 5 6 with d := d, a := a, b := 0#2 ++ n, c := c })
  | .clz e d a => some (.lane { RawL.base e 6 0 with d := d, a := a })
  | .ctz e d a => some (.lane { RawL.base e 6 1 with d := d, a := a })
  | .popc e d a => some (.lane { RawL.base e 6 2 with d := d, a := a })
  | .brev e d a => some (.lane { RawL.base e 6 3 with d := d, a := a })
  | .bswap e d a => some (.lane { RawL.base e 6 4 with d := d, a := a })
  | .bfx e d a pos len => some (.lane { RawL.base e 6 5 with d := d, a := a, m := 0#5 ++ len ++ pos })
  | .bfxs e d a pos len => some (.lane { RawL.base e 6 6 with d := d, a := a, m := 0#5 ++ len ++ pos })
  | .bfi e d a b pos len => some (.lane { RawL.base e 6 7 with d := d, a := a, b := b, m := 0#5 ++ len ++ pos })
  | .imul e d a b => some (.lane { RawL.base e 7 0 with d := d, a := a, b := b })
  | .imulhi e d a b => some (.lane { RawL.base e 7 1 with d := d, a := a, b := b })
  | .imulhiu e d a b => some (.lane { RawL.base e 7 2 with d := d, a := a, b := b })
  | .imad e d a b c => some (.lane { RawL.base e 7 3 with d := d, a := a, b := b, c := c })
  | .imulw e d a b => some (.lane { RawL.base e 7 4 with d := d, a := a, b := b })
  | .imulwu e d a b => some (.lane { RawL.base e 7 5 with d := d, a := a, b := b })
  | .imadw e d a b c => some (.lane { RawL.base e 7 6 with d := d, a := a, b := b, c := c })
  | .idiv e d a b => some (.lane { RawL.base e 8 0 with d := d, a := a, b := b })
  | .idivu e d a b => some (.lane { RawL.base e 8 1 with d := d, a := a, b := b })
  | .irem e d a b => some (.lane { RawL.base e 8 2 with d := d, a := a, b := b })
  | .iremu e d a b => some (.lane { RawL.base e 8 3 with d := d, a := a, b := b })
  | .ceq e d a b => some (.lane { RawL.base e 9 0 with d := 0#4 ++ d, a := a, b := b })
  | .cne e d a b => some (.lane { RawL.base e 9 1 with d := 0#4 ++ d, a := a, b := b })
  | .clt e d a b => some (.lane { RawL.base e 9 2 with d := 0#4 ++ d, a := a, b := b })
  | .cge e d a b => some (.lane { RawL.base e 9 3 with d := 0#4 ++ d, a := a, b := b })
  | .cltu e d a b => some (.lane { RawL.base e 9 4 with d := 0#4 ++ d, a := a, b := b })
  | .cgeu e d a b => some (.lane { RawL.base e 9 5 with d := 0#4 ++ d, a := a, b := b })
  | .cle e d a b => some (.lane { RawL.base e 9 6 with d := 0#4 ++ d, a := a, b := b })
  | .cgt e d a b => some (.lane { RawL.base e 9 7 with d := 0#4 ++ d, a := a, b := b })
  | .ceqImm e d a imm => some (.lane { RawL.base e 10 0 with d := 0#4 ++ d, a := a, m := imm })
  | .cneImm e d a imm => some (.lane { RawL.base e 10 1 with d := 0#4 ++ d, a := a, m := imm })
  | .cltImm e d a imm => some (.lane { RawL.base e 10 2 with d := 0#4 ++ d, a := a, m := imm })
  | .cgeImm e d a imm => some (.lane { RawL.base e 10 3 with d := 0#4 ++ d, a := a, m := imm })
  | .cltuImm e d a imm => some (.lane { RawL.base e 10 4 with d := 0#4 ++ d, a := a, m := imm })
  | .cgeuImm e d a imm => some (.lane { RawL.base e 10 5 with d := 0#4 ++ d, a := a, m := imm })
  | .cleImm e d a imm => some (.lane { RawL.base e 10 6 with d := 0#4 ++ d, a := a, m := imm })
  | .cgtImm e d a imm => some (.lane { RawL.base e 10 7 with d := 0#4 ++ d, a := a, m := imm })
  | .sel e d a b c => some (.lane { RawL.base e 11 0 with d := d, a := a, b := b, c := 0#4 ++ c })
  | .pand e d a b => some (.lane { RawL.base e 11 1 with d := 0#4 ++ d, a := 0#4 ++ a, b := 0#4 ++ b })
  | .por e d a b => some (.lane { RawL.base e 11 2 with d := 0#4 ++ d, a := 0#4 ++ a, b := 0#4 ++ b })
  | .pxor e d a b => some (.lane { RawL.base e 11 3 with d := 0#4 ++ d, a := 0#4 ++ a, b := 0#4 ++ b })
  | .pnot e d a => some (.lane { RawL.base e 11 4 with d := 0#4 ++ d, a := 0#4 ++ a })
  | .p2v e d => some (.lane { RawL.base e 11 5 with d := d })
  | .v2p e a mask => some (.lane { RawL.base e 11 6 with a := a, m := 0#8 ++ mask ++ 0#1 })
  | .pmov e d a => some (.lane { RawL.base e 11 7 with d := 0#4 ++ d, a := 0#4 ++ a })
  | .iadd64 e d a b => some (.lane { RawL.base e 12 0 with d := d, a := a, b := b })
  | .isub64 e d a b => some (.lane { RawL.base e 12 1 with d := d, a := a, b := b })
  | .shl64 e d a b => some (.lane { RawL.base e 12 2 with d := d, a := a, b := b })
  | .shr64 e d a b => some (.lane { RawL.base e 12 3 with d := d, a := a, b := b })
  | .sar64 e d a b => some (.lane { RawL.base e 12 4 with d := d, a := a, b := b })
  | .icmp64 e d a b cond => some (.lane { RawL.base e 12 5 with d := 0#4 ++ d, a := a, b := b, m := 0#13 ++ cond })
  | .mov64 e d a => some (.lane { RawL.base e 12 6 with d := d, a := a })
  | .imul64 e d a b => some (.lane { RawL.base e 12 7 with d := d, a := a, b := b })
  | .sxtb e d a => some (.lane { RawL.base e 13 0 with d := d, a := a })
  | .sxth e d a => some (.lane { RawL.base e 13 1 with d := d, a := a })
  | .zxtb e d a => some (.lane { RawL.base e 13 2 with d := d, a := a })
  | .zxth e d a => some (.lane { RawL.base e 13 3 with d := d, a := a })
  | .sxtw e d a => some (.lane { RawL.base e 13 4 with d := d, a := a })
  | .zxtw e d a => some (.lane { RawL.base e 13 5 with d := d, a := a })
  | .laneid e d => some (.lane { RawL.base e 13 6 with d := d })
  | .tid e d => some (.lane { RawL.base e 13 7 with d := d })
  | .faddF64 e d a b rm => some (.lane { RawL.base e 16 0 with d := d, a := a, b := b, m := 0#9 ++ rm ++ 0#4 })
  | .fsubF64 e d a b rm => some (.lane { RawL.base e 16 1 with d := d, a := a, b := b, m := 0#9 ++ rm ++ 0#4 })
  | .fmulF64 e d a b rm => some (.lane { RawL.base e 16 2 with d := d, a := a, b := b, m := 0#9 ++ rm ++ 0#4 })
  | .ffmaF64 e d a b c rm => some (.lane { RawL.base e 16 3 with d := d, a := a, b := b, c := c, m := 0#9 ++ rm ++ 0#4 })
  | .fminF64 e d a b rm => some (.lane { RawL.base e 16 4 with d := d, a := a, b := b, m := 0#9 ++ rm ++ 0#4 })
  | .fmaxF64 e d a b rm => some (.lane { RawL.base e 16 5 with d := d, a := a, b := b, m := 0#9 ++ rm ++ 0#4 })
  | .fcmpF64 e d a b cond rm => some (.lane { RawL.base e 16 6 with d := 0#4 ++ d, a := a, b := b, m := 0#9 ++ rm ++ 0#1 ++ cond })
  | .fabsF64 e d a rm => some (.lane { RawL.base e 16 7 with d := d, a := a, m := 0#9 ++ rm ++ 0#4 })
  | .fnegF64 e d a rm => some (.lane { RawL.base e 16 7 with d := d, a := a, m := 0#9 ++ rm ++ 1#4 })
  | .ffloorF64 e d a rm => some (.lane { RawL.base e 16 7 with d := d, a := a, m := 0#9 ++ rm ++ 2#4 })
  | .fceilF64 e d a rm => some (.lane { RawL.base e 16 7 with d := d, a := a, m := 0#9 ++ rm ++ 3#4 })
  | .ftruncF64 e d a rm => some (.lane { RawL.base e 16 7 with d := d, a := a, m := 0#9 ++ rm ++ 4#4 })
  | .frintF64 e d a rm => some (.lane { RawL.base e 16 7 with d := d, a := a, m := 0#9 ++ rm ++ 5#4 })
  | .fclassF64 e d a rm => some (.lane { RawL.base e 16 7 with d := d, a := a, m := 0#9 ++ rm ++ 6#4 })
  | .faddF32 e d a b rm => some (.lane { RawL.base e 17 0 with d := d, a := a, b := b, m := 0#9 ++ rm ++ 0#4 })
  | .fsubF32 e d a b rm => some (.lane { RawL.base e 17 1 with d := d, a := a, b := b, m := 0#9 ++ rm ++ 0#4 })
  | .fmulF32 e d a b rm => some (.lane { RawL.base e 17 2 with d := d, a := a, b := b, m := 0#9 ++ rm ++ 0#4 })
  | .ffmaF32 e d a b c rm => some (.lane { RawL.base e 17 3 with d := d, a := a, b := b, c := c, m := 0#9 ++ rm ++ 0#4 })
  | .fminF32 e d a b rm => some (.lane { RawL.base e 17 4 with d := d, a := a, b := b, m := 0#9 ++ rm ++ 0#4 })
  | .fmaxF32 e d a b rm => some (.lane { RawL.base e 17 5 with d := d, a := a, b := b, m := 0#9 ++ rm ++ 0#4 })
  | .fcmpF32 e d a b cond rm => some (.lane { RawL.base e 17 6 with d := 0#4 ++ d, a := a, b := b, m := 0#9 ++ rm ++ 0#1 ++ cond })
  | .fabsF32 e d a rm => some (.lane { RawL.base e 17 7 with d := d, a := a, m := 0#9 ++ rm ++ 0#4 })
  | .fnegF32 e d a rm => some (.lane { RawL.base e 17 7 with d := d, a := a, m := 0#9 ++ rm ++ 1#4 })
  | .ffloorF32 e d a rm => some (.lane { RawL.base e 17 7 with d := d, a := a, m := 0#9 ++ rm ++ 2#4 })
  | .fceilF32 e d a rm => some (.lane { RawL.base e 17 7 with d := d, a := a, m := 0#9 ++ rm ++ 3#4 })
  | .ftruncF32 e d a rm => some (.lane { RawL.base e 17 7 with d := d, a := a, m := 0#9 ++ rm ++ 4#4 })
  | .frintF32 e d a rm => some (.lane { RawL.base e 17 7 with d := d, a := a, m := 0#9 ++ rm ++ 5#4 })
  | .fclassF32 e d a rm => some (.lane { RawL.base e 17 7 with d := d, a := a, m := 0#9 ++ rm ++ 6#4 })
  | .faddF16x2 e d a b rm => some (.lane { RawL.base e 18 0 with d := d, a := a, b := b, m := 0#9 ++ rm ++ 0#4 })
  | .fsubF16x2 e d a b rm => some (.lane { RawL.base e 18 1 with d := d, a := a, b := b, m := 0#9 ++ rm ++ 0#4 })
  | .fmulF16x2 e d a b rm => some (.lane { RawL.base e 18 2 with d := d, a := a, b := b, m := 0#9 ++ rm ++ 0#4 })
  | .ffmaF16x2 e d a b c rm => some (.lane { RawL.base e 18 3 with d := d, a := a, b := b, c := c, m := 0#9 ++ rm ++ 0#4 })
  | .fminF16x2 e d a b rm => some (.lane { RawL.base e 18 4 with d := d, a := a, b := b, m := 0#9 ++ rm ++ 0#4 })
  | .fmaxF16x2 e d a b rm => some (.lane { RawL.base e 18 5 with d := d, a := a, b := b, m := 0#9 ++ rm ++ 0#4 })
  | .fcmpF16x2 e d a b cond rm => some (.lane { RawL.base e 18 6 with d := 0#4 ++ d, a := a, b := b, m := 0#9 ++ rm ++ 0#1 ++ cond })
  | .fabsF16x2 e d a rm => some (.lane { RawL.base e 18 7 with d := d, a := a, m := 0#9 ++ rm ++ 0#4 })
  | .fnegF16x2 e d a rm => some (.lane { RawL.base e 18 7 with d := d, a := a, m := 0#9 ++ rm ++ 1#4 })
  | .ffloorF16x2 e d a rm => some (.lane { RawL.base e 18 7 with d := d, a := a, m := 0#9 ++ rm ++ 2#4 })
  | .fceilF16x2 e d a rm => some (.lane { RawL.base e 18 7 with d := d, a := a, m := 0#9 ++ rm ++ 3#4 })
  | .ftruncF16x2 e d a rm => some (.lane { RawL.base e 18 7 with d := d, a := a, m := 0#9 ++ rm ++ 4#4 })
  | .frintF16x2 e d a rm => some (.lane { RawL.base e 18 7 with d := d, a := a, m := 0#9 ++ rm ++ 5#4 })
  | .fclassF16x2 e d a rm => some (.lane { RawL.base e 18 7 with d := d, a := a, m := 0#9 ++ rm ++ 6#4 })
  | .faddBf16x2 e d a b rm => some (.lane { RawL.base e 19 0 with d := d, a := a, b := b, m := 0#9 ++ rm ++ 0#4 })
  | .fsubBf16x2 e d a b rm => some (.lane { RawL.base e 19 1 with d := d, a := a, b := b, m := 0#9 ++ rm ++ 0#4 })
  | .fmulBf16x2 e d a b rm => some (.lane { RawL.base e 19 2 with d := d, a := a, b := b, m := 0#9 ++ rm ++ 0#4 })
  | .ffmaBf16x2 e d a b c rm => some (.lane { RawL.base e 19 3 with d := d, a := a, b := b, c := c, m := 0#9 ++ rm ++ 0#4 })
  | .fminBf16x2 e d a b rm => some (.lane { RawL.base e 19 4 with d := d, a := a, b := b, m := 0#9 ++ rm ++ 0#4 })
  | .fmaxBf16x2 e d a b rm => some (.lane { RawL.base e 19 5 with d := d, a := a, b := b, m := 0#9 ++ rm ++ 0#4 })
  | .fcmpBf16x2 e d a b cond rm => some (.lane { RawL.base e 19 6 with d := 0#4 ++ d, a := a, b := b, m := 0#9 ++ rm ++ 0#1 ++ cond })
  | .fabsBf16x2 e d a rm => some (.lane { RawL.base e 19 7 with d := d, a := a, m := 0#9 ++ rm ++ 0#4 })
  | .fnegBf16x2 e d a rm => some (.lane { RawL.base e 19 7 with d := d, a := a, m := 0#9 ++ rm ++ 1#4 })
  | .ffloorBf16x2 e d a rm => some (.lane { RawL.base e 19 7 with d := d, a := a, m := 0#9 ++ rm ++ 2#4 })
  | .fceilBf16x2 e d a rm => some (.lane { RawL.base e 19 7 with d := d, a := a, m := 0#9 ++ rm ++ 3#4 })
  | .ftruncBf16x2 e d a rm => some (.lane { RawL.base e 19 7 with d := d, a := a, m := 0#9 ++ rm ++ 4#4 })
  | .frintBf16x2 e d a rm => some (.lane { RawL.base e 19 7 with d := d, a := a, m := 0#9 ++ rm ++ 5#4 })
  | .fclassBf16x2 e d a rm => some (.lane { RawL.base e 19 7 with d := d, a := a, m := 0#9 ++ rm ++ 6#4 })
  | .fdivF64 e d a b rm => some (.lane { RawL.base e 20 0 with d := d, a := a, b := b, m := 0#9 ++ rm ++ 0#4 })
  | .fdivF32 e d a b rm => some (.lane { RawL.base e 20 1 with d := d, a := a, b := b, m := 0#9 ++ rm ++ 0#4 })
  | .fsqrtF64 e d a rm => some (.lane { RawL.base e 20 2 with d := d, a := a, m := 0#9 ++ rm ++ 0#4 })
  | .fsqrtF32 e d a rm => some (.lane { RawL.base e 20 3 with d := d, a := a, m := 0#9 ++ rm ++ 0#4 })
  | .frcpF64 e d a rm => some (.lane { RawL.base e 20 4 with d := d, a := a, m := 0#9 ++ rm ++ 0#4 })
  | .frcpF32 e d a rm => some (.lane { RawL.base e 20 5 with d := d, a := a, m := 0#9 ++ rm ++ 0#4 })
  | .frsqF64 e d a rm => some (.lane { RawL.base e 20 6 with d := d, a := a, m := 0#9 ++ rm ++ 0#4 })
  | .frsqF32 e d a rm => some (.lane { RawL.base e 20 7 with d := d, a := a, m := 0#9 ++ rm ++ 0#4 })
  | .fexp2 e d a => some (.lane { RawL.base e 21 0 with d := d, a := a })
  | .flog2 e d a => some (.lane { RawL.base e 21 1 with d := d, a := a })
  | .fsinpi e d a => some (.lane { RawL.base e 21 2 with d := d, a := a })
  | .fcospi e d a => some (.lane { RawL.base e 21 3 with d := d, a := a })
  | .ftanh e d a => some (.lane { RawL.base e 21 4 with d := d, a := a })
  | .cvt e d a src dst rm => some (.lane { RawL.base e 22 0 with d := d, a := a, m := 0#5 ++ rm ++ dst ++ src })
  | .cvtSat e d a src dst rm => some (.lane { RawL.base e 22 1 with d := d, a := a, m := 0#5 ++ rm ++ dst ++ src })
  | .shfl e d a b pick i w64 => some (.lane { RawL.base e 24 0 with d := d, a := a, b := b, m := 0#9 ++ bitOf w64 ++ bitOf i ++ pick })
  | .shflx e d a b pick i w64 => some (.lane { RawL.base e 24 1 with d := d, a := a, b := b, m := 0#9 ++ bitOf w64 ++ bitOf i ++ pick })
  | .shflup e d a b pick i w64 => some (.lane { RawL.base e 24 2 with d := d, a := a, b := b, m := 0#9 ++ bitOf w64 ++ bitOf i ++ pick })
  | .shfldn e d a b pick i w64 => some (.lane { RawL.base e 24 3 with d := d, a := a, b := b, m := 0#9 ++ bitOf w64 ++ bitOf i ++ pick })
  | .bcast e d a src w64 first => some (.lane { RawL.base e 24 4 with d := d, a := a, m := 0#8 ++ bitOf first ++ bitOf w64 ++ 0#1 ++ src })
  | .vote e d a mode => some (.lane { RawL.base e 24 5 with d := d, a := 0#4 ++ a, m := 0#14 ++ mode })
  | .gathg e d a b w sg => some (.lane { RawL.base e 24 6 with d := d, a := a, b := b, m := 0#13 ++ bitOf sg ++ w })
  | .redadd e d a w64 => some (.lane { RawL.base e 25 0 with d := d, a := a, m := 0#15 ++ bitOf w64 })
  | .redmin e d a w64 un => some (.lane { RawL.base e 25 1 with d := d, a := a, m := 0#14 ++ bitOf un ++ bitOf w64 })
  | .redmax e d a w64 un => some (.lane { RawL.base e 25 2 with d := d, a := a, m := 0#14 ++ bitOf un ++ bitOf w64 })
  | .redaddF32 e d a => some (.lane { RawL.base e 25 3 with d := d, a := a })
  | .redaddF64 e d a => some (.lane { RawL.base e 25 4 with d := d, a := a })
  | .scan e d a w64 => some (.lane { RawL.base e 25 5 with d := d, a := a, m := 0#15 ++ bitOf w64 })
  | .scanx e d a w64 => some (.lane { RawL.base e 25 6 with d := d, a := a, m := 0#15 ++ bitOf w64 })
  | .scanF32 e d a => some (.lane { RawL.base e 25 7 with d := d, a := a })
  | .confl e d a w64 => some (.lane { RawL.base e 26 0 with d := d, a := a, m := 0#15 ++ bitOf w64 })
  | .rebal e d a b => some (.lane { RawL.base e 26 1 with d := d, a := a, b := b })
  | .mrgu e d a b px py pe => some (.lane { RawL.base e 26 2 with d := d, a := a, b := b, c := 0#1 ++ py ++ px, m := 0#13 ++ pe })
  | .mrgi e d a b px py pe => some (.lane { RawL.base e 26 3 with d := d, a := a, b := b, c := 0#1 ++ py ++ px, m := 0#13 ++ pe })
  | .compact e d a c w64 => some (.lane { RawL.base e 26 4 with d := d, a := a, c := 0#4 ++ c, m := 0#15 ++ bitOf w64 })
  | .expand e d a c w64 => some (.lane { RawL.base e 26 5 with d := d, a := a, c := 0#4 ++ c, m := 0#15 ++ bitOf w64 })
  | .vldB e d a o off => some (.lane { RawL.base e 28 0 with d := d, a := a, c := 0#1 ++ o.bits, m := off })
  | .vldBs e d a o off => some (.lane { RawL.base e 28 1 with d := d, a := a, c := 0#1 ++ o.bits, m := off })
  | .vldH e d a o off => some (.lane { RawL.base e 28 2 with d := d, a := a, c := 0#1 ++ o.bits, m := off })
  | .vldHs e d a o off => some (.lane { RawL.base e 28 3 with d := d, a := a, c := 0#1 ++ o.bits, m := off })
  | .vldW e d a o off => some (.lane { RawL.base e 28 4 with d := d, a := a, c := 0#1 ++ o.bits, m := off })
  | .vldD e d a o off => some (.lane { RawL.base e 28 5 with d := d, a := a, c := 0#1 ++ o.bits, m := off })
  | .vldQ e d a o off => some (.lane { RawL.base e 28 6 with d := d, a := a, c := 0#1 ++ o.bits, m := off })
  | .vldl e d a o off => some (.lane { RawL.base e 28 7 with d := d, a := a, c := 0#1 ++ o.bits, m := off })
  | .vstB e a b o off => some (.lane { RawL.base e 29 0 with a := a, b := b, c := 0#1 ++ o.bits, m := off })
  | .vstH e a b o off => some (.lane { RawL.base e 29 2 with a := a, b := b, c := 0#1 ++ o.bits, m := off })
  | .vstW e a b o off => some (.lane { RawL.base e 29 4 with a := a, b := b, c := 0#1 ++ o.bits, m := off })
  | .vstD e a b o off => some (.lane { RawL.base e 29 5 with a := a, b := b, c := 0#1 ++ o.bits, m := off })
  | .vstQ e a b o off => some (.lane { RawL.base e 29 6 with a := a, b := b, c := 0#1 ++ o.bits, m := off })
  | .vatomAdd e d a b o w64 un => some (.lane { RawL.base e 30 0 with d := d, a := a, b := b, c := 0#1 ++ o.bits, m := 0#14 ++ bitOf un ++ bitOf w64 })
  | .vatomMin e d a b o w64 un => some (.lane { RawL.base e 30 1 with d := d, a := a, b := b, c := 0#1 ++ o.bits, m := 0#14 ++ bitOf un ++ bitOf w64 })
  | .vatomMax e d a b o w64 un => some (.lane { RawL.base e 30 2 with d := d, a := a, b := b, c := 0#1 ++ o.bits, m := 0#14 ++ bitOf un ++ bitOf w64 })
  | .vatomAnd e d a b o w64 un => some (.lane { RawL.base e 30 3 with d := d, a := a, b := b, c := 0#1 ++ o.bits, m := 0#14 ++ bitOf un ++ bitOf w64 })
  | .vatomOr e d a b o w64 un => some (.lane { RawL.base e 30 4 with d := d, a := a, b := b, c := 0#1 ++ o.bits, m := 0#14 ++ bitOf un ++ bitOf w64 })
  | .vatomXor e d a b o w64 un => some (.lane { RawL.base e 30 5 with d := d, a := a, b := b, c := 0#1 ++ o.bits, m := 0#14 ++ bitOf un ++ bitOf w64 })
  | .vatomXchg e d a b o w64 un => some (.lane { RawL.base e 30 6 with d := d, a := a, b := b, c := 0#1 ++ o.bits, m := 0#14 ++ bitOf un ++ bitOf w64 })
  | .vatomCas e d a b o w64 un => some (.lane { RawL.base e 30 7 with d := d, a := a, b := b, c := 0#1 ++ o.bits, m := 0#14 ++ bitOf un ++ bitOf w64 })
  | .slotrd e d a o off => some (.lane { RawL.base e 31 0 with d := d, a := a, c := 0#1 ++ o.bits, m := off })
  | .gldB e x k a b o off => some (.lane { RawL.base e 32 0 with d := x ++ k, a := a, b := b, c := 0#1 ++ o.bits, m := off })
  | .gldBs e x k a b o off => some (.lane { RawL.base e 32 1 with d := x ++ k, a := a, b := b, c := 0#1 ++ o.bits, m := off })
  | .gldH e x k a b o off => some (.lane { RawL.base e 32 2 with d := x ++ k, a := a, b := b, c := 0#1 ++ o.bits, m := off })
  | .gldHs e x k a b o off => some (.lane { RawL.base e 32 3 with d := x ++ k, a := a, b := b, c := 0#1 ++ o.bits, m := off })
  | .gldW e x k a b o off => some (.lane { RawL.base e 32 4 with d := x ++ k, a := a, b := b, c := 0#1 ++ o.bits, m := off })
  | .gldD e x k a b o off => some (.lane { RawL.base e 32 5 with d := x ++ k, a := a, b := b, c := 0#1 ++ o.bits, m := off })
  | .gldQ e x k a b o off => some (.lane { RawL.base e 32 6 with d := x ++ k, a := a, b := b, c := 0#1 ++ o.bits, m := off })
  | .gstB e x a b o => some (.lane { RawL.base e 33 0 with d := x ++ 0#4, a := a, b := b, c := 0#1 ++ o.bits })
  | .gstH e x a b o => some (.lane { RawL.base e 33 2 with d := x ++ 0#4, a := a, b := b, c := 0#1 ++ o.bits })
  | .gstW e x a b o => some (.lane { RawL.base e 33 4 with d := x ++ 0#4, a := a, b := b, c := 0#1 ++ o.bits })
  | .gstD e x a b o => some (.lane { RawL.base e 33 5 with d := x ++ 0#4, a := a, b := b, c := 0#1 ++ o.bits })
  | .gstQ e x a b o => some (.lane { RawL.base e 33 6 with d := x ++ 0#4, a := a, b := b, c := 0#1 ++ o.bits })
  | .gatomAdd e x k a b o w64 un vo => some (.lane { RawL.base e 34 0 with d := x ++ k, a := a, b := b, c := 0#1 ++ o.bits, m := 0#7 ++ vo ++ bitOf un ++ bitOf w64 })
  | .gatomMin e x k a b o w64 un vo => some (.lane { RawL.base e 34 1 with d := x ++ k, a := a, b := b, c := 0#1 ++ o.bits, m := 0#7 ++ vo ++ bitOf un ++ bitOf w64 })
  | .gatomMax e x k a b o w64 un vo => some (.lane { RawL.base e 34 2 with d := x ++ k, a := a, b := b, c := 0#1 ++ o.bits, m := 0#7 ++ vo ++ bitOf un ++ bitOf w64 })
  | .gatomAnd e x k a b o w64 un vo => some (.lane { RawL.base e 34 3 with d := x ++ k, a := a, b := b, c := 0#1 ++ o.bits, m := 0#7 ++ vo ++ bitOf un ++ bitOf w64 })
  | .gatomOr e x k a b o w64 un vo => some (.lane { RawL.base e 34 4 with d := x ++ k, a := a, b := b, c := 0#1 ++ o.bits, m := 0#7 ++ vo ++ bitOf un ++ bitOf w64 })
  | .gatomXor e x k a b o w64 un vo => some (.lane { RawL.base e 34 5 with d := x ++ k, a := a, b := b, c := 0#1 ++ o.bits, m := 0#7 ++ vo ++ bitOf un ++ bitOf w64 })
  | .gatomXchg e x k a b o w64 un vo => some (.lane { RawL.base e 34 6 with d := x ++ k, a := a, b := b, c := 0#1 ++ o.bits, m := 0#7 ++ vo ++ bitOf un ++ bitOf w64 })
  | .gatomCas e x k a b o w64 un vo => some (.lane { RawL.base e 34 7 with d := x ++ k, a := a, b := b, c := 0#1 ++ o.bits, m := 0#7 ++ vo ++ bitOf un ++ bitOf w64 })
  | .subscr e x a b o off => some (.lane { RawL.base e 35 0 with d := x ++ 0#4, a := a, b := b, c := 0#1 ++ o.bits, m := off })
  | .unsub e x a b o off => some (.lane { RawL.base e 35 1 with d := x ++ 0#4, a := a, b := b, c := 0#1 ++ o.bits, m := off })
  | .trd e d t row part w64 => some (.lane { RawL.base e 36 0 with d := d, a := 0#4 ++ t, m := 0#7 ++ bitOf w64 ++ part ++ row })
  | .twr e t b row part w64 => some (.lane { RawL.base e 36 1 with d := 0#4 ++ t, b := b, m := 0#7 ++ bitOf w64 ++ part ++ row })
  | .sadd e d a b => some (.uni { RawU.base e 0 0 with d := d, a := a, b := b })
  | .ssub e d a b => some (.uni { RawU.base e 0 1 with d := d, a := a, b := b })
  | .smul e d a b => some (.uni { RawU.base e 0 2 with d := d, a := a, b := b })
  | .smulhi e d a b => some (.uni { RawU.base e 0 3 with d := d, a := a, b := b })
  | .smulhiu e d a b => some (.uni { RawU.base e 0 4 with d := d, a := a, b := b })
  | .sdiv e d a b => some (.uni { RawU.base e 0 5 with d := d, a := a, b := b })
  | .sdivu e d a b => some (.uni { RawU.base e 0 6 with d := d, a := a, b := b })
  | .srem e d a b => some (.uni { RawU.base e 0 7 with d := d, a := a, b := b })
  | .sremu e d a b => some (.uni { RawU.base e 0 8 with d := d, a := a, b := b })
  | .smin e d a b => some (.uni { RawU.base e 0 9 with d := d, a := a, b := b })
  | .smax e d a b => some (.uni { RawU.base e 0 10 with d := d, a := a, b := b })
  | .sminu e d a b => some (.uni { RawU.base e 0 11 with d := d, a := a, b := b })
  | .smaxu e d a b => some (.uni { RawU.base e 0 12 with d := d, a := a, b := b })
  | .sand e d a b => some (.uni { RawU.base e 0 16 with d := d, a := a, b := b })
  | .sor e d a b => some (.uni { RawU.base e 0 17 with d := d, a := a, b := b })
  | .sxor e d a b => some (.uni { RawU.base e 0 18 with d := d, a := a, b := b })
  | .sandn e d a b => some (.uni { RawU.base e 0 19 with d := d, a := a, b := b })
  | .snot e d a => some (.uni { RawU.base e 0 20 with d := d, a := a })
  | .smov e d a => some (.uni { RawU.base e 0 21 with d := d, a := a })
  | .sshl e d a b => some (.uni { RawU.base e 0 24 with d := d, a := a, b := b })
  | .sshr e d a b => some (.uni { RawU.base e 0 25 with d := d, a := a, b := b })
  | .ssar e d a b => some (.uni { RawU.base e 0 26 with d := d, a := a, b := b })
  | .sclz e d a => some (.uni { RawU.base e 0 27 with d := d, a := a })
  | .sctz e d a => some (.uni { RawU.base e 0 28 with d := d, a := a })
  | .spopc e d a => some (.uni { RawU.base e 0 29 with d := d, a := a })
  | .saddImm e d a imm => some (.uni { RawU.base e 1 0 with d := d, a := a, imm := imm })
  | .ssubImm e d a imm => some (.uni { RawU.base e 1 1 with d := d, a := a, imm := imm })
  | .smulImm e d a imm => some (.uni { RawU.base e 1 2 with d := d, a := a, imm := imm })
  | .smulhiImm e d a imm => some (.uni { RawU.base e 1 3 with d := d, a := a, imm := imm })
  | .smulhiuImm e d a imm => some (.uni { RawU.base e 1 4 with d := d, a := a, imm := imm })
  | .sdivImm e d a imm => some (.uni { RawU.base e 1 5 with d := d, a := a, imm := imm })
  | .sdivuImm e d a imm => some (.uni { RawU.base e 1 6 with d := d, a := a, imm := imm })
  | .sremImm e d a imm => some (.uni { RawU.base e 1 7 with d := d, a := a, imm := imm })
  | .sremuImm e d a imm => some (.uni { RawU.base e 1 8 with d := d, a := a, imm := imm })
  | .sminImm e d a imm => some (.uni { RawU.base e 1 9 with d := d, a := a, imm := imm })
  | .smaxImm e d a imm => some (.uni { RawU.base e 1 10 with d := d, a := a, imm := imm })
  | .sminuImm e d a imm => some (.uni { RawU.base e 1 11 with d := d, a := a, imm := imm })
  | .smaxuImm e d a imm => some (.uni { RawU.base e 1 12 with d := d, a := a, imm := imm })
  | .sandImm e d a imm => some (.uni { RawU.base e 1 16 with d := d, a := a, imm := imm })
  | .sorImm e d a imm => some (.uni { RawU.base e 1 17 with d := d, a := a, imm := imm })
  | .sxorImm e d a imm => some (.uni { RawU.base e 1 18 with d := d, a := a, imm := imm })
  | .sandnImm e d a imm => some (.uni { RawU.base e 1 19 with d := d, a := a, imm := imm })
  | .smovImm e d imm => some (.uni { RawU.base e 1 21 with d := d, imm := imm })
  | .sshlImm e d a imm => some (.uni { RawU.base e 1 24 with d := d, a := a, imm := imm })
  | .sshrImm e d a imm => some (.uni { RawU.base e 1 25 with d := d, a := a, imm := imm })
  | .ssarImm e d a imm => some (.uni { RawU.base e 1 26 with d := d, a := a, imm := imm })
  | .qeq e d a b => some (.uni { RawU.base e 2 0 with d := 0#3 ++ d, a := a, b := b })
  | .qne e d a b => some (.uni { RawU.base e 2 1 with d := 0#3 ++ d, a := a, b := b })
  | .qlt e d a b => some (.uni { RawU.base e 2 2 with d := 0#3 ++ d, a := a, b := b })
  | .qge e d a b => some (.uni { RawU.base e 2 3 with d := 0#3 ++ d, a := a, b := b })
  | .qltu e d a b => some (.uni { RawU.base e 2 4 with d := 0#3 ++ d, a := a, b := b })
  | .qgeu e d a b => some (.uni { RawU.base e 2 5 with d := 0#3 ++ d, a := a, b := b })
  | .qle e d a b => some (.uni { RawU.base e 2 6 with d := 0#3 ++ d, a := a, b := b })
  | .qgt e d a b => some (.uni { RawU.base e 2 7 with d := 0#3 ++ d, a := a, b := b })
  | .qeqImm e d a imm => some (.uni { RawU.base e 3 0 with d := 0#3 ++ d, a := a, imm := imm })
  | .qneImm e d a imm => some (.uni { RawU.base e 3 1 with d := 0#3 ++ d, a := a, imm := imm })
  | .qltImm e d a imm => some (.uni { RawU.base e 3 2 with d := 0#3 ++ d, a := a, imm := imm })
  | .qgeImm e d a imm => some (.uni { RawU.base e 3 3 with d := 0#3 ++ d, a := a, imm := imm })
  | .qltuImm e d a imm => some (.uni { RawU.base e 3 4 with d := 0#3 ++ d, a := a, imm := imm })
  | .qgeuImm e d a imm => some (.uni { RawU.base e 3 5 with d := 0#3 ++ d, a := a, imm := imm })
  | .qleImm e d a imm => some (.uni { RawU.base e 3 6 with d := 0#3 ++ d, a := a, imm := imm })
  | .qgtImm e d a imm => some (.uni { RawU.base e 3 7 with d := 0#3 ++ d, a := a, imm := imm })
  | .sli e d imm => some (.uni { RawU.base e 4 0 with d := d, imm := imm })
  | .slis e d imm => some (.uni { RawU.base e 4 1 with d := d, imm := imm })
  | .s2v e a v w64 => some (.uni { RawU.base e 4 2 with a := a, imm := 0#13 ++ bitOf w64 ++ 0#7 ++ v })
  | .v2s e d v w64 src first => some (.uni { RawU.base e 4 3 with d := d, imm := 0#7 ++ bitOf first ++ src ++ bitOf w64 ++ 0#7 ++ v })
  | .qopAnd e d a b => some (.uni { RawU.base e 4 4 with d := 0#3 ++ d, a := 0#3 ++ a, b := 0#3 ++ b, imm := 0#25 ++ 0#3 })
  | .qopOr e d a b => some (.uni { RawU.base e 4 4 with d := 0#3 ++ d, a := 0#3 ++ a, b := 0#3 ++ b, imm := 0#25 ++ 1#3 })
  | .qopXor e d a b => some (.uni { RawU.base e 4 4 with d := 0#3 ++ d, a := 0#3 ++ a, b := 0#3 ++ b, imm := 0#25 ++ 2#3 })
  | .qopAndn e d a b => some (.uni { RawU.base e 4 4 with d := 0#3 ++ d, a := 0#3 ++ a, b := 0#3 ++ b, imm := 0#25 ++ 3#3 })
  | .qopNot e d a b => some (.uni { RawU.base e 4 4 with d := 0#3 ++ d, a := 0#3 ++ a, b := 0#3 ++ b, imm := 0#25 ++ 4#3 })
  | .qopMov e d a b => some (.uni { RawU.base e 4 4 with d := 0#3 ++ d, a := 0#3 ++ a, b := 0#3 ++ b, imm := 0#25 ++ 5#3 })
  | .p2s e d a => some (.uni { RawU.base e 4 5 with d := d, a := 0#3 ++ a })
  | .s2p e d a => some (.uni { RawU.base e 4 6 with d := 0#3 ++ d, a := a })
  | .actmask e d => some (.uni { RawU.base e 4 7 with d := d })
  | .sldk e d off => some (.uni { RawU.base e 5 0 with d := d, imm := 0#16 ++ off })
  | .sldv e d a w o off => some (.uni { RawU.base e 5 1 with d := d, a := a, imm := w ++ o.bits ++ off })
  | .sstv e a b w o off => some (.uni { RawU.base e 5 2 with a := a, b := b, imm := w ++ o.bits ++ off })
  | .satomvAdd e d a b w o un => some (.uni { RawU.base e 5 3 with d := d, a := a, b := b, imm := w ++ o.bits ++ 0#3 ++ bitOf un ++ 0#16 })
  | .satomvMin e d a b w o un => some (.uni { RawU.base e 5 3 with d := d, a := a, b := b, imm := w ++ o.bits ++ 1#3 ++ bitOf un ++ 0#16 })
  | .satomvMax e d a b w o un => some (.uni { RawU.base e 5 3 with d := d, a := a, b := b, imm := w ++ o.bits ++ 2#3 ++ bitOf un ++ 0#16 })
  | .satomvAnd e d a b w o un => some (.uni { RawU.base e 5 3 with d := d, a := a, b := b, imm := w ++ o.bits ++ 3#3 ++ bitOf un ++ 0#16 })
  | .satomvOr e d a b w o un => some (.uni { RawU.base e 5 3 with d := d, a := a, b := b, imm := w ++ o.bits ++ 4#3 ++ bitOf un ++ 0#16 })
  | .satomvXor e d a b w o un => some (.uni { RawU.base e 5 3 with d := d, a := a, b := b, imm := w ++ o.bits ++ 5#3 ++ bitOf un ++ 0#16 })
  | .satomvXchg e d a b w o un => some (.uni { RawU.base e 5 3 with d := d, a := a, b := b, imm := w ++ o.bits ++ 6#3 ++ bitOf un ++ 0#16 })
  | .scasv e d a b w o => some (.uni { RawU.base e 5 4 with d := d, a := a, b := b, imm := w ++ o.bits ++ 0#20 })
  | .bra e imm => some (.uni { RawU.base e 8 0 with imm := imm })
  | .brq e a imm => some (.uni { RawU.base e 8 1 with a := 0#3 ++ a, imm := imm })
  | .brnq e a imm => some (.uni { RawU.base e 8 2 with a := 0#3 ++ a, imm := imm })
  | .call e q neg imm => some (.uni { RawU.base e 8 3 with a := 0#2 ++ bitOf neg ++ q, imm := imm })
  | .callr e a q neg => some (.uni { RawU.base e 8 4 with a := a, b := 0#2 ++ bitOf neg ++ q })
  | .ret e a => some (.uni { RawU.base e 8 5 with a := a })
  | .endStrand e => some (.uni (RawU.base e 8 6))
  | .loopd e d imm => some (.uni { RawU.base e 8 7 with d := d, imm := imm })
  | .split e p b els cont => some (.uni { RawU.base e 9 0 with a := 0#3 ++ p, b := b, imm := els ++ cont })
  | .calli e d p neg b cont => some (.uni { RawU.base e 9 1 with d := d, a := 0#2 ++ bitOf neg ++ p, b := b, imm := 0#14 ++ cont })
  | .endarm e => some (.uni (RawU.base e 9 2))
  | .seal e lo hi pred => some (.uni { RawU.base e 9 3 with imm := 0#13 ++ bitOf pred ++ hi ++ lo })
  | .join e lo hi pred => some (.uni { RawU.base e 9 4 with imm := 0#13 ++ bitOf pred ++ hi ++ lo })
  | .joinmem e => some (.uni (RawU.base e 9 5))
  | .binit e k waves engines => some (.uni { RawU.base e 10 0 with d := 0#2 ++ k, imm := 0#13 ++ engines ++ waves })
  | .bexpect e k a r n => some (.uni { RawU.base e 10 1 with d := 0#2 ++ k, a := a, imm := bitOf r ++ n })
  | .barrive e d k => some (.uni { RawU.base e 10 2 with d := d, a := 0#2 ++ k })
  | .bwait e q k b => some (.uni { RawU.base e 10 3 with d := 0#3 ++ q, a := 0#2 ++ k, b := b })
  | .bsync e q k => some (.uni { RawU.base e 10 4 with d := 0#3 ++ q, a := 0#2 ++ k })
  | .gbar e q g => some (.uni { RawU.base e 10 5 with d := 0#3 ++ q, a := 0#4 ++ g })
  | .cbar e q => some (.uni { RawU.base e 10 6 with d := 0#3 ++ q })
  | .bstat e d k pick => some (.uni { RawU.base e 10 7 with d := d, a := 0#2 ++ k, imm := 0#27 ++ bitOf pick })
  | .waita e d a b cond o off => some (.uni { RawU.base e 11 0 with d := d, a := a, b := b, imm := cond ++ o.bits ++ off })
  | .sleep e a r n => some (.uni { RawU.base e 11 1 with a := a, imm := bitOf r ++ n })
  | .yieldS e => some (.uni (RawU.base e 11 2))
  | .fenceAcq e scope => some (.uni { RawU.base e 11 3 with imm := 0#5 ++ scope ++ 0#18 ++ 0#2 })
  | .fenceRel e scope => some (.uni { RawU.base e 11 3 with imm := 0#5 ++ scope ++ 0#18 ++ 1#2 })
  | .fenceFull e scope => some (.uni { RawU.base e 11 3 with imm := 0#5 ++ scope ++ 0#18 ++ 2#2 })
  | .fenceEng e scope => some (.uni { RawU.base e 11 3 with imm := 0#5 ++ scope ++ 0#18 ++ 3#2 })
  | .xlat e x a b => some (.uni { RawU.base e 12 0 with d := 0#3 ++ x, a := a, b := b })
  | .xdrop e x => some (.uni { RawU.base e 12 1 with d := 0#3 ++ x })
  | .copy e a off => some (.uni { RawU.base e 13 0 with a := a, imm := 0#8 ++ off })
  | .copyc e a off => some (.uni { RawU.base e 13 1 with a := a, imm := 0#8 ++ off })
  | .copyl e a off => some (.uni { RawU.base e 13 2 with a := a, imm := 0#8 ++ off })
  | .tstg e a t off => some (.uni { RawU.base e 13 3 with a := a, b := 0#3 ++ t, imm := 0#8 ++ off })
  | .stepchk e q a => some (.uni { RawU.base e 13 4 with d := 0#3 ++ q, a := a })
  | .steprec e q a => some (.uni { RawU.base e 13 5 with d := 0#3 ++ q, a := a })
  | .tcfg e t a r shape => some (.uni { RawU.base e 14 0 with d := 0#3 ++ t, a := a, imm := bitOf r ++ 0#13 ++ shape })
  | .tlay e t layout => some (.uni { RawU.base e 14 1 with d := 0#3 ++ t, imm := 0#24 ++ layout })
  | .tld e t a off stride => some (.uni { RawU.base e 14 2 with d := 0#3 ++ t, a := a, imm := stride ++ off })
  | .tst e a t off stride => some (.uni { RawU.base e 14 3 with a := a, b := 0#3 ++ t, imm := stride ++ off })
  | .tzero e t => some (.uni { RawU.base e 14 4 with d := 0#3 ++ t })
  | .tmov e t s => some (.uni { RawU.base e 14 5 with d := 0#3 ++ t, a := 0#3 ++ s })
  | .mmaF64 e c a b part tb => some (.uni { RawU.base e 15 0 with d := 0#3 ++ c, a := 0#3 ++ a, b := 0#3 ++ b, imm := 0#26 ++ bitOf tb ++ bitOf part })
  | .mmaF32 e c a b part tb => some (.uni { RawU.base e 15 1 with d := 0#3 ++ c, a := 0#3 ++ a, b := 0#3 ++ b, imm := 0#26 ++ bitOf tb ++ bitOf part })
  | .mmaF16 e c a b part tb => some (.uni { RawU.base e 15 2 with d := 0#3 ++ c, a := 0#3 ++ a, b := 0#3 ++ b, imm := 0#26 ++ bitOf tb ++ bitOf part })
  | .mmaBf16 e c a b part tb => some (.uni { RawU.base e 15 3 with d := 0#3 ++ c, a := 0#3 ++ a, b := 0#3 ++ b, imm := 0#26 ++ bitOf tb ++ bitOf part })
  | .mmaE4m3 e c a b part tb => some (.uni { RawU.base e 15 4 with d := 0#3 ++ c, a := 0#3 ++ a, b := 0#3 ++ b, imm := 0#26 ++ bitOf tb ++ bitOf part })
  | .mmaE5m2 e c a b part tb => some (.uni { RawU.base e 15 5 with d := 0#3 ++ c, a := 0#3 ++ a, b := 0#3 ++ b, imm := 0#26 ++ bitOf tb ++ bitOf part })
  | .mmaDs8 e c a b part tb => some (.uni { RawU.base e 15 6 with d := 0#3 ++ c, a := 0#3 ++ a, b := 0#3 ++ b, imm := 0#26 ++ bitOf tb ++ bitOf part })
  | .mmaI8 e c a b part tb => some (.uni { RawU.base e 15 7 with d := 0#3 ++ c, a := 0#3 ++ a, b := 0#3 ++ b, imm := 0#26 ++ bitOf tb ++ bitOf part })
  | .scacc e c a b q neg ra rb => some (.uni { RawU.base e 15 8 with d := 0#3 ++ c, a := 0#3 ++ a, b := 0#3 ++ b, imm := 0#12 ++ rb ++ ra ++ bitOf neg ++ q })
  | .quant e c a b fmt col r => some (.uni { RawU.base e 15 9 with d := 0#3 ++ c, a := 0#3 ++ a, b := 0#3 ++ b, imm := 0#17 ++ r ++ bitOf col ++ fmt })
  | .rarm e d a off => some (.uni { RawU.base e 16 0 with d := d, a := a, imm := 0#8 ++ off })
  | .rdisarm e d a => some (.uni { RawU.base e 16 1 with d := d, a := a })
  | .rqry e d a pick => some (.uni { RawU.base e 16 2 with d := d, a := a, imm := 0#27 ++ bitOf pick })
  | .fork e q a => some (.uni { RawU.base e 17 0 with d := 0#3 ++ q, a := a })
  | .tnext e q => some (.uni { RawU.base e 17 1 with d := 0#3 ++ q })
  | .tsig e a => some (.uni { RawU.base e 17 2 with a := a })
  | .tdone e => some (.uni (RawU.base e 17 3))
  | .tpost e a b => some (.uni { RawU.base e 17 4 with a := a, b := b })
  | .nextw e a off => some (.uni { RawU.base e 17 5 with a := a, imm := 0#8 ++ off })
  | .trap e code => some (.uni { RawU.base e 18 0 with imm := 0#12 ++ code })
  | .bkpt e => some (.uni (RawU.base e 18 1))
  | .csrr e d csr => some (.uni { RawU.base e 18 2 with d := d, imm := 0#16 ++ csr })
  | .csrw e a csr => some (.uni { RawU.base e 18 3 with a := a, imm := 0#16 ++ csr })
  | .nop e => some (.uni (RawU.base e 18 4))
  | .resultWrite _ _ _ => none
  | .serialisedStrandStart _ _ => none
  | .storeBufferDrain _ _ => none
  | .joinmemComplete _ _ => none
  | .fenceComplete _ _ => none
  | .endComplete _ _ => none
  | .remoteVaultRead _ _ _ _ => none
  | .postQueueSend _ _ => none
  | .homePerform _ _ _ => none
  | .subscribeRequest _ _ => none
  | .unsubscribeRequest _ _ => none
  | .pushDelivery _ _ => none
  | .refusalDelivery _ _ => none
  | .unsubAckDelivery _ _ => none
  | .gldLanding _ => none
  | .gatomLanding _ => none
  | .waitaWake _ _ => none
  | .sleepExpire _ _ => none
  | .pageWalkComplete _ _ _ => none
  | .faultResume _ _ => none
  | .shootdown _ _ _ _ => none
  | .ownershipStep _ _ _ _ => none
  | .jobAccept _ _ => none
  | .tstgCapture _ _ => none
  | .copyPiece _ _ _ => none
  | .jobCompletion _ _ => none
  | .jobResume _ _ => none
  | .mmaStart _ => none
  | .mmaComplete _ => none
  | .regionCount _ => none
  | .regionArrive _ _ => none
  | .regionRelease _ _ => none
  | .regionTask _ _ => none
  | .regionFlag _ _ => none
  | .regionLaunch _ _ => none
  | .distributorGrant _ _ => none
  | .nextwAnswer _ _ => none
  | .overflowMove _ _ => none
  | .hostPortPerform _ _ _ => none
  | .hostPortAck _ _ => none
  | .hostRead _ _ => none
  | .hostWrite _ _ => none
  | .packetAccept _ _ _ => none
  | .cohortBind _ _ => none
  | .waveRetire _ => none
  | .cohortRetire _ => none
  | .waveKill _ => none
  | .gangPrepare _ _ _ _ => none
  | .gangAck _ _ => none
  | .gangNack _ _ => none
  | .prepareDeadline _ => none
  | .gangCancel _ => none
  | .gangStart _ => none
  | .gangStartAck _ _ => none
  | .startDeadline _ => none
  | .gangAbort _ => none
  | .watchdog _ _ => none
  | .preempt _ => none
  | .restore _ => none
  | .debugHalt _ => none
  | .debugResume _ => none
  | .singleStep _ _ => none
  | .eccCorrectable _ => none
  | .eccPoison _ => none
  | .flitRetransmit _ => none
  | .linkFailure _ => none
  | .clockThrottle _ => none
  | .currentStepStall _ _ => none
  | .thermalShutdown => none
  | .boot => none
  | .patchLoad _ _ => none
  | .icacheFill _ _ _ => none
  | .routingTableWrite _ _ => none
  | .partitionCreate _ _ => none
  | .attestationRequest _ => none
  | .partitionTeardown _ => none
  | .channelCreate _ _ _ => none
  | .debugStateWrite _ _ => none
  | .mailboxImageWrite _ _ => none

/-- The instruction that the fields could be. -/
noncomputable def Raw.cand : Raw → Option Instr
  | .lane r => laneCand r
  | .uni r => uniCand r

/-- The instruction of a set of fields (R69, R82 item 2, R83). -/
noncomputable def Raw.decode (r : Raw) : Except DecodeError Instr :=
  match r.cand with
  | none => .error .reservedOpcode
  | some i =>
    if i.toRaw = some r then (if i.wf then .ok i else .error .malformed) else .error .reservedField

/-- The instruction of an instruction word and the extension word after it (R62). -/
noncomputable def decodeWords (w ext : Word) : Except DecodeError Instr := (Raw.ofWords w ext).decode

/-- The words of an instruction: the instruction word, and the extension word when X is 1 (R62). -/
def encode (i : Instr) : Option (List Word) :=
  i.toRaw.map fun r => if hasExt r.words.1 then [r.words.1, r.words.2] else [r.words.1]

/-- The instruction word of four bytes in memory order (R2). -/
def wordOfBytes (b0 b1 b2 b3 : Byte) : Word := b3 ++ b2 ++ b1 ++ b0

/-- A word's four bytes in memory order (R2). -/
def bytesOfWord (w : Word) : List Byte :=
  [w.extractLsb' 0 8, w.extractLsb' 8 8, w.extractLsb' 16 8, w.extractLsb' 24 8]

/-- Reads one instruction from a list of bytes and returns the rest. -/
noncomputable def decodeBytes : List Byte → Except DecodeError (Instr × List Byte)
  | b0 :: b1 :: b2 :: b3 :: rest =>
    let w := wordOfBytes b0 b1 b2 b3
    if hasExt w then
      match rest with
      | c0 :: c1 :: c2 :: c3 :: rest' =>
        match decodeWords w (wordOfBytes c0 c1 c2 c3) with
        | .ok i => .ok (i, rest')
        | .error err => .error err
      | _ => .error .truncated
    else
      match decodeWords w 0 with
      | .ok i => .ok (i, rest)
      | .error err => .error err
  | _ => .error .truncated

/-- The bytes in memory of an instruction whose bits are `w`, numbered as the opcode table numbers them: the first word
in bits 31..0, the extension word in bits 63..32, both little-endian (R2). Bits at `nbits` and above are 0. -/
def tableBytes (nbits w : Nat) : List Byte :=
  let v := w % 2 ^ nbits
  bytesOfWord (BitVec.ofNat 32 v) ++ bytesOfWord (BitVec.ofNat 32 (v / 2 ^ 32))

/-- The instruction the decoder reads from a word of the opcode table. -/
noncomputable def decodeTableWord (nbits w : Nat) : Option Instr :=
  match decodeBytes (tableBytes nbits w) with
  | .ok (i, _) => some i
  | .error _ => none

end Sys2Proof
end

