-- ==== Sys2Proof/Config.lean ====
section
/-! DEFINITION. What is fixed for the machine: figures of the manual (R10, R11, R137), and the free values, constants
without a body that stand for what the manual leaves open (R6). -/

namespace Sys2Proof

/-- The value of a byte that nothing has written or that another key was used for (R6, R24, R25, R131, R147), by the step
that reads it, the memory it stands in and its address. Nothing constrains it (log 1). -/
opaque Config.freeByte : (tick space addr : Nat) → Byte

/-- The sequence counter of a word that gains its first subscription (R235), by step and word (log 2). -/
opaque Config.freeSeq : (tick word : Nat) → Word

/-- What a transcendental returns where its result is not exact (R127), by function, flush-to-zero setting and operand (log 5). -/
opaque Config.transc : (fn : Nat) → (ftz : Bool) → Word → Word

/-- Further core-clock cycles that pass in a step (R171), by step and die (log 2). -/
opaque Config.cycles : (tick die : Nat) → Nat

/-- Which entry of a 2 MiB run supplies a translation that is made within a step (R139), by step and address (log 2). -/
opaque Config.runEntry : (tick va : Nat) → Nat

/-- Which free entry of an arrival unit RARM takes (R243), by step and die (log 34). -/
opaque Config.freeEntry : (tick die : Nat) → Nat

/-- Whether a fetch returns the copy in the instruction cache rather than the word at its home, where they differ (R347), by step,
core and address (log 13). -/
opaque Config.oldFetch : (tick core va : Nat) → Bool

/-- The public-key root fused into the module and the seed that goes with it (R331), and the secrets of the identity key (R334): its seed, the
first value of each chain of each one-time key, and the randomiser of each signature (log 58). -/
opaque Config.keyRoot : BitVec 256
opaque Config.keySeed : BitVec 256
opaque Config.identitySeed : BitVec 256
opaque Config.identitySecret : (leaf chain : Nat) → BitVec 256
opaque Config.identityRandom : (leaf : Nat) → BitVec 256

/-- The bytes and the signature of the firmware image in flash at reset (R331, log 3). -/
opaque Config.flashBytes : List Byte
opaque Config.flashSig : List Byte

/-- The value to which the firmware of an image sets HDMBASE (R323, log 98). -/
opaque Config.hdmBase : (image : List Byte) → Nat

/-- Whether an instruction that could be the second of a pair, and whose turn it is all the same, is that second (R291), by step and wave slot
(log 2). -/
opaque Config.second : (tick slot : Nat) → Bool

/-- Words that a core's 256 KiB instruction cache holds (R10). -/
def Config.icacheWords : Nat := 65536

/-- Entries of a die's last-level TLB (R11). -/
def Config.tlbEntries : Nat := 6144

/-- Bytes of window space in a vault: 5.75 MiB (R25, R131). -/
def Config.vaultBytes : Nat := 0x5C0000

/-- The staging area of a core: 256 KiB (R10). -/
def Config.stagingBytes : Nat := 0x40000

/-- Backed HBM4E of a die: 192 GB aligned down to 64 MiB (R137). -/
def Config.hbmBytes : Nat := 192000000000 / 0x4000000 * 0x4000000

/-- Backed LPDDR6 of a die: 512 GB aligned down to 64 MiB (R137). -/
def Config.lpddrBytes : Nat := 512000000000 / 0x4000000 * 0x4000000

/-- Job slots of a copy engine (R10). -/
def Config.jobSlots : Nat := 64

/-- Entries of a core's subscription directory (R234). -/
def Config.directory : Nat := 4096

/-- Records of a deque (R292). -/
def Config.dequeRecords : Nat := 256

/-- Region entries of an arrival unit (R11). -/
def Config.regionEntries : Nat := 1024

/-- The chip code of host memory (R136). -/
def Config.hostChip : Nat := 0xFF

/-- The bytes a vault occupies in the die-absolute form's addresses: offset [22:0] (R131). -/
def Config.vaultSpan : Nat := 0x800000

/-- ISAVER (R171). -/
def Config.isaver : DWord := 0x0003000000000001

end Sys2Proof
end

