-- ==== Sys2Proof/Machine/State.lean ====
section
/-! DEFINITION. The state of the module as plain data: memories, homes, dies, cores, launches, cohorts, waves,
the strands of each wave, the queues of the ordering machine, and what the firmware, the command processor and
the host hold. The reasons a step can stop are here too, and the state after reset. -/

namespace Sys2Proof.Machine

/-- Why the machine stops with a fault. -/
inductive Fault where
  /-- Raised by an instruction other than a firmware step once the module has shut down at 115 degrees C (R336):
  every running launch is lost. Safe: the manual gives the module no further behaviour. -/
  | shutDown
deriving DecidableEq, Repr

/-- Why an instruction has no meaning in a state. -/
inductive Refusal where
  /-- Raised by the arm of an instruction that has no meaning in this model yet. Safe. -/
  | notModelled (mnemonic : String)
  /-- Raised by a step of the ordering machine, the firmware or the host (a table row without an encoding) in a
  state in which the manual does not enable it (R191). Safe: the machine has no such step there. -/
  | notEnabled (mnemonic : String)
deriving DecidableEq, Repr

/-- One MMA waiting for or in the array of a core (R268). -/
structure Mma where
  id      : Nat
  slot    : Nat
  strand  : Nat
  pc      : Nat
  fmt     : Nat
  part    : Bool
  tb      : Bool
  tc      : Nat
  ta      : Nat
  tbT     : Nat
  started : Bool
  /-- The COPYC job it follows. -/
  job     : Option Nat
deriving DecidableEq, Repr

/-- A subscription at a home (R235). -/
structure Subscription where
  word    : Nat
  core    : Nat
  slot    : Nat
  cohort  : Nat
  dormant : Bool
  /-- Requests that wait for the push it gives at restore (R233, R239). -/
  owed    : List Nat
deriving DecidableEq, Repr

/-- A message in a push channel (R199, R235 to R237). -/
inductive PushKind where
  | value (val : DWord) (seq : Word) (restored : Bool)
  | refusal
  | ack
deriving DecidableEq, Repr

/-- One message from a home to a core (R199). -/
structure Push where
  home : Nat
  core : Nat
  slot : Nat
  word : Nat
  kind : PushKind
  /-- The subscription requests that its delivery answers (R233); a push that replaces another answers those too. -/
  answers : List Nat
  /-- The release write that enqueued it (R199). -/
  rel  : Option Release
  /-- The word it carries was poisoned (R313). -/
  poison : Bool
deriving DecidableEq, Repr

/-- The kinds of region action (R241), with what arming resolved (R242). -/
inductive Action where
  | arrive (cohort barrier : Nat)
  | release (launch group : Nat)
  | task (cohort : Nat) (record : List Byte)
  /-- The cohort is none once the launch it belonged to is no more. -/
  | flag (cohort : Option Nat) (offset : Nat) (val : DWord)
  | launch (queue : Nat) (ps : List Piece)
deriving DecidableEq, Repr

/-- One armed region (R243 to R248). -/
structure Region where
  launch  : Nat
  pa      : Nat
  length  : Nat
  total   : Nat
  rearm   : Bool
  action  : Action
  count   : Nat
  spent   : Bool
  actions : Nat
  /-- Parts that happen before the counted bytes (R201, R207). -/
  parts   : List Nat
deriving DecidableEq, Repr

/-- One write step of a home that meets armed regions and has not been counted (R201): the home, for each region's entry its generation and
the bytes inside it, and the parts that happen before the write. -/
structure CountStep where
  home  : Nat
  hits  : List (Nat × Word × Nat)
  parts : List Nat
deriving DecidableEq, Repr

/-- The arrival unit of a die (R192, R201): its entries, their generations, and the write steps to be counted, oldest first. -/
structure Arrival where
  entries : FMap Region
  gens    : FMap Word
  writes  : List CountStep
deriving DecidableEq, Repr

/-- A task record in a deque or on an overflow queue: its launch, its 64 bytes, and the parts that happen before its push (R207,
R292, R294). -/
structure TaskRec where
  launch : Nat
  bytes  : List Byte
  parts  : List Nat
deriving DecidableEq, Repr

/-- A core (R10): its deque, copy engine, matrix array and subscription directory. -/
structure Core where
  part    : Nat
  /-- Task records (R292, R294). -/
  deque   : List TaskRec
  jobs    : List Job
  mmas    : List Mma
  /-- (word, slot) pairs of the subscription directory (R234). -/
  subs    : List (Nat × Nat)
deriving DecidableEq, Repr

/-- A command queue of a partition (R283): where its parts lie in memory. -/
structure Queue where
  ring  : Nat
  k     : Nat
  tail  : Nat
  head  : Nat
  compl : Nat
  ctail : Nat
  /-- The TAIL of an overrun: packets before it are refused (R284). -/
  overrun : Option DWord
  /-- The launch accepted last: its handle and the HEAD at which it was accepted (R289). -/
  last    : Option (Nat × DWord)
deriving DecidableEq, Repr

/-- A ring that the command processor fills in a queue area (R305, R324): where its 2^k entries and its TAIL word lie, entries written
and entries that the host has read. -/
structure Ring where
  base : Nat
  k    : Nat
  tail : Nat
  put  : DWord
  got  : DWord
deriving DecidableEq, Repr

/-- A partition (R31). -/
structure Partition where
  cores   : List Nat
  queues  : FMap Queue
  /-- Key identities: DRAM key and vault keystream key. -/
  dkey    : Nat
  vkey    : Nat
  debug   : Bool
  /-- Physical ranges of the queue area and of the context area. -/
  qarea   : Nat × Nat
  carea   : Nat × Nat
  /-- HBM and LPDDR6 allocations as physical ranges. -/
  alloc   : List (Nat × Nat)
  /-- Minimum bandwidth shares in 64ths: of each home by its number, and of peer link `l` under 2^16 + l (R329). -/
  shares  : FMap Nat
  /-- The fault ring and the migration ring in the queue area (R305, R324). -/
  faults  : Ring
  migs    : Ring
  /-- Pages with an outstanding migration request (R324). -/
  migOut  : List Nat
  overflow : List TaskRec
deriving DecidableEq, Repr

/-- A channel key (R330). -/
structure Channel where
  p1  : Nat
  p2  : Nat
  key : Nat
deriving DecidableEq, Repr

/-- One patch-table entry (R332). -/
structure Patch where
  pat  : List Word
  msk  : List Word
  subst : List Word
deriving DecidableEq, Repr

/-- A TLB entry of a die (R143). -/
structure TlbEntry where
  part  : Nat
  root  : Nat
  trans : Trans
deriving DecidableEq, Repr

/-- A core's copy of one instruction word (R347), before patch-table substitution. -/
structure ILine where
  core : Nat
  part : Nat
  root : Nat
  va   : Nat
  word : Word
deriving DecidableEq, Repr

/-- The context of a cohort (R318): its waves by index, its jobs and the bytes and tags of its window by offset; its barriers are those of
the cohort. A saved one stands in the context area of its partition, where nothing but the firmware can read it (R317, R323). -/
structure Saved where
  cohort : Nat
  waves  : FMap Wave
  jobs   : List Job
  window : FMap Byte
  tags   : FMap Nat
  /-- Poisoned granules, by wave index and by offset in the window (R312). -/
  poison : List PoisonSite
  /-- Bytes of the window that a release wrote, by offset (R207). -/
  syncs  : List (Nat × Release)
deriving DecidableEq, Repr

/-- A firmware image (R331): its version, its bytes and its signature. -/
structure Image where
  version : Nat
  bytes   : List Byte
  sig     : List Byte
deriving DecidableEq, Repr

/-- What the management complex is doing (R331). -/
inductive BootState where
  /-- At reset, before the mask ROM has run. -/
  | reset
  | running (image : Image)
  /-- The image failed its check: only the configuration space and the mailbox are exposed. -/
  | failed
deriving DecidableEq, Repr

/-- A completion record (R285). -/
structure Completion where
  part   : Nat
  queue  : Nat
  tag    : DWord
  status : Nat
  reason : Nat
  faults : Nat
  left   : Nat
  wdog   : Nat
deriving DecidableEq, Repr

/-- The originator's view of a gang (R299). -/
structure Gang where
  id       : Nat
  members  : List Nat
  acks     : List Nat
  /-- Chips that have refused, each with its reason. -/
  nacks    : List (Nat × Nat)
  started  : List Nat
  cancelled : Bool
  sentStart : Bool
  aborted  : Bool
deriving DecidableEq, Repr

/-- The configuration of a partition (R31, R283, R305, R317, R324, R329). -/
structure PartConfig where
  cores  : List Nat
  queues : List (Nat × Nat × Nat)
  debug  : Bool
  qarea  : Nat × Nat
  carea  : Nat × Nat
  alloc  : List (Nat × Nat)
  shares : FMap Nat
  faultK : Nat
  migK   : Nat
deriving DecidableEq, Repr

/-- A host request that has entered the home of its page as a part and performs byte by byte (R197, R202). -/
structure HostPart where
  id    : Nat
  key   : Nat
  addr  : Nat
  pa    : Nat
  width : Nat
  /-- The bytes of a write; none for a read. -/
  data  : Option (List Byte)
  rem   : List Nat
  got   : FMap Byte
  poison : Bool
deriving DecidableEq, Repr

/-- The release that last wrote a byte, while parts that happen before it have still to perform (R207); space 0 is the vaults, 1 global
memory. -/
structure Sync where
  space : Nat
  addr  : Nat
  rel   : Release
deriving DecidableEq, Repr

/-- What a host read returned (R323): the bytes, or all-ones with poison. -/
structure HostReply where
  addr   : Nat
  data   : List Byte
  poison : Bool
deriving DecidableEq, Repr

/-- An attestation report (R334): the nonce, the image's digest, PATCHHASH, ISAVER, the partitions as configured, the channels
with the partitions they bind, and the signature. -/
structure Report where
  nonce : Nat
  image : List Byte
  patch : DWord
  isaver : DWord
  parts : FMap PartConfig
  channels : List (Nat × Nat × Nat)
  sig   : List Byte
deriving DecidableEq, Repr

/-- What may come next: a step of the ordering machine, the firmware or the host, or an instruction of the
strand in a lattice entry of a wave. -/
inductive Next where
  | event (i : Instr)
  | issue (slot entry : Nat)
deriving DecidableEq, Repr

/-- One use of a step-cache entry by a job (R254): its number, the physical address of the entry's header, and the instruction that made it. -/
structure Use where
  id     : Nat
  head   : Nat
  cohort : Nat
  widx   : Nat
  key    : List Nat
  num    : Nat
  /-- None while its launch runs; then the launches that ran beside it when it ended, which are not ordered after it (log 27). -/
  beside : Option (List Nat)
deriving DecidableEq, Repr

/-- The state of the module. -/
structure State where
  /-- What comes next, chosen outside the manual's rules (R191); when empty the step chooses. -/
  agenda   : List Next
  /-- The strand that issues: wave slot and lattice entry. -/
  cur      : Option (Nat × Nat)
  /-- The instruction just tried could not issue (R291). -/
  stall    : Bool
  /-- Counts steps; the free values depend on it. -/
  tick     : Nat
  /-- CLOCK of each die (R171). -/
  clock    : List DWord
  /-- Global memory by physical address (R136), vaults by die, core and offset (R131). -/
  gmem     : Memory
  vmem     : Memory
  /-- Layout tags of vault granules (R259). -/
  tags     : FMap Nat
  /-- The key each 64-byte line of memory and of the vaults was last written under (R147). -/
  gkeys    : FMap Nat
  vkeys    : FMap Nat
  /-- Next key identity the random number generator draws (R330). -/
  nextKey  : Nat
  /-- Poisoned granules (R312): 64-byte DRAM lines, 16-byte vault granules, 16-byte tile granules and lane registers. -/
  poisonG  : List Nat
  poisonV  : List Nat
  poisonT  : List (Nat × Nat)
  poisonR  : List (Nat × Nat × Nat)
  corrected : Nat
  /-- Homes: sequence counters, subscriptions and channels (R197, R199, R235). -/
  seqs     : FMap Word
  subs     : List Subscription
  pushes   : List Push
  loads    : List Load
  tlb      : FMap (List TlbEntry)
  icache   : List ILine
  arrivals : FMap Arrival
  cores    : FMap Core
  waves    : FMap Wave
  cohorts  : FMap Cohort
  launches : FMap Launch
  saved    : List Saved
  parts    : FMap Partition
  channels : FMap Channel
  /-- Bytes that a release wrote, and the next number of a part (R207). -/
  syncs    : List Sync
  nextPart : Nat
  /-- Page-table roots that launches of a partition have named, with the partition (R139). -/
  roots    : List (Nat × Nat)
  /-- The routing table (R327). -/
  routes   : FMap (BitVec 64)
  patches  : List Patch
  patchHash : DWord
  /-- Recoverable records handed to the firmware (R305). -/
  fwFaults : List FaultRec
  /-- Host requests under way (R197, R202), what host reads have returned, HDMBASE (R323), and the 64 KiB pages of device memory that
  the device owns (R210). -/
  hostq    : List HostPart
  hostReplies : List HostReply
  hdmBase  : Nat
  devPages : FMap Unit
  gangs    : FMap Gang
  boot     : BootState
  flash    : Image
  rollback : Nat
  reports  : List Report
  /-- Signatures of the identity key already spent (R334). -/
  signed   : Nat
  /-- Core clock in MHz (R336), quadrant stalls remaining, the failed links, and the end of the module. -/
  mhz      : Nat
  stalls   : FMap Nat
  links    : List Nat
  /-- Chips whose loss the firmware has reported to the fabric manager (R328). -/
  lost     : List Nat
  down     : Bool
  /-- What the debugger has read of halted waves: wave slot, context and barriers (R311, R318). -/
  debugReads : List (Nat × Saved × List Barrier)
  /-- Uses of step-cache entries (R254). -/
  uses     : List Use
  /-- Round-robin pointer of each quadrant (R33) and the wave a YIELD put last (R183). -/
  rr       : FMap Nat
  /-- The wave slot whose paired operation a quadrant has just issued and that has no partner yet (R291). -/
  pairs    : FMap Nat
deriving DecidableEq, Repr

/-- The module right after reset (R331): nothing is bound, no partition exists, the routing table is 0 (R327). The
fields the manual gives no reset value for are in assumption log entry 3. -/
def State.reset : State :=
  { agenda := [], cur := none, stall := false, tick := 0, clock := [0, 0, 0, 0],
    gmem := [], vmem := [], tags := [], gkeys := [], vkeys := [], nextKey := 1,
    poisonG := [], poisonV := [], poisonT := [], poisonR := [], corrected := 0,
    seqs := [], subs := [], pushes := [], loads := [], tlb := [], icache := [], arrivals := [],
    cores := [], waves := [], cohorts := [], launches := [], saved := [], parts := [], channels := [],
    syncs := [], nextPart := 0, roots := [], routes := [], patches := [], patchHash := 0x138DA80B2BDDB946, fwFaults := [], hostq := [], hostReplies := [],
    hdmBase := 0, devPages := [], gangs := [], boot := .reset, flash := ⟨1, Config.flashBytes, Config.flashSig⟩, rollback := 0,
    reports := [], signed := 0, mhz := 1050, stalls := [], links := [], lost := [], down := false,
    debugReads := [], uses := [], rr := [], pairs := [] }

end Sys2Proof.Machine
end

