-- ==== Sys2Proof/Machine/Maps.lean ====
section
/-! DEFINITION. Finite maps and memories in canonical form: keys strictly rising, one entry a key. A memory lists the bytes
that something has written; a byte that is not listed has no value, and a read of it gives a free value (R6). -/

namespace Sys2Proof

/-- The entry of a key. -/
def FMap.find {α : Type} : FMap α → Nat → Option α
  | [], _ => none
  | (k, a) :: t, n => if k = n then some a else FMap.find t n

/-- Sets the entry of a key. -/
def FMap.put {α : Type} : FMap α → Nat → α → FMap α
  | [], n, b => [(n, b)]
  | (k, a) :: t, n, b =>
    if n < k then (n, b) :: (k, a) :: t else if n = k then (n, b) :: t else (k, a) :: FMap.put t n b

/-- Removes the entry of a key. -/
def FMap.del {α : Type} : FMap α → Nat → FMap α
  | [], _ => []
  | (k, a) :: t, n => if k = n then t else (k, a) :: FMap.del t n

/-- Changes the entry of a key, if there is one. -/
def FMap.change {α : Type} (m : FMap α) (n : Nat) (f : α → α) : FMap α :=
  match m.find n with
  | some a => m.put n (f a)
  | none => m

/-- Changes every entry. -/
def FMap.mapv {α β : Type} (m : FMap α) (f : Nat → α → β) : FMap β :=
  List.map (fun e => (e.1, f e.1 e.2)) m

/-- Keeps the entries that a test admits. -/
def FMap.keep {α : Type} (m : FMap α) (f : Nat → α → Bool) : FMap α :=
  List.filter (fun e => f e.1 e.2) m

/-- Keys rise strictly from `lo` on. -/
def FMap.risingFrom {α : Type} : Nat → FMap α → Bool
  | _, [] => true
  | lo, (k, _) :: t => decide (lo ≤ k) && FMap.risingFrom (k + 1) t

namespace Machine

/-- The canonical form of a memory: addresses strictly rising. -/
def Memory.wf (m : Memory) : Bool := FMap.risingFrom 0 m

/-- The value of a byte, if something has written it. -/
def Memory.byte (m : Memory) (a : Nat) : Option Byte := FMap.find m a

/-- Writes a byte. -/
def Memory.set (m : Memory) (a : Nat) (b : Byte) : Memory := FMap.put m a b

/-- Makes a byte one that nothing has written. -/
def Memory.unset (m : Memory) (a : Nat) : Memory := FMap.del m a

/-- Writes bytes at the addresses given, in order. -/
def Memory.setAll (m : Memory) : List (Nat × Byte) → Memory
  | [] => m
  | (a, b) :: t => Memory.setAll (Memory.set m a b) t

/-- Unwrites the bytes at the addresses given. -/
def Memory.unsetAll (m : Memory) : List Nat → Memory
  | [] => m
  | a :: t => Memory.unsetAll (Memory.unset m a) t

/-- Unwrites every byte from `lo` to below `hi`. -/
def Memory.clear (m : Memory) (lo hi : Nat) : Memory :=
  FMap.keep m fun a _ => decide (a < lo ∨ hi ≤ a)

end Machine

/-- Puts what a list does not hold behind it. -/
def addNew {α : Type} [BEq α] (l bs : List α) : List α := bs.foldl (fun l b => if l.contains b then l else l ++ [b]) l

/-- `n` consecutive addresses. -/
def addrs : (a n : Nat) → List Nat
  | _, 0 => []
  | a, n + 1 => a :: addrs (a + 1) n

/-- The little-endian value of bytes (R2). -/
def leNat : List Byte → Nat
  | [] => 0
  | b :: t => b.toNat + 256 * leNat t

/-- The `n` low bytes of a value, little-endian (R2). -/
def leBytes : (n v : Nat) → List Byte
  | 0, _ => []
  | n + 1, v => BitVec.ofNat 8 v :: leBytes n (v / 256)

/-- The 32 lanes of a wave. -/
def lanes : List Nat :=
  [0, 1, 2, 3, 4, 5, 6, 7, 8, 9, 10, 11, 12, 13, 14, 15, 16, 17, 18, 19, 20, 21, 22, 23, 24, 25, 26, 27, 28, 29, 30, 31]

/-- The lanes of a mask, ascending. -/
def lanesOf (m : Word) : List Nat := lanes.filter fun l => m.getLsbD l

/-- The mask of the lanes that a test admits. -/
def maskOf (f : Nat → Bool) : Word :=
  lanes.foldr (fun l m => (m <<< 1) ||| (if f l then 1 else 0)) 0

/-- The value of one lane; a missing entry is 0. -/
def LaneVec.at (v : LaneVec) (l : Nat) : Word := List.getD v l 0

/-- Lanes of `m` from `new`, the others from `old`. -/
def LaneVec.merge (m : Word) (old new : LaneVec) : LaneVec :=
  lanes.map fun l => if m.getLsbD l then new.at l else old.at l

/-- Every lane a value. -/
def LaneVec.gen (f : Nat → Word) : LaneVec := lanes.map f

/-- `x` comes before `y` in drain order: the pre-order of the strand tree (R49). -/
def keyLt : List Nat → List Nat → Bool
  | [], [] => false
  | [], _ :: _ => true
  | _ :: _, [] => false
  | a :: x, b :: y => a < b || (a == b && keyLt x y)

/-- `x` is `y` or an ancestor of it in the strand tree. -/
def keyPrefix : List Nat → List Nat → Bool
  | [], _ => true
  | _ :: _, [] => false
  | a :: x, b :: y => a == b && keyPrefix x y

/-- The two words of a 64-bit value (R68). -/
def loWord (d : DWord) : Word := d.extractLsb' 0 32

/-- The upper word. -/
def hiWord (d : DWord) : Word := d.extractLsb' 32 32

/-- A pair's value (R68). -/
def pairOf (lo hi : Word) : DWord := hi ++ lo

/-- Rounds up to a multiple. -/
def roundUp (n k : Nat) : Nat := (n + k - 1) / k * k

end Sys2Proof
end

