-- ==== Sys2Proof/Machine/Ops.lean ====
section
/-! DEFINITION. The named operations over the state: registers, vault and global memory, barriers, the lattice, and taking
a trap (R302 to R310) with the return from it. -/

namespace Sys2Proof.Machine

/-- The outcome of a step. -/
abbrev Out := Host.Outcome State Fault Refusal

/-! ## Where things are -/

/-- The core, counted through the module, of a wave slot (R296). -/
def slotCore (slot : Nat) : Nat := slot / 32

/-- The key of a cohort: launch handle and index. -/
def cohortKey (launch index : Nat) : Nat := launch * 2 ^ 32 + index

/-- The first vault address of a core (R131). -/
def vaultBase (core : Nat) : Nat := core * Config.vaultSpan

/-- The core a cohort is bound on, counted through the module. -/
def Cohort.place (c : Cohort) : Nat := 64 * c.die + c.core

/-- The first vault address of a cohort's window. -/
def Cohort.winBase (c : Cohort) : Nat := vaultBase c.place + c.wbase

/-- The key of a cohort. -/
def Cohort.key (c : Cohort) : Nat := cohortKey c.launch c.index

/-- Changes a wave. -/
def State.modWave (s : State) (slot : Nat) (f : Wave → Wave) : State := { s with waves := s.waves.change slot f }
/-- Changes a cohort. -/
def State.modCohort (s : State) (k : Nat) (f : Cohort → Cohort) : State := { s with cohorts := s.cohorts.change k f }
/-- Changes a launch. -/
def State.modLaunch (s : State) (h : Nat) (f : Launch → Launch) : State := { s with launches := s.launches.change h f }
/-- Changes a core. -/
def State.modCore (s : State) (c : Nat) (f : Core → Core) : State := { s with cores := s.cores.change c f }
/-- Changes a partition. -/
def State.modPart (s : State) (p : Nat) (f : Partition → Partition) : State := { s with parts := s.parts.change p f }

/-- The strand of a lattice entry. -/
def Wave.run (w : Wave) (entry : Nat) : Option Run :=
  match w.lattice.find entry with
  | some e => e.run
  | none => none

/-- Sets the strand of a lattice entry. -/
def Wave.setRun (w : Wave) (entry : Nat) (r : Run) : Wave :=
  { w with lattice := w.lattice.change entry fun e => { e with run := some r } }

/-- Changes every strand of a wave. -/
def Wave.mapRuns (w : Wave) (f : Run → Run) : Wave :=
  { w with lattice := w.lattice.mapv fun _ e => { e with run := e.run.map f } }

/-- Every strand of a wave that issues (R48): one for each lattice entry that is not a frame. -/
def Wave.runs (w : Wave) : List (Nat × Run) :=
  w.lattice.filterMap fun e => e.2.run.map fun r => (e.1, r)

/-- A wave that still counts: it has neither retired nor been killed. -/
def Wave.alive (w : Wave) : Bool := w.state != .killed

/-! ## Registers (R22, R26, R34, R69) -/

/-- One lane of a lane register. -/
def Wave.lane (w : Wave) (r l : Nat) : Word :=
  match w.v.find r with
  | some v => v.at l
  | none => 0

/-- A lane register of all lanes. -/
def Wave.vec (w : Wave) (r : Nat) : LaneVec := LaneVec.gen (w.lane r)

/-- The pair `r`, `r + 1` of a lane (R68). -/
def Wave.pair (w : Wave) (r l : Nat) : DWord := pairOf (w.lane r l) (w.lane (r + 1) l)

/-- A lane predicate; p0 reads true (R69). -/
def Wave.pred (w : Wave) (p : Nat) : Word :=
  if p = 0 then 0xFFFFFFFF else match w.p.find p with
    | some m => m
    | none => 0

/-- A uniform predicate of a strand; q0 reads true (R69). -/
def Run.qreg (r : Run) (n : Nat) : Bool := n == 0 || r.q.getLsbD n

/-- A uniform register: s0 to s47 of the wave, s48 to s63 of the strand (R34). -/
def sreg (w : Wave) (r : Run) (n : Nat) : DWord :=
  ((if n < 48 then w.s.find n else r.priv.find n)).getD 0

/-- A translation register. -/
def Wave.xreg (w : Wave) (n : Nat) : XReg :=
  (w.x.find n).getD ⟨false, 0, 0, none, false⟩

/-- A tile's shape word; at bind 4-byte elements, 64 rows, 256-byte rows (R24). -/
def Wave.shapeOf (w : Wave) (t : Nat) : BitVec 14 := (w.shape.find t).getD 0x2102

/-- A tile's layout word (R257). -/
def Wave.layoutOf (w : Wave) (t : Nat) : BitVec 4 := (w.layout.find t).getD 0

/-- Element width code (R257). -/
def shapeEW (s : BitVec 14) : Nat := (s.extractLsb' 0 2).toNat
/-- Rows (R257). -/
def shapeRows (s : BitVec 14) : Nat := (s.extractLsb' 2 7).toNat
/-- Row bytes (R256, R257). -/
def shapeRB (s : BitVec 14) : Nat := 16 * (s.extractLsb' 9 5).toNat

/-- Elements of a row (R256). -/
def shapeCols (s : BitVec 14) : Nat := shapeRB s / 2 ^ shapeEW s

/-- Key of a tile byte in the wave's tile memory. -/
def tileAddr (t o : Nat) : Nat := t * 16384 + o

/-- A tile byte; one that nothing has written is unspecified (R24). -/
def Wave.tileByte (tick slot : Nat) (w : Wave) (t o : Nat) : Byte :=
  (Memory.byte w.tmem (tileAddr t o)).getD (Config.freeByte tick (2 + slot) (tileAddr t o))

/-- Sets a bit. -/
def setBit {n : Nat} (v : BitVec n) (i : Nat) (b : Bool) : BitVec n :=
  if b then v ||| BitVec.twoPow n i else v &&& ~~~ BitVec.twoPow n i

/-- Performs one register write. A dead lane's registers never change (R15); p0 and q0 discard (R69). -/
def applyWr (w : Wave) (r : Run) : Wr → Wave × Run
  | .v n m x => ({ w with v := w.v.put n (LaneVec.merge (m &&& w.live) (w.vec n) x) }, r)
  | .p n m x =>
    if n = 0 then (w, r)
    else
      let k := m &&& w.live
      ({ w with p := w.p.put n ((w.pred n &&& ~~~k) ||| (x &&& k)) }, r)
  | .s n x => if n < 48 then ({ w with s := w.s.put n x }, r) else (w, { r with priv := r.priv.put n x })
  | .q n b => if n = 0 then (w, r) else (w, { r with q := setBit r.q n b })
  | .x n x => ({ w with x := w.x.put n x }, r)
  | .t t bs => ({ w with tmem := Memory.setAll w.tmem (bs.map fun b => (tileAddr t b.1, b.2)) }, r)
  | .fp f => ({ w with fpstat := w.fpstat ||| f }, r)
  | .skip n => ({ w with skipcnt := w.skipcnt + n }, r)

/-- Performs register writes in order. -/
def applyWrs (w : Wave) (r : Run) : List Wr → Wave × Run
  | [] => (w, r)
  | x :: t => applyWrs (applyWr w r x).1 (applyWr w r x).2 t

/-- The register lanes a write covers (R312). -/
def Wr.lanes (slot : Nat) : Wr → List (Nat × Nat × Nat)
  | .v n m _ => (lanesOf m).map fun l => (slot, n, l)
  | _ => []

/-- The tile granules a write covers whole (R312). -/
def Wr.granules : Wr → List Nat
  | .t tile bs =>
    (bs.filter fun b => b.1 % 16 == 0 && (addrs b.1 16).all fun o => bs.any (·.1 == o)).map fun b => tileAddr tile b.1 / 16
  | _ => []

/-- Performs register writes of a strand. A register lane or tile granule that a write covers is poisoned no more (R312). -/
def State.writeRegs (s : State) (slot entry : Nat) (ws : List Wr) : State :=
  match s.waves.find slot with
  | none => s
  | some w =>
    match w.run entry with
    | none => s
    | some r =>
      let x := applyWrs w r ws
      { s with waves := s.waves.put slot (x.1.setRun entry x.2),
               poisonR := if s.poisonR.isEmpty then [] else s.poisonR.filter fun g => !(ws.any fun a => (a.lanes slot).contains g),
               poisonT := if s.poisonT.isEmpty then [] else s.poisonT.filter fun g => !(g.1 == slot && ws.any fun a => a.granules.contains g.2) }

/-! ## Vault memory (R131, R147, R195, R259) -/

/-- The vault keystream key of a core's partition (R31, R147); 0 where the core has none. -/
def State.vkeyOf (s : State) (core : Nat) : Nat :=
  match s.cores.find core with
  | none => 0
  | some c =>
    match s.parts.find c.part with
    | some p => p.vkey
    | none => 0

/-- A vault address lies in a bound window (R131). -/
def State.inWindow (s : State) (va : Nat) : Bool :=
  s.cohorts.any fun e =>
    !e.2.freed && !e.2.preempted && decide (e.2.winBase ≤ va) && decide (va < e.2.winBase + e.2.wsize)

/-- A byte of a vault as its core reads it. Outside every bound window, under another key, or where nothing has
written, its value is free (R6, R25, R131, R147). -/
def State.vaultByte (s : State) (va : Nat) : Byte :=
  if s.inWindow va && s.vkeys.find (va / 64) == some (s.vkeyOf (va / Config.vaultSpan)) then
    (Memory.byte s.vmem va).getD (Config.freeByte s.tick 0 va)
  else Config.freeByte s.tick 0 va

/-- Writes one vault byte. The rest of a line last written under another key becomes unspecified (R147). -/
def State.vaultPut (s : State) (va : Nat) (b : Byte) : State :=
  let key := s.vkeyOf (va / Config.vaultSpan)
  if s.vkeys.find (va / 64) = some key then { s with vmem := Memory.set s.vmem va b }
  else { s with vmem := Memory.set (Memory.clear s.vmem (va / 64 * 64) (va / 64 * 64 + 64)) va b,
                vkeys := s.vkeys.put (va / 64) key }

/-- Writes vault bytes in order. -/
def State.vaultPuts (s : State) : List (Nat × Byte) → State
  | [] => s
  | (a, b) :: t => State.vaultPuts (s.vaultPut a b) t

/-- What releases have written, after a write of some bytes of a space: none of them holds an earlier release's value, and all hold
that of the release that wrote them, if anything before it has still to perform (R207). -/
def rewritten (syncs : List Sync) (space : Nat) (as : List Nat) (rel : Option Release) : List Sync :=
  (if syncs.isEmpty then [] else syncs.filter fun y => !(y.space == space && as.contains y.addr)) ++
  match rel with
  | some x => if x.parts.isEmpty then [] else as.map fun a => ⟨space, a, x⟩
  | none => []

/-- One write at a bank (R195), by the release `rel` if it is one. A granule it covers whole is poisoned no more (R312). -/
def State.vaultWrite (s : State) (bs : List (Nat × Byte)) (rel : Option Release := none) : State :=
  let t := s.vaultPuts bs
  { t with
    poisonV := if t.poisonV.isEmpty then [] else
      t.poisonV.filter fun g => !((addrs (16 * g) 16).all fun a => bs.any (·.1 == a)),
    syncs := rewritten t.syncs 0 (bs.map (·.1)) rel }

/-- Bytes of a vault. -/
def State.vaultBytes (s : State) (va n : Nat) : List Byte := (addrs va n).map s.vaultByte

/-- The layout tag of the granule of a vault address (R259). -/
def State.tagOf (s : State) (va : Nat) : Nat := (s.tags.find (va / 4096)).getD 0

/-- Sets the layout tags of the granules that bytes lie in (R259). -/
def State.setTags (s : State) (tag : Nat) : List Nat → State
  | [] => s
  | va :: t => State.setTags { s with tags := if tag = 0 then s.tags.del (va / 4096) else s.tags.put (va / 4096) tag } tag t

/-! ## Global memory (R136, R137, R147, R197) -/

/-- A physical address in host memory (R136). -/
def isHost (pa : Nat) : Bool := pa / 2 ^ 48 == Config.hostChip

/-- The home of a physical address of a chip (R137): chip × 64 + stack, or + 16 + controller. -/
def homeOf (pa : Nat) : Option Nat :=
  let chip := pa / 2 ^ 48
  let a := pa % 2 ^ 48
  if a < 0x10000000000 then
    if a % 0x4000000000 < Config.hbmBytes then some (chip * 64 + 4 * (a / 0x4000000000) + a / 2 ^ 16 % 4) else none
  else if 0x100000000000 ≤ a ∧ a < 0x120000000000 then
    let b := a - 0x100000000000
    if b % 0x8000000000 < Config.lpddrBytes then some (chip * 64 + 16 + 2 * (b / 0x8000000000) + a / 2 ^ 16 % 2) else none
  else none

/-- The die of a home. -/
def homeDie (h : Nat) : Nat := if h % 64 < 16 then h % 64 / 4 else (h % 64 - 16) / 2

/-- The chip code of the module's own memory: the entry with SELF and V (R327). -/
def State.selfChip (s : State) : Option Nat :=
  (s.routes.find? fun e => e.2.getLsbD 30 && e.2.getLsbD 31).map (·.1)

/-- A chip can be reached (R327). -/
def State.reachable (s : State) (chip : Nat) : Bool :=
  match s.routes.find chip with
  | some e => e.getLsbD 31
  | none => false

/-- A chip can be reached over some link, or is this one (R328). -/
def State.linked (s : State) (chip : Nat) : Bool :=
  match s.routes.find chip with
  | some e => e.getLsbD 30 || e.extractLsb' 0 16 != 0
  | none => false

/-- A chip can be reached over some link, or is this one, or is the host (R328). -/
def State.hasLink (s : State) (pa : Nat) : Bool := isHost pa || s.linked (pa / 2 ^ 48)

/-- A byte of global memory as a reader with a memory key finds it (R147). -/
def State.gbyte (s : State) (key pa : Nat) : Byte :=
  if isHost pa || s.gkeys.find (pa / 64) == some key then (Memory.byte s.gmem pa).getD (Config.freeByte s.tick 1 pa)
  else Config.freeByte s.tick 1 pa

/-- Bytes of global memory. -/
def State.gbytes (s : State) (key pa n : Nat) : List Byte := (addrs pa n).map (s.gbyte key)

/-- Bytes of global memory as code fetches and page-table walks read them: all-ones from a chip that no link leads to (R328). -/
def State.readBytes (s : State) (key pa n : Nat) : List Byte :=
  if s.hasLink pa then s.gbytes key pa n else List.replicate n 0xFF

/-- Writes one byte of global memory under a key. -/
def State.gput (s : State) (key pa : Nat) (b : Byte) : State :=
  if isHost pa || s.gkeys.find (pa / 64) == some key then { s with gmem := Memory.set s.gmem pa b }
  else { s with gmem := Memory.set (Memory.clear s.gmem (pa / 64 * 64) (pa / 64 * 64 + 64)) pa b,
                gkeys := s.gkeys.put (pa / 64) key }

/-- Writes bytes of global memory in order. -/
def State.gputs (s : State) (key : Nat) : List (Nat × Byte) → State
  | [] => s
  | (a, b) :: t => State.gputs (s.gput key a b) key t

/-- A value-carrying push for a slot in a channel (R199). -/
def Push.valueFor (home core slot : Nat) (p : Push) : Bool :=
  p.home == home && p.core == core && p.slot == slot && match p.kind with
    | .value .. => true
    | _ => false

/-- Removes the value-carrying pushes for a slot in a channel (R199). -/
def dropValues (home core slot : Nat) (ps : List Push) : List Push := ps.filter fun p => !p.valueFor home core slot

/-- Enqueues a value-carrying push: an earlier one for its slot still queued is removed, and the new one answers what that one
would have answered (R199, R233). The value of a poisoned word carries the poison (R313). -/
def State.pushValue (s : State) (home : Nat) (b : Subscription) (val : DWord) (seq : Word) (restored : Bool)
    (answers : List Nat := []) (rel : Option Release := none) (poison : Bool := false) : State :=
  { s with pushes := dropValues home b.core b.slot s.pushes ++ [⟨home, b.core, b.slot, b.word, .value val seq restored,
      ((s.pushes.filter (Push.valueFor home b.core b.slot)).flatMap (·.answers)) ++ answers, rel, poison⟩] }

/-- The 8-byte word at a word number. -/
def State.gword (s : State) (key word : Nat) : DWord := BitVec.ofNat 64 (leNat (s.gbytes key (word * 8) 8))

/-- A word of global memory is poisoned (R312). -/
def State.poisonedWord (s : State) (word : Nat) : Bool := s.poisonG.contains (word / 8)

/-- Advances a word's sequence counter and enqueues a push to every subscriber that is not dormant (R197, R239). -/
def State.pushWord (s : State) (home key word : Nat) (rel : Option Release := none) : State :=
  let seq := (s.seqs.find word).getD 0 + 1
  (s.subs.filter fun b => b.word == word && !b.dormant).foldl
    (fun t b => t.pushValue home b (s.gword key word) seq false [] rel (s.poisonedWord word)) { s with seqs := s.seqs.put word seq }

/-- One write step of a home (R197), by the release `rel` if it is one: the bytes, the counters and pushes of the words it changes, the
bytes the arrival unit has still to count with the parts `hb` that happen before them (R201, R207), and lines of memory that it
covers whole and that are poisoned no more (R312). -/
def State.homeWrite (s : State) (key : Nat) (bs : List (Nat × Byte)) (rel : Option Release := none) (hb : List Nat := []) : State :=
  match bs with
  | [] => s
  | (pa, _) :: _ =>
    let home := (homeOf pa).getD 0
    let words := (bs.map (·.1 / 8)).eraseDups.filter fun n => s.subs.any (·.word == n)
    let changed := words.filter fun n => bs.any fun b => b.1 / 8 == n && s.gbyte key b.1 != b.2
    let put := { s.gputs key bs with
      poisonG := if s.poisonG.isEmpty then [] else s.poisonG.filter fun g => !((addrs (64 * g) 64).all fun a => bs.any (·.1 == a)) }
    let t := changed.foldl (fun u n => u.pushWord home key n rel) put
    let die := homeDie home
    { t with
      arrivals := t.arrivals.change die fun a =>
        let hits := a.entries.filterMap fun e =>
          let n := bs.countP fun b => decide (e.2.pa ≤ b.1) && decide (b.1 < e.2.pa + e.2.length)
          if n = 0 then none else some (e.1, (a.gens.find e.1).getD 0, n)
        if hits.isEmpty || s.selfChip != some (pa / 2 ^ 48) then a else { a with writes := a.writes ++ [⟨home, hits, hb⟩] },
      syncs := rewritten t.syncs 1 (bs.map (·.1)) rel }

/-! ## What happens before what (R196, R203 to R207) -/

/-- An access with key `k` and number `m` is earlier than what the strand does at `num` (R196). -/
def earlierThan (key : List Nat) (num : Nat) (covers : List (List Nat)) (jm : Option (List Nat)) (k : List Nat) (m : Nat) : Bool :=
  (keyPrefix k key && decide (m < num)) || covers.any (fun p => keyPrefix p k) ||
  match jm with
  | some b => keyLt k b
  | none => false

/-- The part has performed: its home or the host port has performed it. -/
def Part.performed (p : Part) : Bool := p.rem.isEmpty

/-- A part has performed at a scope (R204); a part in the post queue has drained. -/
def Part.performedAt (p : Part) (scope : BitVec 3) : Bool := scope.toNat < 2 || (p.performed && !(scope == 7 && p.unacked))

/-- Part number `id` has not performed at a scope, in whichever post queue it stands (R204). -/
def State.pendingAt (s : State) (scope : BitVec 3) (id : Nat) : Bool :=
  (s.waves.any fun e => e.2.pq.any fun p => p.id == id && !p.performedAt scope) ||
  s.saved.any fun v => v.waves.any fun e => e.2.pq.any fun p => p.id == id && !p.performedAt scope

/-- Some part of a list has not performed at a scope. -/
def State.anyPending (s : State) (scope : BitVec 3) (ids : List Nat) : Bool := ids.any (s.pendingAt scope)

/-- Number `id` still matters for what happens before what (R207): a part that has not performed at every scope, or a use of a step-cache
entry (R254). -/
def State.matters (s : State) (id : Nat) : Bool := s.pendingAt 7 id || s.uses.any (·.id == id)

/-- The numbers of a list that still matter. -/
def State.stillPending (s : State) (ids : List Nat) : List Nat := (ids.eraseDups).filter s.matters

/-- The parts that happen before an access of a wave that is no release itself (R207). -/
def Wave.precede (w : Wave) (key : List Nat) (num : Nat) (covers : List (List Nat)) (jm : Option (List Nat)) : List Nat :=
  addNew [] ((w.before.filter fun b => b.all && earlierThan key num covers jm b.key b.num).map (·.part))

/-- The parts that happen before a release of a wave (R207): those its strand has made, and what happens before those. -/
def Wave.released (w : Wave) (key : List Nat) (num : Nat) (covers : List (List Nat)) (jm : Option (List Nat)) : List Nat :=
  addNew [] (((w.pq.filter fun p => earlierThan key num covers jm p.key p.num).map (·.id)) ++
    (w.before.filter fun b => earlierThan key num covers jm b.key b.num).map (·.part))

/-- Adds to what happens before the accesses of a wave; what has performed everywhere is left out. -/
def State.addBefore (s : State) (slot : Nat) (bs : List Before) : State :=
  if bs.isEmpty then s
  else s.modWave slot fun w => { w with before := (addNew w.before bs).filter fun b => s.matters b.part }

/-- Parts happen before everything that a strand does after its instruction number `num` (R207). -/
def State.acquireParts (s : State) (slot : Nat) (key : List Nat) (num : Nat) (ids : List Nat) : State :=
  s.addBefore slot (ids.map fun i => ⟨key, num, i, true, 0, 0, 0⟩)

/-- The agent that the strand of a wave with a key is (R203). -/
def State.agent (s : State) (w : Wave) (key : List Nat) : Agent :=
  match s.cohorts.find w.cohort with
  | none => ⟨w.cohort, w.widx, w.cohort, 0, key⟩
  | some c => ⟨w.cohort, w.widx, cohortKey c.launch (c.index / max 1 ((s.launches.find c.launch).map (·.clsz) |>.getD 1)), c.die, key⟩

/-- `b` lies within a scope of `a` (R203). -/
def Agent.within (scope : BitVec 3) (a b : Agent) : Bool :=
  match scope.toNat with
  | 0 => a.cohort == b.cohort && a.widx == b.widx && a.strand == b.strand
  | 1 => a.cohort == b.cohort && a.widx == b.widx
  | 2 => a.cohort == b.cohort
  | 3 => a.cluster == b.cluster
  | 4 => a.die == b.die
  | _ => true

/-- A release and an acquire of the scope by an agent lie within each other's scope, as they must to synchronise (R201, R207). -/
def Release.reaches (r : Release) (scope : BitVec 3) (me : Agent) : Bool := r.who.within r.scope me && (r.any || me.within scope r.who)

/-- What an acquire of a strand that reads bytes of a space acquires (R207): the parts before the releases that wrote them, each within the
other's scope. -/
def State.synced (s : State) (w : Wave) (key : List Nat) (scope : BitVec 3) (space : Nat) (as : List Nat) : List Nat :=
  if s.syncs.isEmpty then [] else
  (s.syncs.filter fun y => y.space == space && as.contains y.addr && y.rel.reaches scope (s.agent w key)).flatMap (·.rel.parts)

/-- The release that an access marked so performs as, with what has still to perform before it (R207). -/
def State.releaseOf (s : State) (w : Wave) (key : List Nat) (m : Marks) (ids : List Nat) : Option Release :=
  if m.rel then some ⟨m.scope, s.agent w key, s.stillPending ids, false⟩ else none

/-- Strands of a wave wait no longer, and what happened before what released them happens before what they do next (R176, R179,
R180, R207). -/
def Wave.wakeRuns (w : Wave) (ids : List Nat) (f : Run → Option Run) : Wave :=
  let v := w.mapRuns fun r => (f r).getD r
  if ids.isEmpty then v else
  { v with before := w.before ++ (w.runs.filter fun r => (f r.2).isSome).flatMap fun r =>
      ids.map fun i => ⟨r.2.key, w.issued - 1, i, true, 0, 0, 0⟩ }

/-! ## Barriers (R175 to R180) -/

/-- PHASE minus a phase lies in [1, 2^31), or STATUS is not 0: the wait ends (R178). -/
def Barrier.open (b : Barrier) (phase : Word) : Bool :=
  b.status != 0 || (1 ≤ (b.phase - phase).toNat && (b.phase - phase).toNat < 2 ^ 31)

/-- Completes phases while the counts satisfy them (R176). -/
def Barrier.settle : (fuel : Nat) → Barrier → Barrier
  | 0, b => b
  | n + 1, b =>
    if b.wexp ≤ b.wcnt ∧ b.eexp ≤ b.ecnt ∧ b.pend = 0 ∧ (b.wexp ≠ 0 ∨ b.eexp ≠ 0) then
      Barrier.settle n { b with phase := b.phase + 1, wcnt := b.wcnt - b.wexp, ecnt := b.ecnt - b.eexp }
    else b

/-- Completes every phase that can complete. -/
def Barrier.complete (b : Barrier) : Barrier := Barrier.settle (b.wcnt + b.ecnt + 1) b

/-- Counts a wave arrival, saturating (R175). -/
def Barrier.arriveWave (b : Barrier) : Barrier := { b with wcnt := min (b.wcnt + 1) 0xFFFF }

/-- Counts an engine arrival, saturating (R175). -/
def Barrier.arriveEngine (b : Barrier) : Barrier := { b with ecnt := min (b.ecnt + 1) 0xFFFF }

/-- Barrier `k` of a cohort. -/
def Cohort.bar (c : Cohort) (k : Nat) : Barrier := c.barriers.getD k ⟨c.nwaves, 0, 0, 0, 0, 0, 0, []⟩

/-- Ends a wait of a strand and writes its uniform predicate. -/
def Run.wake (r : Run) (q : Nat) (b : Bool) : Run :=
  { r with wait := none, q := if q = 0 then r.q else setBit r.q q b }

/-- The strand once its wait on barrier `k` is over; qD tells whether STATUS is 0 (R178). -/
def Run.wakeBarrier (k : Nat) (b : Barrier) (r : Run) : Option Run :=
  match r.wait with
  | some (.barrier j ph q) => if j = k ∧ b.open ph then some (r.wake q (b.status == 0)) else none
  | _ => none

/-- Changes a named barrier, completes its phases and releases the waves that wait on them; `ids` happen before the arrival that
the change is (R176, R207). -/
def State.barrier (s : State) (cohort k : Nat) (f : Barrier → Barrier) (ids : List Nat := []) : State :=
  match s.cohorts.find cohort with
  | none => s
  | some c =>
    let b := { (f (c.bar k)).complete with parts := s.stillPending ((c.bar k).parts ++ ids) }
    { s with cohorts := s.cohorts.put cohort { c with barriers := c.barriers.set k b },
             waves := s.waves.mapv fun _ w => if w.cohort = cohort then w.wakeRuns b.parts (Run.wakeBarrier k b) else w,
             saved := s.saved.map fun v => if v.cohort = cohort then
               { v with waves := v.waves.mapv fun _ w => w.wakeRuns b.parts (Run.wakeBarrier k b) } else v }

/-- Gives every named barrier of a cohort a status and releases its waiters (R177). -/
def State.abandon (s : State) (cohort status : Nat) : State :=
  match s.cohorts.find cohort with
  | none => s
  | some c =>
    let bs := c.barriers.map fun b => { b with status := status }
    { s with cohorts := s.cohorts.put cohort { c with barriers := bs },
             waves := s.waves.mapv fun _ w => if w.cohort = cohort then w.mapRuns fun r =>
               match r.wait with
               | some (.barrier _ _ q) => r.wake q (status == 0)
               | _ => r
             else w }

/-- The wave indices of a cohort that have neither retired nor been killed. -/
def Cohort.pendingWaves (c : Cohort) : List Nat := (List.range c.nwaves).filter fun i => !c.retired.contains i

/-- A cohort has arrived at a group's or cluster's phase: each wave that has not retired has executed the barrier for
it (R179, R180). -/
def Cohort.arrived (c : Cohort) (counts : FMap Nat) (key phase : Nat) : Bool :=
  c.pendingWaves.all fun i => decide (phase < (counts.find (key * 16 + i)).getD 0)

/-- Ends the waits on a group phase or cluster phase of the cohorts of a launch. -/
def State.wakeWaits (s : State) (launch : Nat) (ids : List Nat) (f : Cohort → Run → Option Run) : State :=
  let wake (w : Wave) : Wave := match s.cohorts.find w.cohort with
    | some c => if c.launch = launch then w.wakeRuns ids (f c) else w
    | none => w
  { s with waves := s.waves.mapv fun _ w => wake w, saved := s.saved.map fun v => { v with waves := v.waves.mapv fun _ w => wake w } }

/-- Completes a group's phase when every member has arrived and a needed RELEASE is held, and releases the waiters. A group whose members' waves have
all retired has arrived at every later phase, so each RELEASE that it holds completes one (R179). -/
def State.settleGroup (s : State) (launch g : Nat) : State :=
  match s.launches.find launch with
  | none => s
  | some la =>
    match la.groups.find g with
    | none => s
    | some gr =>
      let ms := gr.members.filterMap fun i => s.cohorts.find (cohortKey launch i)
      let all := ms.length == gr.members.length && ms.all fun c => c.arrived c.gbar g gr.phase
      let n := if ms.any fun c => !c.pendingWaves.isEmpty then 1 else if gr.rwait then gr.held else 0
      if all && n != 0 && (!gr.rwait || gr.held != 0) then
        let gr' := { gr with phase := gr.phase + n, held := if gr.rwait then gr.held - n else gr.held, parts := s.stillPending gr.parts }
        (s.modLaunch launch fun l => { l with groups := l.groups.put g gr' }).wakeWaits launch gr'.parts fun _ r =>
          match r.wait with
          | some (.group h ph q) => if h = g ∧ ph < gr'.phase then some (r.wake q (!gr.lost)) else none
          | _ => none
      else s

/-- The cluster of a cohort (R180). -/
def Launch.clusterOf (la : Launch) (index : Nat) : Nat := index / la.clsz

/-- The barrier of a cluster; before any cohort of it has arrived, phase 0. -/
def Launch.cluster (la : Launch) (cl : Nat) : Cluster := (la.clusters.find cl).getD ⟨0, false, []⟩

/-- Cohort indices of a cluster. -/
def Launch.clusterMembers (la : Launch) (cl : Nat) : List Nat := (List.range la.clsz).map fun i => cl * la.clsz + i

/-- Completes a cluster's phase when every member has arrived or retired (R180). -/
def State.settleCluster (s : State) (launch cl : Nat) : State :=
  match s.launches.find launch with
  | none => s
  | some la =>
    let st := la.cluster cl
    let ms := (la.clusterMembers cl).filterMap fun i => s.cohorts.find (cohortKey launch i)
    if ms.length == la.clsz && ms.all (fun c => c.arrived c.cbar 0 st.phase) && ms.any (fun c => !c.pendingWaves.isEmpty) then
      let st' := { st with phase := st.phase + 1, parts := s.stillPending st.parts }
      (s.modLaunch launch fun l => { l with clusters := l.clusters.put cl st' }).wakeWaits launch st'.parts
        fun c r => match r.wait with
          | some (.cluster ph q) => if la.clusterOf c.index = cl ∧ ph < st'.phase then some (r.wake q (!st.lost)) else none
          | _ => none
    else s

/-- Settles the groups and the cluster of a cohort, after one of its waves has arrived, retired or died. -/
def State.settleMeets (s : State) (launch index : Nat) : State :=
  match s.launches.find launch with
  | none => s
  | some la =>
    let t := la.groups.foldl (fun u g => if g.2.members.contains index then u.settleGroup launch g.1 else u) s
    t.settleCluster launch (la.clusterOf index)

/-- A cohort took a fatal fault: its groups and its cluster are lost and their waiters released with qD := 0 (R179, R180). -/
def State.loseMeets (s : State) (launch index : Nat) : State :=
  match s.launches.find launch with
  | none => s
  | some la =>
    let lostG := (la.groups.filter fun g => g.2.members.contains index).map (·.1)
    let cl := la.clusterOf index
    let st := la.cluster cl
    (s.modLaunch launch fun l =>
      { l with groups := l.groups.mapv fun k g => if lostG.contains k then { g with lost := true } else g,
               clusters := l.clusters.put cl { st with lost := true } }).wakeWaits launch [] fun c r =>
      match r.wait with
      | some (.group g _ q) => if lostG.contains g then some (r.wake q false) else none
      | some (.cluster _ q) => if la.clusterOf c.index = cl then some (r.wake q false) else none
      | _ => none

/-! ## The lattice (R34 to R46) -/

/-- The frame at a place: lattice entry and depth. -/
def Wave.frame (w : Wave) (at_ : Nat × Nat) : Option Frame :=
  match w.lattice.find at_.1 with
  | some e => e.frames[at_.2]?
  | none => none

/-- Changes the frame at a place. -/
def Wave.modFrame (w : Wave) (at_ : Nat × Nat) (f : Frame → Frame) : Wave :=
  { w with lattice := w.lattice.change at_.1 fun e => { e with frames := e.frames.modify at_.2 f } }

/-- How many frames are open in a wave. -/
def Wave.depth (w : Wave) : Nat := (w.lattice.map fun e => e.2.frames.length).sum

/-- One level of nesting above a strand: its role under a frame, and what it has joined there. -/
structure Level where
  role  : Role
  frame : Frame
  jv    : BitVec 128
  jp    : BitVec 8
deriving DecidableEq, Repr

/-- The levels above a strand, innermost first (R40). -/
def Wave.levels (w : Wave) : (fuel : Nat) → Role → Option (Nat × Nat) → BitVec 128 → BitVec 8 → List Level
  | 0, _, _, _, _ => []
  | _ + 1, _, none, _, _ => []
  | n + 1, role, some up, jv, jp =>
    match w.frame up with
    | none => []
    | some f => ⟨role, f, jv, jp⟩ :: w.levels n f.role f.up f.joinedV f.joinedP

/-- The levels above a strand of the wave. -/
def Wave.levelsOf (w : Wave) (r : Run) : List Level := w.levels (w.depth + 1) r.role r.up r.joinedV r.joinedP

/-- Changes the strand of a lattice entry. -/
def State.modRun (s : State) (slot entry : Nat) (f : Run → Run) : State :=
  s.modWave slot fun w => match w.run entry with
    | some r => w.setRun entry (f r)
    | none => w

/-- A role that is an arm's or a call strand's. -/
def Role.isArm : Role → Bool
  | .arm _ => true
  | _ => false

/-- An arm among a strand and its ancestors (R45, R55). -/
def belowArm (ls : List Level) : Bool := ls.any fun l => l.role.isArm

/-- Bit `n` of a window that grants groups of eight registers (R38). -/
def grants (w : BitVec 16) (n : Nat) : Bool := w.getLsbD (n / 8)

/-- The arms' windows of a frame together. -/
def Frame.wA (f : Frame) : BitVec 16 := f.arms.foldl (fun m a => m ||| a.wA) 0

/-- What one level lets a strand write (R40). -/
def Level.mayWrite (l : Level) : RegName → Bool
  | .v n =>
    match l.role with
    | .root => true
    | .arm i => match l.frame.arms[i]? with
      | some a => grants a.wA n && !a.sealedV.getLsbD n
      | none => false
    | .cont => grants l.frame.wC n || l.jv.getLsbD n
  | .p n =>
    n == 0 || match l.role with
    | .root => true
    | .arm i => match l.frame.arms[i]? with
      | some a => l.frame.pA.getLsbD n && !a.sealedP.getLsbD n
      | none => false
    | .cont => l.frame.pC.getLsbD n || l.jp.getLsbD n
  | .s n =>
    decide (48 ≤ n) || match l.role with
    | .root => true
    | .arm _ => false
    | .cont => l.frame.uC.getLsbD (n / 4)
  | _ => true

/-- What one level lets a strand read (R40). -/
def Level.mayRead (l : Level) : RegName → Bool
  | .v n =>
    match l.role with
    | .root => true
    | .arm _ => !grants l.frame.wC n
    | .cont => !grants l.frame.wA n || l.jv.getLsbD n
  | .p n =>
    n == 0 || match l.role with
    | .root => true
    | .arm _ => !l.frame.pC.getLsbD n
    | .cont => !l.frame.pA.getLsbD n || l.jp.getLsbD n
  | .s n =>
    decide (48 ≤ n) || match l.role with
    | .arm _ => !l.frame.uC.getLsbD (n / 4)
    | _ => true
  | _ => true

/-- The register of a strand's flights that a name is (R72). -/
def Flight.names (f : Flight) (n : RegName) : Bool := f.dests.contains n

/-- A register of arm `i` of the frame at a place is final: sealed with no write in flight, or the arm has ended (R43, R44). -/
def Wave.armFinal (w : Wave) (at_ : Nat × Nat) (f : Frame) (i : Nat) (n : RegName) : Bool :=
  match f.arms[i]? with
  | none => true
  | some a =>
    a.ended || ((match n with
      | .v k => a.sealedV.getLsbD k
      | .p k => a.sealedP.getLsbD k
      | _ => false) &&
      !(w.runs.any fun r => decide (r.2.role = .arm i) && decide (r.2.up = some at_) && r.2.flights.any fun g =>
        g.state != .done && g.names n))

/-- A register of the frame's windows is joined when each arm has sealed it or ended (R44). -/
def Wave.joinable (w : Wave) (at_ : Nat × Nat) (n : RegName) : Bool :=
  match w.frame at_ with
  | none => true
  | some f => (List.range f.arms.length).all fun i => w.armFinal at_ f i n

/-- Sets a joined register. -/
def Run.join (r : Run) : RegName → Run
  | .v n => { r with joinedV := setBit r.joinedV n true }
  | .p n => { r with joinedP := setBit r.joinedP n true }
  | _ => r

/-- The strand has joined a register (R44). -/
def Run.joined (r : Run) : RegName → Bool
  | .v n => r.joinedV.getLsbD n
  | .p n => r.joinedP.getLsbD n
  | _ => false

/-- Joins what a strand's JOINs wait for and can have (R44). -/
def Wave.settleJoin (w : Wave) (r : Run) : Run :=
  match r.up with
  | none => { r with flights := r.flights.map fun f => if f.state = .join then { f with state := .done } else f }
  | some up =>
    let got := (r.flights.filter fun f => f.state = .join).flatMap fun f => f.dests.filter (w.joinable up)
    let x := got.foldl Run.join r
    { x with flights := x.flights.map fun f =>
        if f.state = .join ∧ f.dests.all x.joined then { f with state := .done } else f }

/-- Changes the place that strands and frames are under from one entry to another, `d` deeper. -/
def moveUp (c e d : Nat) : Option (Nat × Nat) → Option (Nat × Nat)
  | some (x, i) => if x = c then some (e, d + i) else some (x, i)
  | none => none

/-- Applies `moveUp` to a strand. -/
def Run.moveUp (c e d : Nat) (r : Run) : Run := { r with up := Machine.moveUp c e d r.up }

/-- Applies `moveUp` to an entry: its frames, the strands of serialised splits that have still to run, and its strand. -/
def Entry.moveUp (c e d : Nat) (x : Entry) : Entry :=
  { frames := x.frames.map fun f => { f with up := Machine.moveUp c e d f.up, pending := f.pending.map (Run.moveUp c e d) },
    run := x.run.map (Run.moveUp c e d) }

/-- The lane registers of a window (R38). -/
def windowRegs (w : BitVec 16) : BitVec 128 := (List.range 128).foldl (fun m n => setBit m n (grants w n)) 0

/-- The strand that takes the place of frame `f` (R46): the continuation with the parent's role and writable set. -/
def Frame.takeRun (f : Frame) (r : Run) : Run :=
  { r with role := f.role, up := f.up, joinedV := f.joinedV, joinedP := f.joinedP,
           covers := f.covers ++ r.covers ++ (List.range f.arms.length).map (fun i => f.key ++ [i]),
           lapsedV := r.lapsedV ||| f.lapsedV ||| windowRegs f.wA, lapsedP := r.lapsedP ||| f.lapsedP ||| f.pA,
           flights := r.flights.map fun g => if g.state = .join then { g with state := .done } else g }

/-- A frame that takes the place of frame `f`, when the continuation has split in turn. -/
def Frame.takeFrame (f g : Frame) : Frame :=
  { g with role := f.role, up := f.up, joinedV := f.joinedV, joinedP := f.joinedP,
           covers := f.covers ++ g.covers ++ (List.range f.arms.length).map (fun i => f.key ++ [i]),
           lapsedV := g.lapsedV ||| f.lapsedV ||| windowRegs f.wA, lapsedP := g.lapsedP ||| f.lapsedP ||| f.pA }

/-- The continuation's entry of the frame at a place. -/
def Wave.contEntry (w : Wave) (at_ : Nat × Nat) : Option Nat :=
  (w.lattice.find? fun e => e.2.frames.any (fun f => decide (f.role = .cont) && decide (f.up = some at_)) ||
    e.2.run.any fun r => decide (r.role = .cont) && decide (r.up = some at_)).map (·.1)

/-- Closes the split at a place (R46): the continuation takes the frame's place, and its entry is freed. -/
def Wave.close (w : Wave) (at_ : Nat × Nat) : Wave :=
  match w.lattice.find at_.1 with
  | none => w
  | some e =>
    match e.frames[at_.2]? with
    | none => w
    | some f =>
      match f.pending with
      | r :: _ => { w with lattice := w.lattice.put at_.1 { frames := e.frames.take at_.2, run := some (f.takeRun r) } }
      | [] =>
        match w.contEntry at_ with
        | none => w
        | some c =>
          match w.lattice.find c with
          | none => w
          | some ce =>
            let ce' : Entry := match ce.frames with
              | [] => { frames := [], run := ce.run.map f.takeRun }
              | g :: gs => { frames := f.takeFrame g :: gs, run := ce.run }
            let lat := (w.lattice.del c).put at_.1 { frames := e.frames.take at_.2 ++ ce'.frames, run := ce'.run }
            { w with lattice := lat.mapv fun _ x => x.moveUp c at_.1 at_.2,
                     demoted := w.demoted.map fun d => if d = c then at_.1 else d,
                     single := w.single.map fun d => if d = c then at_.1 else d,
                     resumeAt := w.resumeAt.map fun d => if d.1 = c then (at_.1, d.2) else d }

/-- A place whose split can close: all its arms have ended (R46). -/
def Wave.closable (w : Wave) : Option (Nat × Nat) :=
  (w.lattice.flatMap fun e => (List.range e.2.frames.length).filterMap fun d =>
    match e.2.frames[d]? with
    | some f => if f.arms.all (·.ended) then some (e.1, d) else none
    | none => none).head?

/-- Closes every split that can close. -/
def Wave.closeAll : (fuel : Nat) → Wave → Wave
  | 0, w => w
  | n + 1, w =>
    match w.closable with
    | none => w
    | some p => Wave.closeAll n (w.close p)

/-- Brings the lattice up to date after an arm has sealed or ended or a result has been written: splits close and JOINs join. -/
def Wave.settle (w : Wave) : Wave :=
  let x := Wave.closeAll (w.depth + 1) w
  x.mapRuns x.settleJoin

/-- Arm `i` of the frame at a place ends (R45): its entry is freed, or the next strand of a serialised split stands ready. -/
def Wave.endArm (w : Wave) (entry : Nat) (at_ : Nat × Nat) (i : Nat) : Wave :=
  match w.frame at_ with
  | none => w
  | some f =>
    let arms := f.arms.modify i fun a => { a with ended := true }
    let dem := w.demoted.filter (· != entry)
    let w := { w with lateAcqs := w.lateAcqs ++ (((w.run entry).map fun (r : Run) => r.acqs.map fun a => (a, r.key, w.issued)).getD []) }
    if f.serial then
      match f.pending with
      | r :: rest =>
        if r.role.isArm then
          ({ w with demoted := dem, lattice := w.lattice.change entry fun e =>
              { frames := e.frames.modify at_.2 fun g => { g with arms := arms, pending := rest }, run := some r } }).settle
        else ({ w with demoted := dem }.modFrame at_ fun g => { g with arms := arms }).settle
      | [] => ({ w with demoted := dem }.modFrame at_ fun g => { g with arms := arms }).settle
    else
      (({ w with demoted := dem, lattice := w.lattice.del entry }).modFrame at_ fun g => { g with arms := arms }).settle

/-! ## Traps and faults (R302 to R310) -/

/-- The classes of traps (R302). -/
inductive TrapClass where
  | fatal | recoverable | halting | launch
deriving DecidableEq, Repr

/-- The class of a cause (R302). -/
def Cause.cls : Cause → TrapClass
  | .xlateMiss => .recoverable
  | .softTrap | .breakpoint => .halting
  | .watchdog | .gangAbort => .launch
  | _ => .fatal

/-- The code of a cause (R302). -/
def Cause.code : Cause → Nat
  | .illegalOp => 1
  | .lookahead => 2
  | .window => 3
  | .partialMask => 4
  | .barrierDiverged => 5
  | .fetchBound => 6
  | .vaultBound => 7
  | .align => 8
  | .xlateMiss => 9
  | .xlatePerm => 10
  | .regBudget => 11
  | .tileShape => 12
  | .mmaCheck => 13
  | .shadowMismatch => 14
  | .eccUncorrectable => 15
  | .softTrap => 16
  | .breakpoint => 17
  | .watchdog => 18
  | .gangAbort => 19
  | .footprint => 20

/-- The WAVE field of a record: die, core, quadrant and slot of a wave slot (R304). -/
def waveField (slot : Nat) : BitVec 16 :=
  BitVec.ofNat 16 (slot / 2048 * 4096 + slot / 32 % 64 * 64 + slot / 8 % 4 * 16 + slot % 8)

/-- The 32 bytes of a fault record (R304). -/
def FaultRec.bytes (r : FaultRec) : List Byte :=
  leBytes 1 r.cause.code ++ leBytes 1 r.flags.toNat ++ leBytes 1 r.strand.toNat ++ leBytes 1 r.launch.toNat ++
  leBytes 2 r.wave.toNat ++ leBytes 2 0 ++ leBytes 8 r.pc.toNat ++ leBytes 8 r.addr.toNat ++
  leBytes 4 r.mask.toNat ++ leBytes 4 r.prog.toNat

/-- Writes bytes of a partition's queue area, as an agent's write at the home (R283, R323). -/
def State.queueWrite (s : State) (p : Partition) (pa : Nat) (bs : List Byte) : State := s.homeWrite p.dkey ((addrs pa bs.length).zip bs)

/-- Entries of a ring in use: written, and not yet read by the host (log 54). -/
def Ring.used (r : Ring) : Nat := (r.put - r.got).toNat

/-- Writes entries of a ring, each at its place, and then its TAIL word (R305, R324). -/
def State.ringPut (s : State) (p : Partition) (r : Ring) (size : Nat) : List (List Byte) → State
  | [] => s
  | e :: es =>
    let n := r.put + 1
    ((s.queueWrite p (r.base + size * (r.put.toNat % 2 ^ r.k)) e).queueWrite p r.tail (leBytes 8 n.toNat)).ringPut p { r with put := n } size es

/-- Posts a fatal or halting record to a partition's fault ring, with the record of the task its wave was in
(R305, R321). A full ring drops it; FAULTS counts it all the same. -/
def State.postFault (s : State) (part launch : Nat) (fatal : Bool) (r : FaultRec) (task : Option (List Byte)) : State :=
  let es := r.bytes :: match task with
    | some b => [b.take 32, b.drop 32]
    | none => []
  let t := match s.parts.find part with
    | none => s
    | some p =>
      if p.faults.used + es.length ≤ 2 ^ p.faults.k then
        (s.ringPut p p.faults 32 es).modPart part fun x => { x with faults := { x.faults with put := x.faults.put + BitVec.ofNat 64 es.length } }
      else s
  t.modLaunch launch fun l => { l with faults := min (l.faults + 1) 0xFFFFFFFF, anyFatal := l.anyFatal || fatal }

/-- Stops jobs (R282): no further sector begins, and a job with no begun sector left is gone. -/
def stopJobs (p : Job → Bool) (js : List Job) : List Job :=
  (js.map fun j => if p j then { j with state := .stopped } else j).filter fun j => !(j.state == .stopped && j.left.isEmpty)

/-- The slot that stands for the host where a home performs a part: the number after the last wave slot. -/
def hostSlot : Nat := 8192

/-- The poison of a tile that no wave holds stands under a number of its own for each tile of a core, after the host's (R312). -/
def freeTile (core tile : Nat) : Nat := hostSlot + 1 + 32 * core + tile

/-- Poisoned tile granules of a wave stay poisoned in the core's tile file when the wave frees its tiles (R29, R308, R312). -/
def State.freeTiles (s : State) (slot : Nat) (w : Wave) : State :=
  { s with poisonT := s.poisonT.map fun g =>
      if g.1 = slot then (freeTile (slotCore slot) ((lanesOf w.tmask).getD (g.2 / 1024) 0), g.2 % 1024) else g }

/-- The loads whose requests an undrained entry holds. -/
def SBEntry.loads (e : SBEntry) : List Nat :=
  match e.kind with
  | .global ps => ps.filterMap fun p => p.load.map (·.1)
  | _ => []

/-- A wave is killed (R308, R309): pending results and undrained entries are discarded, its post queue keeps what it
holds, its jobs stop, its cohort's barriers are abandoned and its groups and cluster see the loss. -/
def State.kill (s : State) (slot : Nat) : State :=
  match s.waves.find slot with
  | none => s
  | some w =>
    if !w.alive then s else
    let s1 := s.modWave slot fun v =>
      { v with state := .killed, lattice := [], demoted := [], sb := [], x := [], tmem := [],
               task := none, nextw := 0, due := none, single := none, fatal := none, resumeAt := [] }
    let s2 := s1.modCore (slotCore slot) fun c =>
      { c with jobs := stopJobs (fun j => j.slot == slot && j.cohort == w.cohort) c.jobs, mmas := c.mmas.filter fun m => m.slot != slot }
    let s2 := { s2.freeTiles slot w with loads := s2.loads.filter fun l => !(w.sb.any fun e => e.loads.contains l.id) }
    match s.cohorts.find w.cohort with
    | none => s2
    | some c =>
      let s3 := s2.modCohort w.cohort fun d => { d with fatal := true, retired := d.retired ++ [w.widx] }
      let s4 := s3.modLaunch c.launch fun l =>
        { l with reqs := l.reqs.map fun q => if q.1 = some slot then (none, q.2) else q, answers := l.answers.filter fun a => a.1 != slot }
      ((s4.abandon w.cohort 1).loseMeets c.launch c.index).settleMeets c.launch c.index

/-- What an instruction finds where it issues: its strand, wave, cohort and launch, and the levels above the strand. -/
structure Ctx where
  slot  : Nat
  entry : Nat
  w     : Wave
  r     : Run
  co    : Cohort
  la    : Launch
  lv    : List Level
deriving DecidableEq, Repr

/-- The place where a strand's next instruction issues. -/
def State.ctxAt (s : State) (slot entry : Nat) : Option Ctx :=
  match s.waves.find slot with
  | none => none
  | some w =>
    match w.run entry with
    | none => none
    | some r =>
      match s.cohorts.find w.cohort with
      | none => none
      | some co =>
        match s.launches.find co.launch with
        | none => none
        | some la => some { slot, entry, w, r, co, la, lv := w.levelsOf r }

/-- The place where the instruction that executes issues. -/
def State.ctx (s : State) : Option Ctx :=
  match s.cur with
  | some (slot, entry) => s.ctxAt slot entry
  | none => none

/-- The PC that a record of this strand carries: the patched address for a word of a substitute (R332). -/
def Run.recPc (r : Run) : Nat :=
  match r.sub with
  | some (a, _) => a
  | none => r.pc

/-- A fault record of a strand (R304). -/
def Ctx.record (c : Ctx) (cause : Cause) (flags : Nat) (pc : Nat) (addr : DWord) (mask : Word) : FaultRec :=
  { cause, flags := BitVec.ofNat 8 flags, strand := BitVec.ofNat 8 c.entry, launch := BitVec.ofNat 8 c.co.launch,
    wave := waveField c.slot, pc := BitVec.ofNat 48 pc, addr, mask, prog := 0 }

/-- The wave was halted by a fatal or halting trap and has neither been resumed nor stepped: it takes no further one (R306, R310). -/
def Wave.trapped (w : Wave) : Bool := w.state == .halted && w.single.isNone && (w.fatal.isSome || !w.resumeAt.isEmpty)

/-- Takes a trap of a wave with its record: the record goes to the partition's fault queue, and the wave is killed, or
halted in a DEBUG launch (R302, R305, R308, R310, R321). `next` is the strand that took a halting trap and where it resumes. A wave
takes at most one at a time (R306). -/
def State.waveTrap (s : State) (slot : Nat) (f : FaultRec) (next : Option (Nat × Nat × Option (Nat × Nat))) : State :=
  match s.waves.find slot with
  | none => s
  | some w =>
    if w.trapped then s else
    match s.cohorts.find w.cohort with
    | none => s
    | some co =>
      match s.launches.find co.launch with
      | none => s
      | some la =>
        let fatal := f.cause.cls != .halting || !la.debug
        let task := if fatal then w.task.map (·.record) else none
        let t := s.postFault la.part co.launch fatal { f with flags := if task.isSome then f.flags ||| 4 else f.flags } task
        if la.debug then
          t.modWave slot fun v =>
            { v with state := .halted, single := none, due := none, fatal := if fatal then some f.cause else none,
                     resumeAt := v.resumeAt ++ if fatal then [] else next.toList }
        else t.kill slot

/-- Takes a trap of the wave with its record, with nowhere to resume. -/
def State.trapWith (s : State) (c : Ctx) (f : FaultRec) : State := s.waveTrap c.slot f none

/-- Takes a trap of the strand's own instruction: the PC stays at it (R303). -/
def State.takeTrap (s : State) (c : Ctx) (cause : Cause) (addr : DWord) (mask : Word) : State :=
  s.trapWith c (c.record cause 0 c.r.recPc addr mask)

/-- The strand stands again at the instruction that it issued last, which traps while the strand waits for it (R303). -/
def Run.back (r : Run) : Run := { r with pc := r.fromPc, sub := r.lastSub, wait := none, passed := false }

/-- The strands of a wave that took a halting trap, those of the entries that a test admits, stand at their next instructions (R190, R310). -/
def Wave.resumeRuns (p : Nat → Bool) (w : Wave) : Wave :=
  (w.resumeAt.filter fun a => p a.1).foldl (fun v a => match v.run a.1 with
    | some r => v.setRun a.1 { r with fromPc := r.pc, lastPc := r.recPc, lastSub := r.sub, passed := false, pc := a.2.1, sub := a.2.2 }
    | none => v) { w with resumeAt := w.resumeAt.filter fun a => !p a.1 }

/-- The return from a halting trap: the wave issues again, each strand that took one at its next instruction (R190, R310). -/
def State.resumeTrap (s : State) (slot : Nat) : State :=
  s.modWave slot fun w => { w.resumeRuns fun _ => true with state := .running, single := none }

end Sys2Proof.Machine
end

