-- ==== Sys2Proof/Machine/Operands.lean ====
section
/-! DEFINITION. The operand forms and the issue of an instruction: which lanes are active, what must hold before an
instruction issues and in which order its trap conditions are raised (R82), what every issue does to the strand, and the
addresses of vault and global memory with their checks. -/

namespace Sys2Proof.Machine

/-! ## What an instruction asks -/

/-- What an instruction asks of the strand that issues it. -/
structure Need where
  /-- The words are those of an instruction (R82 item 2). -/
  wf       : Bool
  /-- A lane instruction, with its guard. -/
  lane     : Option LExt := none
  x        : Bool
  la       : BitVec 4
  /-- Latency class B or variable: the result comes later and LA counts (R71). -/
  later    : Bool := false
  reads    : List RegName := []
  writes   : List RegName := []
  /-- Registers named without being read or written: ranges of SEAL and JOIN. -/
  names    : List RegName := []
  /-- WARN bits the encoding earns, LA_IGNORED apart (R84). -/
  warn     : BitVec 8 := 0
  /-- Waits for every outstanding result and closes the windows (R74). -/
  drains   : Bool := false
  /-- Wave-wide (R55). -/
  wide     : Bool := false
  /-- A barrier instruction (R56). -/
  barrier  : Bool := false
  /-- Forbidden inside an open split (R41). -/
  noSplit  : Bool := false
  /-- Accesses memory, so that an acquire holds it back (R206). -/
  mem      : Bool := false
  /-- ILLEGAL_OP fixed by the launch (R82 item 6) and by the wave's state (item 8). -/
  badLaunch : Launch → Bool := fun _ => false
  badWave  : Ctx → Bool := fun _ => false
  /-- The address of a WINDOW record, where the instruction's entry assigns one (R161, R302). -/
  addr     : Ctx → DWord := fun _ => 0
  /-- What the instruction waits for before its mask is checked (R277). -/
  hold     : State → Ctx → Bool := fun _ _ => false
  /-- The lanes whose registers a uniform instruction reads (R169, R313). -/
  lanes    : Ctx → Word := fun _ => 0

/-- A lane instruction with its guard and LA. -/
def Need.ofLane (wf : Bool) (e : LExt) (reads writes : List RegName) : Need :=
  { wf, lane := some e, x := e.x, la := e.la, reads, writes }

/-- A uniform instruction with its LA. -/
def Need.ofUni (wf : Bool) (e : UExt) (reads writes : List RegName) : Need :=
  { wf, x := e.x, la := e.la, reads, writes }

/-- A lane register. -/
def nv (r : BitVec 7) : List RegName := [.v r.toNat]

/-- `k` consecutive lane registers: a pair or a quad (R68, R149). -/
def nvs (r : BitVec 7) (k : Nat) : List RegName := (addrs r.toNat k).map RegName.v

/-- A pair or a register, by a width bit. -/
def nvw (r : BitVec 7) (wide : Bool) : List RegName := nvs r (if wide then 2 else 1)

/-- A predicate that is read. -/
def np (p : BitVec 3) : List RegName := [.p p.toNat]

/-- A predicate that is written; p0 is no destination (R69). -/
def dp (p : BitVec 3) : List RegName := if p = 0 then [] else [.p p.toNat]

/-- A uniform register. -/
def ns (r : BitVec 6) : List RegName := [.s r.toNat]

/-- A uniform predicate that is read. -/
def nq (q : BitVec 3) : List RegName := [.q q.toNat]

/-- A uniform predicate that is written; q0 is no destination (R69). -/
def dq (q : BitVec 3) : List RegName := if q = 0 then [] else [.q q.toNat]

/-- A translation register. -/
def nx (x : BitVec 3) : List RegName := [.x x.toNat]

/-- A tile. -/
def nt (t : BitVec 3) : List RegName := [.t t.toNat]

/-- The guard of a lane instruction is a source (R70). -/
def Need.guard (n : Need) : List RegName :=
  match n.lane with
  | some e => if e.g then np e.gp else []
  | none => []

/-- Every register the instruction names (R72). -/
def Need.all (n : Need) : List RegName := n.guard ++ n.reads ++ n.writes ++ n.names

/-! ## Active lanes (R7, R70) -/

/-- Lanes the guard admits (R70). -/
def guardMask (w : Wave) (e : LExt) : Word :=
  if e.g then (if e.gn then ~~~ w.pred e.gp.toNat else w.pred e.gp.toNat) else 0xFFFFFFFF

/-- active(S): the live lanes of the strand's mask that the guard admits (R7). -/
def Ctx.active (c : Ctx) (e : LExt) : Word := c.r.mask &&& c.w.live &&& guardMask c.w e

/-- The live lanes of the strand's mask. -/
def Ctx.smask (c : Ctx) : Word := c.r.mask &&& c.w.live

/-- The mask a record of this instruction carries (R304). -/
def Ctx.trapMask (c : Ctx) (n : Need) : Word :=
  match n.lane with
  | some e => c.active e
  | none => c.r.mask

/-- Lanes to do: those a replay has still to do, or the active lanes (R144). -/
def Ctx.todo (c : Ctx) (e : LExt) : Word :=
  match c.r.park with
  | some p => p.mask
  | none => c.active e

/-! ## Before an instruction issues -/

/-- What the gate says of an instruction. -/
inductive Gate where
  /-- No strand is there to issue it, or it is not ready or must wait first. -/
  | wait
  /-- A trap that was due is taken (R279, R282, R313). -/
  | due (c : Ctx) (f : FaultRec)
  | trap (c : Ctx) (cause : Cause) (addr : DWord) (mask : Word)
  | go (c : Ctx)
deriving DecidableEq, Repr

/-- Waves of the launch may issue: a persistent launch is bound whole, a gang launch has been started (R20, R299). -/
def Launch.mayIssue (la : Launch) : Bool := (!la.persistent || la.bound.length == la.cohorts) && (!la.gang || la.gphase == .started)

/-- The strand's wave runs, so that a trap that is due is taken, whatever the strand waits for (R28, R313). -/
def Ctx.runs (c : Ctx) : Bool :=
  (c.w.state == .bound || c.w.state == .running || (c.w.state == .halted && c.w.single == some c.entry)) &&
  c.la.mayIssue && !c.co.preempted

/-- The strand may issue: its wave runs and it is in no wait (R28, R144, R166, R291). -/
def Ctx.ready (c : Ctx) : Bool :=
  c.runs && !c.r.held && c.r.wait.isNone &&
  (match c.r.park with
    | some p => !p.posted && p.pages.isEmpty
    | none => true)

/-- The instruction names a register that a JOIN has still to join (R44). -/
def joinPending (r : Run) (n : Need) (f : Flight) : Bool :=
  f.dests.any fun d => !r.joined d && n.all.contains d

/-- Issue beyond a window is in order: an instruction without count left whose destinations do not all exist holds the
strand back; a JOIN holds back only what names a register not yet joined (R44, R72). -/
def holdsBack (r : Run) (n : Need) (f : Flight) : Bool :=
  f.left == 0 && (match f.state with
    | .done => false
    | .join => joinPending r n f
    | _ => true)

/-- An access that acquires has not returned (R206). -/
def acquiring (r : Run) : Bool :=
  !r.acqs.isEmpty || r.flights.any fun f => f.acq && f.state != .done

/-- The oldest instruction whose open window holds this one and whose destination it names (R72). -/
def offended (r : Run) (n : Need) : Option Flight :=
  r.flights.find? fun f => f.left != 0 && n.all.any f.names

/-- A lane register at or above the budget (R22). -/
def overBudget (w : Wave) : RegName → Bool
  | .v k => decide (w.budget ≤ k)
  | _ => false

/-- A tile the wave has not declared (R24). -/
def undeclared (w : Wave) : RegName → Bool
  | .t k => decide (w.ntiles ≤ k)
  | _ => false

/-- The instruction writes outside the writable set or reads what is forbidden (R40), or is forbidden in a split (R41). -/
def windowBad (c : Ctx) (n : Need) : Bool :=
  (n.noSplit && !c.lv.isEmpty) || c.lv.any fun l => !(n.guard ++ n.reads).all l.mayRead || !n.writes.all l.mayWrite

/-- The strand lacks the full live mask, or lies at or below an arm (R55, R56). -/
def partialStrand (c : Ctx) : Bool := c.smask != c.w.live || belowArm c.lv

/-- The lanes in which an instruction reads its lane registers: the active lanes, or those a uniform instruction names (R7, R169). -/
def Ctx.readMask (c : Ctx) (n : Need) : Word :=
  match n.lane with
  | some e => c.active e
  | none => n.lanes c

/-- A poisoned register lane that the instruction reads (R313): the number its record carries. -/
def poisoned (s : State) (c : Ctx) (n : Need) : Option Nat :=
  if s.poisonR.isEmpty then none else
  n.reads.findSome? fun r => match r with
    | .v k => if s.poisonR.any fun g => g.1 == c.slot && g.2.1 == k && (c.readMask n).getLsbD g.2.2 then some k else none
    | _ => none

/-- The quadrant of a wave slot is stalled for a current step (R135, R336). -/
def State.quadStalled (s : State) (slot : Nat) : Bool := (s.stalls.find (slot / 8)).any fun n => n != 0

/-- A vault read of a wave of the quadrant has still to pass over the banks of its own vault: it occupies the quadrant's issue cycles,
and no wave of the quadrant issues (R133). -/
def State.passing (s : State) (slot : Nat) : Bool :=
  s.waves.any fun e => e.1 / 8 == slot / 8 && e.2.runs.any fun r => r.2.flights.any fun f => match f.state with
    | .reading q => q.todo.any fun a => a.2.1 / Config.vaultSpan == slotCore slot
    | _ => false

/-- The quadrant of a wave slot issues nothing now (R133, R135). -/
def State.quadBusy (s : State) (slot : Nat) : Bool := s.quadStalled slot || s.passing slot

/-- The gate: waits, then the trap conditions in the order of R82 items 2 to 9. -/
def State.gate (s : State) (n : Need) : Gate :=
  match s.ctx with
  | none => .wait
  | some c =>
    if !c.runs || s.quadBusy c.slot then .wait else
    match c.w.due with
    | some f => .due c f
    | none =>
      if !c.ready then .wait
      else if c.r.flights.any (holdsBack c.r n) then .wait
      else if n.drains && c.r.flights.any (fun f => f.state != .done) then .wait
      else if n.mem && acquiring c.r then .wait
      else if !n.wf then .trap c .illegalOp 0 c.r.mask
      else if n.all.any (overBudget c.w) then .trap c .regBudget 0 (c.trapMask n)
      else match (if n.drains then none else offended c.r n) with
      | some f => .trap c .lookahead (BitVec.ofNat 64 f.pc) (c.trapMask n)
      | none =>
        if windowBad c n then .trap c .window (n.addr c) (c.trapMask n)
        else if n.badLaunch c.la then .trap c .illegalOp 0 (c.trapMask n)
        else if n.hold s c then .wait
        else if n.wide && partialStrand c then .trap c .partialMask 0 (c.trapMask n)
        else if n.barrier && partialStrand c then .trap c .barrierDiverged 0 (c.trapMask n)
        else if n.badWave c then .trap c .illegalOp 0 (c.trapMask n)
        else if n.all.any (undeclared c.w) then .trap c .tileShape 0 (c.trapMask n)
        else match poisoned s c n with
        | some k => .trap c .eccUncorrectable (BitVec.ofNat 64 k) (c.trapMask n)
        | none => if n.barrier && c.w.depth != 0 then .wait else .go c

/-- The issue of an instruction: where there is no strand to issue it (R63) or the strand waits, nothing changes but the model's `stall`; a trap is
taken; otherwise the instruction acts. After a thermal shutdown nothing issues (R336). -/
def State.issue (s : State) (n : Need) (act : Ctx → Out) : Out :=
  if s.down then .fault .shutDown else
  match s.gate n with
  | .wait => .next { s with stall := true }
  | .due c f => .next (s.trapWith c f)
  | .trap c cause addr mask => .next (s.takeTrap c cause addr mask)
  | .go c => act c

/-! ## What every issue does -/

/-- Where the strand goes after an instruction: its next PC and the substitute that PC lies in (R62, R332). -/
def State.after (s : State) (r : Run) (x : Bool) : Nat × Option (Nat × Nat) :=
  let next := r.pc + (if x then 8 else 4)
  match r.sub with
  | none => (next, none)
  | some (a, k) =>
    match s.patches[k]? with
    | some p => if a + 4 * p.subst.length ≤ next then (a + 16, none) else (next, some (a, k))
    | none => (next, none)

/-- One more instruction of the strand has issued: every open window counts it, and results that exist and whose
windows have closed are done with (R72). -/
def Run.count (r : Run) : Run :=
  { r with flights := (r.flights.map fun f => { f with left := f.left - 1 }).filter fun f => !(f.left == 0 && f.state == .done) }

/-- The WARN bits of an issue (R84, R86). -/
def Need.warnBits (n : Need) : BitVec 8 := n.warn ||| (if !n.later && n.la != 0 then 2 else 0)

/-- The window and the destinations of an instruction whose result comes later (R71). -/
def Need.flight (n : Need) (c : Ctx) (st : FlightState) (ws : List Wr) (acq : Bool := false) : Flight :=
  { pc := c.r.pc, recPc := c.r.recPc, left := n.la.toNat, dests := n.writes, state := st, writes := ws, num := c.w.issued, acq }

/-- Which instruction has set each WARN bit, once number `num` earns some: a bit that another has earned before belongs to none (R86). -/
def noteWarn (warn bits : BitVec 8) (num : Nat) (m : FMap Nat) : FMap Nat :=
  (List.range 8).foldl (fun m k => if bits.getLsbD k then (if warn.getLsbD k then m.del k else m.put k num) else m) m

/-- An instruction that has issued traps: the WARN bits that it alone has set are clear again (R8, R86). -/
def Wave.unwarn (num : Nat) (w : Wave) : Wave :=
  { w with warn := (List.range 8).foldl (fun x k => if w.warnBy.find k = some num then setBit x k false else x) w.warn }

/-- What the issue of an instruction does to its strand and wave: PC, windows, WARN, program order, demotions (R54),
a single step ends (R310). -/
def Wave.issued1 (w : Wave) (entry : Nat) (n : Need) (r : Run) : Wave :=
  let v := w.setRun entry { r with park := none }
  { v with warn := w.warn ||| n.warnBits, warnBy := if n.warnBits = 0 then w.warnBy else noteWarn w.warn n.warnBits w.issued w.warnBy, issued := w.issued + 1, demoted := w.demoted.filter (· == entry),
           state := if w.state == .halted then .halted else .running,
           single := if w.single == some entry then none else w.single }

/-- Issues at the strand's PC and leaves it at `pc`, with a new flight if the result comes later. -/
def State.commitTo (s : State) (c : Ctx) (n : Need) (pc : Nat × Option (Nat × Nat)) (f : List Flight) : State :=
  let r := c.r.count
  { s with waves := s.waves.put c.slot (c.w.issued1 c.entry n
      { r with flights := (if n.drains then [] else r.flights) ++ f, fromPc := c.r.pc, lastPc := c.r.recPc, lastSub := c.r.sub, passed := false, pc := pc.1, sub := pc.2 }) }

/-- Issues and goes on to the next instruction. -/
def State.commit (s : State) (c : Ctx) (n : Need) (f : List Flight) : State :=
  s.commitTo c n (s.after c.r n.x) f

/-- An instruction of class A: its results exist before the next instruction can issue (R72). -/
def State.done (s : State) (c : Ctx) (n : Need) (ws : List Wr) : State :=
  (s.commit c n []).writeRegs c.slot c.entry ws

/-- An instruction whose result is known at issue and written later (R71, R72). -/
def State.defer (s : State) (c : Ctx) (n : Need) (ws : List Wr) : State :=
  s.commit c n [n.flight c .ready ws]

/-- A class A instruction. -/
def execA (s : State) (n : Need) (f : Ctx → List Wr) : Out :=
  s.issue n fun c => .next (s.done c n (f c))

/-- An instruction of class B or variable whose result does not depend on memory. -/
def execB (s : State) (n : Need) (f : Ctx → List Wr) : Out :=
  s.issue { n with later := true } fun c => .next (s.defer c { n with later := true } (f c))

/-- A trap of the instruction's own entry (R82 item 10). -/
def State.ownTrap (s : State) (c : Ctx) (n : Need) (cause : Cause) (addr : DWord) : Out :=
  .next (s.takeTrap c cause addr (c.trapMask n))

/-- An instruction with trap conditions of its own entry, in class A or later. -/
def execOwn (later : Bool) (s : State) (n : Need) (own : Ctx → Option (Cause × DWord)) (f : Ctx → List Wr) : Out :=
  s.issue { n with later := later } fun c =>
    match own c with
    | some t => s.ownTrap c n t.1 t.2
    | none => .next (if later then s.defer c { n with later := later } (f c) else s.done c n (f c))

/-- The strand must wait before it issues. -/
def State.stalled (s : State) : Out := .next { s with stall := true }

/-! ## Lane results -/

/-- A lane register of every lane of a mask, computed lane by lane. -/
def wrV (d : BitVec 7) (m : Word) (f : Nat → Word) : List Wr := [.v d.toNat m (LaneVec.gen f)]

/-- A pair, computed lane by lane (R68). -/
def wrPair (d : BitVec 7) (m : Word) (f : Nat → DWord) : List Wr :=
  [.v d.toNat m (LaneVec.gen fun l => loWord (f l)), .v (d.toNat + 1) m (LaneVec.gen fun l => hiWord (f l))]

/-- A lane predicate, computed lane by lane. -/
def wrP (p : BitVec 3) (m : Word) (f : Nat → Bool) : List Wr := [.p p.toNat m (maskOf f)]

/-- A pair or a register. -/
def wrW (wide : Bool) (d : BitVec 7) (m : Word) (f : Nat → DWord) : List Wr :=
  if wide then wrPair d m f else wrV d m fun l => loWord (f l)

/-- A uniform register. -/
def wrS (d : BitVec 6) (x : DWord) : List Wr := [.s d.toNat x]

/-- A uniform predicate. -/
def wrQ (d : BitVec 3) (b : Bool) : List Wr := [.q d.toNat b]

/-- Value of a lane register of a lane. -/
def Ctx.v (c : Ctx) (r : BitVec 7) (l : Nat) : Word := c.w.lane r.toNat l

/-- Value of a pair of a lane. -/
def Ctx.v64 (c : Ctx) (r : BitVec 7) (l : Nat) : DWord := c.w.pair r.toNat l

/-- Value of a pair or of a register, zero-extended. -/
def Ctx.vw (c : Ctx) (wide : Bool) (r : BitVec 7) (l : Nat) : DWord :=
  if wide then c.v64 r l else (c.v r l).zeroExtend 64

/-- In a protected launch the lowest visible index whose two copies are not both in the mask or do not agree (R314, R315). -/
def Ctx.shadow (c : Ctx) (m : Word) (same : Nat → Nat → Bool) : Option (Cause × DWord) :=
  if c.la.protect then
    ((List.range 16).find? fun i =>
      m.getLsbD (2 * i) != m.getLsbD (2 * i + 1) || (m.getLsbD (2 * i) && !same (2 * i) (2 * i + 1))).map
      fun i => (.shadowMismatch, BitVec.ofNat 64 i)
  else none

/-- Value of a uniform register. -/
def Ctx.s (c : Ctx) (r : BitVec 6) : DWord := sreg c.w c.r r.toNat

/-- Value of a uniform predicate. -/
def Ctx.q (c : Ctx) (q : BitVec 3) : Bool := c.r.qreg q.toNat

/-- A lane predicate in a lane. -/
def Ctx.p (c : Ctx) (p : BitVec 3) (l : Nat) : Bool := (c.w.pred p.toNat).getLsbD l

/-! ## Vault addresses (R131, R132) -/

/-- The vault address an EA names for this cohort; none where it traps VAULT_BOUND (R131). -/
def State.vaultEA (s : State) (co : Cohort) (la : Launch) (ea : Word) (write : Bool) : Option Nat :=
  if !ea.getLsbD 31 then
    let o := (ea.extractLsb' 0 31).toNat
    if o < co.wsize then some (co.winBase + o) else none
  else if !ea.getLsbD 30 then
    let m := (ea.extractLsb' 26 4).toNat
    let o := (ea.extractLsb' 0 26).toNat
    if la.clsz ≤ m then none else
    match s.cohorts.find (cohortKey co.launch (la.clusterOf co.index * la.clsz + m)) with
    | none => none
    | some d =>
      if d.wsize ≤ o ∨ d.freed ∨ (d.gone ∧ !d.fatal) ∨ (write ∧ d.fatal) then none else some (d.winBase + o)
  else
    let core := 64 * co.die + (ea.extractLsb' 23 6).toNat
    let o := (ea.extractLsb' 0 23).toNat
    if ea.getLsbD 29 then none else
    match s.cores.find core with
    | none => none
    | some d => if d.part ≠ la.part ∨ Config.vaultBytes ≤ o then none else some (vaultBase core + o)

/-- The vault byte that an EA names by its form alone, inside its window or beyond it: what a range whose two ends pass R131 reaches
between them. -/
def State.vaultAt (s : State) (co : Cohort) (la : Launch) (ea : Nat) : Option Nat :=
  if ea < 2 ^ 31 then some (co.winBase + ea)
  else if ea < 3 * 2 ^ 30 then
    (s.cohorts.find (cohortKey co.launch (la.clusterOf co.index * la.clsz + ea / 2 ^ 26 % 16))).map fun d => d.winBase + ea % 2 ^ 26
  else some (vaultBase (64 * co.die + ea / 2 ^ 23 % 64) + ea % 2 ^ 23)

/-- The vault byte that an EA of a cohort names by its form (R131). -/
def State.cohortVault (s : State) (cohort ea : Nat) : Option Nat := do
  let co ← s.cohorts.find cohort
  let la ← s.launches.find co.launch
  s.vaultAt co la ea

/-- A vault byte lies in the window space of a core of a partition: what an access of the partition may reach (R31, R32, R131). -/
def State.inPartition (s : State) (part va : Nat) : Bool :=
  decide (va % Config.vaultSpan < Config.vaultBytes) && (s.cores.find (va / Config.vaultSpan)).any fun k => k.part == part

/-- The cohort whose window an EA names, if its form names one (R131). -/
def vaultTarget (co : Cohort) (la : Launch) (ea : Word) : Option Nat :=
  if !ea.getLsbD 31 then some co.key
  else if !ea.getLsbD 30 then some (cohortKey co.launch (la.clusterOf co.index * la.clsz + (ea.extractLsb' 26 4).toNat))
  else none

/-- An own-window EA inside the window (R131). -/
def ownEA (co : Cohort) (ea : Word) : Option Nat :=
  let o := (ea.extractLsb' 0 31).toNat
  if !ea.getLsbD 31 ∧ o < co.wsize then some (co.winBase + o) else none

/-- The first failing vault check of the lanes: VAULT_BOUND over all, then ALIGN over all; the lowest failing lane's EA (R151). -/
def vaultCheck (ls : List Nat) (ea : Nat → Word) (target : Word → Option Nat) (align : Nat) : Option (Cause × DWord) :=
  match ls.find? fun l => (target (ea l)).isNone with
  | some l => some (.vaultBound, (ea l).zeroExtend 64)
  | none =>
    match ls.find? fun l => (ea l).toNat % align != 0 with
    | some l => some (.align, (ea l).zeroExtend 64)
    | none => none

/-- The address register plus the sign-extended offset (R131). -/
def eaOf (base : Word) (off : BitVec 16) : Word := base + off.signExtend 32

/-- A poisoned vault granule among bytes (R313). -/
def State.poisonedV (s : State) (va n : Nat) : Bool :=
  !s.poisonV.isEmpty && (addrs va n).any fun a => s.poisonV.contains (a / 16)

/-! ## Forwarding (R50) -/

/-- The undrained entries a strand's load sees: its own and its ancestors' from before the split (R50). -/
def Wave.visible (w : Wave) (key : List Nat) (num : Nat) : List SBEntry :=
  w.sb.filter fun e => keyPrefix e.key key && decide (e.num < num)

/-- The vault bytes an entry writes at its drain; an atomic counts as writing its whole width (R50). -/
def SBEntry.vaultBytes (e : SBEntry) : List Nat :=
  match e.kind with
  | .vst _ bs _ => bs.map (·.1)
  | .vatom _ w64 _ ls _ _ => ls.flatMap fun l => addrs l.addr (if w64 then 8 else 4)
  | .subscr ls => ls.flatMap fun l => addrs (l.1 + 8) 8
  | .unsub ls => ls.flatMap fun l => addrs (l.1 + 8) 8
  | .nextw slot => addrs (slot + 8) 8
  | .global _ => []

/-- The entry's bytes are not forwarded: they exist only once it drains (R50). -/
def SBEntry.unforwarded (e : SBEntry) : Bool :=
  match e.kind with
  | .vst .. => false
  | .global _ => false
  | _ => true

/-- The last value that visible entries give a byte (R50). -/
def forwarded (es : List SBEntry) (va : Nat) : Option Byte :=
  es.foldl (fun o e => match e.kind with
    | .vst _ bs _ => bs.foldl (fun p b => if b.1 = va then some b.2 else p) o
    | _ => o) none

/-- A vault byte as a load of the strand sees it (R50). -/
def State.loadByte (s : State) (es : List SBEntry) (va : Nat) : Byte :=
  match forwarded es va with
  | some b => b
  | none => s.vaultByte va

/-- Bytes as a load of the strand sees them. -/
def State.loadBytes (s : State) (es : List SBEntry) (va n : Nat) : List Byte := (addrs va n).map (s.loadByte es)

/-- A load must wait: it reads a byte of an undrained atomic (R50). -/
def atomicBusy (es : List SBEntry) (va n : Nat) : Bool :=
  es.any fun e => (match e.kind with
    | .vatom .. => true
    | _ => false) && e.vaultBytes.any fun a => decide (va ≤ a) && decide (a < va + n)

/-- The last visible entry that gives a byte (R50). -/
def forwarder (es : List SBEntry) (va : Nat) : Option SBEntry :=
  es.foldl (fun o e => match e.kind with
    | .vst _ bs _ => if bs.any (·.1 == va) then some e else o
    | _ => o) none

/-- The entry is a release whose bytes among these an acquire of the scope by a strand reads before its drain (R50, R207). -/
def State.takes_ (s : State) (w : Wave) (key : List Nat) (scope : BitVec 3) (es : List SBEntry) (as : List Nat) (e : SBEntry) : Bool :=
  e.marks.rel && (as.any fun a => (forwarder es a).any (·.id == e.id)) &&
  (⟨e.marks.scope, s.agent w e.key, [], false⟩ : Release).reaches scope (s.agent w key)

/-- An acquire of a strand reads vault bytes: what it has of an undrained release of its wave it acquires when that drains (R50, R207). -/
def State.acquireVault (s : State) (slot : Nat) (key : List Nat) (num : Nat) (scope : BitVec 3) (es : List SBEntry) (as : List Nat) : State :=
  match s.waves.find slot with
  | none => s
  | some w =>
    let t := if es.any (s.takes_ w key scope es as) then s.modWave slot fun v =>
        { v with sb := v.sb.map fun e => if s.takes_ w key scope es as e then { e with taken := e.taken ++ [(key, num)] } else e }
      else s
    t.acquireParts slot key num (s.synced w key scope 0 (as.filter fun a => (forwarded es a).isNone))

/-- Some visible entry writes one of these bytes (R157, R209, R251, R254, R277). -/
def entryBusy (es : List SBEntry) (va n : Nat) : Bool :=
  es.any fun e => e.vaultBytes.any fun a => decide (va ≤ a) && decide (a < va + n)

/-! ## The store buffer (R48) -/

/-- A strand may take an entry: after it, one free entry is left for each earlier issuing strand (R48). -/
def Wave.canTake (w : Wave) (key : List Nat) : Bool :=
  decide ((w.runs.filter fun r => keyLt r.2.key key).length + w.sb.length + 1 ≤ 64)

/-- Puts an entry into the store buffer. -/
def State.takeEntry (s : State) (c : Ctx) (kind : SBKind) (marks : Marks) : State :=
  s.modWave c.slot fun w =>
    let e : SBEntry := ⟨w.nextId, c.r.key, c.w.issued, kind, marks, c.r.covers, c.r.jm, []⟩
    { w with sb := w.sb ++ [e], nextId := w.nextId + 1 }

/-- Uses up numbers of parts. -/
def State.takeIds (s : State) (n : Nat) : State := { s with nextPart := s.nextPart + n }

/-- Ordering marks of an atomic access. -/
def marksOf (o : Ordering) : Marks := ⟨o.scope, o.acq, o.rel⟩

/-- Marks of an access that only reads: a release mark makes it an acquire (R84). -/
def readMarks (o : Ordering) : Marks := ⟨o.scope, o.acq || o.rel, false⟩

/-- Marks of an access that only writes: an acquire mark makes it a release (R84). -/
def writeMarks (o : Ordering) : Marks := ⟨o.scope, false, o.acq || o.rel⟩

/-- WARN bits of the marks on an instruction that only reads (R84). -/
def warnRead (o : Ordering) (pollOk : Bool) : BitVec 8 := (if o.rel then 0x40 else 0) ||| (if o.poll && !pollOk then 0x80 else 0)

/-- WARN bits of the marks on an instruction that only writes (R84). -/
def warnWrite (o : Ordering) : BitVec 8 := (if o.acq then 0x40 else 0) ||| (if o.poll then 0x80 else 0)

/-- WARN bits of the marks on an atomic (R84). -/
def warnBoth (o : Ordering) : BitVec 8 := if o.poll then 0x80 else 0

/-! ## Earlier accesses of a strand (R184, R196) -/

/-- An access is earlier than what the strand does now. -/
def Ctx.earlier (c : Ctx) (k : List Nat) (m : Nat) : Bool := earlierThan c.r.key c.w.issued c.r.covers c.r.jm k m

/-- A vault read of the wave that a test admits, by strand and number, has still to perform (R193). -/
def Wave.readsLeft (w : Wave) (earlier : List Nat → Nat → Bool) : Bool :=
  w.runs.any fun r => r.2.flights.any fun f => (match f.state with
    | .reading _ => true
    | _ => false) && earlier r.2.key f.num

/-- A strand's WAITA has issued its first read and that has still to perform at a vault (R182, R193): it waits for no atomic of its own strand
(R50), and its wave is not halted by a trap. -/
def State.firstRead (s : State) (w : Wave) (r : Run) (vault at_ : Nat) : Bool :=
  match r.wait with
  | some (.waita ea _ _ _ _ _ issued first _) =>
    first && decide (issued < at_) && !w.trapped && (s.cohortVault w.cohort ea.toNat).any fun va =>
      va / Config.vaultSpan == vault && !atomicBusy (w.visible r.key w.issued) va 8
  | _ => false

/-- A read that the core issued before a step has still to perform at a vault (R193). -/
def State.readsBefore (s : State) (core vault at_ : Nat) : Bool :=
  s.waves.any fun e => slotCore e.1 == core && e.2.runs.any fun r =>
    (r.2.flights.any fun f => match f.state with
      | .reading q => decide (q.issued < at_) && q.todo.any fun a => a.2.1 / Config.vaultSpan == vault
      | _ => false) || s.firstRead e.2 r.2 vault at_

/-- No lane part that has arrived at the host port has still to perform one of these bytes of host memory (R202). -/
def State.portFree (s : State) (pas : List Nat) : Bool :=
  s.waves.all fun e => e.2.pq.all fun q => !(isHost q.pa && q.sent) || pas.all fun a => !(decide (q.pa ≤ a) && q.rem.contains (a - q.pa))

/-- What happens before a release that the strand makes now (R207). -/
def Ctx.releases (c : Ctx) : List Nat := c.w.released c.r.key c.w.issued c.r.covers c.r.jm

/-- Some access that happens before now has not performed at a scope (R204, R205): an entry not drained, a vault read under way, a part
not performed, or, at SYSTEM, a host-memory part not acknowledged. -/
def State.unperformed (s : State) (c : Ctx) (scope : BitVec 3) : Bool :=
  c.w.sb.any (fun e => c.earlier e.key e.num) || c.w.readsLeft c.earlier || s.anyPending scope c.releases

/-- Every strand before this key in drain order has ended and drained (R49). -/
def Wave.clearBefore (w : Wave) (key : List Nat) : Bool :=
  (w.sb.all fun e => !keyLt e.key key) && w.runs.all fun r => !keyLt r.2.key key

/-- A read marked release waits as FENCE.REL at its scope does: in a strand later in drain order also for the earlier strands (R84, R184). -/
def State.relWait (s : State) (c : Ctx) (o : Ordering) : Bool := o.rel && (s.unperformed c o.scope || !c.w.clearBefore c.r.key)

/-- Puts a strand that has issued into a wait. -/
def State.waitFor (s : State) (c : Ctx) (x : Wait) : State :=
  s.modWave c.slot fun w =>
    match w.run c.entry with
    | some r => w.setRun c.entry { r with wait := some x }
    | none => w

/-- A write marked acquire goes on as FENCE.ACQ at its scope (R84, R184). -/
def State.acqAfter (s : State) (c : Ctx) (o : Ordering) : State :=
  if o.acq then s.waitFor c (.fence .acq o.scope (c.w.issued + 1)) else s

/-- Demotes a strand (R54). -/
def State.demote (s : State) (slot entry : Nat) : State :=
  s.modWave slot fun w => { w with demoted := if w.demoted.contains entry then w.demoted else w.demoted ++ [entry] }

/-- The lanes of a mask that perform accesses: in a protected launch a pair performs one (log 12). -/
def Ctx.leads (c : Ctx) (m : Word) : List Nat := (lanesOf m).filter fun l => !c.la.protect || l % 2 == 0

/-- The lane whose access serves a lane. -/
def Ctx.lead (c : Ctx) (l : Nat) : Nat := if c.la.protect then l / 2 * 2 else l

/-! ## Translation (R139 to R145) -/

/-- The outcome of a walk (R141). -/
inductive Walk where
  | ok (t : Trans)
  | miss
  | perm
deriving DecidableEq, Repr

/-- A field of an entry. -/
def pteField (e : DWord) (lo n : Nat) : Nat := e.toNat / 2 ^ lo % 2 ^ n

/-- A table entry's or frame's address can be used: its chip is reachable and it is backed (R136, R137, R141, R327). -/
def State.backed (s : State) (pa : Nat) : Bool :=
  isHost pa || (decide (pa / 2 ^ 48 < 0xF0) && s.reachable (pa / 2 ^ 48) && (homeOf pa).isSome)

/-- Reads a page-table entry (R139); from a chip that no link leads to, all-ones (R328). -/
def State.pte (s : State) (key pa : Nat) : DWord := BitVec.ofNat 64 (leNat (s.readBytes key pa 8))

/-- A table entry's reserved fields, type and alignment (R140). -/
def State.tableOk (s : State) (e : DWord) (align : Nat) : Bool :=
  e.getLsbD 1 && pteField e 2 10 == 0 && pteField e 56 8 == 0 &&
  pteField e 12 44 * 4096 % align == 0 && s.backed (pteField e 12 44 * 4096)

/-- A run of addresses lies in one of a partition's allocations (R31). -/
def Partition.owns (p : Partition) (pa n : Nat) : Bool :=
  p.alloc.any fun r => decide (r.1 ≤ pa) && decide (pa + n ≤ r.1 + r.2)

/-- A frame that a partition may not map: one that lies in no allocation of its own and, for a leaf of channel `ch`, in none of a partition that
the channel binds (R31, R329, log 99). -/
def State.foreign (s : State) (part : Nat) (ch : Option Nat) (frame size : Nat) : Bool :=
  !s.parts.any fun e => e.2.owns frame size && (e.1 == part || (ch.bind s.channels.find).any fun c => c.p1 == e.1 || c.p2 == e.1)

/-- The key of channel `k` if it binds the partition (R330). -/
def State.channelKey (s : State) (part k : Nat) : Option Nat :=
  match s.channels.find k with
  | some c => if c.p1 = part ∨ c.p2 = part then some c.key else none
  | none => none

/-- The DRAM key of a partition (R31, R147). -/
def State.dkey (s : State) (part : Nat) : Nat :=
  match s.parts.find part with
  | some p => p.dkey
  | none => 0

/-- A leaf's outcome (R140, R141). Whether its key binds the partition (R330) and whose memory its frame is (R31, R329) decide before H does
(log 99). -/
def State.leaf (s : State) (part : Nat) (e : DWord) (va size : Nat) (psOk : Bool) : Walk :=
  if !e.getLsbD 0 then .miss else
  let ch := e.getLsbD 7
  let frame := pteField e 16 40 * 65536
  let key := if ch then s.channelKey part (pteField e 60 4) else if pteField e 60 4 = 0 then some (s.dkey part) else none
  match key with
  | none => .perm
  | some k =>
    if e.getLsbD 1 || pteField e 56 4 != 0 || pteField e 10 6 != 0 || !psOk || pteField e 4 2 == 3 ||
       frame % size != 0 || !s.backed frame || s.foreign part (if ch then some (pteField e 60 4) else none) frame size then .perm
    else if e.getLsbD 6 then .miss
    else .ok { vbase := va / size * size, size, frame,
               ord := match pteField e 4 2 with
                 | 0 => .so
                 | 1 => .rc
                 | _ => .uo,
               r := e.getLsbD 2, w := e.getLsbD 3, ch, key := k }

/-- A page-table walk of a 56-bit virtual address; `run` picks the supplying entry of a 2 MiB run (R139, R141). A root that is misaligned or has no
memory behind it is a misaligned or unbacked table (log 99). -/
def State.walk (s : State) (part root va run : Nat) : Walk :=
  if root % 4096 != 0 || !s.backed root then .perm else
  let key := s.dkey part
  let e3 := s.pte key (root + 8 * (va / 2 ^ 47 % 512))
  if !e3.getLsbD 0 then .miss else if !s.tableOk e3 4096 then .perm else
  let e2 := s.pte key (pteField e3 12 44 * 4096 + 8 * (va / 2 ^ 38 % 512))
  if !e2.getLsbD 0 then .miss else if !s.tableOk e2 32768 then .perm else
  let e1 := s.pte key (pteField e2 12 44 * 4096 + 8 * (va / 2 ^ 26 % 4096))
  if !e1.getLsbD 0 then .miss
  else if !e1.getLsbD 1 then s.leaf part e1 va 0x4000000 (pteField e1 8 2 == 0)
  else if !s.tableOk e1 8192 then .perm else
  let t0 := pteField e1 12 44 * 4096
  let i := va / 65536 % 1024
  let e0 := s.pte key (t0 + 8 * i)
  if e0.getLsbD 0 && !e0.getLsbD 1 && pteField e0 8 2 == 1 then
    let f := s.pte key (t0 + 8 * (i / 32 * 32 + run % 32))
    s.leaf part f va 0x200000 (pteField f 8 2 == 1)
  else s.leaf part e0 va 0x10000 (pteField e0 8 2 == 0)

/-- The addresses of the entries that a walk reads (R139, R141). -/
def State.walkReads (s : State) (part root va run : Nat) : List Nat :=
  if root % 4096 != 0 || !s.backed root then [] else
  let key := s.dkey part
  let a3 := root + 8 * (va / 2 ^ 47 % 512)
  let e3 := s.pte key a3
  if !e3.getLsbD 0 || !s.tableOk e3 4096 then [a3] else
  let a2 := pteField e3 12 44 * 4096 + 8 * (va / 2 ^ 38 % 512)
  let e2 := s.pte key a2
  if !e2.getLsbD 0 || !s.tableOk e2 32768 then [a3, a2] else
  let a1 := pteField e2 12 44 * 4096 + 8 * (va / 2 ^ 26 % 4096)
  let e1 := s.pte key a1
  if !e1.getLsbD 0 || !e1.getLsbD 1 || !s.tableOk e1 8192 then [a3, a2, a1] else
  let t0 := pteField e1 12 44 * 4096
  let i := va / 65536 % 1024
  let e0 := s.pte key (t0 + 8 * i)
  [a3, a2, a1, t0 + 8 * i] ++ if e0.getLsbD 0 && !e0.getLsbD 1 && pteField e0 8 2 == 1 then [t0 + 8 * (i / 32 * 32 + run % 32)] else []

/-- The reads of a walk come after the lane parts that have arrived at the host port before them (R202). -/
def State.walkFree (s : State) (part root va run : Nat) : Bool := (s.walkReads part root va run).all fun a => s.portFree (addrs a 8)

/-- The page holds a virtual address. -/
def Trans.covers (t : Trans) (va : Nat) : Bool := decide (t.vbase ≤ va) && decide (va < t.vbase + t.size)

/-- The physical address of a virtual address of the page. -/
def Trans.pa (t : Trans) (va : Nat) : Nat := t.frame + (va - t.vbase)

/-- A translation the die's TLB holds (R143). -/
def State.tlbFind (s : State) (die part root va : Nat) : Option Trans :=
  (((s.tlb.find die).getD []).find? fun e => e.part == part && e.root == root && e.trans.covers va).map (·.trans)

/-- The last `n` entries of a list. -/
def newest {α : Type} (n : Nat) (l : List α) : List α := l.drop (l.length - n)

/-- Puts a translation into the die's TLB, which holds so many entries; the oldest makes room (R11, log 93). -/
def State.tlbAdd (s : State) (die part root : Nat) (t : Trans) : State :=
  { s with tlb := s.tlb.put die (newest Config.tlbEntries ((s.tlb.find die).getD [] ++ [⟨part, root, t⟩])) }

/-- The translation that the die's TLB holds for a cohort's launch. -/
def State.tlbOf (s : State) (c : Ctx) (va : Nat) : Option Trans := s.tlbFind c.co.die c.la.part c.la.root va

/-- A canonical 64-bit address (R136). -/
def canonical (a : DWord) : Bool := pteField a 55 9 == 0 || pteField a 55 9 == 511

/-- The 56 bits of a virtual address. -/
def va56 (a : DWord) : Nat := a.toNat % 2 ^ 56

/-- The canonical 64-bit value of 56 bits (R136). -/
def dva (a : Nat) : DWord := (BitVec.ofNat 56 a).signExtend 64

/-- The outcome of translating one access (R143, R144). -/
inductive Xlate where
  | ok (va : DWord) (ps : List Piece)
  | perm (va : DWord)
  /-- The pages whose walks are pending, and the access's address. -/
  | pending (pages : List Nat) (va : DWord)
deriving DecidableEq, Repr

/-- Translates `w` bytes at a canonical address with a lookup, page by page; the access needs R or W or both. -/
def splitPages (look : Nat → Option Trans) (va : DWord) (w : Nat) (rd wr : Bool) : Xlate :=
  let a := va56 va
  let bad (t : Trans) : Bool := (rd && !t.r) || (wr && !t.w)
  match look a with
  | none =>
    let n := min w (65536 - a % 65536)
    if n = w then .pending [a] va else
    match look (a + n) with
    | none => .pending [a, a + n] va
    | some u => if bad u then .perm va else .pending [a] va
  | some t =>
    if bad t then .perm va else
    let n := min w (t.vbase + t.size - a)
    if n = w then .ok va [⟨t.pa a, w, t⟩] else
    match look (a + n) with
    | none => .pending [a + n] va
    | some u => if bad u then .perm va else .ok va [⟨t.pa a, n, t⟩, ⟨u.pa (a + n), w - n, u⟩]

/-- The translation that lane accesses through a register use: the register's for the page of VB, unless it is stale,
and the TLB's for every other page (R143). -/
def State.xlook (s : State) (c : Ctx) (x : XReg) (a : Nat) : Option Trans :=
  match (if x.stale then none else x.trans) with
  | some t => if t.covers a then some t else s.tlbOf c a
  | none => s.tlbOf c a

/-- Checks and translates an access of width `w` at offset `off` through a register (R143). -/
def State.xaccess (s : State) (c : Ctx) (x : XReg) (off w : Nat) (rd wr : Bool) : Xlate :=
  let v : Int := x.vb.toInt + off
  let va : DWord := BitVec.ofInt 64 v
  if !x.valid then .perm va
  else if x.stale && (s.tlbOf c (va56 x.vb)).isNone then .pending [va56 x.vb] va
  else if x.lim < off + w then .perm va
  else if 2 ^ 55 < v + w then .perm va
  else if x.vb.toInt < 0 ∧ 0 < v + w then .perm va
  else splitPages (s.xlook c x) va w rd wr

/-- A translation register once a stale one has been translated again (R145). -/
def State.freshX (s : State) (c : Ctx) (x : XReg) : XReg :=
  if x.stale then
    match s.tlbOf c (va56 x.vb) with
    | some t => { x with trans := some t, stale := false }
    | none => x
  else x

/-- Parks the strand at its instruction with these lanes still to do (R144), which asks its pages for reading or writing; `each` for an instruction
whose records hold the failing page's address (R251). -/
def State.parkStrand (s : State) (c : Ctx) (mask act : Word) (addr : DWord) (pages : List (Nat × Nat)) (rd wr : Bool) (each : Bool := false) : State :=
  s.modWave c.slot fun w =>
    match w.run c.entry with
    | some r => { w.setRun c.entry { r with park := some ⟨mask, act, pages, addr, each, false, pages, rd, wr⟩ } with
                    state := if w.state == .halted then .halted else .running }
    | none => w

/-- Reads of a page that a walk made within a step supplies: for accesses that no strand parks on. -/
def State.walkNow (s : State) (die part root va : Nat) : Walk :=
  match s.tlbFind die part root va with
  | some t => .ok t
  | none => s.walk part root va (Config.runEntry s.tick va)

/-- The reads of `walkNow` come after the lane parts that have arrived at the host port before them (R202). -/
def State.walkNowFree (s : State) (die part root va : Nat) : Bool :=
  (s.tlbFind die part root va).isSome || s.walkFree part root va (Config.runEntry s.tick va)

end Sys2Proof.Machine
end

