-- ==== Sys2Proof/Machine/Fetch.lean ====
section
/-! DEFINITION. Fetching an instruction's words: instruction caches (R347), the patch table (R332) and the code extent (R65). -/

namespace Sys2Proof.Machine

/-- The word at its home of a code address. Where the address has no translation the manual gives the word no value (log 13). -/
def State.homeWord (s : State) (core : Nat) (la : Launch) (va : Nat) : Word :=
  match s.walkNow (core / 64) la.part la.root va with
  | .ok t => BitVec.ofNat 32 (leNat (s.readBytes t.key (t.pa va) 4))
  | _ => BitVec.ofNat 32 (leNat ((addrs va 4).map (Config.freeByte s.tick 1)))

/-- A code word as a core fetches it: its cached copy or the word at its home; where the two differ, either, at each fetch (R347). -/
def State.codeWord (s : State) (core : Nat) (la : Launch) (va : Nat) : Word :=
  match s.icache.find? fun l => l.core == core && l.part == la.part && l.root == la.root && l.va == va with
  | some l =>
    let w := s.homeWord core la va
    if l.word = w then w else if Config.oldFetch s.tick core va then l.word else w
  | none => s.homeWord core la va

/-- A code word can be fetched now: the core has a copy, or its reads come after the lane parts that have arrived at the host port before them
(R202). -/
def State.codeFree (s : State) (core : Nat) (la : Launch) (va : Nat) : Bool :=
  (s.icache.any fun l => l.core == core && l.part == la.part && l.root == la.root && l.va == va) ||
  (s.walkNowFree (core / 64) la.part la.root va && match s.walkNow (core / 64) la.part la.root va with
    | .ok t => s.portFree (addrs (t.pa va) 4)
    | _ => true)

/-- The word at an address lies inside the code extent (R65). -/
def Launch.inExtent (la : Launch) (va : Nat) : Bool := decide (la.code ≤ va) && decide (va + 4 ≤ la.code + la.extent)

/-- The lowest-numbered patch entry that matches at an address (R332). -/
def State.patchAt (s : State) (core : Nat) (la : Launch) (a : Nat) : Option Nat :=
  (List.range s.patches.length).find? fun k =>
    match s.patches[k]? with
    | some p => (List.range 4).all fun i =>
        s.codeWord core la (a + 4 * i) &&& p.msk.getD i 0 == p.pat.getD i 0 &&& p.msk.getD i 0
    | none => false

/-- The match that covers an address, in a scan from `a` on (R332): where it begins and its entry. -/
def State.scan (s : State) (core : Nat) (la : Launch) (va : Nat) : (fuel a : Nat) → Option (Nat × Nat)
  | 0, _ => none
  | n + 1, a =>
    if va < a then none else
    match s.patchAt core la a with
    | some k => if va < a + 16 then some (a, k) else s.scan core la va n (a + 16)
    | none => s.scan core la va n (a + 4)

/-- The match that covers an address of the code extent; outside the extent there is none (R65, R332). -/
def State.patched (s : State) (core : Nat) (la : Launch) (va : Nat) : Option (Nat × Nat) :=
  if s.patches.isEmpty || !la.inExtent va then none else s.scan core la va (la.extent / 4 + 1) la.code

/-- A word of a substitute, if it has one at the address (R332). -/
def State.substWord (s : State) (sub : Nat × Nat) (va : Nat) : Option Word :=
  match s.patches[sub.2]? with
  | some p => if sub.1 ≤ va then p.subst[(va - sub.1) / 4]? else none
  | none => none

/-- The word that stands at an address after substitution; `sub` is the substitute that executes, if any (R332). -/
def State.wordAt (s : State) (core : Nat) (la : Launch) (sub : Option (Nat × Nat)) (va : Nat) : Word :=
  let y := match sub with
    | some x => s.substWord x va
    | none => none
  match y with
  | some w => w
  | none =>
    match s.patched core la va with
    | some x => (s.substWord x va).getD (s.codeWord core la va)
    | none => s.codeWord core la va

/-- A branch target to which control cannot pass (R65, R332): the address that its record carries. -/
def State.targetBad (s : State) (core : Nat) (la : Launch) (t : Int) : Option Nat :=
  if t < 0 ∨ 2 ^ 48 ≤ t then some (t % 2 ^ 48).toNat
  else
    let a := t.toNat
    if !la.inExtent a then some a
    else if (s.patched core la a).any (fun x => x.1 != a) then some a
    else if hasExt (s.wordAt core la none a) && !la.inExtent (a + 4) then some a
    else none

/-- Sequential flow comes to an address, in a substitute if one is named or covers it, where no instruction can be fetched: the word or its extension
word, as it stands after substitution, lies outside the extent (R65, R332). The answer is the address that would have been fetched. -/
def State.flowBad (s : State) (core : Nat) (la : Launch) (pc : Nat) (sub : Option (Nat × Nat)) : Option Nat :=
  if 2 ^ 48 ≤ pc ∨ !la.inExtent pc then some (pc % 2 ^ 48)
  else if hasExt (s.wordAt core la sub pc) && !la.inExtent (pc + 4) then some pc
  else none

/-- The substitute in which an address stands that a strand comes to in order (R332). -/
def State.subAt (s : State) (core : Nat) (la : Launch) (pc : Nat) (sub : Option (Nat × Nat)) : Option (Nat × Nat) :=
  match sub with
  | some x => some x
  | none => s.patched core la pc

/-- What a strand fetches. -/
inductive Fetched where
  /-- FETCH_BOUND, with the PC and the address of its record. -/
  | bound (pc addr : Nat)
  | words (w ext : Word) (sub : Option (Nat × Nat))
deriving DecidableEq, Repr

/-- The words of a strand's next instruction can be fetched now (R202). -/
def State.fetchFree (s : State) (c : Ctx) : Bool :=
  s.codeFree (slotCore c.slot) c.la c.r.pc && s.codeFree (slotCore c.slot) c.la (c.r.pc + 4)

/-- Fetches the words of a strand's next instruction (R62, R65, R332). A record that a word of a substitute raises holds the patched address. -/
def State.fetch (s : State) (c : Ctx) : Fetched :=
  let core := slotCore c.slot
  let sub := s.subAt core c.la c.r.pc c.r.sub
  match s.flowBad core c.la c.r.pc sub with
  | some pc => .bound ((sub.map (·.1)).getD pc) c.r.fromPc
  | none =>
    let w := s.wordAt core c.la sub c.r.pc
    .words w (if hasExt w then s.wordAt core c.la sub (c.r.pc + 4) else 0) sub

/-- Takes FETCH_BOUND for a target: the record holds the target in PC and the branch's own PC as its address; in a record of a
substitute word PC is the patched address, and the branch's PC is that of the word (R65, R332). -/
def State.boundTrap (s : State) (c : Ctx) (target : Nat) : Out :=
  .next (s.trapWith c (c.record .fetchBound 0 (if c.r.sub.isSome then c.r.recPc else target) (BitVec.ofNat 64 c.r.pc) c.r.mask))

/-- Takes FETCH_BOUND for the fetch of the strand's next instruction (R65, R82 item 1). -/
def State.fetchTrap (s : State) (slot entry pc addr : Nat) : Out :=
  match s.ctxAt slot entry with
  | none => s.stalled
  | some c =>
    if !c.runs || s.quadBusy slot then s.stalled else
    match c.w.due with
    | some f => .next (s.trapWith c f)
    | none => if !c.ready then s.stalled else .next (s.trapWith c (c.record .fetchBound 0 pc (BitVec.ofNat 64 addr) c.r.mask))

/-- An instruction whose words are no instruction traps ILLEGAL_OP (R82 item 2, R83). -/
def State.illegal (s : State) (x : Bool) : Out :=
  s.issue { wf := false, x := x, la := 0 } fun c => .next (s.takeTrap c .illegalOp 0 c.r.mask)

/-- The target of a PC-relative branch (R75). -/
def Ctx.rel {n : Nat} (c : Ctx) (off : BitVec n) : Int := (c.r.pc : Int) + 4 * off.toInt

/-- Passes control to a target, or traps (R65). `t` is the state after the instruction's other effects, given the target. -/
def State.jump (s : State) (c : Ctx) (target : Int) (t : Nat → State) : Out :=
  match s.targetBad (slotCore c.slot) c.la target with
  | some a => s.boundTrap c a
  | none => .next (t target.toNat)

end Sys2Proof.Machine
end

