-- ==== Sys2Proof/Machine/Flow.lean ====
section
/-! DEFINITION. Flow: uniform OP 0x08 (R172, R65, R75, R76, R59). -/

namespace Sys2Proof.Machine

/-- A branch that is taken when a condition holds (R172). -/
def branch (wf : Bool) (e : UExt) (reads : List RegName) (imm : BitVec 28) (taken : Ctx → Bool) (s : State) : Out :=
  let n := Need.ofUni wf e reads []
  s.issue n fun c =>
    if taken c then s.jump c (c.rel imm) fun t => s.commitTo c n (t, none) []
    else .next (s.commit c n [])

/-- A call: s63 takes the address of the next instruction, and control passes to the target (R172). -/
def callTo (s : State) (c : Ctx) (n : Need) (target : Int) : Out :=
  s.jump c target fun t =>
    (s.commitTo c n (t, none) []).writeRegs c.slot c.entry [.s 63 (BitVec.ofNat 64 (c.r.pc + (if n.x then 8 else 4)))]

/-- The guard of CALL and CALLR (R172). -/
def Ctx.guardQ (c : Ctx) (q : BitVec 3) (neg : Bool) : Bool := c.q q != neg

/-- A register target: its low bits must be 0 (R76). -/
def State.toReg (s : State) (c : Ctx) (t : DWord) (go : Int → Out) : Out :=
  if t.toNat % 4 ≠ 0 then s.boundTrap c (t.toNat % 2 ^ 48) else go t.toNat

/-- The arm that a strand stands in: the nearest level with an arm's role, and whether the strand is that arm itself. -/
def Ctx.nearestArm (c : Ctx) : Option (Bool × Level) :=
  match c.lv with
  | [] => none
  | l :: t => if l.role.isArm then some (true, l) else (t.find? fun m => m.role.isArm).map fun m => (false, m)

/-- The link value of an arm's level (R57, R59). -/
def Level.link (l : Level) : Option DWord :=
  match l.role with
  | .arm i => match l.frame.arms[i]? with
    | some a => a.link
    | none => none
  | _ => none

/-- Ends the executing arm (R45). -/
def State.endOwnArm (s : State) (c : Ctx) (n : Need) : Out :=
  match c.r.role, c.r.up with
  | .arm i, some up => .next ((s.commit c n []).modWave c.slot fun w => w.endArm c.entry up i)
  | _, _ => s.ownTrap c n .window 0

/-- BRA (R172). -/
def execBra (e : UExt) (imm : BitVec 28) (s : State) : Out :=
  branch (e.wf && (absent e.x (imm == 0))) e [] imm (fun _ => true) s

/-- BRQ: taken when qA holds (R172). -/
def execBrq (e : UExt) (a : BitVec 3) (imm : BitVec 28) (s : State) : Out :=
  branch (e.wf && (absent e.x (imm == 0))) e (nq a) imm (fun c => c.q a) s

/-- BRNQ: taken when qA does not hold (R172). -/
def execBrnq (e : UExt) (a : BitVec 3) (imm : BitVec 28) (s : State) : Out :=
  branch (e.wf && (absent e.x (imm == 0))) e (nq a) imm (fun c => !c.q a) s

/-- CALL: with a false guard it does nothing (R60, R172). -/
def execCall (e : UExt) (q : BitVec 3) (neg : Bool) (imm : BitVec 28) (s : State) : Out :=
  let n := Need.ofUni (e.wf && (absent e.x (imm == 0))) e (nq q) (ns 63)
  s.issue n fun c => if c.guardQ q neg then callTo s c n (c.rel imm) else .next (s.commit c n [])

/-- CALLR: to the address in sA (R76, R172). -/
def execCallr (e : UExt) (a : BitVec 6) (q : BitVec 3) (neg : Bool) (s : State) : Out :=
  let n := Need.ofUni (e.wf) e (ns a ++ nq q) (ns 63)
  s.issue n fun c => if c.guardQ q neg then s.toReg c (c.s a) (callTo s c n) else .next (s.commit c n [])

/-- RET: to the address in sA, or the end of a call strand (R59, R172). -/
def execRet (e : UExt) (a : BitVec 6) (s : State) : Out :=
  let n := { Need.ofUni (e.wf) e (ns a) [] with drains := true }
  s.issue n fun c =>
    let t := c.s a
    if t.getLsbD 0 then
      match c.nearestArm with
      | some (own, l) =>
        if l.link = some t then (if own then s.endOwnArm c n else s.stalled)
        else s.boundTrap c (t.toNat % 2 ^ 48)
      | none => s.boundTrap c (t.toNat % 2 ^ 48)
    else s.toReg c t fun x => s.jump c x fun y => s.commitTo c n (y, none) []

/-- END: the strand ends once every open split has closed; WINDOW in or below an arm (R47). -/
def execEndStrand (e : UExt) (s : State) : Out :=
  let n := { Need.ofUni (e.wf) e [] [] with drains := true }
  s.issue n fun c =>
    if belowArm c.lv then s.ownTrap c n .window 0 else .next ((s.commit c n []).waitFor c .ending)

/-- LOOPD: decrements sD and branches while it is not 0 (R172). -/
def execLoopd (e : UExt) (d : BitVec 6) (imm : BitVec 28) (s : State) : Out :=
  let n := Need.ofUni (e.wf && (absent e.x (imm == 0))) e (ns d) (ns d)
  s.issue n fun c =>
    let x := c.s d - 1
    let put (t : State) := t.writeRegs c.slot c.entry (wrS d x)
    if x = 0 then .next (put (s.commit c n [])) else s.jump c (c.rel imm) fun t => put (s.commitTo c n (t, none) [])

end Sys2Proof.Machine
end

