-- ==== Sys2Proof/Machine/Strands.lean ====
section
/-! DEFINITION. Strands: uniform OP 0x09 (R34 to R47, R57, R58, R173, R174). -/

namespace Sys2Proof.Machine

/-- The fields of a window mask (R38). -/
structure WinMask where
  wA  : BitVec 16
  wC  : BitVec 16
  pA  : BitVec 8
  pC  : BitVec 8
  uC  : BitVec 12
  top : Bool
deriving DecidableEq, Repr

/-- Cuts a window mask into its fields (R38). -/
def WinMask.of (x : DWord) : WinMask :=
  { wA := x.extractLsb' 0 16, wC := x.extractLsb' 16 16, pA := x.extractLsb' 32 7 ++ 0#1, pC := x.extractLsb' 39 7 ++ 0#1,
    uC := x.extractLsb' 46 12, top := x.extractLsb' 58 6 != 0 }

/-- A window grants a group at or above the budget (R39). -/
def beyond (budget : Nat) (w : BitVec 16) : Bool := w.toNat / 2 ^ (budget / 8) != 0

/-- The lane registers of a window that the strand may not write (R39). -/
def Ctx.regsOutside (c : Ctx) (w : BitVec 16) : Bool :=
  (List.range 128).any fun k => grants w k && !c.lv.all fun l => l.mayWrite (.v k)

/-- A window mask grants predicates or uniform registers that the strand may not write (R39). -/
def Ctx.othersOutside (c : Ctx) (m : WinMask) : Bool :=
  ((List.range 8).any fun k => (m.pA ||| m.pC).getLsbD k && !c.lv.all fun l => l.mayWrite (.p k)) ||
  ((List.range 48).any fun k => m.uC.getLsbD (k / 4) && !c.lv.all fun l => l.mayWrite (.s k))

/-- The first failing check of R39 for a window mask. -/
def Ctx.windowTrap (c : Ctx) (m : WinMask) : Option Cause :=
  if m.top then some .window
  else if m.wA &&& m.wC != 0 || m.pA &&& m.pC != 0 then some .window
  else if beyond c.w.budget (m.wA ||| m.wC) then some .regBudget
  else if !c.lv.isEmpty && (c.regsOutside (m.wA ||| m.wC) || c.othersOutside m) then some .window
  else if belowArm c.lv && m.uC != 0 then some .window
  else none

/-- An arm to be: its lanes, where it starts, its window, for a call strand its link value, and the substitute it starts in (R332). -/
structure ArmSpec where
  mask : Word
  pc   : Nat
  wA   : BitVec 16
  link : Option DWord
  sub  : Option (Nat × Nat)
deriving DecidableEq, Repr

/-- A strand that starts, with the parent's private state (R37). -/
def Ctx.child (c : Ctx) (role : Role) (mask : Word) (pc index : Nat) (link : Option DWord) (held : Bool)
    (sub : Option (Nat × Nat) := none) : Run :=
  { role, up := some (c.entry, (((c.w.lattice.find c.entry).map fun e => e.frames.length).getD 0)), mask, pc, fromPc := c.r.pc, lastPc := c.r.recPc, lastSub := c.r.sub,
    priv := match link with
      | some x => c.r.priv.put 63 x
      | none => c.r.priv,
    q := c.r.q, key := c.r.key ++ [index], covers := c.r.covers, jm := c.r.jm, joinedV := 0, joinedP := 0, lapsedV := 0, lapsedP := 0,
    flights := [], wait := none, park := none, held, sub, acqs := [], passed := false }

/-- The free entries of the lattice, lowest first (R34). -/
def Wave.freeEntries (w : Wave) : List Nat := (List.range 16).filter fun i => (w.lattice.find i).isNone

/-- A strand becomes the frame of a split (R34, R35, R37, R57, R58): parallel when the lattice has an entry for each arm and the
continuation, serialised otherwise. An arm without lanes counts as ended. A demotion of the strand that splits is none of the strands that start in
its place (R54). -/
def Wave.fork (w : Wave) (c : Ctx) (m : WinMask) (arms : List ArmSpec) (cont : Nat) : Wave :=
  let serial := decide (w.freeEntries.length < arms.length + 1)
  let runs : List Run := (arms.zipIdx.filter fun a => a.1.mask != 0).map fun a => c.child (.arm a.2) a.1.mask a.1.pc a.2 a.1.link serial a.1.sub
  let last := c.child .cont c.r.mask cont arms.length none serial
  let f : Frame :=
    { role := c.r.role, up := c.r.up, key := c.r.key, covers := c.r.covers, jm := c.r.jm, joinedV := c.r.joinedV, joinedP := c.r.joinedP,
      lapsedV := c.r.lapsedV, lapsedP := c.r.lapsedP, wC := m.wC, pA := m.pA, pC := m.pC, uC := m.uC,
      arms := arms.map fun (a : ArmSpec) => { wA := a.wA, sealedV := 0, sealedP := 0, ended := a.mask == 0, link := a.link },
      pending := if serial then (runs ++ [last]).drop (if runs.isEmpty then 0 else 1) else [], serial }
  let host := fun e : Entry => { frames := e.frames ++ [f], run := if serial then runs.head? else none }
  let lat := w.lattice.change c.entry host
  let placed := if serial then lat else
    (w.freeEntries.zip (runs ++ [last])).foldl (fun t x => t.put x.1 { frames := [], run := some x.2 }) lat
  { w with lattice := placed, demoted := w.demoted.filter (· != c.entry), splitser := if serial then w.splitser + 1 else w.splitser }.settle

/-- Starts the strands of a split at the issue of its instruction. -/
def State.fork (s : State) (c : Ctx) (n : Need) (m : WinMask) (arms : List ArmSpec) (cont : Nat) : State :=
  (s.commit c n []).modWave c.slot fun w => w.fork c m arms cont

/-- The registers of a SEAL or JOIN range (R68). -/
def rangeNames (lo hi : BitVec 7) (pred : Bool) : List RegName :=
  (addrs lo.toNat (hi.toNat + 1 - lo.toNat)).map fun k => if pred then .p k else .v k

/-- A register or predicate lies in a window of the arms; p0 lies in none (R173). -/
def inArmWindow (wA : BitVec 16) (pA : BitVec 8) : RegName → Bool
  | .v k => grants wA k
  | .p k => pA.getLsbD k
  | _ => false

/-- A register lay in the arms' window of a split that has closed (R46). -/
def Run.lapsed (r : Run) : RegName → Bool
  | .v k => r.lapsedV.getLsbD k
  | .p k => r.lapsedP.getLsbD k
  | _ => false

/-- Seals registers of an arm (R43). -/
def Arm.seal (a : Arm) (ns : List RegName) : Arm :=
  ns.foldl (fun b n => match n with
    | .v k => { b with sealedV := setBit b.sealedV k true }
    | .p k => { b with sealedP := setBit b.sealedP k true }
    | _ => b) a

/-- A lane's target of CALLI (R174). -/
def Ctx.target (c : Ctx) (d : BitVec 6) (l : Nat) : DWord := c.w.pair (2 * d.toNat) l

/-- The distinct values of lanes, ascending (R49, R57). -/
def distinct (xs : List Nat) : List Nat := (xs.foldl (fun (m : FMap Unit) x => m.put x ()) []).map (·.1)

/-- The first lane whose target fails a check, as a cause with that target (R174). -/
def firstLane (ls : List Nat) (t : Nat → DWord) (bad : DWord → Bool) (k : Cause) : Option (Cause × DWord) :=
  (ls.find? fun l => bad (t l)).map fun l => (k, t l)

/-- The checks of CALLI after its continuation's (R174, R57): each covers all lanes before the next. Where a check fails both for a lane
and for sW alone, the record holds the lane's target (log 89). -/
def State.calliTrap (s : State) (c : Ctx) (ls : List Nat) (t : Nat → DWord) (sw : DWord) (hdr : DWord → Word) : Option (Cause × DWord) :=
  let m := WinMask.of sw
  let wA (x : DWord) : BitVec 16 := (hdr x).extractLsb' 16 16
  let code (x : DWord) : Nat := (hdr x).toNat % 32
  let when_ (b : Bool) (k : Cause) : Option (Cause × DWord) := if b then some (k, 0) else none
  (firstLane ls t (fun x => x.toNat % 4 != 0 || decide (x.toNat < 4) || !c.la.inExtent (x.toNat - 4) ||
      (s.targetBad (slotCore c.slot) c.la x.toNat).isSome) .fetchBound).or <|
  (firstLane ls t (fun x => (hdr x).toNat / 32 % 2048 != 0 || decide (code x < 2) || decide (16 < code x)) .illegalOp).or <|
  (firstLane ls t (fun x => decide (c.w.budget < 8 * code x) || beyond c.w.budget (wA x)) .regBudget).or <|
  (when_ (beyond c.w.budget m.wC) .regBudget).or <|
  (firstLane ls t (fun x => wA x &&& m.wC != 0 || (!c.lv.isEmpty && c.regsOutside (wA x))) .window).or <|
  when_ (m.top || m.wA != 0 || m.pA &&& m.pC != 0 || (!c.lv.isEmpty && (c.regsOutside m.wC || c.othersOutside m)) ||
    (belowArm c.lv && m.uC != 0)) .window

/-- SPLIT: the strand becomes a frame with a then-arm, an else-arm and a continuation (R35, R37, R39, R65). The then-arm's start is no target but where
flow comes next, in a substitute the word that follows in it (log 102). -/
def execSplit (e : UExt) (p : BitVec 3) (b : BitVec 6) (els cont : BitVec 14) (s : State) : Out :=
  let n := { Need.ofUni (e.wf && (absent e.x (els == 0 && cont == 0))) e (np p ++ ns b) [] with drains := true, mem := true }
  s.issue n fun c =>
    let m := WinMask.of (c.s b)
    let mT := c.r.mask &&& c.w.pred p.toNat
    let mE := c.r.mask &&& ~~~ c.w.pred p.toNat
    let next := s.after c.r n.x
    let core := slotCore c.slot
    let bad (t : Int) := s.targetBad core c.la t
    match c.windowTrap m with
    | some k => s.ownTrap c n k 0
    | none =>
      match c.shadow c.r.mask fun i j => c.p p i == c.p p j with
      | some t => s.ownTrap c n t.1 t.2
      | none =>
        match (if mT = 0 then none else s.flowBad core c.la next.1 (s.subAt core c.la next.1 next.2)).or ((if mE = 0 then none else bad (c.rel els)).or (bad (c.rel cont))) with
        | some a => s.boundTrap c a
        | none => .next (s.fork c n m [⟨mT, next.1, m.wA, none, next.2⟩, ⟨mE, (c.rel els).toNat, m.wA, none, none⟩] (c.rel cont).toNat)

/-- CALLI: a call strand for each distinct target of the lanes its guard admits, and a continuation (R57, R58, R174). -/
def execCalli (e : UExt) (d : BitVec 6) (p : BitVec 3) (neg : Bool) (b : BitVec 6) (cont : BitVec 14) (s : State) : Out :=
  let n := { Need.ofUni (e.wf && (absent e.x (cont == 0))) e ((addrs (2 * d.toNat) 2).map RegName.v ++ np p ++ ns b) [] with
    drains := true, mem := true, lanes := fun c => c.smask &&& (if neg then ~~~ c.w.pred p.toNat else c.w.pred p.toNat) }
  s.issue n fun c =>
    let part := c.smask &&& (if neg then ~~~ c.w.pred p.toNat else c.w.pred p.toNat)
    let ls := lanesOf part
    let t := c.target d
    let hdr (x : DWord) : Word := s.wordAt (slotCore c.slot) c.la none (x.toNat - 4)
    match s.targetBad (slotCore c.slot) c.la (c.rel cont) with
    | some a => s.boundTrap c a
    | none =>
      match (c.shadow part fun i j => t i == t j).or (s.calliTrap c ls t (c.s b) hdr) with
      | some k => s.ownTrap c n k.1 k.2
      | none =>
        let arms := (distinct (ls.map fun l => (t l).toNat)).map fun x =>
          { mask := part &&& maskOf fun l => (t l).toNat == x, pc := x, wA := (hdr (BitVec.ofNat 64 x)).extractLsb' 16 16,
            link := some (BitVec.ofNat 64 (c.r.pc ||| 1)), sub := none : ArmSpec }
        .next (s.fork c n (WinMask.of (c.s b)) arms (c.rel cont).toNat)

/-- ENDARM: ends the arm; a continuation below an arm waits for its split to close; WINDOW elsewhere (R45). -/
def execEndarm (e : UExt) (s : State) : Out :=
  let n := { Need.ofUni (e.wf) e [] [] with drains := true }
  s.issue n fun c =>
    match c.nearestArm with
    | some (own, _) => if own then s.endOwnArm c n else s.stalled
    | none => s.ownTrap c n .window 0

/-- SEAL: registers of the arm become final; WINDOW outside an arm or its windows (R43). -/
def execSeal (e : UExt) (lo hi : BitVec 7) (pred : Bool) (s : State) : Out :=
  let ns := rangeNames lo hi pred
  let n := { Need.ofUni (e.wf && (absent e.x (lo == 0 && hi == 0 && !pred)) && decide (lo.toNat ≤ hi.toNat) && (!pred || hi.toNat < 8)) e [] [] with names := ns }
  s.issue n fun c =>
    match c.r.role, c.r.up, c.lv with
    | .arm i, some up, l :: _ =>
      match l.frame.arms[i]? with
      | some a =>
        if ns.all (inArmWindow a.wA l.frame.pA) then
          .next ((s.commit c n []).modWave c.slot fun w =>
            (w.modFrame up fun f => { f with arms := f.arms.modify i fun b => b.seal ns }).settle)
        else s.ownTrap c n .window 0
      | none => s.ownTrap c n .window 0
    | _, _, _ => s.ownTrap c n .window 0

/-- JOIN: the continuation waits, by name, for registers of the arms (R44); after the split has closed they count as joined (R46). -/
def execJoin (e : UExt) (lo hi : BitVec 7) (pred : Bool) (s : State) : Out :=
  let ns := rangeNames lo hi pred
  let n := { Need.ofUni (e.wf && (absent e.x (lo == 0 && hi == 0 && !pred)) && decide (lo.toNat ≤ hi.toNat) && (!pred || hi.toNat < 8)) e [] [] with later := true, names := ns }
  s.issue n fun c =>
    let open_ := match c.r.role, c.lv with
      | .cont, l :: _ => ns.all (inArmWindow l.frame.wA l.frame.pA)
      | _, _ => false
    if open_ then
      .next ((s.commit c n [{ n.flight c .join [] with dests := ns }]).modWave c.slot Wave.settle)
    else if ns.all c.r.lapsed then .next (s.commit c n [{ n.flight c .done [] with dests := ns }])
    else s.ownTrap c n .window 0

/-- JOINMEM: waits for the strands earlier in drain order (R51). -/
def execJoinmem (e : UExt) (s : State) : Out :=
  let n := Need.ofUni (e.wf) e [] []
  s.issue n fun c => .next ((s.commit c n []).waitFor c .joinmem)

end Sys2Proof.Machine
end

