-- ==== Sys2Proof/Machine/Barriers.lean ====
section
/-! DEFINITION. Barriers: uniform OP 0x0A (R175 to R180). Every instruction of the group waits for open splits to close (R56). -/

namespace Sys2Proof.Machine

/-- A barrier instruction (R56). -/
def Need.bar (wf : Bool) (e : UExt) (reads writes : List RegName) : Need :=
  { Need.ofUni wf e reads writes with barrier := true }

/-- Changes a named barrier of the cohort, with the issue of its instruction. -/
def barrierOp (n : Need) (k : BitVec 4) (f : Ctx → Barrier → Barrier) (s : State) : Out :=
  s.issue n fun c => .next ((s.commit c n []).barrier c.w.cohort k.toNat (f c))

/-- The group that a cohort's slot holds: its groups in ascending index (R287). -/
def Launch.slots (la : Launch) (index : Nat) : List Nat :=
  (la.groups.filter fun g => g.2.valid && g.2.members.contains index).map (·.1)

/-- The group in a slot. -/
def Ctx.group (c : Ctx) (g : BitVec 2) : Option Nat := (c.la.slots c.co.index)[g.toNat]?

/-- How often a wave has executed GBAR for a group, or CBAR. -/
def executed (counts : FMap Nat) (key widx : Nat) : Nat := (counts.find (key * 16 + widx)).getD 0

/-- Counts one more. -/
def execute (counts : FMap Nat) (key widx : Nat) : FMap Nat := counts.put (key * 16 + widx) (executed counts key widx + 1)

/-- BINIT: expectations set, counts and STATUS cleared, PHASE kept (R178). -/
def execBinit (e : UExt) (k : BitVec 4) (waves : BitVec 5) (engines : BitVec 10) (s : State) : Out :=
  barrierOp (.bar (e.wf && (absent e.x (waves == 0 && engines == 0)) && decide (waves.toNat ≤ 16) && (waves != 0 || engines != 0)) e [] []) k (fun _ b =>
    { b with wexp := waves.toNat, eexp := engines.toNat, wcnt := 0, ecnt := 0, pend := 0, status := 0 }) s

/-- BEXPECT: adds pending bytes (R178). -/
def execBexpect (e : UExt) (k : BitVec 4) (a : BitVec 6) (r : Bool) (n : BitVec 27) (s : State) : Out :=
  barrierOp (.bar (e.wf && (absent e.x (!r && n == 0)) && (!r || n == 0) && (r || a == 0)) e (if r then ns a else []) []) k (fun c b =>
    { b with pend := b.pend + (if r then loWord (c.s a) else n.zeroExtend 32) }) s

/-- BARRIVE: one wave arrival, a release at COHORT; sD takes PHASE as it finds it (R176, R178, R205). -/
def execBarrive (e : UExt) (d : BitVec 6) (k : BitVec 4) (s : State) : Out :=
  let n := Need.bar (e.wf) e [] (ns d)
  s.issue n fun c =>
    if s.unperformed c 2 then s.stalled
    else .next ((s.done c n (wrS d ((c.co.bar k.toNat).phase.zeroExtend 64))).barrier c.w.cohort k.toNat Barrier.arriveWave
      c.releases)

/-- BWAIT: waits until the phase named has completed, or STATUS is not 0 (R178). -/
def execBwait (e : UExt) (q : BitVec 3) (k : BitVec 4) (b : BitVec 6) (s : State) : Out :=
  let n := Need.bar (e.wf) e (ns b) (dq q)
  s.issue n fun c =>
    .next (((s.commit c n []).waitFor c (.barrier k.toNat (loWord (c.s b)) q.toNat)).barrier c.w.cohort k.toNat id)

/-- BSYNC: BARRIVE, then BWAIT on the phase it found (R178). -/
def execBsync (e : UExt) (q : BitVec 3) (k : BitVec 4) (s : State) : Out :=
  let n := Need.bar (e.wf) e [] (dq q)
  s.issue n fun c =>
    if s.unperformed c 2 then s.stalled
    else .next (((s.commit c n []).waitFor c (.barrier k.toNat (c.co.bar k.toNat).phase q.toNat)).barrier c.w.cohort k.toNat
      Barrier.arriveWave c.releases)

/-- Changes what happens before a group's arrivals (R179, R207). -/
def Group.before (g : Group) (f : List Nat → List Nat) : Group := { g with parts := f g.parts }

/-- Changes what happens before a cluster's arrivals (R180, R207). -/
def Cluster.before (g : Cluster) (f : List Nat → List Nat) : Cluster := { g with parts := f g.parts }

/-- GBAR: arrives at the group of a slot, a release at DEVICE, and waits for its phase (R179). -/
def execGbar (e : UExt) (q : BitVec 3) (g : BitVec 2) (s : State) : Out :=
  let n := { Need.bar (e.wf) e [] (dq q) with
    badLaunch := fun la => !la.persistent, badWave := fun c => (c.group g).isNone }
  s.issue n fun c =>
    if s.unperformed c 5 then s.stalled else
    let k := (c.group g).getD 0
    let t := (s.commit c n []).modCohort c.w.cohort fun d => { d with gbar := execute d.gbar k c.w.widx }
    if (c.la.groups.find k).any (fun (g : Group) => g.lost) then .next (t.writeRegs c.slot c.entry (wrQ q false))
    else .next (((t.modLaunch c.co.launch fun l =>
      { l with groups := l.groups.change k fun g => g.before fun ps => s.stillPending (ps ++ c.releases) }).waitFor c
        (.group k (executed c.co.gbar k c.w.widx) q.toNat)).settleGroup c.co.launch k)

/-- CBAR: arrives at the cluster, a release at CLUSTER, and waits for its phase (R180). -/
def execCbar (e : UExt) (q : BitVec 3) (s : State) : Out :=
  let n := Need.bar (e.wf) e [] (dq q)
  s.issue n fun c =>
    if s.unperformed c 3 then s.stalled else
    let cl := c.la.clusterOf c.co.index
    let t := (s.commit c n []).modCohort c.w.cohort fun d => { d with cbar := execute d.cbar 0 c.w.widx }
    if (c.la.cluster cl).lost then .next (t.writeRegs c.slot c.entry (wrQ q false))
    else .next (((t.modLaunch c.co.launch fun l =>
      { l with clusters := l.clusters.put cl ((l.cluster cl).before fun ps => s.stillPending (ps ++ c.releases)) }).waitFor c
        (.cluster (executed c.co.cbar 0 c.w.widx) q.toNat)).settleCluster c.co.launch cl)

/-- BSTAT: the fields of a barrier (R178). -/
def execBstat (e : UExt) (d : BitVec 6) (k : BitVec 4) (pick : Bool) (s : State) : Out :=
  let n := Need.bar (e.wf && absent e.x (!pick)) e [] (ns d)
  s.issue n fun c =>
    let b := c.co.bar k.toNat
    .next (s.done c n (wrS d (if pick then
      BitVec.ofNat 64 (b.wcnt + b.ecnt * 2 ^ 16 + b.wexp * 2 ^ 32 + b.eexp * 2 ^ 37 + b.status * 2 ^ 48)
    else b.pend ++ b.phase)))

end Sys2Proof.Machine
end

