-- ==== Sys2Proof/Machine/Flags.lean ====
section
/-! DEFINITION. Number formats, rounding and the floating-point flags (R87 to R104, R121 to R130). A finite value is exact:
a sign, a natural mantissa and an exponent. Every operation computes exactly and rounds once, at the end. -/

namespace Sys2Proof.Machine

/-- FPSTAT bits (R98): NV, DZ, OF, UF, NX, DN. -/
abbrev FFlags := BitVec 6
def nvF : FFlags := 1
def dzF : FFlags := 2
def ofF : FFlags := 4
def ufF : FFlags := 8
def nxF : FFlags := 16
def dnF : FFlags := 32

/-- A flag if a condition holds. -/
def flagIf (b : Bool) (f : FFlags) : FFlags := if b then f else 0

/-- A floating-point format (R87): width, fraction bits, bias, and whether all-ones exponents are infinities and NaNs. -/
structure Fmt where
  width : Nat
  frac  : Nat
  bias  : Nat
  ieee  : Bool
deriving DecidableEq, Repr

def fmt64 : Fmt := ⟨64, 52, 1023, true⟩
def fmt32 : Fmt := ⟨32, 23, 127, true⟩
def fmt16 : Fmt := ⟨16, 10, 15, true⟩
def fmtB16 : Fmt := ⟨16, 7, 127, true⟩
def fmtE4M3 : Fmt := ⟨8, 3, 7, false⟩
def fmtE5M2 : Fmt := ⟨8, 2, 15, true⟩

/-- The largest exponent field. -/
def Fmt.top (f : Fmt) : Nat := 2 ^ (f.width - 1 - f.frac) - 1

/-- The exponent of the largest finite values. -/
def Fmt.emax (f : Fmt) : Int := (if f.ieee then f.top - 1 else f.top : Nat) - f.bias

/-- The exponent of the smallest normal values. -/
def Fmt.emin (f : Fmt) : Int := 1 - f.bias

/-- The sign bit, placed. -/
def Fmt.sign (f : Fmt) (neg : Bool) : Nat := if neg then 2 ^ (f.width - 1) else 0

/-- The canonical NaN (R88). -/
def Fmt.nan (f : Fmt) : Nat := if f.ieee then f.top * 2 ^ f.frac + 2 ^ (f.frac - 1) else f.top * 2 ^ f.frac + (2 ^ f.frac - 1)

/-- An infinity; E4M3 has none and gives its NaN (R100). -/
def Fmt.inf (f : Fmt) (neg : Bool) : Nat := if f.ieee then f.sign neg + f.top * 2 ^ f.frac else f.nan

/-- The largest finite magnitude (R87). -/
def Fmt.maxFin (f : Fmt) (neg : Bool) : Nat :=
  f.sign neg + (if f.ieee then f.top * 2 ^ f.frac - 1 else f.top * 2 ^ f.frac + 2 ^ f.frac - 2)

/-- A decoded value: (−1)^neg × m × 2^e, an infinity or a NaN. -/
inductive FVal where
  | nan (sig : Bool)
  | inf (neg : Bool)
  | fin (neg : Bool) (m : Nat) (e : Int)
deriving DecidableEq, Repr

/-- Decodes a bit pattern (R87). -/
def Fmt.decode (f : Fmt) (x : Nat) : FVal :=
  let s := x / 2 ^ (f.width - 1) % 2 == 1
  let e := x / 2 ^ f.frac % (f.top + 1)
  let m := x % 2 ^ f.frac
  if f.ieee && e == f.top then (if m = 0 then .inf s else .nan (m / 2 ^ (f.frac - 1) == 0))
  else if !f.ieee && e == f.top && m == 2 ^ f.frac - 1 then .nan false
  else if e = 0 then .fin s m (1 - f.bias - f.frac)
  else .fin s (2 ^ f.frac + m) (e - f.bias - f.frac)

/-- A NaN. -/
def FVal.isNan : FVal → Bool
  | .nan _ => true
  | _ => false

/-- A signalling NaN. -/
def FVal.isSnan : FVal → Bool
  | .nan s => s
  | _ => false

/-- NaN or infinite. -/
def FVal.special : FVal → Bool
  | .fin .. => false
  | _ => true

/-- A zero. -/
def FVal.isZero : FVal → Bool
  | .fin _ m _ => m == 0
  | _ => false

/-- The sign; false for a NaN. -/
def FVal.neg : FVal → Bool
  | .nan _ => false
  | .inf s => s
  | .fin s _ _ => s

/-- The value with its sign inverted. -/
def FVal.negate : FVal → FVal
  | .nan s => .nan s
  | .inf s => .inf (!s)
  | .fin s m e => .fin (!s) m e

/-! ## Rounding (R94) -/

/-- The rounding modes (R94). -/
inductive Rm where
  | ne | z | u | d
deriving DecidableEq, Repr

/-- FPMODE's mode (R99). -/
def rmMode (fpmode : BitVec 4) : Rm :=
  match (fpmode.extractLsb' 0 2).toNat with
  | 0 => .ne
  | 1 => .z
  | 2 => .u
  | _ => .d

/-- The mode of a rounding code: 1 to 4 name a mode, the others take FPMODE's (R79, R84). -/
def rmOf (fpmode : BitVec 4) (code : BitVec 3) : Rm :=
  match code.toNat with
  | 1 => .ne
  | 2 => .z
  | 3 => .u
  | 4 => .d
  | _ => rmMode fpmode

/-- Divides by 2^sh and rounds; `st` says that the exact value lies a little above `m`. Returns the quotient and whether it is inexact. -/
def roundShift (m sh : Nat) (st : Bool) (rm : Rm) (neg : Bool) : Nat × Bool :=
  let q := m / 2 ^ sh
  let r := m % 2 ^ sh
  let half := 2 ^ sh / 2
  let inexact := r != 0 || st
  let up := match rm with
    | .ne => if sh = 0 then false else decide (half < r) || (r == half && (st || q % 2 == 1))
    | .z => false
    | .u => inexact && !neg
    | .d => inexact && neg
  (if up then q + 1 else q, inexact)

/-- Rounds an exact value once to a format (R94, R96). `st` marks a non-zero remainder below the last bit of `m`, which then has
more bits than the format keeps. Returns the bit pattern and the flags. -/
def Fmt.round (f : Fmt) (rm : Rm) (ftz : Bool) (neg : Bool) (m : Nat) (e : Int) (st : Bool := false) : Nat × FFlags :=
  if m = 0 then (f.sign neg, 0) else
  let top : Int := e + Nat.log2 m
  let lsb := max (top - f.frac) (f.emin - f.frac)
  let shifted (q : Int) : Nat × Bool :=
    if e ≤ q then roundShift m (q - e).toNat st rm neg else (m * 2 ^ (e - q).toNat, st)
  let (r, inexact) := shifted lsb
  -- tiny after rounding to the format's precision with an unbounded exponent
  let (u, _) := shifted (top - f.frac)
  let tiny := decide (top < f.emin) && !(top + 1 == f.emin && u == 2 ^ (f.frac + 1))
  if ftz && tiny then (f.sign neg, ufF ||| nxF) else
  let (r, lsb) := if r = 2 ^ (f.frac + 1) then (2 ^ f.frac, lsb + 1) else (r, lsb)
  let ovf := decide (f.emax < lsb + f.frac) || (!f.ieee && lsb + f.frac == f.emax && r == 2 ^ (f.frac + 1) - 1)
  if ovf && decide (2 ^ f.frac ≤ r) then
    let toInf := match rm with
      | .ne => true
      | .z => false
      | .u => !neg
      | .d => neg
    (if toInf then (if f.ieee then f.inf neg else f.nan) else f.maxFin neg, ofF ||| nxF)
  else
    let bits := if r < 2 ^ f.frac then r else (lsb + f.frac + f.bias).toNat * 2 ^ f.frac + (r - 2 ^ f.frac)
    (f.sign neg + bits, flagIf inexact nxF ||| flagIf (inexact && tiny) ufF)

/-- Rounds a signed exact value; `zneg` is the sign of an exact zero. -/
def Fmt.roundInt (f : Fmt) (rm : Rm) (ftz : Bool) (m : Int) (e : Int) (zneg : Bool) : Nat × FFlags :=
  if m = 0 then (f.sign zneg, 0) else f.round rm ftz (decide (m < 0)) m.natAbs e

/-! ## Exact arithmetic -/

/-- The signed mantissa. -/
def signedM (neg : Bool) (m : Nat) : Int := if neg then -(m : Int) else m

/-- An exact dyadic number: m × 2^e. -/
structure Dy where
  m : Int
  e : Int
deriving DecidableEq, Repr

/-- Exact sum. -/
def Dy.add (a b : Dy) : Dy :=
  let e := min a.e b.e
  ⟨a.m * 2 ^ (a.e - e).toNat + b.m * 2 ^ (b.e - e).toNat, e⟩

/-- Exact product. -/
def Dy.mul (a b : Dy) : Dy := ⟨a.m * b.m, a.e + b.e⟩

/-- a < b. -/
def Dy.lt (a b : Dy) : Bool := decide ((Dy.add a ⟨-b.m, b.e⟩).m < 0)

/-- The exact value of a finite value; 0 for others. -/
def FVal.dy : FVal → Dy
  | .fin s m e => ⟨signedM s m, e⟩
  | _ => ⟨0, 0⟩

/-- An input of a format that may flush (R96): the value as read, and DN. -/
def Fmt.read (f : Fmt) (ftz : Bool) (x : Nat) : FVal × FFlags :=
  match f.decode x with
  | .fin s m e => if ftz && m != 0 && decide (m < 2 ^ f.frac) then (.fin s 0 e, dnF) else (.fin s m e, 0)
  | v => (v, 0)

/-- NV of signalling operands (R97). -/
def snan (vs : List FVal) : FFlags := flagIf (vs.any FVal.isSnan) nvF

/-- The sum of two values (R94, R97, R121). -/
def Fmt.add (f : Fmt) (rm : Rm) (ftz : Bool) (a b : FVal) : Nat × FFlags :=
  if a.isNan || b.isNan then (f.nan, snan [a, b]) else
  match a, b with
  | .inf s, .inf t => if s = t then (f.inf s, 0) else (f.nan, nvF)
  | .inf s, _ => (f.inf s, 0)
  | _, .inf t => (f.inf t, 0)
  | _, _ =>
    let d := Dy.add a.dy b.dy
    f.roundInt rm ftz d.m d.e (if a.isZero && b.isZero && a.neg == b.neg then a.neg else rm == .d)

/-- The product of two values. -/
def Fmt.mul (f : Fmt) (rm : Rm) (ftz : Bool) (a b : FVal) : Nat × FFlags :=
  if a.isNan || b.isNan then (f.nan, snan [a, b]) else
  let s := a.neg != b.neg
  match a, b with
  | .fin _ m e, .fin _ n g => f.round rm ftz s (m * n) (e + g)
  | _, _ => if a.isZero || b.isZero then (f.nan, nvF) else (f.inf s, 0)

/-- a × b + c with one rounding (R95, R121). -/
def Fmt.fma (f : Fmt) (rm : Rm) (ftz : Bool) (a b c : FVal) : Nat × FFlags :=
  let bad := (a.isZero && b == .inf b.neg) || (b.isZero && a == .inf a.neg)
  if a.isNan || b.isNan || c.isNan || bad then (f.nan, snan [a, b, c] ||| flagIf bad nvF) else
  let s := a.neg != b.neg
  match a, b, c with
  | .fin _ m e, .fin _ n g, .fin _ _ _ =>
    let d := Dy.add ⟨signedM s (m * n), e + g⟩ c.dy
    f.roundInt rm ftz d.m d.e (if m * n == 0 && c.isZero && s == c.neg then s else rm == .d)
  | .fin .., .fin .., _ => (f.inf c.neg, 0)
  | _, _, .inf t => if s = t then (f.inf s, 0) else (f.nan, nvF)
  | _, _, _ => (f.inf s, 0)

/-- a ÷ b (R97, R126). -/
def Fmt.div (f : Fmt) (rm : Rm) (ftz : Bool) (a b : FVal) : Nat × FFlags :=
  if a.isNan || b.isNan then (f.nan, snan [a, b]) else
  let s := a.neg != b.neg
  match a, b with
  | .inf _, .inf _ => (f.nan, nvF)
  | .inf _, _ => (f.inf s, 0)
  | _, .inf _ => (f.sign s, 0)
  | .fin _ m e, .fin _ n g =>
    if n = 0 then (if m = 0 then (f.nan, nvF) else (f.inf s, dzF))
    else if m = 0 then (f.sign s, 0)
    else
      let k := f.frac + 4 + Nat.log2 n
      f.round rm ftz s (m * 2 ^ k / n) (e - g - k) (m * 2 ^ k % n != 0)
  | _, _ => (f.nan, 0)

/-- The integer square root, bit by bit from bit `k − 1` down. -/
def isqrt (n : Nat) : (k : Nat) → (r : Nat) → Nat
  | 0, r => r
  | k + 1, r => isqrt n k (if (r + 2 ^ k) * (r + 2 ^ k) ≤ n then r + 2 ^ k else r)

/-- √a (R126). -/
def Fmt.sqrt (f : Fmt) (rm : Rm) (ftz : Bool) : FVal → Nat × FFlags
  | .nan s => (f.nan, flagIf s nvF)
  | .inf s => if s then (f.nan, nvF) else (f.inf false, 0)
  | .fin s m e =>
    if m = 0 then (f.sign s, 0) else if s then (f.nan, nvF) else
    let k := 2 * (f.frac + 4) + (if e % 2 = 0 then 0 else 1)
    let n := m * 2 ^ k
    let r := isqrt n (Nat.log2 n / 2 + 1) 0
    f.round rm ftz false r ((e - k) / 2) (r * r != n)

/-- 1 ÷ √a (R126). -/
def Fmt.rsqrt (f : Fmt) (rm : Rm) (ftz : Bool) : FVal → Nat × FFlags
  | .nan s => (f.nan, flagIf s nvF)
  | .inf s => if s then (f.nan, nvF) else (f.sign false, 0)
  | .fin s m e =>
    if m = 0 then (f.inf s, dzF) else if s then (f.nan, nvF) else
    let (n, g) := if e % 2 = 0 then (m, e) else (2 * m, e - 1)
    let k := f.frac + 4 + Nat.log2 n / 2 + 1
    let t := 2 ^ (2 * k)
    let r := isqrt (t / n) (k + 1) 0
    f.round rm ftz false r (-(g / 2) - k) (r * r * n != t)

/-- 1 (for FRCP). -/
def FVal.one : FVal := .fin false 1 0

/-! ## Minimum, maximum, compare, classify, integral values (R97, R122 to R125) -/

/-- a < b on values that are no NaNs, with −0 below +0 if `zeros`. -/
def FVal.lt (zeros : Bool) (a b : FVal) : Bool :=
  match a, b with
  | .inf s, .inf t => s && !t
  | .inf s, _ => s
  | _, .inf t => !t
  | _, _ => if a.isZero && b.isZero then zeros && a.neg && !b.neg else Dy.lt a.dy b.dy

/-- Encodes a value of the format exactly. -/
def Fmt.encode (f : Fmt) : FVal → Nat
  | .nan _ => f.nan
  | .inf s => f.inf s
  | .fin s m e => (f.round .ne false s m e).1

/-- minimumNumber or maximumNumber (R97, R122). -/
def Fmt.minmax (f : Fmt) (isMax : Bool) (a b : FVal) : Nat × FFlags :=
  (if a.isNan && b.isNan then f.nan else if a.isNan then f.encode b else if b.isNan then f.encode a
   else if (a.lt true b) != isMax then f.encode a else f.encode b, snan [a, b])

/-- The FCMP conditions (R79, R97). -/
def fcond (code : Nat) (a b : FVal) : Bool :=
  let nan := a.isNan || b.isNan
  let lt := a.lt false b
  let gt := b.lt false a
  match code with
  | 0 => !nan && !lt && !gt
  | 1 => nan || lt || gt
  | 2 => !nan && lt
  | 3 => !nan && !gt
  | 4 => !nan && gt
  | 5 => !nan && !lt
  | 6 => nan
  | _ => !nan

/-- The class bit (R125). -/
def Fmt.classBit (f : Fmt) (v : FVal) : Nat :=
  match v with
  | .nan s => if s then 8 else 9
  | .inf s => if s then 0 else 7
  | .fin s m _ =>
    if m = 0 then (if s then 3 else 4) else if m < 2 ^ f.frac then (if s then 2 else 5) else (if s then 1 else 6)

/-- Rounds m × 2^e to an integer magnitude; tells whether that is inexact. -/
def toIntegral (rm : Rm) (neg : Bool) (m : Nat) (e : Int) : Nat × Bool :=
  if 0 ≤ e then (m * 2 ^ e.toNat, false) else roundShift m (-e).toNat false rm neg

/-- FFLOOR to FRINT (R124): a value rounded to an integral value; `nx` if NX reports inexactness. -/
def Fmt.integral (f : Fmt) (rm : Rm) (nx : Bool) (v : FVal) : Nat × FFlags :=
  match v with
  | .nan s => (f.nan, flagIf s nvF)
  | .inf s => (f.inf s, 0)
  | .fin s m e =>
    if 0 ≤ e then (f.encode v, 0) else
    let r := toIntegral rm s m e
    (f.encode (.fin s r.1 0), flagIf (nx && r.2) nxF)

/-! ## DS8 (R91 to R93) -/

/-- Term(s, e) in units of 2^−6 (R91). -/
def ds8Term (s e : Nat) : Int := if e = 7 then 0 else if s = 1 then -(2 ^ (6 - e) : Nat) else (2 ^ (6 - e) : Nat)

/-- The value of a DS8 code in units of 2^−6 (R91). -/
def ds8Units (c : Nat) : Int := ds8Term (c / 128 % 2) (c / 16 % 8) + ds8Term (c / 8 % 2) (c % 8)

/-- The exact value of a DS8 code. -/
def ds8Val (c : Nat) : FVal := .fin (decide (ds8Units c < 0)) (ds8Units c).natAbs (-6)

/-- The canonical code of a value in units of 2^−6, of two with equal values the one with equal signs (R92): codes that
are canonical in the order they are preferred. -/
def ds8Canonical : List Nat :=
  let singles := (List.range 7).flatMap fun a => [16 * a + 7, 128 + 16 * a + 7]
  let pairs := (List.range 7).flatMap fun a => ((List.range 7).filter fun b => a < b).map fun b => (a, b)
  let same := pairs.flatMap fun p => [16 * p.1 + p.2, 128 + 16 * p.1 + 8 + p.2]
  let diff := (pairs.filter fun p => p.1 + 2 < p.2).flatMap fun p => [16 * p.1 + 8 + p.2, 128 + 16 * p.1 + p.2]
  [0x77, 0x00, 0x88] ++ singles ++ same ++ diff

/-- The code DS8 uses for a value it represents. -/
def ds8Code (units : Int) : Nat := (ds8Canonical.find? fun c => ds8Units c == units).getD 0x77

/-- The magnitudes DS8 represents, in units of 2^−6. -/
def ds8Mags : List Nat := (ds8Canonical.filter fun c => 0 ≤ ds8Units c).map fun c => (ds8Units c).natAbs

/-- Rounds an exact value into DS8 (R93). -/
def ds8Round (rm : Rm) : FVal → Nat × FFlags
  | .nan _ => (0x77, nvF)
  | .inf s => (if s then 0x88 else 0x00, 0)
  | .fin s m e =>
    -- m × 2^e = n / 2^k in units of 2^−6
    let n := if 0 ≤ e + 6 then m * 2 ^ (e + 6).toNat else m
    let d := if 0 ≤ e + 6 then 1 else 2 ^ (-(e + 6)).toNat
    if 128 * d < n then (if s then 0x88 else 0x00, ofF ||| nxF) else
    let lo := (ds8Mags.filter fun x => x * d ≤ n).foldl max 0
    let hi := (ds8Mags.filter fun x => n ≤ x * d).foldl min 128
    let up := match rm with
      | .ne => decide ((lo + hi) * d < 2 * n)
      | .z => false
      | .u => !s
      | .d => s
    let r := if up then hi else lo
    (ds8Code (signedM s r), flagIf (r * d != n) nxF)

/-! ## Conversions (R100, R129, R130) -/

/-- A CVT format code: a float, DS8, or an integer of a width (R79). -/
inductive Cv where
  | flt (f : Fmt)
  | ds8
  | int (width : Nat) (signed : Bool)
deriving DecidableEq, Repr

/-- The CVT format of a code (R79). -/
def cvOf (c : Nat) : Cv :=
  match c with
  | 0 => .flt fmt64
  | 1 => .flt fmt32
  | 2 => .flt fmt16
  | 3 => .flt fmtB16
  | 4 => .flt fmtE4M3
  | 5 => .flt fmtE5M2
  | 6 => .ds8
  | 7 => .int 32 true
  | 8 => .int 32 false
  | 9 => .int 64 true
  | 10 => .int 64 false
  | 11 => .int 8 true
  | _ => .int 8 false

/-- Bytes of an element of a CVT format (R276). -/
def cvBytes (c : Nat) : Nat :=
  match c with
  | 0 | 9 | 10 => 8
  | 1 | 7 | 8 => 4
  | 2 | 3 => 2
  | _ => 1

/-- Pairs that never round (R130). -/
def cvExact (s d : Nat) : Bool :=
  s == d || (s == 2 || s == 3 || s == 4 || s == 5 || s == 6) && (d == 0 || d == 1) || (s == 1 && d == 0) ||
  (s == 4 || s == 5 || s == 6) && (d == 2 || d == 3) || (s == 11 || s == 12) && (d == 2 || d == 3 || d == 0 || d == 1) ||
  (s == 7 || s == 8) && d == 0 || (decide (7 ≤ s) && decide (7 ≤ d))

/-- Pairs on which CVT.SAT performs as CVT (R130). -/
def cvSatFree (s d : Nat) : Bool :=
  d == 6 || (cvExact s d && decide (s ≤ 6) && decide (d ≤ 6)) || (s == 2 && d == 3) || (s == 4 && d == 5) ||
  (decide (7 ≤ s) && decide (7 ≤ d) && (s == d || (s == 11 && (d == 7 || d == 9)) || (s == 12 && (d == 7 || d == 8 || d == 9 || d == 10)) ||
    (s == 7 && d == 9) || (s == 8 && (d == 9 || d == 10)))) ||
  ((s == 11 || s == 12) && decide (d ≤ 5)) || ((s == 7 || s == 8 || s == 9 || s == 10) && (d == 3 || d == 0 || d == 1))

/-- The integer a pattern holds. -/
def intOf (width : Nat) (signed : Bool) (x : Nat) : Int :=
  let y := x % 2 ^ width
  if signed && 2 ^ (width - 1) ≤ y then (y : Int) - 2 ^ width else y

/-- The smallest and largest integers of a format. -/
def intMin (width : Nat) (signed : Bool) : Int := if signed then -2 ^ (width - 1) else 0
def intMax (width : Nat) (signed : Bool) : Int := if signed then 2 ^ (width - 1) - 1 else 2 ^ width - 1

/-- The pattern of an integer, modulo 2^width. -/
def intPat (width : Nat) (n : Int) : Nat := (n % 2 ^ width).toNat

/-- A value to a float format (R100). -/
def toFloat (f : Fmt) (rm : Rm) (sat covers : Bool) (v : FVal) : Nat × FFlags :=
  match v with
  | .nan s => (f.nan, flagIf s nvF)
  | .inf s =>
    if covers && f.ieee then (f.inf s, 0)
    else if sat then (f.maxFin s, 0)
    else if f.ieee then (f.inf s, 0) else (f.nan, nvF)
  | .fin s m e =>
    let r := f.round rm false s m e
    if sat && r.2 &&& ofF != 0 then (f.maxFin s, r.2) else r

/-- A value to an integer format (R100). -/
def toInt (width : Nat) (signed : Bool) (rm : Rm) (sat : Bool) (v : FVal) : Nat × FFlags :=
  let lo := intMin width signed
  let hi := intMax width signed
  let bad := intPat width (if signed then lo else hi)
  match v with
  | .nan _ => (if sat then 0 else bad, nvF)
  | .inf s => (if sat then intPat width (if s then lo else hi) else bad, nvF)
  | .fin s m e =>
    let r := toIntegral rm s m e
    let n := signedM s r.1
    if n < lo then (if sat then intPat width lo else bad, nvF)
    else if hi < n then (if sat then intPat width hi else bad, nvF)
    else (intPat width n, flagIf r.2 nxF)

/-- An integer to an integer format: modulo 2^width, or clamped (R100). -/
def intToInt (width : Nat) (signed sat : Bool) (n : Int) : Nat :=
  intPat width (if sat then max (intMin width signed) (min n (intMax width signed)) else n)

/-- An exact source value: its value, or an integer. -/
def cvRead (c : Cv) (x : Nat) : FVal × Option Int :=
  match c with
  | .flt f => (f.decode (x % 2 ^ f.width), none)
  | .ds8 => (ds8Val (x % 256), none)
  | .int w s => let n := intOf w s x; (.fin (decide (n < 0)) n.natAbs 0, some n)

/-- Converts an exact value to a destination format (R93, R100). -/
def cvWrite (d : Cv) (rm : Rm) (sat covers : Bool) (v : FVal) (int : Option Int) : Nat × FFlags :=
  match d, int with
  | .ds8, _ => ds8Round rm v
  | .flt f, _ => toFloat f rm sat covers v
  | .int w s, some n => (intToInt w s sat n, 0)
  | .int w s, none => toInt w s rm sat v

/-- CVT and CVT.SAT by format codes (R100): the destination's pattern and the flags. -/
def convert (s d : Nat) (rm : Rm) (sat : Bool) (x : Nat) : Nat × FFlags :=
  let r := cvRead (cvOf s) x
  cvWrite (cvOf d) rm (sat && !cvSatFree s d) (cvExact s d) r.1 r.2

/-! ## Transcendentals (R127) -/

/-- Fraction bits of the fixed-point enclosures. -/
def fxBits : Nat := 128
def fxOne : Nat := 2 ^ 128
def fxLn2 : Nat := 0xb17217f7d1cf79abc9e3b39803f2f6af
def fxPi : Nat := 0x3243f6a8885a308d313198a2e03707344

/-- Fixed-point product. -/
def fxMul (a b : Nat) : Nat := a * b / fxOne

/-- Sum of z^k / k! from a term on. -/
def fxExp (z : Nat) : (fuel k term : Nat) → Nat
  | 0, _, t => t
  | n + 1, k, t => t + fxExp z n (k + 1) (fxMul t z / (k + 1))

/-- Alternating sum of the odd terms of sin. -/
def fxSin (z2 : Nat) : (fuel k : Nat) → (term : Nat) → Int
  | 0, _, _ => 0
  | n + 1, k, t => (t : Int) - fxSin z2 n (k + 2) (fxMul t z2 / ((k + 1) * (k + 2)))

/-- The fraction bits of log2 of y in [1, 2), bit by bit by squaring. -/
def fxLog : (bits : Nat) → (y acc : Nat) → Nat
  | 0, _, acc => acc
  | n + 1, y, acc =>
    let z := fxMul y y
    if 2 * fxOne ≤ z then fxLog n (z / 2) (2 * acc + 1) else fxLog n z (2 * acc)

/-- The functions of OP 0x15. -/
inductive Tr where
  | exp2 | log2 | sinpi | cospi | tanh
deriving DecidableEq, Repr

/-- A fixed-point value of a non-negative m × 2^e. -/
def fxOf (m : Nat) (e : Int) : Nat :=
  if 0 ≤ e + 128 then m * 2 ^ (e + 128).toNat else m / 2 ^ (-(e + 128)).toNat

/-- 2^x for a signed fixed-point x: mantissa in fixed point and exponent. -/
def fxExp2 (x : Int) : Dy :=
  let n := x / (fxOne : Int)
  let f := (x % (fxOne : Int)).toNat
  ⟨fxExp (fxMul f fxLn2) 40 0 fxOne, n - 128⟩

/-- sin(π r) for r in [0, 2) as a fixed-point number. -/
def fxSinPi (r : Nat) : Int :=
  let (neg, a) := if fxOne ≤ r then (true, r - fxOne) else (false, r)
  let b := if fxOne / 2 < a then fxOne - a else a
  let z := fxMul b fxPi
  let v := fxSin (fxMul z z) 25 1 z
  if neg then -v else v

/-- An approximation of the function at a finite x (R127): within 2^−90 of 2^x relatively (2^−512 stands for what is smaller), within
2^−60 of log2, within 2^−100 of sin and cos, within 2^−70 of tanh relatively. -/
def Tr.approx (t : Tr) (s : Bool) (m : Nat) (e : Int) : Dy :=
  match t with
  | .exp2 =>
    if Nat.log2 m + e ≤ -100 then ⟨2 ^ 101 + signedM s 1, -101⟩
    else if s && 9 ≤ Nat.log2 m + e then ⟨1, -512⟩
    else fxExp2 (signedM s (fxOf m e))
  | .log2 =>
    let k := Nat.log2 m
    let y := if k ≤ 128 then m * 2 ^ (128 - k) else m / 2 ^ (k - 128)
    Dy.add ⟨k + e, 0⟩ ⟨fxLog 64 y 0, -64⟩
  | .sinpi =>
    let r := fxOf m e % (2 * fxOne)
    let v := fxSinPi r
    ⟨if s then -v else v, -128⟩
  | .cospi => ⟨fxSinPi ((fxOf m e + fxOne / 2) % (2 * fxOne)), -128⟩
  | .tanh =>
    if (Nat.log2 m + e : Int) < -40 then ⟨signedM s m, e⟩ else
    -- (E − 1) / (E + 1) with E = e^2x = 2^(2x / ln 2)
    let x2 := 2 * fxOf m e * fxOne / fxLn2
    let d := fxExp2 x2
    let g := if 0 ≤ d.e + 128 then d.m * 2 ^ (d.e + 128).toNat else d.m / 2 ^ (-(d.e + 128)).toNat
    ⟨signedM s (((g - fxOne) * fxOne / (g + fxOne)).toNat), -128⟩

/-- |a − b| ≤ c. -/
def Dy.within (a b c : Dy) : Bool :=
  let d := Dy.add a ⟨-b.m, b.e⟩
  !(Dy.lt c ⟨(d.m.natAbs : Int), d.e⟩)

/-- One unit in the last place of an FP32 result near a value (R127). -/
def ulp32 (v : Dy) : Dy :=
  if v.m = 0 then ⟨1, -149⟩ else ⟨1, max (v.e + Nat.log2 v.m.natAbs) (-126) - 23⟩

/-- How far from an approximate value a result may lie so that it surely has the accuracy of R127: the accuracy less the approximation's
own error. -/
def Tr.bound (t : Tr) (s : Bool) (m : Nat) (e : Int) (v : Dy) : Dy :=
  let mag : Dy := ⟨(v.m.natAbs : Int), v.e⟩
  match t with
  | .exp2 => Dy.add (ulp32 v) (Dy.mul mag ⟨-1, -90⟩)
  | .log2 =>
    -- x in [0.5, 2]
    let n := Nat.log2 m + e
    if !s && (n == -1 || n == 0 || (n == 1 && m == 2 ^ Nat.log2 m)) then ⟨2 ^ 36 - 1, -58⟩
    else Dy.add (ulp32 (Dy.add mag ⟨-1, -58⟩)) ⟨-1, -58⟩
  | .sinpi | .cospi => ⟨2 ^ 76 - 1, -98⟩
  | .tanh => Dy.mul mag ⟨2 ^ 39 - 1, -60⟩

/-- The value that a transcendental returns where the manual fixes no bits: the free value of the part if it is a number within the
bound of R127, else the rounded approximation, which is. -/
def Tr.value (t : Tr) (ftz : Bool) (x : Word) (s : Bool) (m : Nat) (e : Int) : Nat :=
  let v := t.approx s m e
  let y := Config.transc (match t with
    | .exp2 => 0
    | .log2 => 1
    | .sinpi => 2
    | .cospi => 3
    | .tanh => 4) ftz x
  match fmt32.decode y.toNat with
  | .fin sy my ey => if Dy.within ⟨signedM sy my, ey⟩ v (t.bound s m e v) then y.toNat else (fmt32.roundInt .ne false v.m v.e (s && t != .exp2)).1
  | _ => (fmt32.roundInt .ne false v.m v.e (s && t != .exp2)).1

/-- The returned value with its flags: NX, and UF when it is tiny; flushed under FTZ32 (R96, R127). A returned zero counts as tiny (log 118). -/
def trFlags (ftz : Bool) (y : Nat) : Nat × FFlags :=
  match fmt32.decode y with
  | .fin s m _ => if m < 2 ^ 23 then (if ftz then fmt32.sign s else y, nxF ||| ufF) else (y, nxF)
  | _ => (y, nxF)

/-- The exact results of R127, where the operand has one. -/
def Tr.exact (t : Tr) (ftz : Bool) (s : Bool) (m : Nat) (e : Int) : Option (Nat × FFlags) :=
  let integral := decide (0 ≤ e) || m % 2 ^ (-e).toNat == 0
  let n : Int := signedM s (if 0 ≤ e then m * 2 ^ e.toNat else m / 2 ^ (-e).toNat)
  let half := decide (e < 0) && m % 2 ^ (-e).toNat == 2 ^ (-e).toNat / 2 && m != 0
  let odd := (if 0 ≤ e then m * 2 ^ e.toNat else m / 2 ^ (-e).toNat) % 2 == 1
  let unit (neg : Bool) := fmt32.encode (.fin neg 1 0)
  match t with
  | .exp2 =>
    if m = 0 then some (unit false, 0)
    else if !s && 7 ≤ Nat.log2 m + e then some (fmt32.inf false, ofF ||| nxF)
    else if integral && decide (-149 ≤ n) then some (fmt32.round .ne ftz false 1 n) else none
  | .log2 =>
    if m = 0 then some (fmt32.inf true, dzF)
    else if s then some (fmt32.nan, nvF)
    else if m == 2 ^ Nat.log2 m then
      let k : Int := Nat.log2 m + e
      some (fmt32.roundInt .ne false k 0 false)
    else none
  | .sinpi =>
    if integral then some (fmt32.sign s, 0)
    else if half then some (unit (s != odd), 0) else none
  | .cospi =>
    if integral then some (unit odd, 0)
    else if half then some (fmt32.sign false, 0) else none
  | .tanh =>
    if m = 0 then some (fmt32.sign s, 0)
    else if !(Dy.lt ⟨m, e⟩ ⟨10, 0⟩) then some (unit s, 0) else none

/-- A transcendental (R96, R127). -/
def Tr.eval (t : Tr) (ftz : Bool) (x : Word) : Nat × FFlags :=
  let r := fmt32.read ftz x.toNat
  match r.1 with
  | .nan s => (fmt32.nan, flagIf s nvF)
  | .inf s =>
    match t with
    | .exp2 => (if s then fmt32.sign false else fmt32.inf false, 0)
    | .log2 => if s then (fmt32.nan, nvF) else (fmt32.inf false, 0)
    | .sinpi | .cospi => (fmt32.nan, nvF)
    | .tanh => (fmt32.encode (.fin s 1 0), 0)
  | .fin s m e =>
    let y := match t.exact ftz s m e with
      | some y => y
      | none => trFlags ftz (t.value ftz x s m e)
    (y.1, y.2 ||| r.2)

/-! ## Block scaling (R89, R101) -/

/-- The smallest code with mx ≤ fmax × 2^(code − 127), at least 0 (R101): ⌈log2 (mx / fmax)⌉ for mx = m × 2^e. -/
def scaleCode (fm : Dy) (mx : Dy) : Nat :=
  let k0 : Int := (mx.e + Nat.log2 mx.m.natAbs) - (fm.e + Nat.log2 fm.m.natAbs)
  -- mx ≤ fmax × 2^k for k0 or k0 + 1
  let k := if Dy.lt ⟨fm.m, fm.e + k0⟩ mx then k0 + 1 else k0
  (max 0 (127 + k)).toNat

/-- Quantises a block of FP32 values: its code, its elements and the flags (R101). `fmt` is 4 E4M3, 5 E5M2 or 6 DS8. -/
def quantBlock (fmt : Nat) (xs : List Word) : Nat × List Nat × FFlags :=
  let vs := xs.map fun x => fmt32.decode x.toNat
  let nan := match cvOf fmt with
    | .flt f => f.nan
    | _ => 0x77
  let plus0 := match cvOf fmt with
    | .flt _ => 0
    | _ => 0x77
  if vs.any FVal.special then (0xFF, xs.map fun _ => nan, nvF) else
  let mx := vs.foldl (fun a v => let d : Dy := ⟨(v.dy.m.natAbs : Int), v.dy.e⟩; if Dy.lt a d then d else a) ⟨0, 0⟩
  if mx.m = 0 then (0, xs.map fun _ => plus0, 0) else
  let fm : Dy := match fmt with
    | 4 => ⟨448, 0⟩
    | 5 => ⟨57344, 0⟩
    | _ => ⟨2, 0⟩
  let code := scaleCode fm mx
  let rs := vs.map fun v => match v with
    | .fin s m e =>
      let w := FVal.fin s m (e - (code - 127))
      match cvOf fmt with
      | .flt f => f.round .ne false s m (e - (code - 127))
      | _ => ds8Round .ne w
    | _ => (nan, 0)
  (code, rs.map (·.1), rs.foldl (fun a r => a ||| (r.2 &&& nxF)) 0)

/-! ## Integer division (R104) -/

/-- Truncated signed quotient with the defined cases of R104. -/
def sdivBits {n : Nat} (a b : BitVec n) : BitVec n := if b = 0 then -1 else BitVec.ofInt n (a.toInt.tdiv b.toInt)

/-- Signed remainder, with the sign of the dividend. -/
def sremBits {n : Nat} (a b : BitVec n) : BitVec n := if b = 0 then a else BitVec.ofInt n (a.toInt.tmod b.toInt)

/-- Unsigned quotient; all ones for a divisor of 0. -/
def udivBits {n : Nat} (a b : BitVec n) : BitVec n := if b = 0 then -1 else BitVec.ofNat n (a.toNat / b.toNat)

/-- Unsigned remainder. -/
def uremBits {n : Nat} (a b : BitVec n) : BitVec n := if b = 0 then a else BitVec.ofNat n (a.toNat % b.toNat)

end Sys2Proof.Machine
end

