-- ==== Sys2Proof/Machine/LaneInt.lean ====
section
/-! DEFINITION. Lane arithmetic on integers and predicates: OPs 0x00 to 0x0D (R106 to R120). -/

namespace Sys2Proof.Machine

/-- A lane instruction whose results are written at issue (class A), or later (class B and variable) (R108). -/
def laneOut (later : Bool) (s : State) (n : Need) (f : Ctx → List Wr) : Out := if later then execB s n f else execA s n f

/-- vD := f vA in each active lane (R106). -/
def laneV (later wf : Bool) (e : LExt) (d a : BitVec 7) (f : Word → Word) (s : State) : Out :=
  laneOut later s (.ofLane wf e (nv a) (nv d)) fun c => wrV d (c.active e) fun l => f (c.v a l)

/-- vD := f vA vB in each active lane. -/
def laneVV (later wf : Bool) (e : LExt) (d a b : BitVec 7) (f : Word → Word → Word) (s : State) : Out :=
  laneOut later s (.ofLane wf e (nv a ++ nv b) (nv d)) fun c => wrV d (c.active e) fun l => f (c.v a l) (c.v b l)

/-- vD := f vA vB vC in each active lane. -/
def laneVVV (later wf : Bool) (e : LExt) (d a b g : BitVec 7) (f : Word → Word → Word → Word) (s : State) : Out :=
  laneOut later s (.ofLane wf e (nv a ++ nv b ++ nv g) (nv d)) fun c =>
    wrV d (c.active e) fun l => f (c.v a l) (c.v b l) (c.v g l)

/-- A pair vD := f vA vB on single registers. -/
def laneVVw (wf : Bool) (e : LExt) (d a b : BitVec 7) (f : Word → Word → DWord) (s : State) : Out :=
  laneOut true s (.ofLane wf e (nv a ++ nv b) (nvs d 2)) fun c => wrPair d (c.active e) fun l => f (c.v a l) (c.v b l)

/-- A pair vD := f vA vB on pairs (R119). -/
def lane64 (later wf : Bool) (e : LExt) (d a b : BitVec 7) (f : DWord → DWord → DWord) (s : State) : Out :=
  laneOut later s (.ofLane wf e (nvs a 2 ++ nvs b 2) (nvs d 2)) fun c =>
    wrPair d (c.active e) fun l => f (c.v64 a l) (c.v64 b l)

/-- A pair vD := f vA n with the amount in a single register (R119). -/
def laneShift64 (wf : Bool) (e : LExt) (d a b : BitVec 7) (f : DWord → Nat → DWord) (s : State) : Out :=
  execA s (.ofLane wf e (nvs a 2 ++ nv b) (nvs d 2)) fun c => wrPair d (c.active e) fun l => f (c.v64 a l) (c.v b l).toNat

/-- pD := f vA vB in each active lane (R117). -/
def laneP (wf : Bool) (e : LExt) (d : BitVec 3) (a b : BitVec 7) (f : Word → Word → Bool) (s : State) : Out :=
  execA s (.ofLane wf e (nv a ++ nv b) (dp d)) fun c => wrP d (c.active e) fun l => f (c.v a l) (c.v b l)

/-- pD := f vA in each active lane. -/
def lanePImm (wf : Bool) (e : LExt) (d : BitVec 3) (a : BitVec 7) (f : Word → Bool) (s : State) : Out :=
  execA s (.ofLane wf e (nv a) (dp d)) fun c => wrP d (c.active e) fun l => f (c.v a l)

/-- pD := f pA pB in each active lane (R118). -/
def lanePP (wf : Bool) (e : LExt) (d a b : BitVec 3) (f : Bool → Bool → Bool) (s : State) : Out :=
  execA s (.ofLane wf e (np a ++ np b) (dp d)) fun c => wrP d (c.active e) fun l => f (c.p a l) (c.p b l)

/-- imm16 sign-extended (R78). -/
def immS (imm : BitVec 16) : Word := imm.signExtend 32

/-- imm16 zero-extended (R78). -/
def immZ (imm : BitVec 16) : Word := imm.zeroExtend 32

/-- The conditions of R117 by their F values. -/
def icond {n : Nat} (code : Nat) (a b : BitVec n) : Bool :=
  match code with
  | 0 => a == b
  | 1 => a != b
  | 2 => a.slt b
  | 3 => !a.slt b
  | 4 => a.ult b
  | 5 => !a.ult b
  | 6 => a.sle b
  | _ => !a.sle b

/-- The operand with the smaller or larger value under an order. -/
def pick {n : Nat} (lt : BitVec n → BitVec n → Bool) (a b : BitVec n) : BitVec n := if lt b a then b else a
def pickMax {n : Nat} (lt : BitVec n → BitVec n → Bool) (a b : BitVec n) : BitVec n := if lt a b then b else a

/-- Shifts by an unsigned amount (R113, R119, R167). -/
def shl {n : Nat} (a : BitVec n) (k : Nat) : BitVec n := if k < n then a <<< k else 0
def shr {n : Nat} (a : BitVec n) (k : Nat) : BitVec n := if k < n then a >>> k else 0
def sar {n : Nat} (a : BitVec n) (k : Nat) : BitVec n := a.sshiftRight (min k (n - 1))

/-- Funnel shifts (R113): `a` the high word, `c` the low. -/
def fshl (a c : Word) (k : Nat) : Word := ((a ++ c) <<< (k % 32)).extractLsb' 32 32
def fshr (a c : Word) (k : Nat) : Word := ((a ++ c) >>> (k % 32)).extractLsb' 0 32

/-- Leading and trailing zero bits and one bits (R114, R167). -/
def clz {n : Nat} (a : BitVec n) : Nat := if a = 0 then n else n - 1 - Nat.log2 a.toNat
def ctz {n : Nat} (a : BitVec n) : Nat := ((List.range n).find? fun i => a.getLsbD i).getD n
def popc {n : Nat} (a : BitVec n) : Nat := ((List.range n).filter fun i => a.getLsbD i).length

/-- Bit i to bit 31 − i; byte i to byte 3 − i (R114). -/
def brev (a : Word) : Word := maskOf fun i => a.getLsbD (31 - i)
def bswap (a : Word) : Word := a.extractLsb' 0 8 ++ a.extractLsb' 8 8 ++ a.extractLsb' 16 8 ++ a.extractLsb' 24 8

/-- A field's length, clamped to end at bit 31 (R84, R114). -/
def fieldLen (pos len : Nat) : Nat := if 32 < pos + len then 32 - pos else len

/-- The WARN bit of a clamped field. -/
def warnField (pos : BitVec 5) (len : BitVec 6) : BitVec 8 := if 32 < pos.toNat + len.toNat then 0x10 else 0

/-- `n` ones. -/
def ones (n : Nat) : Word := BitVec.ofNat 32 (2 ^ n - 1)

/-- BFX, BFXS and BFI (R114). -/
def bfx (a : Word) (pos len : Nat) : Word := (a >>> pos) &&& ones (fieldLen pos len)
def bfxs (a : Word) (pos len : Nat) : Word :=
  let n := fieldLen pos len
  if n = 0 then 0 else ((a <<< (32 - n - pos)).sshiftRight (32 - n))
def bfi (a b : Word) (pos len : Nat) : Word :=
  let m := ones (fieldLen pos len) <<< pos
  (a &&& ~~~m) ||| ((b <<< pos) &&& m)

/-- The upper halves of products (R115, R167). -/
def mulhi {n : Nat} (a b : BitVec n) : BitVec n := BitVec.ofInt n (a.toInt * b.toInt / 2 ^ n)
def mulhiu {n : Nat} (a b : BitVec n) : BitVec n := BitVec.ofNat n (a.toNat * b.toNat / 2 ^ n)

/-- A lane's number: the visible index in a protected launch (R120). -/
def laneNo (la : Launch) (l : Nat) : Nat := if la.protect then l / 2 else l

/-- Waves of visible lanes are 16 wide in a protected launch (R15, R314). -/
def waveWidth (la : Launch) : Nat := if la.protect then 16 else 32

/-- IADD: Wrap32(a + b) (R111). -/
def execIadd (e : LExt) (d a b : BitVec 7) (s : State) : Out :=
  laneVV false (e.wf) e d a b (fun x y => x + y) s

/-- ISUB: Wrap32(a − b) (R111). -/
def execIsub (e : LExt) (d a b : BitVec 7) (s : State) : Out :=
  laneVV false (e.wf) e d a b (fun x y => x - y) s

/-- IMIN: the operand with the smaller Signed32 value (R111). -/
def execImin (e : LExt) (d a b : BitVec 7) (s : State) : Out :=
  laneVV false (e.wf) e d a b (pick BitVec.slt) s

/-- IMAX: the operand with the larger Signed32 value (R111). -/
def execImax (e : LExt) (d a b : BitVec 7) (s : State) : Out :=
  laneVV false (e.wf) e d a b (pickMax BitVec.slt) s

/-- IMINU: the operand with the smaller unsigned value (R111). -/
def execIminu (e : LExt) (d a b : BitVec 7) (s : State) : Out :=
  laneVV false (e.wf) e d a b (pick BitVec.ult) s

/-- IMAXU: the operand with the larger unsigned value (R111). -/
def execImaxu (e : LExt) (d a b : BitVec 7) (s : State) : Out :=
  laneVV false (e.wf) e d a b (pickMax BitVec.ult) s

/-- IABS: Wrap32(|Signed32(a)|) (R111). -/
def execIabs (e : LExt) (d a : BitVec 7) (s : State) : Out :=
  laneV false (e.wf) e d a (fun x => if x.msb then -x else x) s

/-- INEG: Wrap32(−a) (R111). -/
def execIneg (e : LExt) (d a : BitVec 7) (s : State) : Out :=
  laneV false (e.wf) e d a (fun x => -x) s

/-- IADD with imm16 sign-extended: Wrap32(a + b) (R111). -/
def execIaddImm (e : LExt) (d a : BitVec 7) (imm : BitVec 16) (s : State) : Out :=
  laneV false (e.wf && (absent e.x (imm == 0))) e d a (fun x => (fun x y => x + y) x (immS imm)) s

/-- ISUB with imm16 sign-extended: Wrap32(a − b) (R111). -/
def execIsubImm (e : LExt) (d a : BitVec 7) (imm : BitVec 16) (s : State) : Out :=
  laneV false (e.wf && (absent e.x (imm == 0))) e d a (fun x => (fun x y => x - y) x (immS imm)) s

/-- IMIN with imm16 sign-extended: the operand with the smaller Signed32 value (R111). -/
def execIminImm (e : LExt) (d a : BitVec 7) (imm : BitVec 16) (s : State) : Out :=
  laneV false (e.wf && (absent e.x (imm == 0))) e d a (fun x => (pick BitVec.slt) x (immS imm)) s

/-- IMAX with imm16 sign-extended: the operand with the larger Signed32 value (R111). -/
def execImaxImm (e : LExt) (d a : BitVec 7) (imm : BitVec 16) (s : State) : Out :=
  laneV false (e.wf && (absent e.x (imm == 0))) e d a (fun x => (pickMax BitVec.slt) x (immS imm)) s

/-- IMINU with imm16 sign-extended: the operand with the smaller unsigned value (R111). -/
def execIminuImm (e : LExt) (d a : BitVec 7) (imm : BitVec 16) (s : State) : Out :=
  laneV false (e.wf && (absent e.x (imm == 0))) e d a (fun x => (pick BitVec.ult) x (immS imm)) s

/-- IMAXU with imm16 sign-extended: the operand with the larger unsigned value (R111). -/
def execImaxuImm (e : LExt) (d a : BitVec 7) (imm : BitVec 16) (s : State) : Out :=
  laneV false (e.wf && (absent e.x (imm == 0))) e d a (fun x => (pickMax BitVec.ult) x (immS imm)) s

/-- AND: a and b (R112). -/
def execLand (e : LExt) (d a b : BitVec 7) (s : State) : Out :=
  laneVV false (e.wf) e d a b (fun x y => x &&& y) s

/-- OR: a or b (R112). -/
def execLor (e : LExt) (d a b : BitVec 7) (s : State) : Out :=
  laneVV false (e.wf) e d a b (fun x y => x ||| y) s

/-- XOR: a xor b (R112). -/
def execLxor (e : LExt) (d a b : BitVec 7) (s : State) : Out :=
  laneVV false (e.wf) e d a b (fun x y => x ^^^ y) s

/-- ANDN: a and not b (R112). -/
def execLandn (e : LExt) (d a b : BitVec 7) (s : State) : Out :=
  laneVV false (e.wf) e d a b (fun x y => x &&& ~~~y) s

/-- ORN: a or not b (R112). -/
def execLorn (e : LExt) (d a b : BitVec 7) (s : State) : Out :=
  laneVV false (e.wf) e d a b (fun x y => x ||| ~~~y) s

/-- XNOR: not (a xor b) (R112). -/
def execLxnor (e : LExt) (d a b : BitVec 7) (s : State) : Out :=
  laneVV false (e.wf) e d a b (fun x y => ~~~(x ^^^ y)) s

/-- NOT: not a (R112). -/
def execLnot (e : LExt) (d a : BitVec 7) (s : State) : Out :=
  laneV false (e.wf) e d a (fun x => ~~~x) s

/-- MOV: a (R112). -/
def execMov (e : LExt) (d a : BitVec 7) (s : State) : Out :=
  laneV false (e.wf) e d a (fun x => x) s

/-- AND with imm16 zero-extended: a and b (R112). -/
def execLandImm (e : LExt) (d a : BitVec 7) (imm : BitVec 16) (s : State) : Out :=
  laneV false (e.wf && (absent e.x (imm == 0))) e d a (fun x => x &&& immZ imm) s

/-- OR with imm16 zero-extended: a or b (R112). -/
def execLorImm (e : LExt) (d a : BitVec 7) (imm : BitVec 16) (s : State) : Out :=
  laneV false (e.wf && (absent e.x (imm == 0))) e d a (fun x => x ||| immZ imm) s

/-- XOR with imm16 zero-extended: a xor b (R112). -/
def execLxorImm (e : LExt) (d a : BitVec 7) (imm : BitVec 16) (s : State) : Out :=
  laneV false (e.wf && (absent e.x (imm == 0))) e d a (fun x => x ^^^ immZ imm) s

/-- ANDN with imm16 zero-extended: a and not b (R112). -/
def execLandnImm (e : LExt) (d a : BitVec 7) (imm : BitVec 16) (s : State) : Out :=
  laneV false (e.wf && (absent e.x (imm == 0))) e d a (fun x => x &&& ~~~immZ imm) s

/-- ORN with imm16 zero-extended: a or not b (R112). -/
def execLornImm (e : LExt) (d a : BitVec 7) (imm : BitVec 16) (s : State) : Out :=
  laneV false (e.wf && (absent e.x (imm == 0))) e d a (fun x => x ||| ~~~immZ imm) s

/-- XNOR with imm16 zero-extended: not (a xor b) (R112). -/
def execLxnorImm (e : LExt) (d a : BitVec 7) (imm : BitVec 16) (s : State) : Out :=
  laneV false (e.wf && (absent e.x (imm == 0))) e d a (fun x => ~~~(x ^^^ immZ imm)) s

/-- MOVHI: imm16 in [31:16], [15:0] from the old value of vD, which is a source (R112). -/
def execMovhi (e : LExt) (d : BitVec 7) (imm : BitVec 16) (s : State) : Out :=
  laneV false (e.wf && (absent e.x (imm == 0))) e d d (fun x => imm ++ x.extractLsb' 0 16) s

/-- MOVI: imm16 sign-extended (R112). -/
def execMovi (e : LExt) (d : BitVec 7) (imm : BitVec 16) (s : State) : Out :=
  execA s (.ofLane (e.wf && (absent e.x (imm == 0))) e [] (nv d)) fun c => wrV d (c.active e) fun _ => immS imm

/-- SHL by the unsigned value of vB (R113). -/
def execShl (e : LExt) (d a b : BitVec 7) (s : State) : Out :=
  laneVV false (e.wf) e d a b (fun x y => shl x y.toNat) s

/-- SHR by the unsigned value of vB (R113). -/
def execShr (e : LExt) (d a b : BitVec 7) (s : State) : Out :=
  laneVV false (e.wf) e d a b (fun x y => shr x y.toNat) s

/-- SAR by the unsigned value of vB (R113). -/
def execSar (e : LExt) (d a b : BitVec 7) (s : State) : Out :=
  laneVV false (e.wf) e d a b (fun x y => sar x y.toNat) s

/-- ROL by the unsigned value of vB (R113). -/
def execRol (e : LExt) (d a b : BitVec 7) (s : State) : Out :=
  laneVV false (e.wf) e d a b (fun x y => x.rotateLeft y.toNat) s

/-- ROR by the unsigned value of vB (R113). -/
def execRor (e : LExt) (d a b : BitVec 7) (s : State) : Out :=
  laneVV false (e.wf) e d a b (fun x y => x.rotateRight y.toNat) s

/-- FSHL: high word vA, low word vC, amount vB (R113). -/
def execFshl (e : LExt) (d a b c : BitVec 7) (s : State) : Out :=
  laneVVV false (e.wf && (absent e.x (c == 0))) e d a b c (fun x y z => fshl x z y.toNat) s

/-- FSHR: high word vA, low word vC, amount vB (R113). -/
def execFshr (e : LExt) (d a b c : BitVec 7) (s : State) : Out :=
  laneVVV false (e.wf && (absent e.x (c == 0))) e d a b c (fun x y z => fshr x z y.toNat) s

/-- SHL by n (R113). -/
def execShlImm (e : LExt) (d a : BitVec 7) (n : BitVec 5) (s : State) : Out :=
  laneV false (e.wf) e d a (fun x => shl x n.toNat) s

/-- SHR by n (R113). -/
def execShrImm (e : LExt) (d a : BitVec 7) (n : BitVec 5) (s : State) : Out :=
  laneV false (e.wf) e d a (fun x => shr x n.toNat) s

/-- SAR by n (R113). -/
def execSarImm (e : LExt) (d a : BitVec 7) (n : BitVec 5) (s : State) : Out :=
  laneV false (e.wf) e d a (fun x => sar x n.toNat) s

/-- ROL by n (R113). -/
def execRolImm (e : LExt) (d a : BitVec 7) (n : BitVec 5) (s : State) : Out :=
  laneV false (e.wf) e d a (fun x => x.rotateLeft n.toNat) s

/-- ROR by n (R113). -/
def execRorImm (e : LExt) (d a : BitVec 7) (n : BitVec 5) (s : State) : Out :=
  laneV false (e.wf) e d a (fun x => x.rotateRight n.toNat) s

/-- FSHL by n (R113). -/
def execFshlImm (e : LExt) (d a : BitVec 7) (n : BitVec 5) (c : BitVec 7) (s : State) : Out :=
  laneVV false (e.wf && (absent e.x (c == 0))) e d a c (fun x z => fshl x z n.toNat) s

/-- FSHR by n (R113). -/
def execFshrImm (e : LExt) (d a : BitVec 7) (n : BitVec 5) (c : BitVec 7) (s : State) : Out :=
  laneVV false (e.wf && (absent e.x (c == 0))) e d a c (fun x z => fshr x z n.toNat) s

/-- CLZ: the number of leading zero bits; 32 for 0 (R114). -/
def execClz (e : LExt) (d a : BitVec 7) (s : State) : Out :=
  laneV false (e.wf) e d a (fun x => BitVec.ofNat 32 (clz x)) s

/-- CTZ: the number of trailing zero bits; 32 for 0 (R114). -/
def execCtz (e : LExt) (d a : BitVec 7) (s : State) : Out :=
  laneV false (e.wf) e d a (fun x => BitVec.ofNat 32 (ctz x)) s

/-- POPC: the number of one bits (R114). -/
def execPopc (e : LExt) (d a : BitVec 7) (s : State) : Out :=
  laneV false (e.wf) e d a (fun x => BitVec.ofNat 32 (popc x)) s

/-- BREV: bit i moved to bit 31 − i (R114). -/
def execBrev (e : LExt) (d a : BitVec 7) (s : State) : Out :=
  laneV false (e.wf) e d a brev s

/-- BSWAP: byte i moved to byte 3 − i (R114). -/
def execBswap (e : LExt) (d a : BitVec 7) (s : State) : Out :=
  laneV false (e.wf) e d a bswap s

/-- BFX: a field zero-extended; a length past bit 31 is clamped (R84, R114). -/
def execBfx (e : LExt) (d a : BitVec 7) (pos : BitVec 5) (len : BitVec 6) (s : State) : Out :=
  execA s { Need.ofLane (e.wf && (absent e.x (pos == 0 && len == 0))) e (nv a) (nv d) with warn := warnField pos len } fun c =>
    wrV d (c.active e) fun l => bfx (c.v a l) pos.toNat len.toNat

/-- BFXS: a field sign-extended; a length past bit 31 is clamped (R84, R114). -/
def execBfxs (e : LExt) (d a : BitVec 7) (pos : BitVec 5) (len : BitVec 6) (s : State) : Out :=
  execA s { Need.ofLane (e.wf && (absent e.x (pos == 0 && len == 0))) e (nv a) (nv d) with warn := warnField pos len } fun c =>
    wrV d (c.active e) fun l => bfxs (c.v a l) pos.toNat len.toNat

/-- BFI: a with a field replaced from vB; a length past bit 31 is clamped (R84, R114). -/
def execBfi (e : LExt) (d a b : BitVec 7) (pos : BitVec 5) (len : BitVec 6) (s : State) : Out :=
  execA s { Need.ofLane (e.wf && (absent e.x (pos == 0 && len == 0))) e (nv a ++ nv b) (nv d) with warn := warnField pos len } fun c =>
    wrV d (c.active e) fun l => bfi (c.v a l) (c.v b l) pos.toNat len.toNat

/-- IMUL: Wrap32(a × b) (R115). -/
def execImul (e : LExt) (d a b : BitVec 7) (s : State) : Out :=
  laneVV true (e.wf) e d a b (fun x y => x * y) s

/-- IMULHI: the upper half of the signed product (R115). -/
def execImulhi (e : LExt) (d a b : BitVec 7) (s : State) : Out :=
  laneVV true (e.wf) e d a b mulhi s

/-- IMULHIU: the upper half of the unsigned product (R115). -/
def execImulhiu (e : LExt) (d a b : BitVec 7) (s : State) : Out :=
  laneVV true (e.wf) e d a b mulhiu s

/-- IMAD: Wrap32(a × b + c) (R115). -/
def execImad (e : LExt) (d a b c : BitVec 7) (s : State) : Out :=
  laneVVV true (e.wf && (absent e.x (c == 0))) e d a b c (fun x y z => x * y + z) s

/-- IMULW: the signed 64-bit product (R115). -/
def execImulw (e : LExt) (d a b : BitVec 7) (s : State) : Out :=
  laneVVw (e.wf && even d) e d a b (fun x y => BitVec.ofInt 64 (x.toInt * y.toInt)) s

/-- IMULWU: the unsigned 64-bit product (R115). -/
def execImulwu (e : LExt) (d a b : BitVec 7) (s : State) : Out :=
  laneVVw (e.wf && even d) e d a b (fun x y => BitVec.ofNat 64 (x.toNat * y.toNat)) s

/-- IMADW: Wrap64(a × b + c), unsigned, c a pair (R115). -/
def execImadw (e : LExt) (d a b c : BitVec 7) (s : State) : Out :=
  laneOut true s (.ofLane (e.wf && (absent e.x (c == 0)) && even d && even c) e (nv a ++ nv b ++ nvs c 2) (nvs d 2)) fun k =>
    wrPair d (k.active e) fun l => BitVec.ofNat 64 ((k.v a l).toNat * (k.v b l).toNat + (k.v64 c l).toNat)

/-- IDIV: the signed quotient (R104, R116). -/
def execIdiv (e : LExt) (d a b : BitVec 7) (s : State) : Out :=
  laneVV true (e.wf) e d a b sdivBits s

/-- IDIVU: the unsigned quotient (R104, R116). -/
def execIdivu (e : LExt) (d a b : BitVec 7) (s : State) : Out :=
  laneVV true (e.wf) e d a b udivBits s

/-- IREM: the signed remainder (R104, R116). -/
def execIrem (e : LExt) (d a b : BitVec 7) (s : State) : Out :=
  laneVV true (e.wf) e d a b sremBits s

/-- IREMU: the unsigned remainder (R104, R116). -/
def execIremu (e : LExt) (d a b : BitVec 7) (s : State) : Out :=
  laneVV true (e.wf) e d a b uremBits s

/-- EQ: a compare into a predicate (R117). -/
def execCeq (e : LExt) (d : BitVec 3) (a b : BitVec 7) (s : State) : Out :=
  laneP (e.wf) e d a b (icond 0) s

/-- NE: a compare into a predicate (R117). -/
def execCne (e : LExt) (d : BitVec 3) (a b : BitVec 7) (s : State) : Out :=
  laneP (e.wf) e d a b (icond 1) s

/-- LT: a compare into a predicate (R117). -/
def execClt (e : LExt) (d : BitVec 3) (a b : BitVec 7) (s : State) : Out :=
  laneP (e.wf) e d a b (icond 2) s

/-- GE: a compare into a predicate (R117). -/
def execCge (e : LExt) (d : BitVec 3) (a b : BitVec 7) (s : State) : Out :=
  laneP (e.wf) e d a b (icond 3) s

/-- LTU: a compare into a predicate (R117). -/
def execCltu (e : LExt) (d : BitVec 3) (a b : BitVec 7) (s : State) : Out :=
  laneP (e.wf) e d a b (icond 4) s

/-- GEU: a compare into a predicate (R117). -/
def execCgeu (e : LExt) (d : BitVec 3) (a b : BitVec 7) (s : State) : Out :=
  laneP (e.wf) e d a b (icond 5) s

/-- LE: a compare into a predicate (R117). -/
def execCle (e : LExt) (d : BitVec 3) (a b : BitVec 7) (s : State) : Out :=
  laneP (e.wf) e d a b (icond 6) s

/-- GT: a compare into a predicate (R117). -/
def execCgt (e : LExt) (d : BitVec 3) (a b : BitVec 7) (s : State) : Out :=
  laneP (e.wf) e d a b (icond 7) s

/-- EQ with imm16 sign-extended (R117). -/
def execCeqImm (e : LExt) (d : BitVec 3) (a : BitVec 7) (imm : BitVec 16) (s : State) : Out :=
  lanePImm (e.wf && (absent e.x (imm == 0))) e d a (fun x => icond 0 x (immS imm)) s

/-- NE with imm16 sign-extended (R117). -/
def execCneImm (e : LExt) (d : BitVec 3) (a : BitVec 7) (imm : BitVec 16) (s : State) : Out :=
  lanePImm (e.wf && (absent e.x (imm == 0))) e d a (fun x => icond 1 x (immS imm)) s

/-- LT with imm16 sign-extended (R117). -/
def execCltImm (e : LExt) (d : BitVec 3) (a : BitVec 7) (imm : BitVec 16) (s : State) : Out :=
  lanePImm (e.wf && (absent e.x (imm == 0))) e d a (fun x => icond 2 x (immS imm)) s

/-- GE with imm16 sign-extended (R117). -/
def execCgeImm (e : LExt) (d : BitVec 3) (a : BitVec 7) (imm : BitVec 16) (s : State) : Out :=
  lanePImm (e.wf && (absent e.x (imm == 0))) e d a (fun x => icond 3 x (immS imm)) s

/-- LTU with imm16 sign-extended (R117). -/
def execCltuImm (e : LExt) (d : BitVec 3) (a : BitVec 7) (imm : BitVec 16) (s : State) : Out :=
  lanePImm (e.wf && (absent e.x (imm == 0))) e d a (fun x => icond 4 x (immS imm)) s

/-- GEU with imm16 sign-extended (R117). -/
def execCgeuImm (e : LExt) (d : BitVec 3) (a : BitVec 7) (imm : BitVec 16) (s : State) : Out :=
  lanePImm (e.wf && (absent e.x (imm == 0))) e d a (fun x => icond 5 x (immS imm)) s

/-- LE with imm16 sign-extended (R117). -/
def execCleImm (e : LExt) (d : BitVec 3) (a : BitVec 7) (imm : BitVec 16) (s : State) : Out :=
  lanePImm (e.wf && (absent e.x (imm == 0))) e d a (fun x => icond 6 x (immS imm)) s

/-- GT with imm16 sign-extended (R117). -/
def execCgtImm (e : LExt) (d : BitVec 3) (a : BitVec 7) (imm : BitVec 16) (s : State) : Out :=
  lanePImm (e.wf && (absent e.x (imm == 0))) e d a (fun x => icond 7 x (immS imm)) s

/-- SEL: vA where pC holds, else vB (R118). -/
def execSel (e : LExt) (d a b : BitVec 7) (c : BitVec 3) (s : State) : Out :=
  execA s (.ofLane (e.wf && (absent e.x (c == 0))) e (nv a ++ nv b ++ np c) (nv d)) fun k =>
    wrV d (k.active e) fun l => if k.p c l then k.v a l else k.v b l

/-- PAND (R118). -/
def execPand (e : LExt) (d a b : BitVec 3) (s : State) : Out :=
  lanePP (e.wf) e d a b (fun x y => x && y) s

/-- POR (R118). -/
def execPor (e : LExt) (d a b : BitVec 3) (s : State) : Out :=
  lanePP (e.wf) e d a b (fun x y => x || y) s

/-- PXOR (R118). -/
def execPxor (e : LExt) (d a b : BitVec 3) (s : State) : Out :=
  lanePP (e.wf) e d a b (fun x y => x != y) s

/-- PNOT (R118). -/
def execPnot (e : LExt) (d a : BitVec 3) (s : State) : Out :=
  lanePP (e.wf) e d a a (fun x _ => !x) s

/-- P2V: the predicates of the lane in [7:0], p0 as 1 (R118). -/
def execP2v (e : LExt) (d : BitVec 7) (s : State) : Out :=
  execA s (.ofLane (e.wf) e ((addrs 1 7).map RegName.p) (nv d)) fun c =>
    wrV d (c.active e) fun l => (addrs 0 8).foldl (fun x i => setBit x i ((c.w.pred i).getLsbD l)) 0

/-- V2P: bits of vA to the predicates of the mask (R118). -/
def execV2p (e : LExt) (a mask : BitVec 7) (s : State) : Out :=
  let ps := (addrs 1 7).filter fun i => mask.getLsbD (i - 1)
  execA s (.ofLane (e.wf && (absent e.x (mask == 0))) e (nv a) (ps.map RegName.p)) fun c =>
    ps.map fun i => .p i (c.active e) (maskOf fun l => (c.v a l).getLsbD i)

/-- PMOV (R118). -/
def execPmov (e : LExt) (d a : BitVec 3) (s : State) : Out :=
  lanePP (e.wf) e d a a (fun x _ => x) s

/-- IADD64 (R119). -/
def execIadd64 (e : LExt) (d a b : BitVec 7) (s : State) : Out :=
  lane64 false (e.wf && even d && even a && even b) e d a b (fun x y => x + y) s

/-- ISUB64 (R119). -/
def execIsub64 (e : LExt) (d a b : BitVec 7) (s : State) : Out :=
  lane64 false (e.wf && even d && even a && even b) e d a b (fun x y => x - y) s

/-- SHL64 (R119). -/
def execShl64 (e : LExt) (d a b : BitVec 7) (s : State) : Out :=
  laneShift64 (e.wf && even d && even a) e d a b shl s

/-- SHR64 (R119). -/
def execShr64 (e : LExt) (d a b : BitVec 7) (s : State) : Out :=
  laneShift64 (e.wf && even d && even a) e d a b shr s

/-- SAR64 (R119). -/
def execSar64 (e : LExt) (d a b : BitVec 7) (s : State) : Out :=
  laneShift64 (e.wf && even d && even a) e d a b sar s

/-- ICMP64: a 64-bit compare into a predicate (R119). -/
def execIcmp64 (e : LExt) (d : BitVec 3) (a b : BitVec 7) (cond : BitVec 3) (s : State) : Out :=
  execA s (.ofLane (e.wf && (absent e.x (cond == 0)) && even a && even b) e (nvs a 2 ++ nvs b 2) (dp d)) fun c =>
    wrP d (c.active e) fun l => icond cond.toNat (c.v64 a l) (c.v64 b l)

/-- MOV64 (R119). -/
def execMov64 (e : LExt) (d a : BitVec 7) (s : State) : Out :=
  lane64 false (e.wf && even d && even a) e d a a (fun x _ => x) s

/-- IMUL64: Wrap64(a × b) (R119). -/
def execImul64 (e : LExt) (d a b : BitVec 7) (s : State) : Out :=
  lane64 true (e.wf && even d && even a && even b) e d a b (fun x y => x * y) s

/-- SXTB (R120). -/
def execSxtb (e : LExt) (d a : BitVec 7) (s : State) : Out :=
  laneV false (e.wf) e d a (fun x => (x.extractLsb' 0 8).signExtend 32) s

/-- SXTH (R120). -/
def execSxth (e : LExt) (d a : BitVec 7) (s : State) : Out :=
  laneV false (e.wf) e d a (fun x => (x.extractLsb' 0 16).signExtend 32) s

/-- ZXTB (R120). -/
def execZxtb (e : LExt) (d a : BitVec 7) (s : State) : Out :=
  laneV false (e.wf) e d a (fun x => (x.extractLsb' 0 8).zeroExtend 32) s

/-- ZXTH (R120). -/
def execZxth (e : LExt) (d a : BitVec 7) (s : State) : Out :=
  laneV false (e.wf) e d a (fun x => (x.extractLsb' 0 16).zeroExtend 32) s

/-- SXTW: to a pair (R120). -/
def execSxtw (e : LExt) (d a : BitVec 7) (s : State) : Out :=
  execA s (.ofLane (e.wf && even d) e (nv a) (nvs d 2)) fun c => wrPair d (c.active e) fun l => (c.v a l).signExtend 64

/-- ZXTW: to a pair (R120). -/
def execZxtw (e : LExt) (d a : BitVec 7) (s : State) : Out :=
  execA s (.ofLane (e.wf && even d) e (nv a) (nvs d 2)) fun c => wrPair d (c.active e) fun l => (c.v a l).zeroExtend 64

/-- LANEID: the lane's number, the visible index in a protected launch (R120). -/
def execLaneid (e : LExt) (d : BitVec 7) (s : State) : Out :=
  execA s (.ofLane (e.wf) e [] (nv d)) fun c => wrV d (c.active e) fun l => BitVec.ofNat 32 (laneNo c.la l)

/-- TID: the lane's index in the cohort (R120). -/
def execTid (e : LExt) (d : BitVec 7) (s : State) : Out :=
  execA s (.ofLane (e.wf) e [] (nv d)) fun c =>
    wrV d (c.active e) fun l => BitVec.ofNat 32 (waveWidth c.la * c.w.widx + laneNo c.la l)

end Sys2Proof.Machine
end

