-- ==== Sys2Proof/Machine/LaneFp.lean ====
section
/-! DEFINITION. Lane floating-point arithmetic and conversion: OPs 0x10 to 0x16 (R121 to R130). -/

namespace Sys2Proof.Machine

/-- The operand kinds of OPs 0x10 to 0x14: a pair, a register, or two packed halves (R95, R121). -/
inductive Fk where
  | f64 | f32 | f16x2 | bf16x2
deriving DecidableEq, Repr

/-- The format of the elements. -/
def Fk.fmt : Fk → Fmt
  | .f64 => fmt64
  | .f32 => fmt32
  | .f16x2 => fmt16
  | .bf16x2 => fmtB16

/-- Registers of an operand. -/
def Fk.regs : Fk → Nat
  | .f64 => 2
  | _ => 1

/-- Whether subnormals flush (R96, R99). -/
def Fk.ftz (k : Fk) (fpmode : BitVec 4) : Bool :=
  match k with
  | .f64 => false
  | .f32 => fpmode.getLsbD 2
  | _ => fpmode.getLsbD 3

/-- The elements of an operand in a lane: one, or the low and the high half (R95). -/
def Fk.elems (k : Fk) (c : Ctx) (l : Nat) (r : BitVec 7) : List Nat :=
  match k with
  | .f64 => [(c.v64 r l).toNat]
  | .f32 => [(c.v r l).toNat]
  | _ => [(c.v r l).toNat % 65536, (c.v r l).toNat / 65536]

/-- The destination's bits from the elements. -/
def Fk.pack (k : Fk) (xs : List Nat) : DWord :=
  match k with
  | .f64 | .f32 => BitVec.ofNat 64 (xs.getD 0 0)
  | _ => BitVec.ofNat 64 (xs.getD 0 0 + 65536 * xs.getD 1 0)

/-- Element `j` of each source operand. -/
def Fk.column (k : Fk) (c : Ctx) (l : Nat) (srcs : List (BitVec 7)) (j : Nat) : List Nat :=
  srcs.map fun r => (k.elems c l r).getD j 0

/-- How many elements an operand packs. -/
def Fk.count : Fk → Nat
  | .f64 | .f32 => 1
  | _ => 2

/-- An operation on patterns applied to every element of a lane: results and flags (R95). -/
def Fk.lane (k : Fk) (c : Ctx) (l : Nat) (srcs : List (BitVec 7)) (op : List Nat → Nat × FFlags) : DWord × FFlags :=
  let rs := (List.range k.count).map fun j => op (k.column c l srcs j)
  (k.pack (rs.map (·.1)), rs.foldl (fun f r => f ||| r.2) 0)

/-- The flags of the active lanes (R98). -/
def orFlags (m : Word) (f : Nat → FFlags) : List Wr := [.fp ((lanesOf m).foldl (fun a l => a ||| f l) 0)]

/-- Writes a result of a kind. -/
def Fk.write (k : Fk) (d : BitVec 7) (m : Word) (f : Nat → DWord) : List Wr :=
  match k with
  | .f64 => wrPair d m f
  | _ => wrV d m fun l => loWord (f l)

/-- WARN of a rounding code on an instruction that rounds, and on one that does not (R84). -/
def warnRounds (rm : BitVec 3) : BitVec 8 := if 5 ≤ rm.toNat then 1 else 0
def warnNoRound (rm : BitVec 3) : BitVec 8 := if rm = 0 then 0 else 1

/-- The registers of source operands. -/
def Fk.names (k : Fk) (srcs : List (BitVec 7)) : List RegName := srcs.flatMap fun r => nvs r k.regs

/-- A lane operation on patterns, with no flush of its own. -/
def fpRaw (k : Fk) (wf : Bool) (e : LExt) (warn : BitVec 8) (d : BitVec 7) (srcs : List (BitVec 7))
    (op : BitVec 4 → List Nat → Nat × FFlags) (s : State) : Out :=
  execB s { Need.ofLane wf e (k.names srcs) (nvs d k.regs) with warn := warn } fun c =>
    k.write d (c.active e) (fun l => (k.lane c l srcs (op c.w.fpmode)).1) ++
      orFlags (c.active e) fun l => (k.lane c l srcs (op c.w.fpmode)).2

/-- Reads operands with the flush of R96 and ORs DN into the flags of an operation on values. -/
def flushed (f : Fmt) (ftz : Bool) (xs : List Nat) (op : List FVal → Nat × FFlags) : Nat × FFlags :=
  let rs := xs.map (f.read ftz)
  let r := op (rs.map (·.1))
  (r.1, rs.foldl (fun a x => a ||| x.2) r.2)

/-- A lane operation on values, flushed (R96, R121). -/
def fpOp (k : Fk) (wf : Bool) (e : LExt) (warn : BitVec 8) (rm : BitVec 3) (d : BitVec 7) (srcs : List (BitVec 7))
    (op : Rm → Bool → List FVal → Nat × FFlags) (s : State) : Out :=
  fpRaw k wf e warn d srcs (fun m xs => flushed k.fmt (k.ftz m) xs (op (rmOf m rm) (k.ftz m))) s

/-- One, two and three operands. -/
def on1 (f : FVal → Nat × FFlags) : List FVal → Nat × FFlags
  | [a] => f a
  | _ => (0, 0)
def on2 (f : FVal → FVal → Nat × FFlags) : List FVal → Nat × FFlags
  | [a, b] => f a b
  | _ => (0, 0)
def on3 (f : FVal → FVal → FVal → Nat × FFlags) : List FVal → Nat × FFlags
  | [a, b, c] => f a b c
  | _ => (0, 0)

/-- FADD, FSUB, FMUL and FFMA (R121). -/
def fadd (k : Fk) (wf : Bool) (e : LExt) (d a b : BitVec 7) (rm : BitVec 3) (s : State) : Out :=
  fpOp k wf e (warnRounds rm) rm d [a, b] (fun m z => on2 (k.fmt.add m z)) s
def fsub (k : Fk) (wf : Bool) (e : LExt) (d a b : BitVec 7) (rm : BitVec 3) (s : State) : Out :=
  fpOp k wf e (warnRounds rm) rm d [a, b] (fun m z => on2 fun x y => k.fmt.add m z x y.negate) s
def fmul (k : Fk) (wf : Bool) (e : LExt) (d a b : BitVec 7) (rm : BitVec 3) (s : State) : Out :=
  fpOp k wf e (warnRounds rm) rm d [a, b] (fun m z => on2 (k.fmt.mul m z)) s
def ffma (k : Fk) (wf : Bool) (e : LExt) (d a b c : BitVec 7) (rm : BitVec 3) (s : State) : Out :=
  fpOp k wf e (warnRounds rm) rm d [a, b, c] (fun m z => on3 (k.fmt.fma m z)) s

/-- FMIN and FMAX (R122). -/
def fminmax (k : Fk) (isMax wf : Bool) (e : LExt) (d a b : BitVec 7) (rm : BitVec 3) (s : State) : Out :=
  fpOp k wf e (warnNoRound rm) 0 d [a, b] (fun _ _ => on2 (k.fmt.minmax isMax)) s

/-- FCMP (R123): pD, and p(D + 1) for the high halves. -/
def fcmp (k : Fk) (wf : Bool) (e : LExt) (d : BitVec 3) (a b : BitVec 7) (cond rm : BitVec 3) (s : State) : Out :=
  let ps := (addrs d.toNat k.count).filter (· != 0)
  execB s { Need.ofLane wf e (k.names [a, b]) (ps.map RegName.p) with warn := warnNoRound rm } fun c =>
    let op (l j : Nat) := flushed k.fmt (k.ftz c.w.fpmode) (k.column c l [a, b] j)
      (on2 fun x y => ((fcond cond.toNat x y).toNat, snan [x, y]))
    ((List.range k.count).map fun j => Wr.p (d.toNat + j) (c.active e) (maskOf fun l => (op l j).1 == 1)) ++
      orFlags (c.active e) fun l => (List.range k.count).foldl (fun f j => f ||| (op l j).2) 0

/-- FABS and FNEG change the sign bit only (R88, R124). -/
def fsign (k : Fk) (wf : Bool) (e : LExt) (d a : BitVec 7) (rm : BitVec 3) (f : Nat → Nat → Nat) (s : State) : Out :=
  fpRaw k wf e (warnNoRound rm) d [a] (fun _ xs => (f (2 ^ (k.fmt.width - 1)) (xs.getD 0 0), 0)) s

/-- FFLOOR, FCEIL and FTRUNC (R124). -/
def fround (k : Fk) (m : Rm) (wf : Bool) (e : LExt) (d a : BitVec 7) (rm : BitVec 3) (s : State) : Out :=
  fpOp k wf e (warnNoRound rm) 0 d [a] (fun _ _ => on1 (k.fmt.integral m false)) s

/-- FRINT (R124). -/
def frint (k : Fk) (wf : Bool) (e : LExt) (d a : BitVec 7) (rm : BitVec 3) (s : State) : Out :=
  fpOp k wf e (warnRounds rm) rm d [a] (fun m _ => on1 (k.fmt.integral m true)) s

/-- FCLASS (R125): class bits in [9:0], of the high half in [25:16]. -/
def fclass (k : Fk) (wf : Bool) (e : LExt) (d a : BitVec 7) (rm : BitVec 3) (s : State) : Out :=
  execB s { Need.ofLane wf e (k.names [a]) (nv d) with warn := warnNoRound rm } fun c =>
    wrV d (c.active e) fun l =>
      BitVec.ofNat 32 (((k.elems c l a).zipIdx.map fun x => 2 ^ (16 * x.2 + k.fmt.classBit (k.fmt.decode x.1))).sum)

/-- FADD.F64: a + b, rounded once (R121). -/
def execFaddF64 (e : LExt) (d a b : BitVec 7) (rm : BitVec 3) (s : State) : Out :=
  fadd .f64 (e.wf && (absent e.x (rm == 0)) && even d && even a && even b) e d a b rm s

/-- FSUB.F64: a − b, rounded once (R121). -/
def execFsubF64 (e : LExt) (d a b : BitVec 7) (rm : BitVec 3) (s : State) : Out :=
  fsub .f64 (e.wf && (absent e.x (rm == 0)) && even d && even a && even b) e d a b rm s

/-- FMUL.F64: a × b, rounded once (R121). -/
def execFmulF64 (e : LExt) (d a b : BitVec 7) (rm : BitVec 3) (s : State) : Out :=
  fmul .f64 (e.wf && (absent e.x (rm == 0)) && even d && even a && even b) e d a b rm s

/-- FFMA.F64: a × b + c with one rounding (R121). -/
def execFfmaF64 (e : LExt) (d a b c : BitVec 7) (rm : BitVec 3) (s : State) : Out :=
  ffma .f64 (e.wf && (absent e.x (c == 0 && rm == 0)) && even d && even a && even b && even c) e d a b c rm s

/-- FMIN.F64: minimumNumber (R122). -/
def execFminF64 (e : LExt) (d a b : BitVec 7) (rm : BitVec 3) (s : State) : Out :=
  fminmax .f64 false (e.wf && (absent e.x (rm == 0)) && even d && even a && even b) e d a b rm s

/-- FMAX.F64: maximumNumber (R122). -/
def execFmaxF64 (e : LExt) (d a b : BitVec 7) (rm : BitVec 3) (s : State) : Out :=
  fminmax .f64 true (e.wf && (absent e.x (rm == 0)) && even d && even a && even b) e d a b rm s

/-- FCMP.F64 (R123). -/
def execFcmpF64 (e : LExt) (d : BitVec 3) (a b : BitVec 7) (cond rm : BitVec 3) (s : State) : Out :=
  fcmp .f64 (e.wf && (absent e.x (cond == 0 && rm == 0)) && even a && even b) e d a b cond rm s

/-- FABS.F64 (R124). -/
def execFabsF64 (e : LExt) (d a : BitVec 7) (rm : BitVec 3) (s : State) : Out :=
  fsign .f64 (e.wf && (absent e.x (rm == 0)) && even d && even a) e d a rm (fun top x => x % top) s

/-- FNEG.F64 (R124). -/
def execFnegF64 (e : LExt) (d a : BitVec 7) (rm : BitVec 3) (s : State) : Out :=
  fsign .f64 (e.wf && e.x && even d && even a) e d a rm (fun top x => if x < top then x + top else x - top) s

/-- FFLOOR.F64 (R124). -/
def execFfloorF64 (e : LExt) (d a : BitVec 7) (rm : BitVec 3) (s : State) : Out :=
  fround .f64 .d (e.wf && e.x && even d && even a) e d a rm s

/-- FCEIL.F64 (R124). -/
def execFceilF64 (e : LExt) (d a : BitVec 7) (rm : BitVec 3) (s : State) : Out :=
  fround .f64 .u (e.wf && e.x && even d && even a) e d a rm s

/-- FTRUNC.F64 (R124). -/
def execFtruncF64 (e : LExt) (d a : BitVec 7) (rm : BitVec 3) (s : State) : Out :=
  fround .f64 .z (e.wf && e.x && even d && even a) e d a rm s

/-- FRINT.F64 (R124). -/
def execFrintF64 (e : LExt) (d a : BitVec 7) (rm : BitVec 3) (s : State) : Out :=
  frint .f64 (e.wf && e.x && even d && even a) e d a rm s

/-- FCLASS.F64 (R125). -/
def execFclassF64 (e : LExt) (d a : BitVec 7) (rm : BitVec 3) (s : State) : Out :=
  fclass .f64 (e.wf && e.x && even a) e d a rm s

/-- FADD.F32: a + b, rounded once (R121). -/
def execFaddF32 (e : LExt) (d a b : BitVec 7) (rm : BitVec 3) (s : State) : Out :=
  fadd .f32 (e.wf && (absent e.x (rm == 0))) e d a b rm s

/-- FSUB.F32: a − b, rounded once (R121). -/
def execFsubF32 (e : LExt) (d a b : BitVec 7) (rm : BitVec 3) (s : State) : Out :=
  fsub .f32 (e.wf && (absent e.x (rm == 0))) e d a b rm s

/-- FMUL.F32: a × b, rounded once (R121). -/
def execFmulF32 (e : LExt) (d a b : BitVec 7) (rm : BitVec 3) (s : State) : Out :=
  fmul .f32 (e.wf && (absent e.x (rm == 0))) e d a b rm s

/-- FFMA.F32: a × b + c with one rounding (R121). -/
def execFfmaF32 (e : LExt) (d a b c : BitVec 7) (rm : BitVec 3) (s : State) : Out :=
  ffma .f32 (e.wf && (absent e.x (c == 0 && rm == 0))) e d a b c rm s

/-- FMIN.F32: minimumNumber (R122). -/
def execFminF32 (e : LExt) (d a b : BitVec 7) (rm : BitVec 3) (s : State) : Out :=
  fminmax .f32 false (e.wf && (absent e.x (rm == 0))) e d a b rm s

/-- FMAX.F32: maximumNumber (R122). -/
def execFmaxF32 (e : LExt) (d a b : BitVec 7) (rm : BitVec 3) (s : State) : Out :=
  fminmax .f32 true (e.wf && (absent e.x (rm == 0))) e d a b rm s

/-- FCMP.F32 (R123). -/
def execFcmpF32 (e : LExt) (d : BitVec 3) (a b : BitVec 7) (cond rm : BitVec 3) (s : State) : Out :=
  fcmp .f32 (e.wf && (absent e.x (cond == 0 && rm == 0))) e d a b cond rm s

/-- FABS.F32 (R124). -/
def execFabsF32 (e : LExt) (d a : BitVec 7) (rm : BitVec 3) (s : State) : Out :=
  fsign .f32 (e.wf && (absent e.x (rm == 0))) e d a rm (fun top x => x % top) s

/-- FNEG.F32 (R124). -/
def execFnegF32 (e : LExt) (d a : BitVec 7) (rm : BitVec 3) (s : State) : Out :=
  fsign .f32 (e.wf && e.x) e d a rm (fun top x => if x < top then x + top else x - top) s

/-- FFLOOR.F32 (R124). -/
def execFfloorF32 (e : LExt) (d a : BitVec 7) (rm : BitVec 3) (s : State) : Out :=
  fround .f32 .d (e.wf && e.x) e d a rm s

/-- FCEIL.F32 (R124). -/
def execFceilF32 (e : LExt) (d a : BitVec 7) (rm : BitVec 3) (s : State) : Out :=
  fround .f32 .u (e.wf && e.x) e d a rm s

/-- FTRUNC.F32 (R124). -/
def execFtruncF32 (e : LExt) (d a : BitVec 7) (rm : BitVec 3) (s : State) : Out :=
  fround .f32 .z (e.wf && e.x) e d a rm s

/-- FRINT.F32 (R124). -/
def execFrintF32 (e : LExt) (d a : BitVec 7) (rm : BitVec 3) (s : State) : Out :=
  frint .f32 (e.wf && e.x) e d a rm s

/-- FCLASS.F32 (R125). -/
def execFclassF32 (e : LExt) (d a : BitVec 7) (rm : BitVec 3) (s : State) : Out :=
  fclass .f32 (e.wf && e.x) e d a rm s

/-- FADD.F16X2: a + b, rounded once (R121). -/
def execFaddF16x2 (e : LExt) (d a b : BitVec 7) (rm : BitVec 3) (s : State) : Out :=
  fadd .f16x2 (e.wf && (absent e.x (rm == 0))) e d a b rm s

/-- FSUB.F16X2: a − b, rounded once (R121). -/
def execFsubF16x2 (e : LExt) (d a b : BitVec 7) (rm : BitVec 3) (s : State) : Out :=
  fsub .f16x2 (e.wf && (absent e.x (rm == 0))) e d a b rm s

/-- FMUL.F16X2: a × b, rounded once (R121). -/
def execFmulF16x2 (e : LExt) (d a b : BitVec 7) (rm : BitVec 3) (s : State) : Out :=
  fmul .f16x2 (e.wf && (absent e.x (rm == 0))) e d a b rm s

/-- FFMA.F16X2: a × b + c with one rounding (R121). -/
def execFfmaF16x2 (e : LExt) (d a b c : BitVec 7) (rm : BitVec 3) (s : State) : Out :=
  ffma .f16x2 (e.wf && (absent e.x (c == 0 && rm == 0))) e d a b c rm s

/-- FMIN.F16X2: minimumNumber (R122). -/
def execFminF16x2 (e : LExt) (d a b : BitVec 7) (rm : BitVec 3) (s : State) : Out :=
  fminmax .f16x2 false (e.wf && (absent e.x (rm == 0))) e d a b rm s

/-- FMAX.F16X2: maximumNumber (R122). -/
def execFmaxF16x2 (e : LExt) (d a b : BitVec 7) (rm : BitVec 3) (s : State) : Out :=
  fminmax .f16x2 true (e.wf && (absent e.x (rm == 0))) e d a b rm s

/-- FCMP.F16X2 (R123). -/
def execFcmpF16x2 (e : LExt) (d : BitVec 3) (a b : BitVec 7) (cond rm : BitVec 3) (s : State) : Out :=
  fcmp .f16x2 (e.wf && (absent e.x (cond == 0 && rm == 0)) && evenP d) e d a b cond rm s

/-- FABS.F16X2 (R124). -/
def execFabsF16x2 (e : LExt) (d a : BitVec 7) (rm : BitVec 3) (s : State) : Out :=
  fsign .f16x2 (e.wf && (absent e.x (rm == 0))) e d a rm (fun top x => x % top) s

/-- FNEG.F16X2 (R124). -/
def execFnegF16x2 (e : LExt) (d a : BitVec 7) (rm : BitVec 3) (s : State) : Out :=
  fsign .f16x2 (e.wf && e.x) e d a rm (fun top x => if x < top then x + top else x - top) s

/-- FFLOOR.F16X2 (R124). -/
def execFfloorF16x2 (e : LExt) (d a : BitVec 7) (rm : BitVec 3) (s : State) : Out :=
  fround .f16x2 .d (e.wf && e.x) e d a rm s

/-- FCEIL.F16X2 (R124). -/
def execFceilF16x2 (e : LExt) (d a : BitVec 7) (rm : BitVec 3) (s : State) : Out :=
  fround .f16x2 .u (e.wf && e.x) e d a rm s

/-- FTRUNC.F16X2 (R124). -/
def execFtruncF16x2 (e : LExt) (d a : BitVec 7) (rm : BitVec 3) (s : State) : Out :=
  fround .f16x2 .z (e.wf && e.x) e d a rm s

/-- FRINT.F16X2 (R124). -/
def execFrintF16x2 (e : LExt) (d a : BitVec 7) (rm : BitVec 3) (s : State) : Out :=
  frint .f16x2 (e.wf && e.x) e d a rm s

/-- FCLASS.F16X2 (R125). -/
def execFclassF16x2 (e : LExt) (d a : BitVec 7) (rm : BitVec 3) (s : State) : Out :=
  fclass .f16x2 (e.wf && e.x) e d a rm s

/-- FADD.BF16X2: a + b, rounded once (R121). -/
def execFaddBf16x2 (e : LExt) (d a b : BitVec 7) (rm : BitVec 3) (s : State) : Out :=
  fadd .bf16x2 (e.wf && (absent e.x (rm == 0))) e d a b rm s

/-- FSUB.BF16X2: a − b, rounded once (R121). -/
def execFsubBf16x2 (e : LExt) (d a b : BitVec 7) (rm : BitVec 3) (s : State) : Out :=
  fsub .bf16x2 (e.wf && (absent e.x (rm == 0))) e d a b rm s

/-- FMUL.BF16X2: a × b, rounded once (R121). -/
def execFmulBf16x2 (e : LExt) (d a b : BitVec 7) (rm : BitVec 3) (s : State) : Out :=
  fmul .bf16x2 (e.wf && (absent e.x (rm == 0))) e d a b rm s

/-- FFMA.BF16X2: a × b + c with one rounding (R121). -/
def execFfmaBf16x2 (e : LExt) (d a b c : BitVec 7) (rm : BitVec 3) (s : State) : Out :=
  ffma .bf16x2 (e.wf && (absent e.x (c == 0 && rm == 0))) e d a b c rm s

/-- FMIN.BF16X2: minimumNumber (R122). -/
def execFminBf16x2 (e : LExt) (d a b : BitVec 7) (rm : BitVec 3) (s : State) : Out :=
  fminmax .bf16x2 false (e.wf && (absent e.x (rm == 0))) e d a b rm s

/-- FMAX.BF16X2: maximumNumber (R122). -/
def execFmaxBf16x2 (e : LExt) (d a b : BitVec 7) (rm : BitVec 3) (s : State) : Out :=
  fminmax .bf16x2 true (e.wf && (absent e.x (rm == 0))) e d a b rm s

/-- FCMP.BF16X2 (R123). -/
def execFcmpBf16x2 (e : LExt) (d : BitVec 3) (a b : BitVec 7) (cond rm : BitVec 3) (s : State) : Out :=
  fcmp .bf16x2 (e.wf && (absent e.x (cond == 0 && rm == 0)) && evenP d) e d a b cond rm s

/-- FABS.BF16X2 (R124). -/
def execFabsBf16x2 (e : LExt) (d a : BitVec 7) (rm : BitVec 3) (s : State) : Out :=
  fsign .bf16x2 (e.wf && (absent e.x (rm == 0))) e d a rm (fun top x => x % top) s

/-- FNEG.BF16X2 (R124). -/
def execFnegBf16x2 (e : LExt) (d a : BitVec 7) (rm : BitVec 3) (s : State) : Out :=
  fsign .bf16x2 (e.wf && e.x) e d a rm (fun top x => if x < top then x + top else x - top) s

/-- FFLOOR.BF16X2 (R124). -/
def execFfloorBf16x2 (e : LExt) (d a : BitVec 7) (rm : BitVec 3) (s : State) : Out :=
  fround .bf16x2 .d (e.wf && e.x) e d a rm s

/-- FCEIL.BF16X2 (R124). -/
def execFceilBf16x2 (e : LExt) (d a : BitVec 7) (rm : BitVec 3) (s : State) : Out :=
  fround .bf16x2 .u (e.wf && e.x) e d a rm s

/-- FTRUNC.BF16X2 (R124). -/
def execFtruncBf16x2 (e : LExt) (d a : BitVec 7) (rm : BitVec 3) (s : State) : Out :=
  fround .bf16x2 .z (e.wf && e.x) e d a rm s

/-- FRINT.BF16X2 (R124). -/
def execFrintBf16x2 (e : LExt) (d a : BitVec 7) (rm : BitVec 3) (s : State) : Out :=
  frint .bf16x2 (e.wf && e.x) e d a rm s

/-- FCLASS.BF16X2 (R125). -/
def execFclassBf16x2 (e : LExt) (d a : BitVec 7) (rm : BitVec 3) (s : State) : Out :=
  fclass .bf16x2 (e.wf && e.x) e d a rm s

/-- FDIV.F64: a ÷ b (R126). -/
def execFdivF64 (e : LExt) (d a b : BitVec 7) (rm : BitVec 3) (s : State) : Out :=
  fpOp .f64 (e.wf && (absent e.x (rm == 0)) && even d && even a && even b) e (warnRounds rm) rm d [a, b] (fun m z => on2 (Fk.fmt .f64 |>.div m z)) s

/-- FSQRT.F64 (R126). -/
def execFsqrtF64 (e : LExt) (d a : BitVec 7) (rm : BitVec 3) (s : State) : Out :=
  fpOp .f64 (e.wf && (absent e.x (rm == 0)) && even d && even a) e (warnRounds rm) rm d [a] (fun m z => on1 (Fk.fmt .f64 |>.sqrt m z)) s

/-- FRCP.F64: 1 ÷ a (R126). -/
def execFrcpF64 (e : LExt) (d a : BitVec 7) (rm : BitVec 3) (s : State) : Out :=
  fpOp .f64 (e.wf && (absent e.x (rm == 0)) && even d && even a) e (warnRounds rm) rm d [a] (fun m z => on1 (Fk.fmt .f64 |>.div m z FVal.one)) s

/-- FRSQ.F64: 1 ÷ √a (R126). -/
def execFrsqF64 (e : LExt) (d a : BitVec 7) (rm : BitVec 3) (s : State) : Out :=
  fpOp .f64 (e.wf && (absent e.x (rm == 0)) && even d && even a) e (warnRounds rm) rm d [a] (fun m z => on1 (Fk.fmt .f64 |>.rsqrt m z)) s

/-- FDIV.F32: a ÷ b (R126). -/
def execFdivF32 (e : LExt) (d a b : BitVec 7) (rm : BitVec 3) (s : State) : Out :=
  fpOp .f32 (e.wf && (absent e.x (rm == 0))) e (warnRounds rm) rm d [a, b] (fun m z => on2 (Fk.fmt .f32 |>.div m z)) s

/-- FSQRT.F32 (R126). -/
def execFsqrtF32 (e : LExt) (d a : BitVec 7) (rm : BitVec 3) (s : State) : Out :=
  fpOp .f32 (e.wf && (absent e.x (rm == 0))) e (warnRounds rm) rm d [a] (fun m z => on1 (Fk.fmt .f32 |>.sqrt m z)) s

/-- FRCP.F32: 1 ÷ a (R126). -/
def execFrcpF32 (e : LExt) (d a : BitVec 7) (rm : BitVec 3) (s : State) : Out :=
  fpOp .f32 (e.wf && (absent e.x (rm == 0))) e (warnRounds rm) rm d [a] (fun m z => on1 (Fk.fmt .f32 |>.div m z FVal.one)) s

/-- FRSQ.F32: 1 ÷ √a (R126). -/
def execFrsqF32 (e : LExt) (d a : BitVec 7) (rm : BitVec 3) (s : State) : Out :=
  fpOp .f32 (e.wf && (absent e.x (rm == 0))) e (warnRounds rm) rm d [a] (fun m z => on1 (Fk.fmt .f32 |>.rsqrt m z)) s

/-- An FP32 transcendental (R127). -/
def ftrans (t : Tr) (wf : Bool) (e : LExt) (d a : BitVec 7) (s : State) : Out :=
  fpRaw .f32 wf e 0 d [a] (fun m xs => t.eval (m.getLsbD 2) (BitVec.ofNat 32 (xs.getD 0 0))) s

/-- FEXP2 (R127). -/
def execFexp2 (e : LExt) (d a : BitVec 7) (s : State) : Out :=
  ftrans .exp2 (e.wf) e d a s

/-- FLOG2 (R127). -/
def execFlog2 (e : LExt) (d a : BitVec 7) (s : State) : Out :=
  ftrans .log2 (e.wf) e d a s

/-- FSINPI (R127). -/
def execFsinpi (e : LExt) (d a : BitVec 7) (s : State) : Out :=
  ftrans .sinpi (e.wf) e d a s

/-- FCOSPI (R127). -/
def execFcospi (e : LExt) (d a : BitVec 7) (s : State) : Out :=
  ftrans .cospi (e.wf) e d a s

/-- FTANH (R127). -/
def execFtanh (e : LExt) (d a : BitVec 7) (s : State) : Out :=
  ftrans .tanh (e.wf) e d a s

/-- WARN of a conversion: a rounding code where nothing rounds or none exists, and a saturation that has no effect (R84, R130). -/
def warnCvt (sat : Bool) (src dst : BitVec 4) (rm : BitVec 3) : BitVec 8 :=
  (if cvExact src.toNat dst.toNat then warnNoRound rm else warnRounds rm) |||
    (if sat && cvSatFree src.toNat dst.toNat then 4 else 0)

/-- The register form of a conversion's result: I8 is sign-extended (R129). -/
def cvtPack (dst : BitVec 4) (x : Nat) : DWord :=
  if dst = 11 then ((BitVec.ofNat 8 x).signExtend 32).zeroExtend 64 else BitVec.ofNat 64 x

/-- CVT and CVT.SAT (R100, R129, R130). -/
def cvt (sat wf : Bool) (e : LExt) (d a : BitVec 7) (src dst : BitVec 4) (rm : BitVec 3) (s : State) : Out :=
  execB s { Need.ofLane wf e (nvw a (wide src)) (nvw d (wide dst)) with warn := warnCvt sat src dst rm } fun c =>
    let r (l : Nat) := convert src.toNat dst.toNat (rmOf c.w.fpmode rm) sat (if wide src then (c.v64 a l).toNat else (c.v a l).toNat)
    (if wide dst then wrPair d (c.active e) fun l => cvtPack dst (r l).1
      else wrV d (c.active e) fun l => loWord (cvtPack dst (r l).1)) ++ orFlags (c.active e) fun l => (r l).2

/-- CVT (R100, R129). -/
def execCvt (e : LExt) (d a : BitVec 7) (src dst : BitVec 4) (rm : BitVec 3) (s : State) : Out :=
  cvt false (e.wf && (absent e.x (src == 0 && dst == 0 && rm == 0)) && decide (src.toNat < 13) && decide (dst.toNat < 13) && (!wide src || even a) && (!wide dst || even d)) e d a src dst rm s

/-- CVT.SAT (R100, R129, R130). -/
def execCvtSat (e : LExt) (d a : BitVec 7) (src dst : BitVec 4) (rm : BitVec 3) (s : State) : Out :=
  cvt true (e.wf && (absent e.x (src == 0 && dst == 0 && rm == 0)) && decide (src.toNat < 13) && decide (dst.toNat < 13) && (!wide src || even a) && (!wide dst || even d)) e d a src dst rm s

end Sys2Proof.Machine
end

