-- ==== Sys2Proof/Machine/VaultMem.lean ====
section
/-! DEFINITION. Vault memory: OPs 0x1C to 0x1F and the uniform OP 0x05 (R153 to R157, R163 to R165). -/

namespace Sys2Proof.Machine

/-- One access of a vault read: the lane (0 for a uniform read), its EA and its vault address. -/
structure VAcc where
  lane : Nat
  ea   : Word
  va   : Nat
deriving DecidableEq, Repr

/-- The accesses of lanes whose EAs have passed the vault checks. -/
def State.accesses (s : State) (c : Ctx) (ls : List Nat) (ea : Nat → Word) : List VAcc :=
  ls.map fun l => ⟨l, ea l, (s.vaultEA c.co c.la (ea l) false).getD 0⟩

/-- The first access that reads a poisoned granule (R313). -/
def State.poisonEA (s : State) (as : List VAcc) (width : Nat) : Option (Cause × DWord) :=
  (as.find? fun a => s.poisonedV a.va width).map fun a => (.eccUncorrectable, a.ea.zeroExtend 64)

/-- A value extended to `n` bits from its bytes. -/
def extend (n : Nat) (sx : Bool) (bs : List Byte) : BitVec n :=
  if sx then (BitVec.ofNat (8 * bs.length) (leNat bs)).signExtend n else BitVec.ofNat n (leNat bs)

/-- The register or tile writes of a vault read (R153, R164, R263): `got` gives the bytes of each access. -/
def readWrites (dst regs : Nat) (sx uni tile : Bool) (got : List (Nat × List Byte)) : List Wr :=
  if tile then [.t dst (got.flatMap fun g => (addrs g.1 g.2.length).zip g.2)]
  else if uni then [.s dst (extend 64 sx ((FMap.find got 0).getD []))]
  else
    let m := maskOf fun l => (FMap.find got l).isSome
    (List.range regs).map fun k => .v (dst + k) m (LaneVec.gen fun l =>
      (extend (32 * regs) sx ((FMap.find got l).getD [])).extractLsb' (32 * k) 32)

/-- A vault read that has passed its checks: each of its accesses performs at its bank in a step of its own (R133, R193, R195). `clear` is
that of a SLOTRD. -/
def State.vaultRead (s : State) (c : Ctx) (n : Need) (as : List VAcc) (width dst regs : Nat) (sx uni tile clear : Bool) (o : Ordering) : Out :=
  let es := c.w.visible c.r.key c.w.issued
  if as.any fun a => if clear then entryBusy es a.va width else atomicBusy es a.va width then s.stalled else
  match s.poisonEA as width with
  | some t => s.ownTrap c n t.1 t.2
  | none =>
    let acq := o.acq || o.rel
    let q : VaultRead := ⟨s.tick, as.map fun a => (a.lane, a.va, a.ea), [], width, dst, regs, sx, uni, tile, acq, clear, [], o.scope⟩
    let f := if as.isEmpty then n.flight c .ready (readWrites dst regs sx uni tile []) else n.flight c (.reading q) [] acq
    let t := s.commit c n [f]
    .next (if o.poll then t.demote c.slot c.entry else t)

/-- VLD (R153). -/
def vld (width regs : Nat) (sx wf : Bool) (e : LExt) (d a : BitVec 7) (o : Ordering) (off : BitVec 16) (s : State) : Out :=
  let n : Need := { Need.ofLane wf e (nv a) (nvs d regs) with later := true, mem := true, warn := warnRead o true }
  s.issue n fun c =>
    let ea (l : Nat) := eaOf (c.v a l) off
    let ls := lanesOf (c.active e)
    match vaultCheck ls ea (fun x => s.vaultEA c.co c.la x false) width with
    | some t => s.ownTrap c n t.1 t.2
    | none =>
      if s.relWait c o then s.stalled
      else s.vaultRead c n (s.accesses c ls ea) width d.toNat regs sx false false false o

/-- The register data of a lane as the bytes a store writes: a register, pair or quad (R155). -/
def Ctx.dataBytes (c : Ctx) (b : BitVec 7) (width l : Nat) : List Byte :=
  ((List.range 4).flatMap fun k => leBytes 4 (c.w.lane (b.toNat + k) l).toNat).take width

/-- No lane takes part: nothing enters the store buffer (R70). -/
def SBKind.empty : SBKind → Bool
  | .vst _ bs _ => bs.isEmpty
  | .vatom _ _ _ ls _ _ => ls.isEmpty
  | .global ps => ps.isEmpty
  | .subscr ls => ls.isEmpty
  | .unsub ls => ls.isEmpty
  | .nextw _ => false

/-- The result of an instruction in which no lane takes part (R70). -/
def Flight.atOnce (f : Flight) : Flight := { f with state := .ready }

/-- Enters a store-buffer entry, or waits for one (R48, R70). -/
def State.enter (s : State) (c : Ctx) (n : Need) (kind : SBKind) (m : Marks) (fs : List Flight) (o : Ordering) (write : Bool) : Out :=
  if kind.empty then
    let t := s.commit c n (fs.map Flight.atOnce)
    .next (if write then t.acqAfter c o else t)
  else if !c.w.canTake c.r.key then s.stalled
  else
    let t := (s.commit c n fs).takeEntry c kind m
    .next (if write then t.acqAfter c o else t)

/-- VST (R155). -/
def vst (width regs : Nat) (wf : Bool) (e : LExt) (a b : BitVec 7) (o : Ordering) (off : BitVec 16) (s : State) : Out :=
  let n : Need := { Need.ofLane wf e (nv a ++ nvs b regs) [] with mem := true, warn := warnWrite o }
  s.issue n fun c =>
    let ea (l : Nat) := eaOf (c.v a l) off
    match c.shadow (c.active e) fun x y => ea x == ea y && c.dataBytes b width x == c.dataBytes b width y with
    | some t => s.ownTrap c n t.1 t.2
    | none =>
      match vaultCheck (lanesOf (c.active e)) ea (fun x => s.vaultEA c.co c.la x true) width with
      | some t => s.ownTrap c n t.1 t.2
      | none =>
        s.enter c n (.vst width ((c.leads (c.active e)).flatMap fun l =>
          (addrs ((s.vaultEA c.co c.la (ea l) true).getD 0) width).zip (c.dataBytes b width l)) none) (writeMarks o) [] o true

/-- The operands of an atomic in a lane: the operand and the compare value (R156). -/
def Ctx.atomOpnds (c : Ctx) (op : AtomOp) (w64 : Bool) (b : BitVec 7) (l : Nat) : DWord × DWord :=
  let at_ (k : Nat) : DWord := if w64 then c.w.pair (b.toNat + k) l else (c.w.lane (b.toNat + k) l).zeroExtend 64
  if op = .cas then (at_ (if w64 then 2 else 1), at_ 0) else (at_ 0, 0)

/-- Registers that an atomic's operand occupies. -/
def atomRegs (op : AtomOp) (w64 : Bool) : Nat := (if op = .cas then 2 else 1) * (if w64 then 2 else 1)

/-- VATOM (R156): its value exists once its entry has drained. -/
def vatom (op : AtomOp) (wf : Bool) (e : LExt) (d a b : BitVec 7) (o : Ordering) (w64 un : Bool) (s : State) : Out :=
  let width := if w64 then 8 else 4
  let n : Need := { Need.ofLane wf e (nv a ++ nvs b (atomRegs op w64)) (nvw d w64) with
    later := true, mem := true, warn := warnBoth o }
  s.issue n fun c =>
    match c.shadow (c.active e) fun x y => c.v a x == c.v a y && c.atomOpnds op w64 b x == c.atomOpnds op w64 b y with
    | some t => s.ownTrap c n t.1 t.2
    | none =>
      let ls := lanesOf (c.active e)
      match vaultCheck ls (c.v a) (fun x => s.vaultEA c.co c.la x true) width with
      | some t => s.ownTrap c n t.1 t.2
      | none =>
        match s.poisonEA (s.accesses c ls (c.v a)) width with
        | some t => s.ownTrap c n t.1 t.2
        | none =>
          s.enter c n (.vatom op w64 un ((c.leads (c.active e)).map fun l =>
            ⟨l, (s.vaultEA c.co c.la (c.v a l) true).getD 0, c.v a l, (c.atomOpnds op w64 b l).1, (c.atomOpnds op w64 b l).2⟩) d.toNat false)
            (marksOf o) [n.flight c (.drain c.w.nextId) [] o.acq] o false

/-- VLD.B: 1 byte per lane (R153). -/
def execVldB (e : LExt) (d a : BitVec 7) (o : Ordering) (off : BitVec 16) (s : State) : Out :=
  vld 1 1 false (e.wf && (absent e.x (o == ⟨false, false, false, 0⟩ && off == 0)) && o.wf) e d a o off s

/-- VLD.BS: 1 byte per lane (R153). -/
def execVldBs (e : LExt) (d a : BitVec 7) (o : Ordering) (off : BitVec 16) (s : State) : Out :=
  vld 1 1 true (e.wf && (absent e.x (o == ⟨false, false, false, 0⟩ && off == 0)) && o.wf) e d a o off s

/-- VLD.H: 2 bytes per lane (R153). -/
def execVldH (e : LExt) (d a : BitVec 7) (o : Ordering) (off : BitVec 16) (s : State) : Out :=
  vld 2 1 false (e.wf && (absent e.x (o == ⟨false, false, false, 0⟩ && off == 0)) && o.wf) e d a o off s

/-- VLD.HS: 2 bytes per lane (R153). -/
def execVldHs (e : LExt) (d a : BitVec 7) (o : Ordering) (off : BitVec 16) (s : State) : Out :=
  vld 2 1 true (e.wf && (absent e.x (o == ⟨false, false, false, 0⟩ && off == 0)) && o.wf) e d a o off s

/-- VLD.W: 4 bytes per lane (R153). -/
def execVldW (e : LExt) (d a : BitVec 7) (o : Ordering) (off : BitVec 16) (s : State) : Out :=
  vld 4 1 false (e.wf && (absent e.x (o == ⟨false, false, false, 0⟩ && off == 0)) && o.wf) e d a o off s

/-- VLD.D: 8 bytes per lane (R153). -/
def execVldD (e : LExt) (d a : BitVec 7) (o : Ordering) (off : BitVec 16) (s : State) : Out :=
  vld 8 2 false (e.wf && (absent e.x (o == ⟨false, false, false, 0⟩ && off == 0)) && o.wf && even d) e d a o off s

/-- VLD.Q: 16 bytes per lane (R153). -/
def execVldQ (e : LExt) (d a : BitVec 7) (o : Ordering) (off : BitVec 16) (s : State) : Out :=
  vld 16 4 false (e.wf && (absent e.x (o == ⟨false, false, false, 0⟩ && off == 0)) && o.wf && quad d) e d a o off s

/-- VLDL: a 128-byte line per group of eight lanes, named by the lowest active lane of the group (R154). -/
def execVldl (e : LExt) (d a : BitVec 7) (o : Ordering) (off : BitVec 16) (s : State) : Out :=
  let n : Need := { Need.ofLane (e.wf && (absent e.x (o == ⟨false, false, false, 0⟩ && off == 0)) && o.wf && quad d) e (nv a) (nvs d 4) with later := true, mem := true, warn := warnRead o false }
  s.issue n fun c =>
    let ls := lanesOf (c.active e)
    let head (l : Nat) := (ls.find? fun j => j / 8 == l / 8).getD l
    let ea (l : Nat) := eaOf (c.v a l) off
    match vaultCheck (ls.filter fun l => head l == l) ea (fun x => s.vaultEA c.co c.la x false) 128 with
    | some t => s.ownTrap c n t.1 t.2
    | none =>
      if s.relWait c o then s.stalled
      else s.vaultRead c n ((s.accesses c (ls.map head) ea).zip ls |>.map fun x =>
        { x.1 with lane := x.2, va := x.1.va + 16 * (x.2 % 8) }) 16 d.toNat 4 false false false false { o with poll := false }

/-- VST.B: stores 1 byte per lane (R155). -/
def execVstB (e : LExt) (a b : BitVec 7) (o : Ordering) (off : BitVec 16) (s : State) : Out :=
  vst 1 1 (e.wf && (absent e.x (o == ⟨false, false, false, 0⟩ && off == 0)) && o.wf) e a b o off s

/-- VST.H: stores 2 bytes per lane (R155). -/
def execVstH (e : LExt) (a b : BitVec 7) (o : Ordering) (off : BitVec 16) (s : State) : Out :=
  vst 2 1 (e.wf && (absent e.x (o == ⟨false, false, false, 0⟩ && off == 0)) && o.wf) e a b o off s

/-- VST.W: stores 4 bytes per lane (R155). -/
def execVstW (e : LExt) (a b : BitVec 7) (o : Ordering) (off : BitVec 16) (s : State) : Out :=
  vst 4 1 (e.wf && (absent e.x (o == ⟨false, false, false, 0⟩ && off == 0)) && o.wf) e a b o off s

/-- VST.D: stores 8 bytes per lane (R155). -/
def execVstD (e : LExt) (a b : BitVec 7) (o : Ordering) (off : BitVec 16) (s : State) : Out :=
  vst 8 2 (e.wf && (absent e.x (o == ⟨false, false, false, 0⟩ && off == 0)) && o.wf && even b) e a b o off s

/-- VST.Q: stores 16 bytes per lane (R155). -/
def execVstQ (e : LExt) (a b : BitVec 7) (o : Ordering) (off : BitVec 16) (s : State) : Out :=
  vst 16 4 (e.wf && (absent e.x (o == ⟨false, false, false, 0⟩ && off == 0)) && o.wf && quad b) e a b o off s

/-- VATOM.ADD (R156). -/
def execVatomAdd (e : LExt) (d a b : BitVec 7) (o : Ordering) (w64 un : Bool) (s : State) : Out :=
  vatom .add (e.wf && (absent e.x (o == ⟨false, false, false, 0⟩ && !w64 && !un)) && o.wf && (!w64 || even d) && (!w64 || even b) && !un) e d a b o w64 un s

/-- VATOM.MIN (R156). -/
def execVatomMin (e : LExt) (d a b : BitVec 7) (o : Ordering) (w64 un : Bool) (s : State) : Out :=
  vatom .min (e.wf && (absent e.x (o == ⟨false, false, false, 0⟩ && !w64 && !un)) && o.wf && (!w64 || even d) && (!w64 || even b)) e d a b o w64 un s

/-- VATOM.MAX (R156). -/
def execVatomMax (e : LExt) (d a b : BitVec 7) (o : Ordering) (w64 un : Bool) (s : State) : Out :=
  vatom .max (e.wf && (absent e.x (o == ⟨false, false, false, 0⟩ && !w64 && !un)) && o.wf && (!w64 || even d) && (!w64 || even b)) e d a b o w64 un s

/-- VATOM.AND (R156). -/
def execVatomAnd (e : LExt) (d a b : BitVec 7) (o : Ordering) (w64 un : Bool) (s : State) : Out :=
  vatom .and (e.wf && (absent e.x (o == ⟨false, false, false, 0⟩ && !w64 && !un)) && o.wf && (!w64 || even d) && (!w64 || even b) && !un) e d a b o w64 un s

/-- VATOM.OR (R156). -/
def execVatomOr (e : LExt) (d a b : BitVec 7) (o : Ordering) (w64 un : Bool) (s : State) : Out :=
  vatom .or (e.wf && (absent e.x (o == ⟨false, false, false, 0⟩ && !w64 && !un)) && o.wf && (!w64 || even d) && (!w64 || even b) && !un) e d a b o w64 un s

/-- VATOM.XOR (R156). -/
def execVatomXor (e : LExt) (d a b : BitVec 7) (o : Ordering) (w64 un : Bool) (s : State) : Out :=
  vatom .xor (e.wf && (absent e.x (o == ⟨false, false, false, 0⟩ && !w64 && !un)) && o.wf && (!w64 || even d) && (!w64 || even b) && !un) e d a b o w64 un s

/-- VATOM.XCHG (R156). -/
def execVatomXchg (e : LExt) (d a b : BitVec 7) (o : Ordering) (w64 un : Bool) (s : State) : Out :=
  vatom .xchg (e.wf && (absent e.x (o == ⟨false, false, false, 0⟩ && !w64 && !un)) && o.wf && (!w64 || even d) && (!w64 || even b) && !un) e d a b o w64 un s

/-- VATOM.CAS (R156). -/
def execVatomCas (e : LExt) (d a b : BitVec 7) (o : Ordering) (w64 un : Bool) (s : State) : Out :=
  vatom .cas (e.wf && (absent e.x (o == ⟨false, false, false, 0⟩ && !w64 && !un)) && o.wf && (!w64 || even d) && (if w64 then quad b else even b) && !un) e d a b o w64 un s

/-- SLOTRD: reads slots, clearing FRESH in the step that reads each (R157). -/
def execSlotrd (e : LExt) (d a : BitVec 7) (o : Ordering) (off : BitVec 16) (s : State) : Out :=
  let n : Need := { Need.ofLane (e.wf && (absent e.x (o == ⟨false, false, false, 0⟩ && off == 0)) && o.wf && quad d) e (nv a) (nvs d 4) with later := true, mem := true, warn := warnRead o true }
  s.issue n fun c =>
    let ea (l : Nat) := eaOf (c.v a l) off
    match c.shadow (c.active e) fun x y => ea x == ea y with
    | some t => s.ownTrap c n t.1 t.2
    | none =>
      match vaultCheck (lanesOf (c.active e)) ea (fun x => s.vaultEA c.co c.la x true) 16 with
      | some t => s.ownTrap c n t.1 t.2
      | none =>
        if s.relWait c o then s.stalled
        else s.vaultRead c n (s.accesses c (c.leads (c.active e)) ea) 16 d.toNat 4 false false false true o

/-- SLDK: 8 bytes of the kernel argument block; ALIGN for an offset that is no multiple of 8 (R163). -/
def execSldk (e : UExt) (d : BitVec 6) (off : BitVec 12) (s : State) : Out :=
  execOwn true s (.ofUni (e.wf && (absent e.x (off == 0))) e [] (ns d))
    (fun _ => if off.toNat % 8 ≠ 0 then some (.align, off.zeroExtend 64) else none) fun c =>
    wrS d (BitVec.ofNat 64 (leNat ((addrs off.toNat 8).map fun k => if k < c.la.argsz then c.la.args.getD k 0 else 0)))

/-- The EA of a uniform vault access (R164). -/
def eaUni (base : DWord) (off : BitVec 20) : Word := loWord base + off.signExtend 32

/-- SLDV: a uniform vault read, zero-extended (R164). -/
def execSldv (e : UExt) (d a : BitVec 6) (w : BitVec 2) (o : Ordering) (off : BitVec 20) (s : State) : Out :=
  let n : Need := { Need.ofUni (e.wf && (absent e.x (w == 0 && o == ⟨false, false, false, 0⟩ && off == 0)) && o.wf) e (ns a) (ns d) with later := true, mem := true, warn := warnRead o true }
  s.issue n fun c =>
    let ea := eaUni (c.s a) off
    let width := 2 ^ w.toNat
    match vaultCheck [0] (fun _ => ea) (fun x => s.vaultEA c.co c.la x false) width with
    | some t => s.ownTrap c n t.1 t.2
    | none =>
      if s.relWait c o then s.stalled
      else s.vaultRead c n (s.accesses c [0] fun _ => ea) width d.toNat 1 false true false false o

/-- SSTV: a uniform vault store (R164). -/
def execSstv (e : UExt) (a b : BitVec 6) (w : BitVec 2) (o : Ordering) (off : BitVec 20) (s : State) : Out :=
  let n : Need := { Need.ofUni (e.wf && (absent e.x (w == 0 && o == ⟨false, false, false, 0⟩ && off == 0)) && o.wf) e (ns a ++ ns b) [] with mem := true, warn := warnWrite o }
  s.issue n fun c =>
    let ea := eaUni (c.s a) off
    let width := 2 ^ w.toNat
    match vaultCheck [0] (fun _ => ea) (fun x => s.vaultEA c.co c.la x true) width with
    | some t => s.ownTrap c n t.1 t.2
    | none =>
      s.enter c n (.vst width ((addrs ((s.vaultEA c.co c.la ea true).getD 0) width).zip (leBytes width (c.s b).toNat)) none)
        (writeMarks o) [] o true

/-- SATOMV and SCASV (R165): one access, at the address in a register. -/
def satom (op : AtomOp) (wf : Bool) (e : UExt) (d a : BitVec 6) (reads : List RegName) (w : BitVec 2) (o : Ordering) (un : Bool)
    (opnd cmp : Ctx → DWord) (s : State) : Out :=
  let w64 := w == 3
  let width := if w64 then 8 else 4
  let n : Need := { Need.ofUni wf e (ns a ++ reads) (ns d) with later := true, mem := true, warn := warnBoth o }
  s.issue n fun c =>
    let ea := loWord (c.s a)
    match vaultCheck [0] (fun _ => ea) (fun x => s.vaultEA c.co c.la x true) width with
    | some t => s.ownTrap c n t.1 t.2
    | none =>
      match s.poisonEA (s.accesses c [0] fun _ => ea) width with
      | some t => s.ownTrap c n t.1 t.2
      | none =>
        s.enter c n (.vatom op w64 un [⟨0, (s.vaultEA c.co c.la ea true).getD 0, ea, opnd c, cmp c⟩] d.toNat true)
          (marksOf o) [n.flight c (.drain c.w.nextId) [] o.acq] o false

/-- SATOMV.ADD (R165). -/
def execSatomvAdd (e : UExt) (d a b : BitVec 6) (w : BitVec 2) (o : Ordering) (un : Bool) (s : State) : Out :=
  satom .add (e.wf && (absent e.x (w == 0 && o == ⟨false, false, false, 0⟩ && !un)) && o.wf && decide (2 ≤ w.toNat) && !un) e d a (ns b) w o un (fun c => c.s b) (fun _ => 0) s

/-- SATOMV.MIN (R165). -/
def execSatomvMin (e : UExt) (d a b : BitVec 6) (w : BitVec 2) (o : Ordering) (un : Bool) (s : State) : Out :=
  satom .min (e.wf && e.x && o.wf && decide (2 ≤ w.toNat)) e d a (ns b) w o un (fun c => c.s b) (fun _ => 0) s

/-- SATOMV.MAX (R165). -/
def execSatomvMax (e : UExt) (d a b : BitVec 6) (w : BitVec 2) (o : Ordering) (un : Bool) (s : State) : Out :=
  satom .max (e.wf && e.x && o.wf && decide (2 ≤ w.toNat)) e d a (ns b) w o un (fun c => c.s b) (fun _ => 0) s

/-- SATOMV.AND (R165). -/
def execSatomvAnd (e : UExt) (d a b : BitVec 6) (w : BitVec 2) (o : Ordering) (un : Bool) (s : State) : Out :=
  satom .and (e.wf && e.x && o.wf && decide (2 ≤ w.toNat) && !un) e d a (ns b) w o un (fun c => c.s b) (fun _ => 0) s

/-- SATOMV.OR (R165). -/
def execSatomvOr (e : UExt) (d a b : BitVec 6) (w : BitVec 2) (o : Ordering) (un : Bool) (s : State) : Out :=
  satom .or (e.wf && e.x && o.wf && decide (2 ≤ w.toNat) && !un) e d a (ns b) w o un (fun c => c.s b) (fun _ => 0) s

/-- SATOMV.XOR (R165). -/
def execSatomvXor (e : UExt) (d a b : BitVec 6) (w : BitVec 2) (o : Ordering) (un : Bool) (s : State) : Out :=
  satom .xor (e.wf && e.x && o.wf && decide (2 ≤ w.toNat) && !un) e d a (ns b) w o un (fun c => c.s b) (fun _ => 0) s

/-- SATOMV.XCHG (R165). -/
def execSatomvXchg (e : UExt) (d a b : BitVec 6) (w : BitVec 2) (o : Ordering) (un : Bool) (s : State) : Out :=
  satom .xchg (e.wf && e.x && o.wf && decide (2 ≤ w.toNat) && !un) e d a (ns b) w o un (fun c => c.s b) (fun _ => 0) s

/-- SCASV: compares with sB and writes s(B + 1) (R165). -/
def execScasv (e : UExt) (d a b : BitVec 6) (w : BitVec 2) (o : Ordering) (s : State) : Out :=
  satom .cas (e.wf && (absent e.x (w == 0 && o == ⟨false, false, false, 0⟩)) && o.wf && decide (2 ≤ w.toNat) && (b != 63)) e d a (ns b ++ ns (b + 1)) w o false (fun c => c.s (b + 1)) (fun c => c.s b) s

end Sys2Proof.Machine
end

