-- ==== Sys2Proof/Machine/GlobalMem.lean ====
section
/-! DEFINITION. Global memory from the lanes: OPs 0x20 to 0x23, and the translation registers, uniform OP 0x0C
(R142 to R145, R158 to R162, R233). -/

namespace Sys2Proof.Machine

/-- One lane's global access with its translation. -/
structure GAcc where
  lane : Nat
  off  : Nat
  x    : Xlate
deriving DecidableEq, Repr

/-- The accesses of lanes through a translation register (R143). -/
def State.gaccs (s : State) (c : Ctx) (x : XReg) (ls : List Nat) (off : Nat → Nat) (width : Nat) (rd wr : Bool) : List GAcc :=
  ls.map fun l => ⟨l, off l, s.xaccess c x (off l) width rd wr⟩

/-- The virtual address of an offset through a translation register (R143). -/
def XReg.va (x : XReg) (off : Nat) : DWord := x.vb + BitVec.ofNat 64 off

/-- Lowest-lane ALIGN: a landing EA, or the global address of an access that must be aligned (R151, R158, R160, R233). Where one lane misaligns both, the
record holds the EA (log 104). -/
def alignGlobal (ls : List Nat) (ea : Nat → Word) (land : Nat) (x : XReg) (off : Nat → Nat) (width : Nat) : Option (Cause × DWord) :=
  (ls.find? fun l => (ea l).toNat % land != 0 || (x.va (off l)).toNat % width != 0).map fun l =>
    (.align, if (ea l).toNat % land != 0 then (ea l).zeroExtend 64 else x.va (off l))

/-- The XLATE_PERM of the lowest lane that has one (R144, R151). -/
def permOf (as : List GAcc) : Option (Cause × DWord) :=
  as.findSome? fun a => match a.x with
    | .perm va => some (.xlatePerm, va)
    | _ => none

/-- The pages whose walks lanes wait for, each with the lane's address (R144). -/
def pagesOf (as : List GAcc) : List (Nat × Nat) :=
  as.flatMap fun a => match a.x with
    | .pending pages va => pages.map fun page => (page, va56 va)
    | _ => []

/-- An access that host memory does not support traps XLATE_PERM there (R325). -/
def GAcc.deviceOnly (a : GAcc) : GAcc :=
  match a.x with
  | .ok va ps => if ps.any fun p => isHost p.pa then { a with x := .perm va } else a
  | _ => a

/-- A lane's access is translated. -/
def GAcc.ready (a : GAcc) : Bool :=
  match a.x with
  | .ok _ _ => true
  | _ => false

/-- The parts of a translated access: one for each page it touches (R196, R198). `kind` may depend on where the part begins. -/
def GAcc.parts (c : Ctx) (a : GAcc) (id : Nat) (kind : PartKind) (data : List Byte) (m : Marks) (load : Option Nat) : List Part :=
  match a.x with
  | .ok va ps =>
    (ps.foldl (fun (r : List Part × Nat) p =>
      let q : Part :=
        { id := id + r.1.length, key := c.r.key, num := c.w.issued, covers := c.r.covers, jm := c.r.jm, lane := a.lane, kind := kind,
          pa := p.pa, va := va56 va + r.2, width := p.len, data := (data.drop r.2).take p.len, ord := p.t.ord, marks := m, mkey := p.t.key,
          load := load.map fun k => (k, r.2), sent := false, sentAt := 0, mates := [], rem := addrs 0 p.len, unacked := false }
      (r.1 ++ [q], r.2 + p.len)) ([], 0)).1
  | _ => []

/-- The next identifier of a load. -/
def State.freshLoad (s : State) : Nat := s.loads.foldl (fun m l => max m (l.id + 1)) 0

/-- Numbers the parts of lanes one after another; lane parts of one access take two numbers at most. -/
def State.gparts (s : State) (as : List GAcc) (f : GAcc → Nat → Nat → List Part) (load : Nat) : List Part :=
  (as.zipIdx.map fun x => f x.1 (s.nextPart + 2 * x.2) (load + x.2)).flatten

/-- Two parts share a byte; an unsubscribe request accesses none. -/
def Part.meets (p q : Part) : Bool :=
  let none_ (x : Part) := match x.kind with
    | .unsubscribe _ => true
    | _ => false
  !none_ p && !none_ q && decide (p.pa < q.pa + q.width) && decide (q.pa < p.pa + p.width)

/-- What happens before a part of the wave (R207): what its strand has released or acquired before it, and what earlier accesses of
the wave to its bytes bring. -/
def Wave.beforePart (w : Wave) (p : Part) : List Nat :=
  (if p.marks.rel then w.released p.key p.num p.covers p.jm else w.precede p.key p.num p.covers p.jm) ++ p.mates

/-- What earlier accesses of the wave to a part's bytes put before it as it enters the post queue (R207). -/
def Wave.matesOf (w : Wave) (p : Part) : List Nat :=
  addNew [] (((w.pq.filter p.meets).map (·.id)) ++
    (w.before.filter fun b => b.space == 1 && decide (b.addr < p.pa + p.width) && decide (p.pa < b.addr + b.width)).map (·.part))

/-- What a part that enters the post queue puts before other accesses (R207): what happens before it comes before what its strand
releases and before later accesses to its bytes; an SO part and an acquire come before everything later of the strand, an SO part
with all that the strand has done. -/
def Wave.befores (w : Wave) (p : Part) : List Before :=
  ((w.beforePart p).map fun i => ⟨p.key, p.num, i, false, 1, p.pa, p.width⟩) ++
  ((if p.ord == .so then p.id :: w.released p.key p.num p.covers p.jm else if p.marks.acq then [p.id] else []).map fun i =>
    ⟨p.key, p.num, i, true, 0, 0, 0⟩)

/-- A part enters the post queue of a wave, behind every part already there (R194). -/
def State.postPart (s : State) (slot : Nat) (p : Part) : State :=
  match s.waves.find slot with
  | none => s
  | some w =>
    let q := { p with mates := w.matesOf p }
    (s.modWave slot fun v => { v with pq := v.pq ++ [q] }).addBefore slot (w.befores q)

/-- Parts enter the post queue of a wave in order (R194). -/
def State.post (s : State) (slot : Nat) : List Part → State
  | [] => s
  | p :: ps => (s.postPart slot p).post slot ps

/-- Puts a translation register back after a stale one has been translated again (R145). -/
def State.putX (s : State) (slot x : Nat) (v : XReg) : State :=
  s.modWave slot fun w => if (w.xreg x) = v then w else { w with x := w.x.put x v }

/-- Adds what a strand's acquire marks wait for. -/
def State.addAcqs (s : State) (c : Ctx) (as : List Acq) : State :=
  if as.isEmpty then s else
  s.modWave c.slot fun w =>
    match w.run c.entry with
    | some r => w.setRun c.entry { r with acqs := r.acqs ++ as }
    | none => w

/-- The lanes that a lane's access stands for: its pair in a protected launch. -/
def Ctx.pairMask (c : Ctx) (ls : List Nat) : Word := maskOf fun l => ls.contains (c.lead l)

/-- What a lane global instruction is made of. -/
structure GOp where
  n     : Need
  x     : BitVec 3
  /-- Vault EA of a lane, the alignment asked of it, and whether it must be in own-window form. -/
  ea    : Option (Ctx → Nat → Word)
  land  : Nat
  own   : Bool
  off   : Ctx → Nat → Nat
  /-- Width of the access, alignment asked of its address, and the permissions asked. -/
  width : Nat
  align : Nat
  rd    : Bool
  wr    : Bool
  /-- Further data that the two copies of a pair compare (R314). -/
  data  : Ctx → Nat → List Byte
  /-- The instruction can act on host memory (R325). -/
  host  : Bool := true
  /-- What must wait before the instruction acts. -/
  hold  : State → Ctx → Bool
  /-- Performs the translated lanes, of which there is at least one; the flag says that a store-buffer entry is needed. -/
  act   : State → Ctx → List GAcc → State
  entry : Bool
  /-- What follows once every lane is done. -/
  after : State → Ctx → State := fun t _ => t

/-- The issue of a lane global instruction (R143, R144, R151): the checks in their order, the translated lanes, and parking. -/
def GOp.run (g : GOp) (e : LExt) (s : State) : Out :=
  s.issue g.n fun c =>
    let mask := c.todo e
    let ls := lanesOf mask
    let ea (l : Nat) : Word := match g.ea with
      | some f => f c l
      | none => 0
    let xr := c.w.xreg g.x.toNat
    match c.shadow mask fun i j => ea i == ea j && g.off c i == g.off c j && g.data c i == g.data c j with
    | some t => s.ownTrap c g.n t.1 t.2
    | none =>
      match vaultCheck ls ea (fun x => if g.own then ownEA c.co x else if g.ea.isSome then s.vaultEA c.co c.la x true else some 0) 1 with
      | some t => s.ownTrap c g.n t.1 t.2
      | none =>
        match alignGlobal ls ea g.land xr (g.off c) g.align with
        | some t => s.ownTrap c g.n t.1 t.2
        | none =>
          let as := (s.gaccs c xr ls (g.off c) g.width g.rd g.wr).map fun a => if g.host then a else a.deviceOnly
          match permOf as with
          | some t => s.ownTrap c g.n t.1 t.2
          | none =>
            let ready := as.filter fun a => a.ready && c.lead a.lane == a.lane
            let late := as.filter fun a => !a.ready
            if g.hold s c || (g.entry && !ready.isEmpty && !c.w.canTake c.r.key) then s.stalled
            else if late.isEmpty then
              let t := s.commit c g.n []
              .next (g.after (if ready.isEmpty then t else g.act (t.putX c.slot g.x.toNat (s.freshX c xr)) c ready) c)
            else
              let t := s.parkStrand c (mask &&& ~~~ maskOf fun l => as.any fun a => a.lane == l && a.ready) (c.active e)
                (dva (((pagesOf late).head?.map (·.2)).getD 0)) (pagesOf late) g.rd g.wr
              .next (if ready.isEmpty then t else g.act (t.putX c.slot g.x.toNat (s.freshX c xr)) c ready)

/-- A load for each access, with nothing returned yet (R158, R160). -/
def mkLoads (s : State) (c : Ctx) (mask : Word) (as : List GAcc) (ea : Nat → Word) (land width : Nat) (sx atomic acq : Bool) (k : Nat) : List Load :=
  as.zipIdx.map fun x =>
    { id := s.freshLoad + x.2, slot := c.slot, cohort := c.w.cohort, target := vaultTarget c.co c.la (ea x.1.lane),
      ea := (s.vaultEA c.co c.la (ea x.1.lane) true).getD 0, land := land, sx := sx, atomic := atomic, barrier := k, width := width, bytes := [],
      parts := match x.1.x with
        | .ok _ ps => ps.length
        | _ => 0,
      poison := none, pc := c.r.recPc, entry := c.entry, mask := mask,
      va := match x.1.x with
        | .ok va _ => va.toNat
        | _ => 0,
      num := c.w.issued, key := c.r.key, acq := acq }

/-- An entry of the strand, or of one that counts as earlier, is a GST or GATOM that has not drained (R158). -/
def Ctx.globalsUndrained (c : Ctx) : Bool :=
  c.w.sb.any fun e => c.earlier e.key e.num && match e.kind with
    | .global _ => true
    | _ => false

/-- GLD (R158). -/
def gld (width land : Nat) (sx wf : Bool) (e : LExt) (x : BitVec 3) (k : BitVec 4) (a b : BitVec 7) (o : Ordering) (off : BitVec 16)
    (s : State) : Out :=
  let ea (c : Ctx) (l : Nat) := eaOf (c.v a l) off
  GOp.run {
    n := { Need.ofLane wf e (nv a ++ nv b ++ nx x) [] with mem := true, warn := warnRead o false },
    x := x, ea := some ea, land := land, own := false, off := fun c l => (c.v b l).toNat, width := width, align := 1, rd := true, wr := false,
    data := fun _ _ => [], hold := fun s c => c.globalsUndrained || s.relWait c o, entry := false,
    act := fun s c as =>
      let ps := s.gparts as (fun g id load => g.parts c id .read [] (readMarks o) (some load)) s.freshLoad
      let ls := mkLoads s c (c.active e) as (ea c) land width sx false (readMarks o).acq k.toNat
      let t := ({ s with loads := s.loads ++ ls }.takeIds (2 * as.length)).post c.slot ps
      t.addAcqs c (if (readMarks o).acq then ls.map fun l => .load l.id else []) } e s

/-- GST (R159). -/
def gst (width regs : Nat) (wf : Bool) (e : LExt) (x : BitVec 3) (a b : BitVec 7) (o : Ordering) (s : State) : Out :=
  GOp.run {
    n := { Need.ofLane wf e (nvs a regs ++ nv b ++ nx x) [] with mem := true, warn := warnWrite o },
    x := x, ea := none, land := 1, own := false, off := fun c l => (c.v b l).toNat, width := width, align := 1, rd := false, wr := true,
    data := fun c l => c.dataBytes a width l, hold := fun _ _ => false, entry := true,
    act := fun s c as =>
      let ps := s.gparts as (fun g id _ => g.parts c id .write (c.dataBytes a width g.lane) (writeMarks o) none) 0
      (s.takeIds (2 * as.length)).takeEntry c (.global ps) (writeMarks o),
    after := fun t c => t.acqAfter c o } e s

/-- GATOM (R160). -/
def gatom (op : AtomOp) (wf : Bool) (e : LExt) (x : BitVec 3) (k : BitVec 4) (a b : BitVec 7) (o : Ordering) (w64 un : Bool)
    (vo : BitVec 7) (s : State) : Out :=
  let width := if w64 then 8 else 4
  GOp.run {
    n := { Need.ofLane wf e (nv a ++ nv b ++ nvs vo (atomRegs op w64) ++ nx x) [] with mem := true, warn := warnBoth o },
    x := x, ea := some fun c l => c.v a l, land := width, own := false, off := fun c l => (c.v b l).toNat, width := width, align := width,
    rd := true, wr := true,
    data := fun c l => leBytes 8 (c.atomOpnds op w64 vo l).1.toNat ++ leBytes 8 (c.atomOpnds op w64 vo l).2.toNat,
    host := op == .add || op == .xchg || op == .cas, hold := fun _ _ => false, entry := true,
    act := fun s c as =>
      let ps := s.gparts as (fun g id load =>
        g.parts c id (.atomic op un (c.atomOpnds op w64 vo g.lane).1 (c.atomOpnds op w64 vo g.lane).2) [] (marksOf o) (some load)) s.freshLoad
      let ls := mkLoads s c (c.active e) as (c.v a) width width false true o.acq k.toNat
      let t := ({ s with loads := s.loads ++ ls }.takeIds (2 * as.length)).takeEntry c (.global ps) (marksOf o)
      t.addAcqs c (if o.acq then ls.map fun l => .load l.id else []) } e s

/-- SUBSCR and UNSUB (R233): one entry; `mk` makes it of the slots and their requests. -/
def subscribe (sub wf : Bool) (e : LExt) (x : BitVec 3) (a b : BitVec 7) (o : Ordering) (off : BitVec 16) (s : State) : Out :=
  let ea (c : Ctx) (l : Nat) := eaOf (c.v a l) off
  GOp.run {
    n := { Need.ofLane wf e (nv a ++ nv b ++ nx x) [] with mem := true, warn := warnBoth o },
    x := x, ea := some ea, land := 16, own := true, off := fun c l => (c.v b l).toNat, width := 8, align := 8, rd := true, wr := false,
    data := fun _ _ => [], hold := fun _ _ => false, entry := true,
    act := fun s c as =>
      let slot (l : Nat) := (ownEA c.co (ea c l)).getD 0
      let ps := s.gparts as (fun g id _ =>
        g.parts c id (if sub then .subscribe (slot g.lane) else .unsubscribe (slot g.lane)) [] (marksOf o) none) 0
      let lanes := ps.map fun p => (slot p.lane, p)
      let t := (s.takeIds (2 * as.length)).takeEntry c (if sub then .subscr lanes else .unsub lanes) (marksOf o)
      t.addAcqs c (if o.acq then lanes.map fun p => .answer p.2.id else []) } e s

/-- GLD.B: 1 byte per lane, landing as 4 (R158). -/
def execGldB (e : LExt) (x : BitVec 3) (k : BitVec 4) (a b : BitVec 7) (o : Ordering) (off : BitVec 16) (s : State) : Out :=
  gld 1 4 false (e.wf && (absent e.x (o == ⟨false, false, false, 0⟩ && off == 0)) && o.wf) e x k a b o off s

/-- GLD.BS: 1 byte per lane, landing as 4 (R158). -/
def execGldBs (e : LExt) (x : BitVec 3) (k : BitVec 4) (a b : BitVec 7) (o : Ordering) (off : BitVec 16) (s : State) : Out :=
  gld 1 4 true (e.wf && (absent e.x (o == ⟨false, false, false, 0⟩ && off == 0)) && o.wf) e x k a b o off s

/-- GLD.H: 2 bytes per lane, landing as 4 (R158). -/
def execGldH (e : LExt) (x : BitVec 3) (k : BitVec 4) (a b : BitVec 7) (o : Ordering) (off : BitVec 16) (s : State) : Out :=
  gld 2 4 false (e.wf && (absent e.x (o == ⟨false, false, false, 0⟩ && off == 0)) && o.wf) e x k a b o off s

/-- GLD.HS: 2 bytes per lane, landing as 4 (R158). -/
def execGldHs (e : LExt) (x : BitVec 3) (k : BitVec 4) (a b : BitVec 7) (o : Ordering) (off : BitVec 16) (s : State) : Out :=
  gld 2 4 true (e.wf && (absent e.x (o == ⟨false, false, false, 0⟩ && off == 0)) && o.wf) e x k a b o off s

/-- GLD.W: 4 bytes per lane, landing as 4 (R158). -/
def execGldW (e : LExt) (x : BitVec 3) (k : BitVec 4) (a b : BitVec 7) (o : Ordering) (off : BitVec 16) (s : State) : Out :=
  gld 4 4 false (e.wf && (absent e.x (o == ⟨false, false, false, 0⟩ && off == 0)) && o.wf) e x k a b o off s

/-- GLD.D: 8 bytes per lane, landing as 8 (R158). -/
def execGldD (e : LExt) (x : BitVec 3) (k : BitVec 4) (a b : BitVec 7) (o : Ordering) (off : BitVec 16) (s : State) : Out :=
  gld 8 8 false (e.wf && (absent e.x (o == ⟨false, false, false, 0⟩ && off == 0)) && o.wf) e x k a b o off s

/-- GLD.Q: 16 bytes per lane, landing as 16 (R158). -/
def execGldQ (e : LExt) (x : BitVec 3) (k : BitVec 4) (a b : BitVec 7) (o : Ordering) (off : BitVec 16) (s : State) : Out :=
  gld 16 16 false (e.wf && (absent e.x (o == ⟨false, false, false, 0⟩ && off == 0)) && o.wf) e x k a b o off s

/-- GST.B: stores 1 byte per lane (R159). -/
def execGstB (e : LExt) (x : BitVec 3) (a b : BitVec 7) (o : Ordering) (s : State) : Out :=
  gst 1 1 (e.wf && (absent e.x (o == ⟨false, false, false, 0⟩)) && o.wf) e x a b o s

/-- GST.H: stores 2 bytes per lane (R159). -/
def execGstH (e : LExt) (x : BitVec 3) (a b : BitVec 7) (o : Ordering) (s : State) : Out :=
  gst 2 1 (e.wf && (absent e.x (o == ⟨false, false, false, 0⟩)) && o.wf) e x a b o s

/-- GST.W: stores 4 bytes per lane (R159). -/
def execGstW (e : LExt) (x : BitVec 3) (a b : BitVec 7) (o : Ordering) (s : State) : Out :=
  gst 4 1 (e.wf && (absent e.x (o == ⟨false, false, false, 0⟩)) && o.wf) e x a b o s

/-- GST.D: stores 8 bytes per lane (R159). -/
def execGstD (e : LExt) (x : BitVec 3) (a b : BitVec 7) (o : Ordering) (s : State) : Out :=
  gst 8 2 (e.wf && (absent e.x (o == ⟨false, false, false, 0⟩)) && o.wf && even a) e x a b o s

/-- GST.Q: stores 16 bytes per lane (R159). -/
def execGstQ (e : LExt) (x : BitVec 3) (a b : BitVec 7) (o : Ordering) (s : State) : Out :=
  gst 16 4 (e.wf && (absent e.x (o == ⟨false, false, false, 0⟩)) && o.wf && quad a) e x a b o s

/-- GATOM.ADD (R160). -/
def execGatomAdd (e : LExt) (x : BitVec 3) (k : BitVec 4) (a b : BitVec 7) (o : Ordering) (w64 un : Bool) (vo : BitVec 7) (s : State) : Out :=
  gatom .add (e.wf && (absent e.x (o == ⟨false, false, false, 0⟩ && !w64 && !un && vo == 0)) && o.wf && (!w64 || even vo) && !un) e x k a b o w64 un vo s

/-- GATOM.MIN (R160). -/
def execGatomMin (e : LExt) (x : BitVec 3) (k : BitVec 4) (a b : BitVec 7) (o : Ordering) (w64 un : Bool) (vo : BitVec 7) (s : State) : Out :=
  gatom .min (e.wf && (absent e.x (o == ⟨false, false, false, 0⟩ && !w64 && !un && vo == 0)) && o.wf && (!w64 || even vo)) e x k a b o w64 un vo s

/-- GATOM.MAX (R160). -/
def execGatomMax (e : LExt) (x : BitVec 3) (k : BitVec 4) (a b : BitVec 7) (o : Ordering) (w64 un : Bool) (vo : BitVec 7) (s : State) : Out :=
  gatom .max (e.wf && (absent e.x (o == ⟨false, false, false, 0⟩ && !w64 && !un && vo == 0)) && o.wf && (!w64 || even vo)) e x k a b o w64 un vo s

/-- GATOM.AND (R160). -/
def execGatomAnd (e : LExt) (x : BitVec 3) (k : BitVec 4) (a b : BitVec 7) (o : Ordering) (w64 un : Bool) (vo : BitVec 7) (s : State) : Out :=
  gatom .and (e.wf && (absent e.x (o == ⟨false, false, false, 0⟩ && !w64 && !un && vo == 0)) && o.wf && (!w64 || even vo) && !un) e x k a b o w64 un vo s

/-- GATOM.OR (R160). -/
def execGatomOr (e : LExt) (x : BitVec 3) (k : BitVec 4) (a b : BitVec 7) (o : Ordering) (w64 un : Bool) (vo : BitVec 7) (s : State) : Out :=
  gatom .or (e.wf && (absent e.x (o == ⟨false, false, false, 0⟩ && !w64 && !un && vo == 0)) && o.wf && (!w64 || even vo) && !un) e x k a b o w64 un vo s

/-- GATOM.XOR (R160). -/
def execGatomXor (e : LExt) (x : BitVec 3) (k : BitVec 4) (a b : BitVec 7) (o : Ordering) (w64 un : Bool) (vo : BitVec 7) (s : State) : Out :=
  gatom .xor (e.wf && (absent e.x (o == ⟨false, false, false, 0⟩ && !w64 && !un && vo == 0)) && o.wf && (!w64 || even vo) && !un) e x k a b o w64 un vo s

/-- GATOM.XCHG (R160). -/
def execGatomXchg (e : LExt) (x : BitVec 3) (k : BitVec 4) (a b : BitVec 7) (o : Ordering) (w64 un : Bool) (vo : BitVec 7) (s : State) : Out :=
  gatom .xchg (e.wf && (absent e.x (o == ⟨false, false, false, 0⟩ && !w64 && !un && vo == 0)) && o.wf && (!w64 || even vo) && !un) e x k a b o w64 un vo s

/-- GATOM.CAS (R160). -/
def execGatomCas (e : LExt) (x : BitVec 3) (k : BitVec 4) (a b : BitVec 7) (o : Ordering) (w64 un : Bool) (vo : BitVec 7) (s : State) : Out :=
  gatom .cas (e.wf && (absent e.x (o == ⟨false, false, false, 0⟩ && !w64 && !un && vo == 0)) && o.wf && (if w64 then quad vo else even vo) && !un) e x k a b o w64 un vo s

/-- SUBSCR: subscribes slots to words (R233). -/
def execSubscr (e : LExt) (x : BitVec 3) (a b : BitVec 7) (o : Ordering) (off : BitVec 16) (s : State) : Out :=
  subscribe true (e.wf && (absent e.x (o == ⟨false, false, false, 0⟩ && off == 0)) && o.wf) e x a b o off s

/-- UNSUB: ends subscriptions (R233). -/
def execUnsub (e : LExt) (x : BitVec 3) (a b : BitVec 7) (o : Ordering) (off : BitVec 16) (s : State) : Out :=
  subscribe false (e.wf && (absent e.x (o == ⟨false, false, false, 0⟩ && off == 0)) && o.wf) e x a b o off s

/-- XLAT: translates the base of a translation register; a miss parks the strand (R161). -/
def execXlat (e : UExt) (x : BitVec 3) (a b : BitVec 6) (s : State) : Out :=
  let n : Need := { Need.ofUni (e.wf) e (ns a ++ ns b) (nx x) with later := true, noSplit := true, addr := fun c => c.s a }
  s.issue n fun c =>
    let vb := c.s a
    if !canonical vb then s.ownTrap c n .xlatePerm vb else
    match s.tlbOf c (va56 vb) with
    | none => .next (s.parkStrand c c.r.mask c.r.mask vb [(va56 vb, va56 vb)] false false)
    | some t => .next (s.defer c n [.x x.toNat ⟨true, vb, min (c.s b).toNat (2 ^ 32), some t, false⟩])

/-- XDROP: makes a translation register invalid (R162). -/
def execXdrop (e : UExt) (x : BitVec 3) (s : State) : Out :=
  execA s { Need.ofUni (e.wf) e [] (nx x) with noSplit := true } fun c =>
    [.x x.toNat { c.w.xreg x.toNat with valid := false }]

end Sys2Proof.Machine
end

