-- ==== Sys2Proof/Machine/Tiles.lean ====
section
/-! DEFINITION. Tiles: lane OP 0x24 and uniform OP 0x0E (R256 to R265). -/

namespace Sys2Proof.Machine

/-- The tiles that a COPYC job holds (R275, R279): tD, tC, tA and tB. -/
def Job.tiles (j : Job) : List Nat :=
  if j.kind = .copyc then [pteField j.ext 0 3, pteField j.ext 3 3, pteField j.ext 6 3, pteField j.ext 9 3] else []

/-- A tile that matrix work or a COPYC job of the wave has still to read or write; a reader waits for writers only (R260, R279). -/
def State.tileBusy (s : State) (slot t : Nat) (write : Bool) : Bool :=
  match s.cores.find (slotCore slot) with
  | none => false
  | some k =>
    k.mmas.any (fun m => m.slot == slot && (m.tc == t || (write && (m.ta == t || m.tbT == t)))) ||
    k.jobs.any fun j => j.slot == slot && j.state != .stopped && j.tiles.contains t

/-- A poisoned granule among bytes of a tile (R313). -/
def State.tilePoison (s : State) (c : Ctx) (t : Nat) (os : List Nat) : Option (Cause × DWord) :=
  if s.poisonT.isEmpty then none
  else if os.any fun o => s.poisonT.contains (c.slot, tileAddr t o / 16) then some (.eccUncorrectable, BitVec.ofNat 64 t) else none

/-- The bytes of a tile's logical shape, row by row (R256). -/
def shapeBytes (sh : BitVec 14) : List Nat := (List.range (shapeRows sh)).flatMap fun r => addrs (256 * r) (shapeRB sh)

/-- Swizzle: the place of a tile byte offset in an area (R258). -/
def swizzle (lay : BitVec 4) (o : Nat) : Nat :=
  if lay.getLsbD 3 then o ^^^ (o / 2 ^ ((lay.extractLsb' 0 3).toNat + 7) % 8 * 16) else o

/-- The layout tag of a layout word (R259). -/
def tagOfLayout (lay : BitVec 4) : Nat := if lay.getLsbD 3 then lay.toNat else 0

/-- A row area in the vault (R258): base, stride and what its tile's shape and layout make of it. -/
structure Area where
  base   : Word
  stride : Nat
  shape  : BitVec 14
  lay    : BitVec 4
deriving DecidableEq, Repr

/-- The area that TLD and TST name (R261). -/
def Ctx.area (c : Ctx) (t : BitVec 3) (base : DWord) (off : BitVec 20) (stride : BitVec 8) : Area :=
  let sh := c.w.shapeOf t.toNat
  { base := eaUni base off, stride := if stride = 0 then shapeRB sh else 16 * stride.toNat, shape := sh, lay := c.w.layoutOf t.toNat }

/-- Bytes from the base to the end of the area (R258). The 128-byte blocks of a swizzled area are counted from its base, also where that is misaligned
(log 110). -/
def Area.span (a : Area) : Nat :=
  let n := (shapeRows a.shape - 1) * a.stride + shapeRB a.shape
  if a.lay.getLsbD 3 then roundUp n 128 else n

/-- Checks the area's ends and its base (R263, steps 1 and 2). -/
def State.areaTrap (s : State) (c : Ctx) (a : Area) (write : Bool) : Option (Cause × DWord) :=
  let last := a.base.toNat + a.span - 1
  if (s.vaultEA c.co c.la a.base write).isNone then some (.vaultBound, a.base.zeroExtend 64)
  else if 2 ^ 32 ≤ last ∨ (BitVec.ofNat 32 last).extractLsb' 30 2 ≠ a.base.extractLsb' 30 2 ∧ (a.base.getLsbD 31 ∨ 2 ^ 31 ≤ last) ∨
      (s.vaultEA c.co c.la (BitVec.ofNat 32 last) write).isNone then some (.vaultBound, BitVec.ofNat 64 (last % 2 ^ 32))
  else if a.base.toNat % (if a.lay.getLsbD 3 then 128 else 16) ≠ 0 then some (.align, a.base.zeroExtend 64)
  else none

/-- The 16-byte pieces of an area: offset in the tile and offset in the area, rows ascending (R258, R263). A TLD reads each in one bank step, in any order (log 126). -/
def Area.pieces (a : Area) : List (Nat × Nat) :=
  (List.range (shapeRows a.shape)).flatMap fun r =>
    (List.range (shapeRB a.shape / 16)).map fun k => (256 * r + 16 * k, swizzle a.lay (r * a.stride + 16 * k))

/-- The vault address of an offset in the area: its EA is resolved by itself, for an area in cluster form may run into the next
member's window (R131, R258). -/
def State.areaAt (s : State) (c : Ctx) (a : Area) (o : Nat) : Nat := (s.vaultAt c.co c.la (a.base.toNat + o)).getD 0

/-- The first granule of the area, by EA, whose tag is not the tile's layout (R263, step 3). -/
def State.tagTrap (s : State) (c : Ctx) (a : Area) : Option (Cause × DWord) :=
  let b := a.base.toNat
  ((addrs (b / 4096) ((b + a.span - 1) / 4096 + 1 - b / 4096)).find? fun g =>
    s.tagOf ((s.vaultAt c.co c.la (4096 * g)).getD 0) != tagOfLayout a.lay).map fun g => (.tileShape, BitVec.ofNat 64 (max b (4096 * g)))

/-- TRD and TWR: the bytes of a lane in its physical row (R265). -/
def rowByte (la : Launch) (row : BitVec 6) (part : BitVec 2) (w l : Nat) : Nat :=
  256 * row.toNat + part.toNat * waveWidth la * w + laneNo la l * w

/-- What TRD and TWR ask: the guard is ignored (R70, R265). -/
def Need.tileRow (wf : Bool) (e : LExt) (part : BitVec 2) (w64 : Bool) (reads writes : List RegName) : Need :=
  { wf, lane := some { e with g := false, gp := 0, gn := false }, x := e.x, la := e.la, reads, writes, later := true, wide := true,
    warn := if e.g then 8 else 0,
    badLaunch := fun la => decide (256 ≤ part.toNat * waveWidth la * (if w64 then 8 else 4)) }

/-- What a tile instruction asks. -/
def Need.tile (wf : Bool) (e : UExt) (reads writes : List RegName) : Need :=
  { Need.ofUni wf e reads writes with wide := true }

/-- TRD: a part of a physical row into the live lanes (R265). -/
def execTrd (e : LExt) (d : BitVec 7) (t : BitVec 3) (row : BitVec 6) (part : BitVec 2) (w64 : Bool) (s : State) : Out :=
  let n := Need.tileRow (e.wf && (absent e.x (row == 0 && part == 0 && !w64)) && (!w64 || (even d && part.toNat < 2))) e part w64 (nt t) (nvw d w64)
  s.issue n fun c =>
    let w := if w64 then 8 else 4
    if s.tileBusy c.slot t.toNat false then s.stalled else
    match s.tilePoison c t.toNat ((lanesOf c.w.live).flatMap fun l => addrs (rowByte c.la row part w l) w) with
    | some k => s.ownTrap c n k.1 k.2
    | none => .next (s.defer c n (wrW w64 d c.w.live fun l => BitVec.ofNat 64 (leNat
        ((addrs (rowByte c.la row part w l) w).map (c.w.tileByte s.tick c.slot t.toNat)))))

/-- TWR: the live lanes into a part of a physical row; copies that differ trap SHADOW_MISMATCH (R265). -/
def execTwr (e : LExt) (t : BitVec 3) (b : BitVec 7) (row : BitVec 6) (part : BitVec 2) (w64 : Bool) (s : State) : Out :=
  let n := Need.tileRow (e.wf && (absent e.x (row == 0 && part == 0 && !w64)) && (!w64 || (even b && part.toNat < 2))) e part w64 (nvw b w64) (nt t)
  s.issue n fun c =>
    let w := if w64 then 8 else 4
    match c.shadow c.w.live fun i j => c.vw w64 b i == c.vw w64 b j with
    | some k => s.ownTrap c n k.1 k.2
    | none =>
      if s.tileBusy c.slot t.toNat true then s.stalled
      else .next (s.defer c n [.t t.toNat ((lanesOf c.w.live).flatMap fun l =>
        (addrs (rowByte c.la row part w l) w).zip (leBytes w (c.vw w64 b l).toNat))])

/-- TCFG: the shape word; ILLEGAL_OP for a register value without a shape (R261, R262). -/
def execTcfg (e : UExt) (t : BitVec 3) (a : BitVec 6) (r : Bool) (shape : BitVec 14) (s : State) : Out :=
  let n := { Need.tile (e.wf && (absent e.x (!r && shape == 0)) && (r || a == 0) && (!r || shape == 0) && (r || shapeOk shape)) e (if r then ns a else []) [] with names := nt t }
  s.issue n fun c =>
    let sh := if r then (c.s a).extractLsb' 0 14 else shape
    if !shapeOk sh then s.ownTrap c n .illegalOp 0
    else if s.tileBusy c.slot t.toNat true then s.stalled
    else .next ((s.commit c n []).modWave c.slot fun w => { w with shape := w.shape.put t.toNat sh })

/-- TLAY: the layout word (R262). -/
def execTlay (e : UExt) (t : BitVec 3) (layout : BitVec 4) (s : State) : Out :=
  let n := { Need.tile (e.wf && (absent e.x (layout == 0))) e [] [] with names := nt t }
  s.issue n fun c =>
    if s.tileBusy c.slot t.toNat true then s.stalled
    else .next ((s.commit c n []).modWave c.slot fun w => { w with layout := w.layout.put t.toNat layout })

/-- What a TLD checks before its wait: the area and the tags (R263, steps 1 to 3). -/
def State.tldTrap (s : State) (c : Ctx) (a : Area) : Option (Cause × DWord) := (s.areaTrap c a false).or (s.tagTrap c a)

/-- TLD: a row area of the vault into the tile (R263). Its checks are made once: a TLD that then waits for its strand's entries (R209) stands
as one that has passed them, and reads after its wait without a further check. -/
def execTld (e : UExt) (t : BitVec 3) (a : BitVec 6) (off : BitVec 20) (stride : BitVec 8) (s : State) : Out :=
  let n := { Need.tile (e.wf && (absent e.x (off == 0 && stride == 0))) e (ns a) (nt t) with later := true, mem := true }
  s.issue n fun c =>
    let ar := c.area t (c.s a) off stride
    if s.tileBusy c.slot t.toNat true then s.stalled else
    match if c.r.passed then none else s.tldTrap c ar with
    | some k => s.ownTrap c n k.1 k.2
    | none =>
      if ar.pieces.any (fun p => entryBusy (c.w.visible c.r.key c.w.issued) (s.areaAt c ar p.2) 16) then
        if c.r.passed then s.stalled else .next (s.modRun c.slot c.entry fun r => { r with passed := true })
      else s.vaultRead c n (ar.pieces.map fun p => ⟨p.1, ar.base + BitVec.ofNat 32 p.2, s.areaAt c ar p.2⟩) 16 t.toNat 0 false false true
          false ⟨false, false, false, 0⟩

/-- TST: captures the tile and stores it to a row area at its drain (R264). -/
def execTst (e : UExt) (a : BitVec 6) (t : BitVec 3) (off : BitVec 20) (stride : BitVec 8) (s : State) : Out :=
  let n := { Need.tile (e.wf && (absent e.x (off == 0 && stride == 0))) e (ns a) [] with mem := true, names := nt t }
  s.issue n fun c =>
    let ar := c.area t (c.s a) off stride
    match s.areaTrap c ar true with
    | some k => s.ownTrap c n k.1 k.2
    | none =>
      if s.tileBusy c.slot t.toNat false then s.stalled else
      match s.tilePoison c t.toNat (shapeBytes ar.shape) with
      | some k => s.ownTrap c n k.1 k.2
      | none =>
        s.enter c n (.vst 16 (ar.pieces.flatMap fun p =>
          (addrs (s.areaAt c ar p.2) 16).zip ((addrs p.1 16).map (c.w.tileByte s.tick c.slot t.toNat))) (some (tagOfLayout ar.lay)))
          ⟨0, false, false⟩ [] ⟨false, false, false, 0⟩ true

/-- TZERO: every byte of the tile 0 (R262). -/
def execTzero (e : UExt) (t : BitVec 3) (s : State) : Out :=
  let n := { Need.tile (e.wf) e [] (nt t) with later := true }
  s.issue n fun c =>
    if s.tileBusy c.slot t.toNat true then s.stalled
    else .next (s.defer c n [.t t.toNat ((List.range 16384).map fun o => (o, 0))])

/-- TMOV: every byte of tA into tD (R262). -/
def execTmov (e : UExt) (t s : BitVec 3) (st : State) : Out :=
  let n := { Need.tile (e.wf) e [] (nt t) with later := true, names := nt s }
  st.issue n fun c =>
    if st.tileBusy c.slot t.toNat true || st.tileBusy c.slot s.toNat false then st.stalled else
    match st.tilePoison c s.toNat (List.range 16384) with
    | some k => st.ownTrap c n k.1 k.2
    | none => .next (st.defer c n (if t = s then [] else
        [.t t.toNat ((List.range 16384).map fun o => (o, c.w.tileByte st.tick c.slot s.toNat o))]))

end Sys2Proof.Machine
end

