-- ==== Sys2Proof/Machine/Matrix.lean ====
section
/-! DEFINITION. Matrix arithmetic: uniform OP 0x0F (R101 to R103, R266 to R272). Sums are exact until the rounding that the
manual names. -/

namespace Sys2Proof.Machine

/-! ## Elements -/

/-- Element (i, k) of a tile with elements of `ew` bytes (R256). -/
def tileElem (tick slot : Nat) (w : Wave) (t ew i k : Nat) : Nat :=
  leNat ((addrs (256 * i + ew * k) ew).map (w.tileByte tick slot t))

/-- The bytes of an element, as a write of the tile. -/
def elemBytes (ew i k x : Nat) : List (Nat × Byte) := (addrs (256 * i + ew * k) ew).zip (leBytes ew x)

/-- A matrix: its elements row by row. -/
abbrev Mat (α : Type) := List (List α)

/-- A matrix by its elements. -/
def Mat.gen {α : Type} (rows cols : Nat) (f : Nat → Nat → α) : Mat α :=
  (List.range rows).map fun i => (List.range cols).map fun j => f i j

/-- An element. -/
def Mat.at {α : Type} (m : Mat α) (d : α) (i j : Nat) : α := (m.getD i []).getD j d

/-- Decodes an operand of an MMA format: its F value (R266, R267). -/
def mmaVal (fmt x : Nat) : FVal :=
  match fmt with
  | 0 => fmt64.decode x
  | 1 => fmt32.decode x
  | 2 => fmt16.decode x
  | 3 => fmtB16.decode x
  | 4 => fmtE4M3.decode x
  | 5 => fmtE5M2.decode x
  | 6 => ds8Val x
  | _ => .fin (decide (intOf 8 true x < 0)) (intOf 8 true x).natAbs 0

/-- Group size, and element-width codes of A and B and of C (R266). -/
def mmaGroup (fmt : Nat) : Nat := match fmt with
  | 0 => 1
  | 1 => 2
  | 2 | 3 => 4
  | _ => 8
def mmaEW (fmt : Nat) : Nat := match fmt with
  | 0 => 3
  | 1 => 2
  | 2 | 3 => 1
  | _ => 0
def mmaEC (fmt : Nat) : Nat := if fmt = 0 then 3 else 2
def mmaAcc (fmt : Nat) : Fmt := if fmt = 0 then fmt64 else fmt32

/-! ## Exact sums with infinities and NaNs -/

/-- A product, with its sign (R102). -/
def FVal.mul (a b : FVal) : FVal :=
  if a.isNan || b.isNan then .nan false else
  match a, b with
  | .fin s m e, .fin t n g => .fin (s != t) (m * n) (e + g)
  | _, _ => if a.isZero || b.isZero then .nan false else .inf (a.neg != b.neg)

/-- An exact sum: a NaN for a NaN or infinities of both signs; an exact zero is negative only if every term is −0. -/
def FVal.sum (xs : List FVal) : FVal :=
  let pos := xs.any fun x => x == .inf false
  let neg := xs.any fun x => x == .inf true
  if xs.any FVal.isNan || (pos && neg) then .nan false
  else if pos then .inf false
  else if neg then .inf true
  else
    let d := xs.foldl (fun a x => Dy.add a x.dy) ⟨0, 0⟩
    .fin (if d.m = 0 then !xs.isEmpty && xs.all fun x => x.isZero && x.neg else decide (d.m < 0)) d.m.natAbs d.e

/-- The magnitude. -/
def FVal.abs : FVal → FVal
  | .nan s => .nan s
  | .inf _ => .inf false
  | .fin _ m e => .fin false m e

/-- Rounds to FP32 under RNE, as a value. -/
def FVal.to32 : FVal → FVal
  | .fin s m e => fmt32.decode (fmt32.round .ne false s m e).1
  | v => v

/-- NV of a group: a product 0 × ∞, or products of both infinities (R102). -/
def groupNV (ps : List (FVal × FVal)) : FFlags :=
  let prods := ps.map fun p => p.1.mul p.2
  let bad := ps.any fun p => !p.1.isNan && !p.2.isNan && (p.1.mul p.2).isNan
  flagIf (bad || (prods.any (· == .inf false) && prods.any (· == .inf true))) nvF

/-- One accumulation: acc + g rounded once; a NaN sets no flag of its own (R102). -/
def accAdd (f : Fmt) (acc : Nat) (g : FVal) : Nat × FFlags :=
  let a := f.decode acc
  if a.isNan || g.isNan then (f.nan, 0) else f.add .ne false a g

/-- The element of C over the groups, in increasing k (R102). -/
def mmaElem (f : Fmt) : (groups : List (List (FVal × FVal))) → (acc : Nat) → Nat × FFlags
  | [], acc => (acc, 0)
  | g :: t, acc =>
    let x := accAdd f acc (FVal.sum (g.map fun p => p.1.mul p.2))
    let y := mmaElem f t x.1
    (y.1, y.2 ||| x.2 ||| groupNV g)

/-- Cuts a list into groups of `n`. -/
def groupsOf {α : Type} (n : Nat) : (fuel : Nat) → List α → List (List α)
  | 0, _ => []
  | _, [] => []
  | k + 1, xs => xs.take n :: groupsOf n k (xs.drop n)

/-! ## MMA -/

/-- What an MMA computes with: its command and the shapes of its tiles. -/
structure MmaOp where
  fmt  : Nat
  part : Bool
  tb   : Bool
  tc   : Nat
  ta   : Nat
  tbT  : Nat
deriving DecidableEq, Repr

/-- The sizes M, N and K of an MMA on the tiles of a wave. -/
def MmaOp.dims (o : MmaOp) (w : Wave) : Nat × Nat × Nat :=
  (shapeRows (w.shapeOf o.ta), shapeCols (w.shapeOf o.tc), shapeCols (w.shapeOf o.ta))

/-- The shape conditions of R266. -/
def MmaOp.fits (o : MmaOp) (w : Wave) : Bool :=
  let a := w.shapeOf o.ta
  let b := w.shapeOf o.tbT
  let c := w.shapeOf o.tc
  let k := shapeCols a
  shapeEW a == mmaEW o.fmt && shapeEW b == mmaEW o.fmt && shapeEW c == mmaEC o.fmt && shapeRows a == shapeRows c &&
  (if o.tb then k == shapeCols b && shapeRows b == shapeCols c else k == shapeRows b && shapeCols b == shapeCols c) &&
  k % mmaGroup o.fmt == 0 && (!o.part || k == 32)

/-- The operands of an MMA: A, B as element (k, j), and C as it counts at the start, all as bit patterns. -/
def MmaOp.operands (o : MmaOp) (tick slot : Nat) (w : Wave) : Mat Nat × Mat Nat × Mat Nat :=
  let (m, n, k) := o.dims w
  let ew := 2 ^ mmaEW o.fmt
  (Mat.gen m k fun i x => tileElem tick slot w o.ta ew i x,
   Mat.gen k n fun x j => if o.tb then tileElem tick slot w o.tbT ew j x else tileElem tick slot w o.tbT ew x j,
   Mat.gen m n fun i j => if o.part then 0 else tileElem tick slot w o.tc (2 ^ mmaEC o.fmt) i j)

/-- The result of an MMA: C's patterns and the flags (R102, R103, R267). -/
def MmaOp.compute (o : MmaOp) (a b c : Mat Nat) (m n k : Nat) : Mat Nat × FFlags :=
  if o.fmt = 7 then
    (Mat.gen m n fun i j =>
      let s := ((List.range k).map fun x => intOf 8 true (a.at 0 i x) * intOf 8 true (b.at 0 x j)).sum
      intPat 32 (intOf 32 true (c.at 0 i j) + s), 0)
  else
    let r := Mat.gen m n fun i j =>
      mmaElem (mmaAcc o.fmt) (groupsOf (mmaGroup o.fmt) k ((List.range k).map fun x =>
        (mmaVal o.fmt (a.at 0 i x), mmaVal o.fmt (b.at 0 x j)))) (c.at 0 i j)
    (r.map fun row => row.map (·.1), r.foldl (fun f row => row.foldl (fun g x => g ||| x.2) f) 0)

/-- One line of the checksum test fails (R269): `new` and `old` are the line's elements of C, `prods` its products. -/
def checkFails (tol : FVal) (new old prods : List FVal) : Bool :=
  let ef := (FVal.sum (new ++ old.map FVal.negate)).to32
  let sf := (FVal.sum prods).to32
  let tf := (FVal.sum (old.map FVal.abs ++ prods.map FVal.abs)).to32
  if ef.special || sf.special || tf.special || new.any FVal.isNan || old.any FVal.isNan then false
  else ((tol.mul tf).to32).lt false ((FVal.sum [ef, sf.negate]).to32.abs)

/-- MMATOL's value: NaN and negative values act as +0 (R269). -/
def tolOf (x : Word) : FVal :=
  match fmt32.decode x.toNat with
  | .nan _ => .fin false 0 0
  | .inf s => if s then .fin false 0 0 else .inf false
  | .fin s m e => if s then .fin false 0 0 else .fin false m e

/-- The checksum test of a whole product (R269, R270): the address of the failure's record. -/
def MmaOp.check (o : MmaOp) (tol : Word) (a b old new : Mat Nat) (m n k : Nat) : Option Nat :=
  if o.fmt = 7 then
    let sum (xs : List Int) : Int := xs.sum
    let e (is js : List Nat) := sum (is.flatMap fun i => js.map fun j => intOf 32 true (new.at 0 i j) - intOf 32 true (old.at 0 i j))
    let p (is js : List Nat) := sum (is.flatMap fun i => js.flatMap fun j => (List.range k).map fun x =>
      intOf 8 true (a.at 0 i x) * intOf 8 true (b.at 0 x j))
    let bad (is js : List Nat) := intPat 32 (e is js) != intPat 32 (p is js)
    ((List.range n).find? fun j => bad (List.range m) [j]).or
      (((List.range m).find? fun i => bad [i] (List.range n)).map fun i => 0x80000000 + i)
  else
    let t := tolOf tol
    if t == .inf false then none else
    let f := mmaAcc o.fmt
    let els (c : Mat Nat) (is js : List Nat) := is.flatMap fun i => js.map fun j => f.decode (c.at 0 i j)
    let prods (is js : List Nat) := is.flatMap fun i => js.flatMap fun j => (List.range k).map fun x =>
      (mmaVal o.fmt (a.at 0 i x)).mul (mmaVal o.fmt (b.at 0 x j))
    let bad (is js : List Nat) := checkFails t (els new is js) (els old is js) (prods is js)
    ((List.range n).find? fun j => bad (List.range m) [j]).or
      (((List.range m).find? fun i => bad [i] (List.range n)).map fun i => 0x80000000 + i)

/-- What an MMA does to its wave (R267 to R270): its register writes, and the address of the record if its check fails, with MMATOL as it stands then (log 127). -/
def MmaOp.result (o : MmaOp) (tick slot : Nat) (w : Wave) : List Wr × Option Nat :=
  let (m, n, k) := o.dims w
  let (a, b, c) := o.operands tick slot w
  let r := o.compute a b c m n k
  let ew := 2 ^ mmaEC o.fmt
  ([.t o.tc ((List.range m).flatMap fun i => (List.range n).flatMap fun j => elemBytes ew i j (r.1.at 0 i j)), .fp r.2],
   o.check w.mmatol a b c r.1 m n k)

/-- A COPYC job holds the tile (R279). -/
def State.copycHolds (s : State) (slot t : Nat) : Bool :=
  match s.cores.find (slotCore slot) with
  | some k => k.jobs.any fun j => j.slot == slot && j.state != .stopped && j.tiles.contains t
  | none => false

/-- The next identifier of a job or an MMA of a core. -/
def Core.freshId (k : Core) : Nat := (k.jobs.map (·.id) ++ k.mmas.map (·.id)).foldl (fun m i => max m (i + 1)) 0

/-- The first tile operand of an MMA that holds a poisoned granule (R313). -/
def State.mmaPoison (s : State) (slot : Nat) (w : Wave) (o : MmaOp) : Option Nat :=
  if s.poisonT.isEmpty then none
  else ([o.ta, o.tbT] ++ if o.part then [] else [o.tc]).find? fun t =>
    (shapeBytes (w.shapeOf t)).any fun a => s.poisonT.contains (slot, tileAddr t a / 16)

/-- An MMA instruction: joins the array's queue (R266 to R268). -/
def mma (fmt : Nat) (wf : Bool) (e : UExt) (tc ta tbT : BitVec 3) (part tb : Bool) (s : State) : Out :=
  let n := { Need.tile wf e (nt ta ++ nt tbT) (nt tc) with later := true }
  let o : MmaOp := ⟨fmt, part, tb, tc.toNat, ta.toNat, tbT.toNat⟩
  s.issue n fun c =>
    if !o.fits c.w then s.ownTrap c n .tileShape 0 else
    if s.copycHolds c.slot o.ta || s.copycHolds c.slot o.tbT || s.copycHolds c.slot o.tc then s.stalled else
    match s.mmaPoison c.slot c.w o with
    | some t => s.ownTrap c n .eccUncorrectable (BitVec.ofNat 64 t)
    | none =>
      match s.cores.find (slotCore c.slot) with
      | none => s.stalled
      | some k =>
        let x : Mma := ⟨k.freshId, c.slot, c.entry, c.r.recPc, fmt, part, tb, o.tc, o.ta, o.tbT, false, none⟩
        .next ((s.commit c n [n.flight c (.job k.freshId) []]).modCore (slotCore c.slot) fun k' => { k' with mmas := k'.mmas ++ [x] })

/-! ## SCACC and QUANT -/

/-- A value scaled by 2^(a − 127) × 2^(b − 127) (R103). -/
def scaled (p : FVal) (a b : Nat) : FVal :=
  match p with
  | .fin s m e => .fin s m (e + a + b - 254)
  | v => v

/-- The shape conditions of SCACC (R271). -/
def scaccFits (w : Wave) (tc tp ts : Nat) (bit : Bool) (ra rb : Nat) : Bool :=
  let c := w.shapeOf tc
  let p := w.shapeOf tp
  let x := w.shapeOf ts
  shapeEW c == 2 && shapeEW p == 2 && shapeRows c == shapeRows p && shapeCols c == shapeCols p &&
  (!bit || (shapeEW x == 0 && decide (max ra rb < shapeRows x) && decide (max (shapeRows c) (shapeCols c) ≤ shapeCols x)))

/-- SCACC's writes (R103). -/
def scaccWrites (tick slot : Nat) (w : Wave) (tc tp ts : Nat) (bit : Bool) (ra rb : Nat) : List Wr :=
  let m := shapeRows (w.shapeOf tc)
  let n := shapeCols (w.shapeOf tc)
  let r := Mat.gen m n fun i j =>
    let a := tileElem tick slot w ts 1 ra i
    let b := tileElem tick slot w ts 1 rb j
    let g : FVal := if !bit then .fin false 0 0 else if a = 255 ∨ b = 255 then .nan false
      else scaled (fmt32.decode (tileElem tick slot w tp 4 i j)) a b
    accAdd fmt32 (tileElem tick slot w tc 4 i j) g
  [.t tc ((List.range m).flatMap fun i => (List.range n).flatMap fun j => elemBytes 4 i j (r.at (0, 0) i j).1),
   .fp (r.foldl (fun f row => row.foldl (fun g x => g ||| x.2) f) 0)]

/-- The shape conditions of QUANT (R272). -/
def quantFits (w : Wave) (td ts tq : Nat) (col : Bool) (r : Nat) : Bool :=
  let x := w.shapeOf ts
  let d := w.shapeOf td
  let q := w.shapeOf tq
  let nb := (if col then shapeRows x else shapeCols x) / 32
  shapeEW x == 2 && (if col then shapeRows x == 32 || shapeRows x == 64 else shapeCols x % 32 == 0) &&
  shapeEW d == 0 && shapeRows d == shapeRows x && shapeCols d == shapeCols x &&
  shapeEW q == 0 && decide (r + nb ≤ shapeRows q) && decide ((if col then shapeCols x else shapeRows x) ≤ shapeCols q)

/-- QUANT's writes (R101, R272): blocks of 32 along rows, or along columns with .COL; where tD and tQ are one tile, the codes last (log 109). -/
def quantWrites (tick slot : Nat) (w : Wave) (fmt td ts tq : Nat) (col : Bool) (r : Nat) : List Wr :=
  let x := w.shapeOf ts
  let lines := if col then shapeCols x else shapeRows x
  let nb := (if col then shapeRows x else shapeCols x) / 32
  let place (l k : Nat) : Nat × Nat := if col then (k, l) else (l, k)
  let blocks := (List.range lines).flatMap fun l => (List.range nb).map fun b => (l, b)
  let res := blocks.map fun p =>
    (p, quantBlock fmt ((List.range 32).map fun k =>
      let q := place p.1 (32 * p.2 + k)
      BitVec.ofNat 32 (tileElem tick slot w ts 4 q.1 q.2)))
  [.t td (res.flatMap fun z => (z.2.2.1.zipIdx).flatMap fun y =>
      let q := place z.1.1 (32 * z.1.2 + y.2)
      elemBytes 1 q.1 q.2 y.1),
   .t tq (res.flatMap fun z => elemBytes 1 (r + z.1.2) z.1.1 z.2.1),
   .fp (res.foldl (fun f z => f ||| z.2.2.2) 0)]

/-- MMA.F64 (R266). -/
def execMmaF64 (e : UExt) (c a b : BitVec 3) (part tb : Bool) (s : State) : Out :=
  mma 0 (e.wf && absent e.x (!part && !tb) && !part) e c a b part tb s

/-- MMA.F32 (R266). -/
def execMmaF32 (e : UExt) (c a b : BitVec 3) (part tb : Bool) (s : State) : Out :=
  mma 1 (e.wf && absent e.x (!part && !tb) && !part) e c a b part tb s

/-- MMA.F16 (R266). -/
def execMmaF16 (e : UExt) (c a b : BitVec 3) (part tb : Bool) (s : State) : Out :=
  mma 2 (e.wf && absent e.x (!part && !tb) && !part) e c a b part tb s

/-- MMA.BF16 (R266). -/
def execMmaBf16 (e : UExt) (c a b : BitVec 3) (part tb : Bool) (s : State) : Out :=
  mma 3 (e.wf && absent e.x (!part && !tb) && !part) e c a b part tb s

/-- MMA.E4M3 (R266). -/
def execMmaE4m3 (e : UExt) (c a b : BitVec 3) (part tb : Bool) (s : State) : Out :=
  mma 4 (e.wf && absent e.x (!part && !tb)) e c a b part tb s

/-- MMA.E5M2 (R266). -/
def execMmaE5m2 (e : UExt) (c a b : BitVec 3) (part tb : Bool) (s : State) : Out :=
  mma 5 (e.wf && absent e.x (!part && !tb)) e c a b part tb s

/-- MMA.DS8 (R266). -/
def execMmaDs8 (e : UExt) (c a b : BitVec 3) (part tb : Bool) (s : State) : Out :=
  mma 6 (e.wf && absent e.x (!part && !tb)) e c a b part tb s

/-- MMA.I8 (R266). -/
def execMmaI8 (e : UExt) (c a b : BitVec 3) (part tb : Bool) (s : State) : Out :=
  mma 7 (e.wf && absent e.x (!part && !tb) && !part) e c a b part tb s

/-- SCACC: adds a block of partial sums, scaled (R103, R271). -/
def execScacc (e : UExt) (c a b q : BitVec 3) (neg : Bool) (ra rb : BitVec 6) (s : State) : Out :=
  let n := { Need.tile (e.wf && (absent e.x (q == 0 && !neg && ra == 0 && rb == 0))) e (nq q) (nt c) with later := true, names := nt a ++ nt b }
  s.issue n fun x =>
    let bit := x.q q != neg
    let tc := c.toNat
    let tp := a.toNat
    let ts := b.toNat
    if !scaccFits x.w tc tp ts bit ra.toNat rb.toNat then s.ownTrap x n .tileShape 0 else
    if s.tileBusy x.slot tc true || s.tileBusy x.slot tp false || s.tileBusy x.slot ts false then s.stalled else
    match (s.tilePoison x tc (shapeBytes (x.w.shapeOf tc))).or (if bit then
        (s.tilePoison x tp (shapeBytes (x.w.shapeOf tp))).or (s.tilePoison x ts (addrs (256 * ra.toNat) 256 ++ addrs (256 * rb.toNat) 256)) else none) with
    | some k => s.ownTrap x n k.1 k.2
    | none => .next (s.defer x n (scaccWrites s.tick x.slot x.w tc tp ts bit ra.toNat rb.toNat))

/-- QUANT: block-scaled quantisation (R101, R272). -/
def execQuant (e : UExt) (c a b : BitVec 3) (fmt : BitVec 4) (col : Bool) (r : BitVec 6) (s : State) : Out :=
  let n := { Need.tile (e.wf && (absent e.x (fmt == 0 && !col && r == 0)) && decide (4 ≤ fmt.toNat) && decide (fmt.toNat ≤ 6)) e [] (nt c ++ nt b) with later := true, names := nt a }
  s.issue n fun x =>
    let td := c.toNat
    let ts := a.toNat
    let tq := b.toNat
    if !quantFits x.w td ts tq col r.toNat then s.ownTrap x n .tileShape 0 else
    if s.tileBusy x.slot td true || s.tileBusy x.slot tq true || s.tileBusy x.slot ts false then s.stalled else
    match s.tilePoison x ts (shapeBytes (x.w.shapeOf ts)) with
    | some k => s.ownTrap x n k.1 k.2
    | none => .next (s.defer x n (quantWrites s.tick x.slot x.w fmt.toNat td ts tq col r.toNat))

end Sys2Proof.Machine
end

