-- ==== Sys2Proof/Machine/Copy.lean ====
section
/-! DEFINITION. Copy and step-cache instructions: uniform OP 0x0D (R249 to R254, R273 to R282). They hand jobs to the core's
copy engine; the steps of the jobs are in CopyEvents. -/

namespace Sys2Proof.Machine

/-! ## Job cards -/

/-- A little-endian field of bytes. -/
def field (bs : List Byte) (at_ n : Nat) : Nat := leNat ((bs.drop at_).take n)

/-- The fields of a job card (R273). -/
structure Card where
  src  : DWord
  dst  : DWord
  rows : Nat
  rowb : Nat
  sstr : Nat
  dstr : Nat
  sk   : Nat
  dk   : Nat
  bar  : Nat
  lay  : Nat
  flg  : Nat
  zero : Nat
  faddr : Word
  fval : DWord
  ext  : DWord
deriving DecidableEq, Repr

/-- Cuts a card into its fields. -/
def Card.of (bs : List Byte) : Card :=
  { src := BitVec.ofNat 64 (field bs 0 8), dst := BitVec.ofNat 64 (field bs 8 8), rows := field bs 16 4, rowb := field bs 20 4,
    sstr := field bs 24 4, dstr := field bs 28 4, sk := field bs 32 1, dk := field bs 33 1, bar := field bs 34 1,
    lay := field bs 35 1, flg := field bs 36 1, zero := field bs 37 3 + field bs 44 4, faddr := BitVec.ofNat 32 (field bs 40 4),
    fval := BitVec.ofNat 64 (field bs 48 8), ext := BitVec.ofNat 64 (field bs 56 8) }

/-- What every card must meet, and the ranges of ROWS and ROWB (R273). -/
def Card.common (c : Card) : Bool :=
  decide (c.sk < 2) && decide (c.dk < 2) && decide (c.bar < 32) && decide (c.lay < 16) && decide (c.flg < 2) && c.zero == 0
def Card.rowsOk (c : Card) : Bool :=
  decide (1 ≤ c.rows) && decide (c.rows ≤ 65536) && decide (1 ≤ c.rowb) && decide (c.rowb ≤ 2 ^ 20)

/-- A vault address in a card has its upper half 0 (R273). -/
def cardEA (g : Nat) (a : DWord) : Bool := g == 1 || hiWord a == 0

/-- The follow-on MMA of a COPYC (R275). -/
def mmaOf (ext : DWord) : MmaOp :=
  ⟨pteField ext 12 4, ext.getLsbD 16, ext.getLsbD 17, pteField ext 3 3, pteField ext 6 3, pteField ext 9 3⟩

/-- The card is well formed for its instruction (R274 to R276). -/
def Card.wellFormed (k : JobKind) (c : Card) : Bool :=
  c.common && match k with
  | .copy => cardEA c.sk c.src && cardEA c.dk c.dst && c.rowsOk && c.lay == 0 && c.ext == 0
  | .copyl => cardEA c.sk c.src && cardEA 0 c.dst && c.dk == 0 && c.rowsOk && decide (8 ≤ c.lay) && c.ext == 0
  | .copyc =>
    cardEA c.sk c.src && c.dst == 0 && c.dk == 0 && c.rows == 0 && c.rowb == 0 && c.dstr == 0 && c.lay == 0 &&
    pteField c.ext 18 46 == 0 && decide ((mmaOf c.ext).fmt < 8) &&
    (!(mmaOf c.ext).part || (decide (4 ≤ (mmaOf c.ext).fmt) && decide ((mmaOf c.ext).fmt ≤ 6)))
  | .tstg =>
    c.src == 0 && c.sk == 0 && c.dk == 1 && c.rows == 0 && c.rowb == 0 && c.sstr == 0 && c.lay == 0 &&
    pteField c.ext 13 19 == 0 && decide (pteField c.ext 0 4 < 13) && decide (pteField c.ext 4 4 < 13) && decide (pteField c.ext 8 3 < 5)
  | _ => true

/-- The element width that a CVT code needs (R276). -/
def cvEW (c : Nat) : Nat := match cvBytes c with
  | 8 => 3
  | 4 => 2
  | 2 => 1
  | _ => 0

/-- The tiles that the card names are declared and their shapes fit (R275, R276). -/
def Card.tilesFit (k : JobKind) (c : Card) (w : Wave) (tile : Nat) : Bool :=
  match k with
  | .copyc => decide (pteField c.ext 0 3 < w.ntiles) && decide ((mmaOf c.ext).tc < w.ntiles) && decide ((mmaOf c.ext).ta < w.ntiles) &&
      decide ((mmaOf c.ext).tbT < w.ntiles) && (mmaOf c.ext).fits w
  | .tstg => shapeEW (w.shapeOf tile) == cvEW (pteField c.ext 0 4)
  | _ => true

/-- ROWS and ROWB of the job: the card's, or those of the tile (R275, R276). -/
def Card.size (k : JobKind) (c : Card) (w : Wave) (tile : Nat) : Nat × Nat :=
  match k with
  | .copyc => (shapeRows (w.shapeOf (pteField c.ext 0 3)), shapeRB (w.shapeOf (pteField c.ext 0 3)))
  | .tstg => (shapeRows (w.shapeOf tile), shapeCols (w.shapeOf tile) * cvBytes (pteField c.ext 4 4))
  | _ => (c.rows, c.rowb)

/-- Two EAs have one address form (R131, R277). -/
def sameForm (a b : Word) : Bool := a.getLsbD 31 == b.getLsbD 31 && (!a.getLsbD 31 || a.getLsbD 30 == b.getLsbD 30)

/-- The first and the last byte of a vault range pass R131 in one address form; else the failing EA (R277). -/
def State.rangeTrap (s : State) (c : Ctx) (base : Word) (last : Nat) (write : Bool) : Option (Cause × DWord) :=
  let e := base.toNat + last
  if (s.vaultEA c.co c.la base write).isNone then some (.vaultBound, base.zeroExtend 64)
  else if 2 ^ 32 ≤ e ∨ !sameForm base (BitVec.ofNat 32 e) ∨ (s.vaultEA c.co c.la (BitVec.ofNat 32 e) write).isNone then
    some (.vaultBound, BitVec.ofNat 64 (e % 2 ^ 32))
  else none

/-- The first and the last byte of a global range are canonical (R277). -/
def globalTrap (base : DWord) (last : Nat) : Option (Cause × DWord) :=
  if !canonical base then some (.xlatePerm, base)
  else if 2 ^ 64 ≤ base.toNat + last ∨ !canonical (base + BitVec.ofNat 64 last) then some (.xlatePerm, base + BitVec.ofNat 64 last)
  else none

/-- Some row of a strided range meets [lo, hi). -/
def rowHit (base stride rows w lo hi : Nat) : Bool :=
  if stride = 0 then decide (base < hi) && decide (lo < base + w)
  else
    let r := if lo < base + w then 0 else (lo - base - w) / stride + 1
    decide (r < rows) && decide (base + r * stride < hi)

/-- A byte lies in the rows of a range, through the swizzle of a layout (R258, R280). -/
def inRows (base stride rows w : Nat) (lay : BitVec 4) (a : Nat) : Bool :=
  decide (base ≤ a) && (let o := swizzle lay (a - base); rowHit 0 stride rows w o (o + 1))

/-- Two ranges of a linear space share a byte. -/
def rangesMeet (src sstr dst dstr rows w : Nat) (lay : BitVec 4) : Bool :=
  (List.range rows).any fun r =>
    if lay.getLsbD 3 then (addrs (src + r * sstr) w).any (inRows dst dstr rows w lay)
    else rowHit dst dstr rows w (src + r * sstr) (src + r * sstr + w)

/-- The EAs of each form that reach a vault byte (R131). -/
def State.easOf (s : State) (co : Cohort) (la : Launch) (va : Nat) : List Nat :=
  (if co.winBase ≤ va then [va - co.winBase] else []) ++
  ((List.range la.clsz).filterMap fun m =>
    match s.cohorts.find (cohortKey co.launch (la.clusterOf co.index * la.clsz + m)) with
    | some d => if d.winBase ≤ va ∧ va < d.winBase + 2 ^ 26 then some (2 ^ 31 + m * 2 ^ 26 + (va - d.winBase)) else none
    | none => none) ++
  if va / Config.vaultSpan / 64 = co.die then [3 * 2 ^ 30 + va % (64 * Config.vaultSpan)] else []

/-- A vault byte lies in the rows of a range of EAs (R131, R280). -/
def State.inVaultRows (s : State) (co : Cohort) (la : Launch) (base stride rows w : Nat) (lay : BitVec 4) (va : Nat) : Bool :=
  (s.easOf co la va).any fun ea => decide (ea / 2 ^ 30 = base / 2 ^ 30 ∨ (ea < 2 ^ 31 ∧ base < 2 ^ 31)) && inRows base stride rows w lay ea

/-- An EA of the cluster form (R131). -/
def clusterEA (ea : Nat) : Bool := ea / 2 ^ 30 == 2

/-- Two ranges of EAs share a vault byte after the cluster map (R131, R280). The own-window and the die-absolute form are linear. -/
def State.vaultsMeet (s : State) (co : Cohort) (la : Launch) (src sstr dst dstr rows w : Nat) (lay : BitVec 4) : Bool :=
  if clusterEA src || clusterEA dst then (List.range rows).any fun r => (addrs (src + r * sstr) w).any fun ea =>
    match s.vaultAt co la ea with
    | some va => s.inVaultRows co la dst dstr rows w lay va
    | none => false
  else rangesMeet ((s.vaultAt co la src).getD 0) sstr ((s.vaultAt co la dst).getD 0) dstr rows w lay

/-- Units of 128 bytes that a TSTG stages (R281). -/
def stagingUnits (rows rowb : Nat) : Nat := (rows * rowb + 127) / 128

/-- The engine has no free job slot, or for a TSTG no staging space (R10, R277). -/
def Core.engineFull (k : Core) (need : Nat) : Bool :=
  decide (Config.jobSlots ≤ k.jobs.length) ||
  decide (Config.stagingBytes / 128 < need + ((k.jobs.filter fun j => j.kind == .tstg).map fun j => stagingUnits j.rows j.rowb).sum)

/-- A tile that the job will use is still to be written or read by an earlier instruction of the wave (R260). -/
def State.jobTilesBusy (s : State) (c : Ctx) (k : JobKind) (card : Card) (tile : Nat) : Bool :=
  let flying (t : Nat) := c.r.flights.any fun f => f.state != .done && f.names (.t t)
  match k with
  | .copyc =>
    s.tileBusy c.slot (pteField card.ext 0 3) true || s.tileBusy c.slot (mmaOf card.ext).tc true ||
    s.tileBusy c.slot (mmaOf card.ext).ta false || s.tileBusy c.slot (mmaOf card.ext).tbT false ||
    [pteField card.ext 0 3, (mmaOf card.ext).tc, (mmaOf card.ext).ta, (mmaOf card.ext).tbT].any flying
  | .tstg => s.tileBusy c.slot tile false
  | _ => false

/-- The first trap of a card after its address (R277, steps 3 to 7). A flag address that is not a multiple of 8 (R273) traps ALIGN after the ranges where
FLG is 1, before a swizzled base that is not aligned, and nothing where FLG is 0 (log 108). -/
def State.cardTrap (s : State) (c : Ctx) (k : JobKind) (card : Card) (cardAt : Word) (tile : Nat) : Option (Cause × DWord) :=
  let (rows, rowb) := card.size k c.w tile
  let srcLast := (rows - 1) * card.sstr + rowb - 1
  let dstLast := (rows - 1) * card.dstr + rowb - 1
  let srcV := card.sk == 0 && k != .tstg
  let dstV := card.dk == 0 && k != .copyc
  let flag := card.flg == 1
  let lay : BitVec 4 := BitVec.ofNat 4 card.lay
  let when_ (b : Bool) (x : Option (Cause × DWord)) := if b then x else none
  (when_ (!card.wellFormed k) (some (.illegalOp, 0))).or <|
  (when_ (!card.tilesFit k c.w tile) (some (.tileShape, 0))).or <|
  (when_ srcV (s.rangeTrap c (loWord card.src) srcLast false)).or <|
  (when_ dstV (s.rangeTrap c (loWord card.dst) dstLast true)).or <|
  (s.rangeTrap c card.faddr 7 flag).or <|
  (when_ (flag && card.faddr.toNat % 8 != 0) (some (.align, card.faddr.zeroExtend 64))).or <|
  (when_ (lay.getLsbD 3 && card.dst.toNat % 128 != 0) (some (.align, card.dst))).or <|
  (when_ (card.sk == 1) (globalTrap card.src srcLast)).or <|
  (when_ (card.dk == 1) (globalTrap card.dst dstLast)).or <|
  when_ (k != .copyc && ((decide (1 < rows) && decide (card.dstr < rowb)) ||
      (srcV && dstV && s.vaultsMeet c.co c.la card.src.toNat card.sstr card.dst.toNat card.dstr rows rowb lay) ||
      (card.sk == 1 && card.dk == 1 && rangesMeet (va56 card.src) card.sstr (va56 card.dst) card.dstr rows rowb lay)))
    (some (.footprint, cardAt.zeroExtend 64))

/-- The job of a card that has passed its checks. -/
def State.jobOf (s : State) (c : Ctx) (k : JobKind) (card : Card) (tile id : Nat) : Job :=
  let (rows, rowb) := card.size k c.w tile
  { id := id, kind := k, state := .handed, slot := c.slot, widx := c.w.widx, cohort := c.w.cohort, strand := c.entry, pc := c.r.recPc,
    key := c.r.key, num := c.w.issued,
    src := if card.sk = 1 then va56 card.src else card.src.toNat,
    dst := if card.dk = 1 then va56 card.dst else card.dst.toNat,
    srcG := card.sk == 1, dstG := card.dk == 1, rows := rows, rowb := rowb, sstr := card.sstr,
    dstr := if k = .copyc then 256 else card.dstr, layout := BitVec.ofNat 4 card.lay,
    bar := if 16 ≤ card.bar then some (card.bar % 16) else none,
    flag := if card.flg = 1 then some (card.faddr.toNat, card.fval) else none,
    ext := card.ext, tile := if k = .copyc then pteField card.ext 0 3 else tile, staged := [], prog := 0, begun := 0, left := [],
    theta := 0, step := 0, entry := 0, fmt := 0, count := 0, phase := 0, hit := false, buf := [], head := none, race := false, use := 0, after := [] }

/-- Reads a descriptor of `n` bytes from the own window, or the trap of its address (R251, R277, R282, R313). -/
def State.descriptor (s : State) (c : Ctx) (ea : Word) (n : Nat) : Except (Cause × DWord) (List Byte) :=
  match vaultCheck [0] (fun _ => ea) (ownEA c.co) n with
  | some t => .error t
  | none =>
    let va := (ownEA c.co ea).getD 0
    if s.poisonedV va n then .error (.eccUncorrectable, ea.zeroExtend 64) else .ok (s.vaultBytes va n)

/-- COPY, COPYL, COPYC and TSTG (R277). One that stalls for a slot, staging space or tiles reads and checks its card anew when it is tried again (log 111). -/
def copyJob (k : JobKind) (wf : Bool) (e : UExt) (a : BitVec 6) (tile : Option (BitVec 3)) (off : BitVec 20) (s : State) : Out :=
  let n := { Need.tile wf e (ns a) [] with
    mem := true,
    names := match tile with
      | some t => nt t
      | none => [],
    hold := fun s c => match ownEA c.co (eaUni (c.s a) off) with
      | some va => entryBusy (c.w.visible c.r.key c.w.issued) va 64
      | none => false }
  s.issue n fun c =>
    let ea := eaUni (c.s a) off
    let t := match tile with
      | some t => t.toNat
      | none => 0
    match s.descriptor c ea 64 with
    | .error k => s.ownTrap c n k.1 k.2
    | .ok bs =>
      let card := Card.of bs
      match s.cardTrap c k card ea t with
      | some x => s.ownTrap c n x.1 x.2
      | none =>
        match s.cores.find (slotCore c.slot) with
        | none => s.stalled
        | some core =>
          let sz := card.size k c.w t
          if s.jobTilesBusy c k card t || core.engineFull (if k = .tstg then stagingUnits sz.1 sz.2 else 0) then s.stalled
          else
            let u := (s.commit c n []).modCore (slotCore c.slot) fun x => { x with jobs := x.jobs ++ [s.jobOf c k card t core.freshId] }
            .next (if k = .tstg then u.waitFor c (.capture core.freshId) else u)

/-! ## Step descriptors -/

/-- Bytes of an element of a step-cache format (R249). -/
def stepSize (fmt : Nat) : Nat := if fmt = 0 then 4 else 2

/-- S and P of a descriptor (R249). -/
def stepBytes (fmt count : Nat) : Nat := count * stepSize fmt
def stepPad (fmt count : Nat) : Nat := roundUp (stepBytes fmt count) 128

/-- Translates every page of a range: a permission failure, the pages whose walks are pending, or neither (R143, R144, R251). -/
def rangePages (look : Nat → Option Trans) : (fuel : Nat) → (a n : Nat) → Except Nat (List Nat)
  | 0, _, _ => .ok []
  | k + 1, a, n =>
    if n = 0 then .ok [] else
    match look a with
    | none =>
      let m := min n (65536 - a % 65536)
      match rangePages look k (a + m) (n - m) with
      | .error x => .error x
      | .ok ps => .ok (a :: ps)
    | some t =>
      if !t.r || !t.w then .error a else
      let m := min n (t.vbase + t.size - a)
      rangePages look k (a + m) (n - m)

/-- The traps of a step descriptor (R251, steps 3 and 4). The record of a malformed one has ADDR 0 (log 124). -/
def State.stepTrap (s : State) (c : Ctx) (chk : Bool) (bs : List Byte) : Option (Cause × DWord) :=
  let inA : Word := BitVec.ofNat 32 (field bs 0 4)
  let outA : Word := BitVec.ofNat 32 (field bs 4 4)
  let count := field bs 8 4
  let fmt := field bs 12 1
  let size := stepBytes fmt count
  let entry : DWord := BitVec.ofNat 64 (field bs 24 8)
  if 2 < fmt ∨ count = 0 ∨ 2 ^ 20 < count ∨ field bs 13 3 ≠ 0 then some (.illegalOp, 0) else
  (s.rangeTrap c inA (size - 1) false).or <|
  (s.rangeTrap c outA (size - 1) chk).or <|
  if inA.toNat % 16 ≠ 0 then some (.align, inA.zeroExtend 64)
  else if outA.toNat % 16 ≠ 0 then some (.align, outA.zeroExtend 64)
  else if entry.toNat % 128 ≠ 0 then some (.align, entry)
  else globalTrap entry (128 + 2 * stepPad fmt count - 1)

/-- STEPCHK and STEPREC (R251, R254): one job whose destination is qD. -/
def stepJob (chk wf : Bool) (e : UExt) (q : BitVec 3) (a : BitVec 6) (s : State) : Out :=
  let n := { Need.tile wf e (ns a) (dq q) with later := true, mem := true }
  s.issue n fun c =>
    let ea := loWord (c.s a)
    if entryBusy (c.w.visible c.r.key c.w.issued) ((ownEA c.co ea).getD 0) 32 && (ownEA c.co ea).isSome then s.stalled else
    match s.descriptor c ea 32 with
    | .error k => s.ownTrap c n k.1 k.2
    | .ok bs =>
      match s.stepTrap c chk bs with
      | some x => s.ownTrap c n x.1 x.2
      | none =>
        let count := field bs 8 4
        let fmt := field bs 12 1
        let entry : DWord := BitVec.ofNat 64 (field bs 24 8)
        match rangePages (s.tlbOf c) 300 (va56 entry) (128 + 2 * stepPad fmt count) with
        | .error v => s.ownTrap c n .xlatePerm (entry + BitVec.ofNat 64 (v - va56 entry))
        | .ok (p :: ps) => .next (s.parkStrand c c.r.mask c.r.mask (dva p) ((p :: ps).map fun x => (x, x)) true true true)
        | .ok [] =>
          match s.cores.find (slotCore c.slot) with
          | none => s.stalled
          | some core =>
            if core.engineFull 0 then s.stalled else
            let j : Job :=
              { id := core.freshId, kind := if chk then .stepchk else .steprec, state := .handed, slot := c.slot, widx := c.w.widx, cohort := c.w.cohort,
                strand := c.entry, pc := c.r.recPc, key := c.r.key, num := c.w.issued, src := field bs 0 4, dst := field bs 4 4, srcG := false,
                dstG := false, rows := 1, rowb := stepBytes fmt count, sstr := 0, dstr := 0, layout := 0, bar := none, flag := none,
                ext := 0, tile := q.toNat, staged := [], prog := 0, begun := 0, left := [], theta := BitVec.ofNat 32 (field bs 16 4),
                step := BitVec.ofNat 32 (field bs 20 4), entry := va56 entry, fmt := fmt, count := count, phase := 0, hit := false, buf := [], head := none, race := false,
                use := s.nextPart, after := c.w.precede c.r.key c.w.issued c.r.covers c.r.jm }
            .next (((s.commit c n [n.flight c (.job core.freshId) []]).takeIds 1).modCore (slotCore c.slot) fun x => { x with jobs := x.jobs ++ [j] })

/-- COPY: moves rows between vaults and global memory (R277, R278). -/
def execCopy (e : UExt) (a : BitVec 6) (off : BitVec 20) (s : State) : Out :=
  copyJob .copy (e.wf && (absent e.x (off == 0))) e a none off s

/-- COPYC: copies rows into a tile and hands an MMA to the array (R277, R279). -/
def execCopyc (e : UExt) (a : BitVec 6) (off : BitVec 20) (s : State) : Out :=
  copyJob .copyc (e.wf && (absent e.x (off == 0))) e a none off s

/-- COPYL: copies rows into a swizzled area (R277, R278). -/
def execCopyl (e : UExt) (a : BitVec 6) (off : BitVec 20) (s : State) : Out :=
  copyJob .copyl (e.wf && (absent e.x (off == 0))) e a none off s

/-- TSTG: converts a tile and stores it to global memory (R277, R281). -/
def execTstg (e : UExt) (a : BitVec 6) (t : BitVec 3) (off : BitVec 20) (s : State) : Out :=
  copyJob .tstg (e.wf && (absent e.x (off == 0))) e a (some t) off s

/-- STEPCHK (R251, R252). -/
def execStepchk (e : UExt) (q : BitVec 3) (a : BitVec 6) (s : State) : Out :=
  stepJob true (e.wf) e q a s

/-- STEPREC (R251, R253). -/
def execSteprec (e : UExt) (q : BitVec 3) (a : BitVec 6) (s : State) : Out :=
  stepJob false (e.wf) e q a s

end Sys2Proof.Machine
end

