-- ==== Sys2Proof/Machine/Regions.lean ====
section
/-! DEFINITION. Arrival regions: uniform OP 0x10 (R241 to R248). -/

namespace Sys2Proof.Machine

/-- The arrival unit of a die (R11, R192). -/
def State.arrival (s : State) (die : Nat) : Arrival := (s.arrivals.find die).getD ⟨[], [], []⟩

/-- The generation of an entry (R244). -/
def Arrival.gen (a : Arrival) (k : Nat) : Word := (a.gens.find k).getD 0

/-- The handle of an armed entry (R244). -/
def handleOf (die k : Nat) (gen : Word) : DWord := BitVec.ofNat 64 (k + die * 2 ^ 10 + gen.toNat * 2 ^ 16)

/-- The result of a refused RARM (R244). -/
def refusedArm (reason : Nat) : DWord := BitVec.ofNat 64 (2 ^ 63 + reason)

/-- The entry that a handle names, if it is valid for the launch (R247): die and entry. A value with a bit set in [63:48] or [15:12] is stale (log 123). -/
def State.handle (s : State) (launch : Nat) (h : DWord) : Option (Nat × Nat × Region) :=
  let die := pteField h 10 2
  let k := pteField h 0 10
  match (s.arrival die).entries.find k with
  | some r => if r.launch = launch ∧ h = handleOf die k ((s.arrival die).gen k) then some (die, k, r) else none
  | none => none

/-- Frees an entry and advances its generation (R248). -/
def Arrival.free (a : Arrival) (k : Nat) : Arrival :=
  { a with entries := a.entries.del k, gens := a.gens.put k (a.gen k + 1) }

/-- The entry's action is enabled (R246). -/
def Region.enabled (r : Region) : Bool := !r.spent && decide (r.total ≤ r.count)

/-- The descriptor is malformed (R241, R242, R244): a reserved field, KIND, TOTAL or LENGTH, or a packet address that is not aligned. -/
def regionBad (bs : List Byte) : Bool :=
  let kind := field bs 20 1
  let a0 := field bs 24 8
  let a1 := field bs 32 8
  decide (4 < kind) || field bs 8 6 == 0 || field bs 14 2 != 0 || field bs 16 4 == 0 || decide (2 ≤ field bs 21 1) || field bs 22 2 != 0 ||
  field bs 40 24 != 0 || match kind with
  | 0 => decide (16 ≤ a0) || a1 != 0
  | 1 => decide (256 ≤ a0) || a1 != 0
  | 2 => decide (2 ^ 32 ≤ a0) || a1 != 0
  | 3 => decide (2 ^ 32 ≤ a0)
  | _ => decide (256 ≤ a0) || a1 % 64 != 0

/-- What resolving the action of a descriptor comes to (R243). -/
inductive Resolved where
  | trap (cause : Cause) (addr : DWord)
  /-- Pages whose walks are pending, and the address that needs them. -/
  | miss (pages : List Nat) (va : DWord)
  | refused (reason : Nat)
  | ok (t : Trans) (action : Action)
deriving DecidableEq, Repr

/-- Step 6: the vault address of TASK and FLAG, and what the action is (R242, R243). -/
def State.regionAction (s : State) (c : Ctx) (bs : List Byte) (ps : List Piece) (t : Trans) : Resolved :=
  let ea : Word := BitVec.ofNat 32 (field bs 24 4)
  match field bs 20 1 with
  | 0 => .ok t (.arrive c.w.cohort (field bs 24 8))
  | 1 => .ok t (.release c.co.launch (field bs 24 8))
  | 2 =>
    match vaultCheck [0] (fun _ => ea) (ownEA c.co) 64 with
    | some x => .trap x.1 x.2
    | none =>
      let va := (ownEA c.co ea).getD 0
      if s.poisonedV va 64 then .trap .eccUncorrectable (ea.zeroExtend 64) else .ok t (.task c.w.cohort (s.vaultBytes va 64))
  | 3 =>
    match vaultCheck [0] (fun _ => ea) (fun x => s.vaultEA c.co c.la x true) 8 with
    | some x => .trap x.1 x.2
    | none =>
      let va := (s.vaultEA c.co c.la ea true).getD 0
      match s.cohorts.find? fun e => !e.2.freed && !e.2.preempted && decide (e.2.winBase ≤ va) && decide (va < e.2.winBase + e.2.wsize) with
      | none => .refused 6
      | some e => .ok t (.flag (some e.1) (va - e.2.winBase) (BitVec.ofNat 64 (field bs 32 8)))
  | _ => .ok t (.launch (field bs 24 8) ps)

/-- Steps 4 to 6 of RARM (R243). -/
def State.resolve (s : State) (c : Ctx) (bs : List Byte) : Resolved :=
  let kind := field bs 20 1
  let base : DWord := BitVec.ofNat 64 (field bs 0 8)
  let packet : DWord := BitVec.ofNat 64 (field bs 32 8)
  let group := c.la.groups.find (field bs 24 8)
  let queues := (s.parts.find c.la.part).any fun p => (p.queues.find (field bs 24 8)).isSome
  let look := s.tlbOf c
  if kind = 1 ∧ !(c.la.persistent && group.any fun g => g.valid && g.rwait) then .refused 4
  else if kind = 4 ∧ !queues then .refused 5
  else if !canonical base then .trap .xlatePerm base else
  match splitPages look base 1 true false with
  | .perm va => .trap .xlatePerm va
  | .pending pages va => .miss pages va
  | .ok _ [] => .refused 2
  | .ok _ (p :: _) =>
    let home := if s.selfChip = some (p.pa / 2 ^ 48) then (homeOf p.pa).map homeDie else none
    let act (ps : List Piece) : Resolved :=
      if p.t.vbase + p.t.size < va56 base + field bs 16 4 ∨ home ≠ some c.co.die then .refused 2 else s.regionAction c bs ps p.t
    if kind ≠ 4 then act []
    else if !canonical packet ∨ !canonical (packet + 127) then .trap .xlatePerm packet
    else match splitPages look packet 128 true false with
      | .perm va => .trap .xlatePerm va
      | .pending pages va => .miss pages va
      | .ok _ ps => act ps

/-- Pages that a translation still needs, with the address that needs them (R144). -/
def missPages (pages : List Nat) (va : DWord) : List (Nat × Nat) := pages.map fun page => (page, va56 va)

/-- RARM: arms a region, or refuses with a reason (R243, R244). -/
def execRarm (e : UExt) (d a : BitVec 6) (off : BitVec 20) (s : State) : Out :=
  let n := { Need.ofUni (e.wf && (absent e.x (off == 0))) e (ns a) (ns d) with later := true, mem := true }
  s.issue n fun c =>
    let ea := eaUni (c.s a) off
    let answer (t : State) (x : DWord) : Out := .next (t.defer c n (wrS d x))
    match vaultCheck [0] (fun _ => ea) (ownEA c.co) 64 with
    | some t => s.ownTrap c n t.1 t.2
    | none =>
      if s.unperformed c 2 then s.stalled else
      match s.descriptor c ea 64 with
      | .error t => s.ownTrap c n t.1 t.2
      | .ok bs =>
        if regionBad bs then answer s (refusedArm 3) else
        match s.resolve c bs with
        | .trap k x => s.ownTrap c n k x
        | .miss pages va => .next (s.parkStrand c c.r.mask c.r.mask va (missPages pages va) true false)
        | .refused k => answer s (refusedArm k)
        | .ok t action =>
          let u := s.arrival c.co.die
          let free := (List.range Config.regionEntries).filter fun k => (u.entries.find k).isNone
          match free[Config.freeEntry s.tick c.co.die % free.length]? with
          | none => answer s (refusedArm 1)
          | some k =>
            let r : Region :=
              { launch := c.co.launch, pa := t.pa (field bs 0 8 % 2 ^ 56), length := field bs 16 4, total := field bs 8 6,
                rearm := field bs 21 1 == 1, action := action, count := 0, spent := false, actions := 0, parts := [] }
            answer { s with arrivals := s.arrivals.put c.co.die { u with entries := u.entries.put k r } } (handleOf c.co.die k (u.gen k))

/-- RDISARM: frees an entry once its enabled actions have been taken, and returns its count; 2^63 for a stale handle (R247). -/
def execRdisarm (e : UExt) (d a : BitVec 6) (s : State) : Out :=
  let n := { Need.ofUni (e.wf) e (ns a) (ns d) with later := true }
  s.issue n fun c =>
    match s.handle c.co.launch (c.s a) with
    | none => .next (s.defer c n (wrS d (BitVec.ofNat 64 (2 ^ 63))))
    | some (die, k, r) =>
      if r.enabled then s.stalled
      else .next (({ s with arrivals := s.arrivals.put die ((s.arrival die).free k) }).defer c n (wrS d (BitVec.ofNat 64 r.count)))

/-- RQRY: the count, or the state and the number of actions; 2^63 for a stale handle (R247). -/
def execRqry (e : UExt) (d a : BitVec 6) (pick : Bool) (s : State) : Out :=
  let n := { Need.ofUni (e.wf && absent e.x (!pick)) e (ns a) (ns d) with later := true }
  s.issue n fun c =>
    match s.handle c.co.launch (c.s a) with
    | none => .next (s.defer c n (wrS d (BitVec.ofNat 64 (2 ^ 63))))
    | some (_, _, r) =>
      .next (s.defer c n (wrS d (BitVec.ofNat 64 (if pick then (if r.spent then 2 else 1) + r.actions * 2 ^ 16 else r.count))))

end Sys2Proof.Machine
end

