-- ==== Sys2Proof/Machine/Tasks.lean ====
section
/-! DEFINITION. Tasks: uniform OP 0x11 (R185 to R189, R292 to R298). -/

namespace Sys2Proof.Machine

/-- The wave is in no task (R185). -/
def noTask (c : Ctx) : Bool := c.w.task.isNone

/-- Pushes a record onto a partition's overflow queue (R294). -/
def State.overflowTask (s : State) (part : Nat) (x : TaskRec) : State := s.modPart part fun p => { p with overflow := p.overflow ++ [x] }

/-- Pushes a record at the head of a core's deque, or onto the partition's overflow queue if the deque is full (R189, R292, R294). -/
def State.pushTask (s : State) (part core : Nat) (x : TaskRec) : State :=
  match s.cores.find core with
  | some k =>
    if k.deque.length < Config.dequeRecords then s.modCore core fun k => { k with deque := x :: k.deque } else s.overflowTask part x
  | none => s.overflowTask part x

/-- The cores of the die that a steal visits, in their order: those after the core in the ring (R293). -/
def State.ring (s : State) (part core : Nat) : List Nat :=
  let ks := (s.cores.filter fun e => e.2.part == part && e.1 / 64 == core / 64 && e.1 != core).map (·.1)
  ks.filter (fun k => decide (core < k)) ++ ks.filter fun k => decide (k < core)

/-- The record that a TNEXT takes and the state without it: the own deque's head, else the first tail of the ring (R187, R293). -/
def State.takeTask (s : State) (part core : Nat) : Option (TaskRec × State) :=
  let deque (k : Nat) := ((s.cores.find k).map (·.deque)).getD []
  match deque core with
  | r :: t => some (r, s.modCore core fun k => { k with deque := t })
  | [] =>
    match (s.ring part core).find? fun k => !(deque k).isEmpty with
    | none => none
    | some k => ((deque k).getLast?).map fun r => (r, s.modCore k fun x => { x with deque := x.deque.dropLast })

/-- What a record loads into the uniform registers, with the link (R21, R187). -/
def taskWrites (record : List Byte) (link : Nat) : List Wr :=
  let d (at_ : Nat) : DWord := BitVec.ofNat 64 (field record at_ 8)
  [.s 37 (d 24), .s 38 (d 8), .s 39 (d 16), .s 40 (d 32), .s 41 (d 40), .s 42 (d 48), .s 43 (d 56), .s 63 (BitVec.ofNat 64 link)]

/-- Posts XLATE_MISS to the firmware and parks the strand there (R144, R307). -/
def State.parkPosted (s : State) (c : Ctx) (mask : Word) (addr : DWord) : State :=
  let t := s.parkStrand c mask mask addr [] true false
  { t.modWave c.slot fun w =>
      match w.run c.entry with
      | some r => w.setRun c.entry { r with park := r.park.map fun p => { p with posted := true } }
      | none => w with
    fwFaults := t.fwFaults ++ [c.record .xlateMiss 1 c.r.recPc addr mask] }

/-- Bytes of a page of global memory as a TDONE reads them; none where they are poisoned or no link leads to them (R313, R328). -/
def State.blockBytes (s : State) (t : Trans) (va n : Nat) : Option (List Byte) :=
  let pa := t.pa va
  if !s.hasLink pa || (!s.poisonG.isEmpty && (addrs pa n).any fun a => s.poisonG.contains (a / 64)) then none
  else some (s.gbytes t.key pa n)

/-- The address of an alternative record as it is walked (R295): its page, or that it misses or fails. -/
def State.altWalk (s : State) (c : Ctx) (va : DWord) : Walk :=
  if !canonical va then .perm else
  match s.walkNow c.co.die c.la.part c.la.root (va56 va) with
  | .ok t => if t.r then .ok t else .perm
  | x => x

/-- The bytes of an alternative record; those of an address that is not aligned are free (R295). -/
def State.altRecord (s : State) (t : Trans) (va : DWord) : Option (List Byte) :=
  if va.toNat % 64 = 0 then s.blockBytes t (va56 va) 64 else some ((addrs va.toNat 64).map (Config.freeByte s.tick 1))

/-- Why a TDONE does not come to its end. -/
inductive Setback where
  /-- A read must come after lane parts that have arrived at the host port before it (R202). -/
  | port
  /-- The walk for an alternative record misses (R295). -/
  | miss (va : DWord)
  /-- Bytes that it reads are poisoned or out of reach (R313, R328). -/
  | ecc (va : Nat)
deriving DecidableEq, Repr

/-- How far a TDONE has come: the state, and what stops it, if anything: then nothing of the state stays (R8, R189, R303, R321). -/
structure Settling where
  s    : State
  bad  : Option Setback
deriving DecidableEq, Repr

/-- A TDONE stops; what stopped it before stands. -/
def Settling.stop (z : Settling) (x : Setback) : Settling := { z with bad := z.bad.or (some x) }

/-- Pushes a successor's record, which is ordered after what happens before the TDONE. -/
def Settling.push (z : Settling) (c : Ctx) (va : Nat) : Option (List Byte) → Settling
  | some bs => { z with s := z.s.pushTask c.la.part (slotCore c.slot) ⟨c.co.launch, bs, z.s.stillPending c.releases⟩ }
  | none => z.stop (.ecc va)

/-- Pushes an alternative record; a walk that misses stops the TDONE, and one that fails posts a record (R295). -/
def Settling.pushAlt (z : Settling) (c : Ctx) (va : DWord) : Settling :=
  if canonical va && !z.s.walkNowFree c.co.die c.la.part c.la.root (va56 va) then z.stop .port else
  match z.s.altWalk c va with
  | .ok t => if z.s.portFree (addrs (t.pa (va56 va)) 64) then z.push c (va56 va) (z.s.altRecord t va) else z.stop .port
  | .miss => z.stop (.miss va)
  | .perm => { z with s := z.s.postFault c.la.part c.co.launch true (c.record .xlatePerm 0 c.r.recPc va c.r.mask) none }

/-- Writes an 8-byte field of a successor block, as a release at DEVICE; nothing reaches a chip that no link leads to (R189, R328). -/
def State.putBlock (s : State) (c : Ctx) (t : Trans) (va k : Nat) (x : DWord) : State :=
  if s.hasLink (t.pa va) then
    s.homeWrite t.key ((addrs (t.pa va + k) 8).zip (leBytes 8 x.toNat)) (some ⟨5, s.agent c.w c.r.key, s.stillPending c.releases, false⟩) c.releases
  else s

/-- The selection of R295 by RESULT, SELMASK, SELVAL and ALTREC. -/
def Settling.select (z : Settling) (c : Ctx) (t : Trans) (va : Nat) (bs : List Byte) : Settling :=
  let word (k : Nat) : DWord := BitVec.ofNat 64 (field bs k 8)
  if word 0 &&& word 8 = word 16 then z.push c (va + 64) (z.s.blockBytes t (va + 64) 64)
  else if word 24 = 0 then z
  else z.pushAlt c (word 24)

/-- Applies one entry of the signal buffer (R189, R295). -/
def Settling.entry (z : Settling) (c : Ctx) : Signal → Settling
  | .post t va x => { z with s := z.s.putBlock c t va 8 x }
  | .sig t va =>
    match z.s.blockBytes t va 8 with
    | none => z.stop (.ecc va)
    | some old =>
      let u := { z with s := z.s.putBlock c t va 0 (BitVec.ofNat 64 (leNat old) - 1) }
      if leNat old ≠ 1 then u else
      match u.s.blockBytes t (va + 8) 32 with
      | none => u.stop (.ecc (va + 8))
      | some bs => u.select c t va bs

/-- Applies the entries of the signal buffer in issue order (R189, R295). -/
def applySignals (c : Ctx) : List Signal → Settling → Settling
  | [], z => z
  | x :: rest, z => applySignals c rest (z.entry c x)

/-- Appends an entry to the task's signal buffer once its block has been translated for reading and writing (R188). ALIGN comes before XLATE_PERM
(log 106). -/
def signal (n : Need) (a : BitVec 6) (mk : Ctx → Trans → Nat → Signal) (s : State) : Out :=
  s.issue n fun c =>
    let va := c.s a
    if va.toNat % 128 ≠ 0 then s.ownTrap c n .align va
    else if !canonical va then s.ownTrap c n .xlatePerm va
    else match s.tlbOf c (va56 va) with
    | none => .next (s.parkStrand c c.r.mask c.r.mask va (missPages [va56 va] va) true true)
    | some t =>
      if !t.r || !t.w then s.ownTrap c n .xlatePerm va
      else if 16 ≤ (c.w.task.map (·.signals.length)).getD 0 then s.ownTrap c n .illegalOp 0
      else .next ((s.commit c n []).modWave c.slot fun w =>
        { w with task := w.task.map fun k => { k with signals := k.signals ++ [mk c t (va56 va)] } })

/-- FORK: pushes a task record at the head of the core's deque; a release at DIE (R186). -/
def execFork (e : UExt) (q : BitVec 3) (a : BitVec 6) (s : State) : Out :=
  let n := { Need.ofUni (e.wf) e (ns a) (dq q) with mem := true }
  s.issue n fun c =>
    let ea := loWord (c.s a)
    match vaultCheck [0] (fun _ => ea) (fun x => s.vaultEA c.co c.la x false) 64 with
    | some t => s.ownTrap c n t.1 t.2
    | none =>
      let va := (s.vaultEA c.co c.la ea false).getD 0
      if s.unperformed c 4 || s.readsBefore (slotCore c.slot) (va / Config.vaultSpan) s.tick then s.stalled else
      match s.poisonEA [⟨0, ea, va⟩] 64 with
      | some t => s.ownTrap c n t.1 t.2
      | none =>
        let full := !(s.cores.find (slotCore c.slot)).any fun k => decide (k.deque.length < Config.dequeRecords)
        let t := s.done c n (wrQ q (!full))
        .next (if full then t else t.pushTask c.la.part (slotCore c.slot) ⟨c.co.launch, s.vaultBytes va 64, s.stillPending c.releases⟩)

/-- TNEXT: takes a task record from the core's deque or steals one on the die, and enters the task (R187). An entry address that is not a multiple of
4 traps FETCH_BOUND (log 105). -/
def execTnext (e : UExt) (q : BitVec 3) (s : State) : Out :=
  let n := { Need.ofUni (e.wf) e [] ((addrs 37 7).map RegName.s ++ ns 63 ++ dq q) with wide := true, mem := true, badWave := fun c => !noTask c }
  s.issue n fun c =>
    match s.takeTask c.la.part (slotCore c.slot) with
    | none => .next (s.done c n (wrQ q false))
    | some (x, u) =>
      let record := x.bytes
      s.toReg c (BitVec.ofNat 64 (field record 0 8)) fun y => s.jump c y fun pc =>
        (((u.commitTo c n (pc, none) []).writeRegs c.slot c.entry
          (taskWrites record (c.r.pc + (if n.x then 8 else 4)) ++ wrQ q true)).modWave c.slot fun w =>
            { w with task := some ⟨record, []⟩ }).acquireParts c.slot c.r.key c.w.issued x.parts

/-- TSIG: enters a signal for a successor block (R188). -/
def execTsig (e : UExt) (a : BitVec 6) (s : State) : Out :=
  signal { Need.ofUni (e.wf) e (ns a) [] with mem := true, badWave := noTask } a (fun _ t va => .sig t va) s

/-- The successor blocks of a wave's signal buffer, with their translations (R188). -/
def Wave.blocks (w : Wave) : List (Trans × Nat) :=
  match w.task with
  | some k => k.signals.map fun g => match g with
    | .sig t va => (t, va)
    | .post t va _ => (t, va)
  | none => []

/-- TDONE: applies the signal buffer, leaves the task and returns to s63 (R189, R295). It is one step: where a walk misses it parks, and where bytes
that it reads are poisoned it traps, with no entry applied (R8, R295, R313, R321, log 37). -/
def execTdone (e : UExt) (s : State) : Out :=
  let n := { Need.ofUni (e.wf) e (ns 63) [] with wide := true, mem := true, badWave := noTask }
  s.issue n fun c =>
    if !c.w.sb.isEmpty || c.w.readsLeft (fun _ _ => true) || c.w.pq.any (fun p => !p.performed) || s.anyPending 5 c.releases ||
        c.w.blocks.any (fun b => !s.portFree (addrs (b.1.pa b.2) 128)) then s.stalled else
    s.toReg c (c.s 63) fun x => s.jump c x fun pc =>
      let z := applySignals c ((c.w.task.map (·.signals)).getD []) ⟨s, none⟩
      match z.bad with
      | none => (z.s.commitTo c n (pc, none) []).modWave c.slot fun w => { w with task := none }
      | some .port => { s with stall := true }
      | some (.miss va) => s.parkPosted c c.r.mask va
      | some (.ecc va) => s.takeTrap c .eccUncorrectable (dva va) c.r.mask

/-- TPOST: enters a result for a successor block (R188). -/
def execTpost (e : UExt) (a b : BitVec 6) (s : State) : Out :=
  signal { Need.ofUni (e.wf) e (ns a ++ ns b) [] with mem := true, badWave := noTask } a (fun c t va => .post t va (c.s b)) s

/-- NEXTW: asks the work distributor for a coordinate; the answer lands in a slot (R297, R298). -/
def execNextw (e : UExt) (a : BitVec 6) (off : BitVec 20) (s : State) : Out :=
  let n := { Need.ofUni (e.wf && (absent e.x (off == 0))) e (ns a) [] with mem := true, badLaunch := fun la => !la.distrib }
  s.issue n fun c =>
    let ea := eaUni (c.s a) off
    match vaultCheck [0] (fun _ => ea) (ownEA c.co) 16 with
    | some t => s.ownTrap c n t.1 t.2
    | none =>
      if 4 ≤ c.w.nextw || !c.w.canTake c.r.key then s.stalled
      else .next (((s.commit c n []).takeEntry c (.nextw ((ownEA c.co ea).getD 0)) ⟨0, false, false⟩).modWave c.slot fun w =>
        { w with nextw := w.nextw + 1 })

end Sys2Proof.Machine
end

