-- ==== Sys2Proof/Machine/System.lean ====
section
/-! DEFINITION. The system group: uniform OP 0x12 (R27, R170, R171, R190). -/

namespace Sys2Proof.Machine

/-- WAVEID (R27). -/
def Ctx.waveId (c : Ctx) : DWord :=
  BitVec.ofNat 64 (c.w.widx + c.w.widx % 4 * 2 ^ 4 + c.co.core * 2 ^ 6 + c.co.die * 2 ^ 12)

/-- The rank of a cohort among the members of a group (R27). -/
def Group.rank (g : Group) (index : Nat) : Nat := (g.members.filter fun i => decide (i < index)).length

/-- The group in slot `k`, with its index. -/
def Ctx.slotGroup (c : Ctx) (k : Nat) : Option (Nat × Group) :=
  match (c.la.slots c.co.index)[k]? with
  | some g => (c.la.groups.find g).map fun x => (g, x)
  | none => none

/-- GSLOTS of a slot (R27). -/
def Ctx.gslot (c : Ctx) (k : Nat) : DWord :=
  match c.slotGroup k with
  | some (g, x) => BitVec.ofNat 64 (g + 2 ^ 8 + min (x.rank c.co.index) 0xFFFF * 2 ^ 16 + x.members.length * 2 ^ 32)
  | none => 0

/-- GRANKS of a slot (R27). -/
def Ctx.grank (c : Ctx) (k : Nat) : DWord :=
  match c.slotGroup k with
  | some (_, x) => BitVec.ofNat 64 (x.rank c.co.index)
  | none => 0

/-- The value of a CSR (R171). -/
def State.csr (s : State) (c : Ctx) (n : Nat) : DWord :=
  if n = 0x000 then Config.isaver
  else if n = 0x001 then s.patchHash
  else if n = 0x010 then c.waveId
  else if n = 0x011 then BitVec.ofNat 64 c.co.index
  else if n = 0x012 then BitVec.ofNat 64 (c.la.clusterOf c.co.index)
  else if n = 0x013 then BitVec.ofNat 64 ((c.la.clsz - 1) * 2 ^ 4 + c.co.index % c.la.clsz)
  else if n = 0x014 then BitVec.ofNat 64 (c.la.lanes * 2 ^ 32 + c.la.cohorts)
  else if n = 0x015 then BitVec.ofNat 64 c.la.part
  else if n ≤ 0x019 then c.gslot (n - 0x016)
  else if n ≤ 0x01D then c.grank (n - 0x01A)
  else if n = 0x020 then c.w.warn.zeroExtend 64
  else if n = 0x021 then c.w.fpstat.zeroExtend 64
  else if n = 0x022 then c.w.fpmode.zeroExtend 64
  else if n = 0x030 then s.clock.getD c.co.die 0
  else if n = 0x031 then c.w.skipcnt
  else if n = 0x032 then c.w.splitser
  else if n = 0x040 then c.w.mmatol.zeroExtend 64
  else 0

/-- A write of a CSR: a read-only register keeps its value (R5, R85, R98, R99, R170, R171). -/
def Wave.putCsr (w : Wave) (n : Nat) (x : DWord) : Wave :=
  if n = 0x020 then { w with warn := x.extractLsb' 0 8, warnBy := [] }
  else if n = 0x021 then { w with fpstat := x.extractLsb' 0 6 }
  else if n = 0x022 then { w with fpmode := x.extractLsb' 0 4 }
  else if n = 0x031 then { w with skipcnt := x }
  else if n = 0x032 then { w with splitser := x }
  else if n = 0x040 then { w with mmatol := x.extractLsb' 0 32 }
  else w

/-- Takes a halting trap of the instruction's own; the strand resumes, if it does, at the next instruction (R190, R302, R310). -/
def State.haltTrap (s : State) (c : Ctx) (n : Need) (cause : Cause) (addr : DWord) : Out :=
  .next (s.waveTrap c.slot (c.record cause 0 c.r.recPc addr c.r.mask) (some (c.entry, s.after c.r n.x)))

/-- TRAP: SOFT_TRAP with the code as its address (R190). -/
def execTrap (e : UExt) (code : BitVec 16) (s : State) : Out :=
  let n := Need.ofUni (e.wf && (absent e.x (code == 0))) e [] []
  s.issue n fun c => s.haltTrap c n .softTrap (code.zeroExtend 64)

/-- BKPT: BREAKPOINT (R190). -/
def execBkpt (e : UExt) (s : State) : Out :=
  let n := Need.ofUni (e.wf) e [] []
  s.issue n fun c => s.haltTrap c n .breakpoint 0

/-- CSRR: sD takes the register's 64 bits (R170). -/
def execCsrr (e : UExt) (d : BitVec 6) (csr : BitVec 12) (s : State) : Out :=
  let n := Need.ofUni (e.wf && (absent e.x (csr == 0)) && csrExists csr) e [] (ns d)
  s.issue n fun c => .next (s.done c n (wrS d (s.csr c csr.toNat)))

/-- CSRW: writes each field as its access code states; WINDOW inside an open split (R41, R170). -/
def execCsrw (e : UExt) (a : BitVec 6) (csr : BitVec 12) (s : State) : Out :=
  let n := { Need.ofUni (e.wf && (absent e.x (csr == 0)) && csrExists csr) e (ns a) [] with noSplit := true }
  s.issue n fun c => .next ((s.commit c n []).modWave c.slot fun w => w.putCsr csr.toNat (c.s a))

/-- NOP: nothing (R190). -/
def execNop (e : UExt) (s : State) : Out :=
  execA s (Need.ofUni (e.wf) e [] []) fun _ => []

end Sys2Proof.Machine
end

