-- ==== Sys2Proof/Machine/Waiting.lean ====
section
/-! DEFINITION. Waiting and fences: uniform OP 0x0B (R181 to R184). -/

namespace Sys2Proof.Machine

/-- The conditions of WAITA by code (R181). -/
def WaitCond.of (c : BitVec 2) : WaitCond :=
  match c.toNat with
  | 0 => .eq
  | 1 => .ne
  | 2 => .geu
  | _ => .ge

/-- The condition holds of the word read. -/
def WaitCond.holds (c : WaitCond) (w b : DWord) : Bool :=
  match c with
  | .eq => w == b
  | .ne => w != b
  | .geu => !w.ult b
  | .ge => !w.slt b

/-- FENCE (R184): the strand issues nothing further until it completes. -/
def fence (kind : FenceKind) (wf : Bool) (e : UExt) (scope : BitVec 3) (s : State) : Out :=
  let raised := kind == .eng && decide (scope.toNat < 2)
  let n := { Need.ofUni wf e [] [] with warn := if raised then 0x20 else 0 }
  s.issue n fun c => .next ((s.commit c n []).waitFor c (.fence kind (if raised then 2 else scope) c.w.issued))

/-- WAITA: waits until a vault word meets a condition, and reads it; ALIGN comes before the checks of R131 (R182). A word of another vault is first read by WAITA_WAKE (R193). -/
def execWaita (e : UExt) (d a b : BitVec 6) (cond : BitVec 2) (o : Ordering) (off : BitVec 20) (s : State) : Out :=
  let n := { Need.ofUni (e.wf && (absent e.x (cond == 0 && o == ⟨false, false, false, 0⟩ && off == 0)) && o.wf) e (ns a ++ ns b) (ns d) with mem := true, warn := warnRead o false }
  s.issue n fun c =>
    let ea := eaUni (c.s a) off
    if ea.toNat % 8 ≠ 0 then s.ownTrap c n .align (ea.zeroExtend 64) else
    match vaultCheck [0] (fun _ => ea) (fun x => s.vaultEA c.co c.la x false) 8 with
    | some t => s.ownTrap c n t.1 t.2
    | none =>
      if s.relWait c o then s.stalled else
      let va := (s.vaultEA c.co c.la ea false).getD 0
      let acq := o.acq || o.rel
      let wait (first : Bool) : Out :=
        .next ((s.commit c n []).waitFor c (.waita ea (WaitCond.of cond) (c.s b) d.toNat acq o.scope s.tick first c.w.issued))
      let es := c.w.visible c.r.key c.w.issued
      if va / Config.vaultSpan != slotCore c.slot || atomicBusy es va 8 then wait true
      else match s.poisonEA [⟨0, ea, va⟩] 8 with
      | some t => s.ownTrap c n t.1 t.2
      | none =>
        let w := BitVec.ofNat 64 (leNat (s.loadBytes es va 8))
        if (WaitCond.of cond).holds w (c.s b) then
          let t := s.done c n (wrS d w)
          .next (if acq then t.acquireVault c.slot c.r.key c.w.issued o.scope es (addrs va 8) else t)
        else wait false

/-- SLEEP: the strand stops for at least n unstalled cycles of its quadrant (R183). -/
def execSleep (e : UExt) (a : BitVec 6) (r : Bool) (n : BitVec 27) (s : State) : Out :=
  let k := Need.ofUni (e.wf && (absent e.x (!r && n == 0)) && (!r || n == 0) && (r || a == 0)) e (if r then ns a else []) []
  s.issue k fun c =>
    let n := if r then min (c.s a).toNat (2 ^ 27 - 1) else n.toNat
    let t := s.commit c k []
    .next (if n = 0 then t else t.waitFor c (.sleep n))

/-- YIELD: demotes the strand and places its wave last in its quadrant (R54, R183). -/
def execYieldS (e : UExt) (s : State) : Out :=
  let n := Need.ofUni (e.wf) e [] []
  s.issue n fun c =>
    let t := (s.commit c n []).demote c.slot c.entry
    .next { t with rr := t.rr.put (c.slot / 8) c.slot }

/-- FENCE.ACQ (R184). -/
def execFenceAcq (e : UExt) (scope : BitVec 3) (s : State) : Out :=
  fence .acq (e.wf && (absent e.x (scope == 0))) e scope s

/-- FENCE.REL (R184). -/
def execFenceRel (e : UExt) (scope : BitVec 3) (s : State) : Out :=
  fence .rel (e.wf && e.x) e scope s

/-- FENCE.FULL (R184). -/
def execFenceFull (e : UExt) (scope : BitVec 3) (s : State) : Out :=
  fence .full (e.wf && e.x) e scope s

/-- FENCE.ENG (R184). -/
def execFenceEng (e : UExt) (scope : BitVec 3) (s : State) : Out :=
  fence .eng (e.wf && e.x) e scope s

end Sys2Proof.Machine
end

