-- ==== Sys2Proof/Machine/StrandEvents.lean ====
section
/-! DEFINITION. The steps of a wave that no instruction of its own takes: results, drains, ends of waits, page walks
(R35, R44, R47, R49, R51, R72, R144, R182 to R184, R193, R194, R307). -/

namespace Sys2Proof.Machine

/-- A step of the machine that is not an instruction: its effect where it is enabled, a refusal elsewhere (R191). -/
def State.event (name : String) : Option State → Out
  | some t => .next t
  | none => .refused (.notEnabled name)

/-- The result of an atomic on `old` (R156). -/
def AtomOp.apply (op : AtomOp) (w64 un : Bool) (old b cmp : DWord) : DWord :=
  let n := if w64 then 64 else 32
  let less (x y : DWord) : Bool := if un then decide (x.toNat % 2 ^ n < y.toNat % 2 ^ n)
    else decide ((BitVec.ofNat n x.toNat).toInt < (BitVec.ofNat n y.toNat).toInt)
  match op with
  | .add => old + b
  | .min => if less b old then b else old
  | .max => if less old b then b else old
  | .and => old &&& b
  | .or => old ||| b
  | .xor => old ^^^ b
  | .xchg => b
  | .cas => if old.toNat % 2 ^ n = cmp.toNat % 2 ^ n then b else old

/-- A compare that fails writes nothing of its own (R245). -/
def AtomOp.fails (op : AtomOp) (w64 : Bool) (old cmp : DWord) : Bool :=
  op == .cas && old.toNat % 2 ^ (if w64 then 64 else 32) != cmp.toNat % 2 ^ (if w64 then 64 else 32)

/-- The lanes of a vault atomic perform in ascending order (R150, R156, R195), as the release `rel` if they are one: the values they found,
and whether a compare failed. A compare that fails writes nothing. -/
def State.atomLanes (op : AtomOp) (w64 un : Bool) (rel : Option Release) : List AtomLane → State → State × List (Nat × DWord) × Bool
  | [], s => (s, [], false)
  | l :: t, s =>
    let n := if w64 then 8 else 4
    let old : DWord := BitVec.ofNat 64 (leNat (s.vaultBytes l.addr n))
    let fails := op.fails w64 old l.cmp
    let u := if fails then s else s.vaultWrite ((addrs l.addr n).zip (leBytes n (op.apply w64 un old l.opnd l.cmp).toNat)) rel
    let x := State.atomLanes op w64 un rel t u
    (x.1, (l.lane, old) :: x.2.1, fails || x.2.2)

/-- What an atomic writes into its destination (R156, R165); in a protected launch a pair holds what its one access found. The four bytes
that SATOMV.W or SCASV.W finds are zero-extended into sD (log 100). -/
def atomWrites (w64 uni protect : Bool) (dst : Nat) (olds : List (Nat × DWord)) : List Wr :=
  if uni then [.s dst ((olds.head?.map (·.2)).getD 0)]
  else
    let lead (l : Nat) := if protect then l / 2 * 2 else l
    let at_ (l : Nat) : DWord := ((olds.find? fun o => o.1 == lead l).map (·.2)).getD 0
    wrW w64 (BitVec.ofNat 7 dst) (maskOf fun l => olds.any fun o => o.1 == lead l) at_

/-- Writes of bank steps of `width` bytes each, in order, by the release `rel` if they are one (R195). -/
def State.vaultSteps (width : Nat) (rel : Option Release) : (fuel : Nat) → List (Nat × Byte) → State → State
  | 0, _, s => s
  | _, [], s => s
  | n + 1, bs, s => State.vaultSteps width rel n (bs.drop width) (s.vaultWrite (bs.take width) rel)

/-- Writes bytes 8 to 15 of a slot (R234, R297). -/
def State.slotStatus (s : State) (slot x : Nat) : State := s.vaultWrite ((addrs (slot + 8) 8).zip (leBytes 8 x))

/-- Clears ACTIVE of a slot (R237). -/
def State.slotInactive (s : State) (slot : Nat) : State := s.vaultWrite [(slot + 14, s.vaultByte (slot + 14) &&& 0xFD)]

/-- Ends what acquire marks wait for, in whichever wave (R206, R233). -/
def State.acquired (s : State) (a : Acq) : State :=
  let drop (w : Wave) : Wave :=
    let v := if w.lateAcqs.isEmpty then w else { w with lateAcqs := w.lateAcqs.filter (·.1 != a) }
    if v.runs.any fun r => r.2.acqs.contains a then v.mapRuns fun r => { r with acqs := r.acqs.filter (· != a) } else v
  { s with waves := s.waves.mapv fun _ w => drop w, saved := s.saved.map fun v => { v with waves := v.waves.mapv fun _ w => drop w } }

/-- A subscription or its end goes to no home: the page is UO or in host memory (R234, R237). -/
def Part.homeless (p : Part) : Bool := p.ord == .uo || isHost p.pa

/-- One lane of a SUBSCR drains (R234). -/
def State.subscrLane (slot : Nat) (s : State) (l : Nat × Part) : State :=
  let core := slotCore slot
  let dir := ((s.cores.find core).map (·.subs)).getD []
  let entry := (l.2.pa / 8, l.1)
  if l.2.homeless || decide (Config.directory ≤ dir.length) then
    (s.slotStatus l.1 (2 ^ 50)).acquired (.answer l.2.id)
  else
    ((s.slotStatus l.1 0).postPart slot l.2).modCore core fun k => if k.subs.contains entry then k else { k with subs := k.subs ++ [entry] }

/-- One lane of an UNSUB drains (R237). -/
def State.unsubLane (slot : Nat) (s : State) (l : Nat × Part) : State :=
  if l.2.homeless then (s.slotInactive l.1).acquired (.answer l.2.id) else s.postPart slot l.2

/-- What happens before a vault entry that drains (R207): what its strand has released or acquired before it, and what happens before
earlier accesses of the wave to its bytes. -/
def Wave.beforeVault (w : Wave) (e : SBEntry) : List Nat :=
  (if e.marks.rel then w.released e.key e.num e.covers e.jm else w.precede e.key e.num e.covers e.jm) ++
  addNew [] ((w.before.filter fun b => b.space == 2 && e.vaultBytes.any fun a => decide (b.addr ≤ a) && decide (a < b.addr + b.width)).map (·.part))

/-- What happened before a vault entry happens before later accesses of the wave to its bytes (R207). -/
def State.vaultOrder (s : State) (slot : Nat) (e : SBEntry) (ids : List Nat) : State :=
  s.addBefore slot (ids.flatMap fun i => e.vaultBytes.map fun a => ⟨e.key, e.num, i, false, 2, a, 1⟩)

/-- A trap that the wave will take at its next instruction boundary; the first one stands (R313). -/
def State.setDue (s : State) (slot : Nat) (f : FaultRec) : State :=
  s.modWave slot fun w => { w with due := if w.due.isSome || !w.alive then w.due else some f }

/-- The record of an uncorrectable error that an issued instruction has met (R313). -/
def State.eccRecord (s : State) (slot entry pc : Nat) (addr : DWord) (mask : Word) (flags : Nat) : FaultRec :=
  let launch := (((s.waves.find slot).bind fun w => s.cohorts.find w.cohort).map (·.launch)).getD 0
  { cause := .eccUncorrectable, flags := BitVec.ofNat 8 flags, strand := BitVec.ofNat 8 entry, launch := BitVec.ofNat 8 launch,
    wave := waveField slot, pc := BitVec.ofNat 48 pc, addr, mask, prog := 0 }

/-- An issued instruction of a wave meets an uncorrectable error when it reads: it traps, and none of its effects stays (R8, R86, R313). `p` finds
its flight, whose lanes are `mask`, or the strand's where that is none. -/
def State.lateEcc (s : State) (slot : Nat) (p : Flight → Bool) (addr : DWord) (mask : Option Word) : State :=
  match s.waves.find slot with
  | none => s
  | some w =>
    match w.runs.find? fun r => r.2.flights.any p with
    | none => s
    | some (entry, r) =>
      match r.flights.find? p with
      | none => s
      | some f =>
        (s.modWave slot fun v => (v.setRun entry { r with flights := r.flights.map fun g => if p g then { g with state := .done } else g }).unwarn f.num).setDue
          slot (s.eccRecord slot entry f.recPc addr (mask.getD r.mask) 0)

/-- The lanes that the accesses of some lanes stand for: in a protected launch each pair (R304, R314). -/
def pairLanes (protect : Bool) (f : Nat → Bool) : Word := maskOf fun l => f (if protect then l / 2 * 2 else l)

/-- The wave's launch is protected (R314). -/
def State.protected? (s : State) (w : Wave) : Bool := (s.cohorts.find w.cohort).any fun c => (s.launches.find c.launch).any (·.protect)

/-- The first poisoned access of the lanes of a vault atomic (R313). -/
def State.atomEcc (s : State) (w64 : Bool) (ls : List AtomLane) : Option Word :=
  (ls.find? fun l => s.poisonedV l.addr (if w64 then 8 else 4)).map (·.ea)

/-- What the drain of an entry does (R49, R194). An atomic that reads a poisoned granule writes nothing (R313). -/
def State.drain (s : State) (slot : Nat) (w : Wave) (e : SBEntry) : State :=
  let ids := w.beforeVault e
  let rel := s.releaseOf w e.key e.marks ids
  match e.kind with
  | .vst width bs tag =>
    let t := e.taken.foldl (fun u a => u.acquireParts slot a.1 a.2 ids) ((State.vaultSteps width rel (bs.length + 1) bs s).vaultOrder slot e ids)
    match tag with
    | some k => t.setTags k (bs.map (·.1))
    | none => t
  | .vatom op w64 un ls dst uni =>
    match s.atomEcc w64 ls with
    | some ea =>
      s.lateEcc slot (fun f => f.state == .drain e.id) (ea.zeroExtend 64) (if uni then none else some (pairLanes (s.protected? w) fun l => ls.any (·.lane == l)))
    | none =>
    let x := State.atomLanes op w64 un rel ls s
    let ws := atomWrites w64 uni (s.protected? w) dst x.2.1
    let t := (x.1.modWave slot fun v => v.mapRuns fun r =>
      { r with flights := r.flights.map fun f => if f.state = .drain e.id then { f with state := .ready, writes := ws } else f }).vaultOrder slot e ids
    let u := if e.marks.acq then t.acquireParts slot e.key e.num (s.synced w e.key e.marks.scope 0 e.vaultBytes) else t
    if x.2.2 && !uni then
      match w.runs.find? fun r => r.2.key == e.key with
      | some r => u.demote slot r.1
      | none => u
    else u
  | .global ps => s.post slot ps
  | .subscr ls => ls.foldl (State.subscrLane slot) s
  | .unsub ls => ls.foldl (State.unsubLane slot) s
  | .nextw a =>
    match s.cohorts.find w.cohort with
    | some c => (s.slotStatus a 0).modLaunch c.launch fun l => { l with reqs := l.reqs ++ [(some slot, a)] }
    | none => s

/-- The other vaults that an entry's drain reaches. -/
def SBEntry.far (e : SBEntry) (core : Nat) : List Nat :=
  ((e.vaultBytes.map (· / Config.vaultSpan)).eraseDups).filter (· != core)

/-- A release entry waits until every access that happens before it has performed at its scope (R205). -/
def State.releaseWaits (s : State) (w : Wave) (e : SBEntry) : Bool :=
  e.marks.rel && (w.readsLeft (earlierThan e.key e.num e.covers e.jm) || s.anyPending e.marks.scope (w.beforeVault e))

/-- An entry may drain (R49, R193, R205). The drain of an entry that reaches another vault is its place among the core's accesses to that vault
(log 92). -/
def State.drainable (s : State) (slot : Nat) (w : Wave) (e : SBEntry) : Bool :=
  let global := match e.kind with
    | .global _ => true
    | _ => false
  w.clearBefore e.key && (w.sb.all fun x => x.key != e.key || decide (e.id ≤ x.id)) &&
  (e.far (slotCore slot)).all (fun v => !s.readsBefore (slotCore slot) v s.tick) && (global || !s.releaseWaits w e)

/-- A trap that the instruction number `num` for which a strand waits raises when it reads: the strand stands at it again, and none of its effects
stays (R8, R86, R303). -/
def State.waitTrap (s : State) (slot entry num : Nat) (cause : Cause) (addr : DWord) : Option State := do
  let c ← s.ctxAt slot entry
  some (((s.modRun slot entry Run.back).modWave slot (Wave.unwarn num)).trapWith c (c.record cause 0 c.r.lastPc addr c.r.mask))

/-- The accesses that a FENCE of a strand orders before its later accesses (R184, R205): its parts, but for loads where the kind leaves
reads alone, and what happens before them. -/
def Wave.fenced (w : Wave) (r : Run) (kind : FenceKind) (num : Nat) : List Nat :=
  ((w.pq.filter fun p => earlierThan r.key num r.covers r.jm p.key p.num && (kind == .full || p.kind != .read)).map (·.id)) ++
  ((w.before.filter fun b => earlierThan r.key num r.covers r.jm b.key b.num).map (·.part))

/-- The uses of step-cache entries by earlier jobs of a strand, which a FENCE.ENG orders before its later accesses (R184, R254). -/
def State.usesBefore (s : State) (w : Wave) (r : Run) (num : Nat) : List Nat :=
  (s.uses.filter fun u => u.cohort == w.cohort && u.widx == w.widx && earlierThan r.key num r.covers r.jm u.key u.num).map (·.id)

/-- The condition of a FENCE (R49, R184). -/
def State.fenceDone (s : State) (slot : Nat) (w : Wave) (r : Run) (kind : FenceKind) (scope : BitVec 3) (num : Nat) : Bool :=
  let earlier (k : List Nat) (m : Nat) := earlierThan r.key num r.covers r.jm k m
  let reads := !w.readsLeft earlier && (w.runs.all fun x => x.2.flights.all fun f => match f.state with
      | .drain _ => !earlier x.2.key f.num
      | _ => true) && s.loads.all fun l => !(l.slot == slot && l.cohort == w.cohort && earlier l.key l.num)
  let stores (scope : BitVec 3) := w.clearBefore r.key && w.sb.all (fun e => !earlier e.key e.num) &&
    (decide (scope.toNat < 2) || !s.anyPending scope (w.fenced r .rel num))
  let jobs := ((s.cores.find (slotCore slot)).map (·.jobs)).getD []
  match kind with
  | .acq => reads
  | .rel => stores scope
  | .full => reads && stores scope
  | .eng => stores 2 && jobs.all fun j => !(j.slot == slot && j.cohort == w.cohort && decide (j.num < num)) || j.state == .stopped || j.state == .handedOver

/-- RESULT_WRITE: the destinations of an issued instruction are written (R72, R109). -/
def execResultWrite (slot entry flight : Nat) (s : State) : Out :=
  State.event "RESULT_WRITE" (do
    let w ← s.waves.find slot
    let r ← w.run entry
    let f ← r.flights[flight]?
    guard (f.state = .ready)
    some (((s.writeRegs slot entry f.writes).modRun slot entry fun q =>
      { q with flights := q.flights.modify flight fun g => { g with state := .done, writes := [] } }).modWave slot Wave.settle))

/-- SERIALISED_STRAND_START: the next strand of a serialised split starts (R35, R58). -/
def execSerialisedStrandStart (slot entry : Nat) (s : State) : Out :=
  State.event "SERIALISED_STRAND_START" (do
    let w ← s.waves.find slot
    let r ← w.run entry
    guard (r.held ∧ w.clearBefore r.key)
    some (s.modRun slot entry fun q => { q with held := false }))

/-- STORE_BUFFER_DRAIN: one entry drains in drain order (R49, R194). -/
def execStoreBufferDrain (slot id : Nat) (s : State) : Out :=
  State.event "STORE_BUFFER_DRAIN" (do
    let w ← s.waves.find slot
    let e ← w.sb.find? (·.id == id)
    guard (s.drainable slot w e)
    some ((s.modWave slot fun v => { v with sb := v.sb.filter (·.id != id) }).drain slot w e))

/-- JOINMEM_COMPLETE: every strand earlier in drain order has ended and drained (R51). -/
def execJoinmemComplete (slot entry : Nat) (s : State) : Out :=
  State.event "JOINMEM_COMPLETE" (do
    let w ← s.waves.find slot
    let r ← w.run entry
    guard (r.wait = some .joinmem ∧ w.clearBefore r.key)
    some (s.modRun slot entry fun q => { q with wait := none, jm := some q.key }))

/-- FENCE_COMPLETE: the conditions of a FENCE are met (R184). -/
def execFenceComplete (slot entry : Nat) (s : State) : Out :=
  State.event "FENCE_COMPLETE" (do
    let w ← s.waves.find slot
    let r ← w.run entry
    match r.wait with
    | some (.fence kind scope num) =>
      guard (s.fenceDone slot w r kind scope num)
      let t := s.modRun slot entry fun q => { q with wait := none }
      some (if kind = .acq then t else t.acquireParts slot r.key num (w.fenced r kind num ++ if kind = .eng then s.usesBefore w r num else []))
    | _ => none)

/-- END_COMPLETE: every open split has closed and the strand ends (R47); a trap that is due is taken instead (R313). -/
def execEndComplete (slot entry : Nat) (s : State) : Out :=
  State.event "END_COMPLETE" (do
    let w ← s.waves.find slot
    let r ← w.run entry
    guard (r.wait = some .ending ∧ w.depth = 0 ∧ !w.trapped)
    match w.due with
    | some f => some (s.waveTrap slot f none)
    | none => some (s.modWave slot fun v => { v with lattice := v.lattice.del entry, demoted := v.demoted.filter (· != entry) }))

/-- The lanes that a vault read serves, for its record: mask(S) where it is uniform or fills a tile, else both lanes of each pair in a protected launch
(R304, R314). -/
def VaultRead.mask (q : VaultRead) (protect : Bool) (r : Run) : Word :=
  if q.uni || q.tile then r.mask else
  let serves (l : Nat) := q.todo.any (·.1 == l) || q.got.any (·.1 == l)
  maskOf fun l => serves l || (protect && serves (l / 2 * 2))

/-- What an access of a vault read returns: in a protected launch the pair that one SLOTRD access serves takes it together (R314). -/
def VaultRead.take (q : VaultRead) (protect : Bool) (index : Nat) (bs : List Byte) : List (Nat × List Byte) :=
  if q.clear && protect then [(index, bs), (index + 1, bs)] else [(index, bs)]

/-- An access of a read may perform now (R50, R157, R193): reads of another vault perform in the order in which the core issued them, and
the accesses of one SLOTRD to one slot in ascending order. -/
def State.readable (s : State) (slot : Nat) (q : VaultRead) (es : List SBEntry) (access va : Nat) : Bool :=
  let vault := va / Config.vaultSpan
  !atomicBusy es va q.width &&
  (if vault = slotCore slot then !q.clear || (q.todo.take access).all fun b => b.2.1 != va
   else !s.readsBefore (slotCore slot) vault q.issued && (q.todo.take access).all fun b => b.2.1 / Config.vaultSpan != vault)

/-- FRESH of slots is set again (R8, R157). -/
def State.refresh (s : State) (as : List Nat) : State := as.foldl (fun t a => t.vaultWrite [(a, t.vaultByte a ||| 1)]) s

/-- A flight once an access of its read has returned (R193): the last one makes its result. -/
def Flight.returned (f : Flight) (q : VaultRead) : Flight :=
  if q.todo.isEmpty then
    { f with state := .ready,
             writes := readWrites q.dst q.regs q.sx q.uni q.tile (q.got.foldl (fun (m : FMap (List Byte)) g => m.put g.1 g.2) []) }
  else { f with state := .reading q }

/-- REMOTE_VAULT_READ: one access of a vault read performs at its bank, in its pass or when its transfer reaches another vault (R133, R193);
the last one returns the value. At a poisoned one the instruction traps and none of its effects stays: the WARN bits and FRESH of slots already read
are as before (R8, R86, R313, log 101). -/
def execRemoteVaultRead (slot entry flight access : Nat) (s : State) : Out :=
  State.event "REMOTE_VAULT_READ" (do
    let w ← s.waves.find slot
    let r ← w.run entry
    let f ← r.flights[flight]?
    match f.state with
    | .reading q =>
      let a ← q.todo[access]?
      let es := w.visible r.key f.num
      guard (s.readable slot q es access a.2.1)
      if s.poisonedV a.2.1 q.width then
        some ((((s.modRun slot entry fun x => { x with flights := x.flights.set flight { f with state := .done } }).modWave slot (Wave.unwarn f.num)).refresh
          q.cleared).setDue slot (s.eccRecord slot entry f.recPc (a.2.2.zeroExtend 64) (q.mask (s.protected? w) r) 0))
      else
        let q' := { q with todo := q.todo.eraseIdx access, got := q.got ++ q.take (s.protected? w) a.1 (s.loadBytes es a.2.1 q.width),
                           cleared := q.cleared ++ if q.clear && (s.vaultByte (a.2.1 + 14)).getLsbD 0 then [a.2.1 + 14] else [] }
        let t := s.modRun slot entry fun x => { x with flights := x.flights.set flight (f.returned q') }
        let u := if q.acq then t.acquireVault slot r.key f.num q.scope es (addrs a.2.1 q.width) else t
        some (if q.clear then u.vaultWrite [(a.2.1 + 14, s.vaultByte (a.2.1 + 14) &&& 0xFE)] else u)
    | _ => none)

/-- WAITA_WAKE: the strand reads its word again, and goes on if the condition holds (R182); the first read of another vault keeps the
order of the core's reads (R193). -/
def execWaitaWake (slot entry : Nat) (s : State) : Out :=
  State.event "WAITA_WAKE" (do
    let c ← s.ctxAt slot entry
    guard (!c.w.trapped)
    match c.r.wait with
    | some (.waita ea cond cmp sd acq scope issued first num) =>
      match s.vaultEA c.co c.la ea false with
      | none => s.waitTrap slot entry num .vaultBound (ea.zeroExtend 64)
      | some va =>
        let es := c.w.visible c.r.key c.w.issued
        guard (!atomicBusy es va 8 ∧ !(first && s.readsBefore (slotCore slot) (va / Config.vaultSpan) issued))
        if s.poisonedV va 8 then s.waitTrap slot entry num .eccUncorrectable (ea.zeroExtend 64) else
        let x : DWord := BitVec.ofNat 64 (leNat (s.loadBytes es va 8))
        some (if cond.holds x cmp then
            let t := (s.modRun slot entry fun q => { q with wait := none }).writeRegs slot entry [.s sd x]
            if acq then t.acquireVault slot c.r.key num scope es (addrs va 8) else t
          else s.modRun slot entry fun q => { q with wait := some (.waita ea cond cmp sd acq scope issued false num) })
    | _ => none)

/-- SLEEP_EXPIRE: the cycles of a SLEEP have passed (R183). -/
def execSleepExpire (slot entry : Nat) (s : State) : Out :=
  State.event "SLEEP_EXPIRE" (do
    let w ← s.waves.find slot
    let r ← w.run entry
    guard (r.wait = some (.sleep 0))
    some (s.modRun slot entry fun q => { q with wait := none }))

/-- A page, with the address that needs it, gives XLATE_PERM where its walk ends so or its leaf lacks what the instruction asks of a page that it
touches (R141, R144). The page of a stale translation register that comes before the lane's address is only translated (R143). -/
def Park.fails (p : Park) (walk : Nat → Walk) (x : Nat × Nat) : Bool :=
  match walk x.1 with
  | .perm => true
  | .ok t => decide (x.2 ≤ x.1) && ((p.rd && !t.r) || (p.wr && !t.w))
  | .miss => false

/-- PAGE_WALK_COMPLETE: the walk for one of the pages that a parked strand waits for ends (R141, R144). `pick` names the page by its
place among them, in [.. 5], and the entry of a 2 MiB run that supplies the translation, in [4:0]. A walk that misses leaves the others
under way, and each walk that misses posts a record (R144). Where it ends in XLATE_PERM, the trap is that of the lowest lane that one of the pages
gives one (R141, R151). A walk comes after the lane parts that have arrived at the host port before its reads (R202). -/
def execPageWalkComplete (slot entry pick : Nat) (s : State) : Out :=
  State.event "PAGE_WALK_COMPLETE" (do
    let c ← s.ctxAt slot entry
    let p ← c.r.park
    let (page, va) ← p.pages[pick / 32]?
    guard (s.walkFree c.la.part c.la.root page (pick % 32))
    let walk (x : Nat) : Walk := if x / 65536 = page / 65536 then s.walk c.la.part c.la.root x (pick % 32) else s.walkNow c.co.die c.la.part c.la.root x
    let fails := p.fails walk
    if fails (page, va) then
      guard (c.w.state ≠ .halted)
      return s.takeTrap c .xlatePerm (dva (((p.asked.find? fails).map (·.2)).getD va)) p.act
    match walk page with
    | .ok t =>
      some ((s.tlbAdd c.co.die c.la.part c.la.root t).modRun slot entry fun q =>
        { q with park := some { p with pages := p.pages.filter fun x => !t.covers x.1 } })
    | .miss =>
      let t := s.modRun slot entry fun q => { q with park := some { p with posted := true, pages := p.pages.filter fun x => x.1 / 65536 != page / 65536 } }
      some { t with fwFaults := t.fwFaults ++ [c.record .xlateMiss 1 c.r.recPc (if p.each then dva va else p.addr) p.mask] }
    | .perm => none)

/-- FAULT_RESUME: the firmware resumes a parked strand, which replays its instruction, and has dealt with its records (R144, R307). -/
def execFaultResume (slot entry : Nat) (s : State) : Out :=
  State.event "FAULT_RESUME" (do
    let c ← s.ctxAt slot entry
    let p ← c.r.park
    guard p.posted
    let t := s.modRun slot entry fun q => { q with park := some { p with posted := false } }
    some { t with fwFaults := t.fwFaults.filter fun f => !(f.wave == waveField slot && f.strand == BitVec.ofNat 8 entry && f.flags == 1) })

end Sys2Proof.Machine
end

