-- ==== Sys2Proof/Machine/MemEvents.lean ====
section
/-! DEFINITION. The steps of the post queues, the homes, the push channels, the host port, the arrival units, and the firmware's
steps on translations (R145, R196 to R202, R210, R235 to R240, R245, R246, R323 to R325). -/

namespace Sys2Proof.Machine

/-! ## Sending parts (R196) -/

/-- A part that reads its bytes only. -/
def Part.reads (p : Part) : Bool :=
  match p.kind with
  | .read => true
  | .subscribe _ => true
  | .unsubscribe _ => true
  | _ => false

/-- A plain store to a UO page (R196). -/
def Part.plainUO (p : Part) : Bool := p.kind == .write && p.ord == .uo && !p.marks.rel

/-- A row of R196 keeps part `e` back because of the earlier part `a` of its wave. -/
def Part.holds (a e : Part) (before : Bool) : Bool :=
  (earlierThan e.key e.num e.covers e.jm a.key a.num && (e.ord == .so || a.ord == .so) && !a.performed) ||
  (before && a.meets e && !(a.reads && e.reads) && !(a.plainUO && e.plainUO) && !a.performed)

/-- Something other than a part of its own post queue keeps part `e` back: an entry not drained, a vault read or an acquiring load not
returned, what an acquire of an arm that has ended still waits for, or, for a release, what happens before it (R196, rows 1, 3 and 4). -/
def State.holdsPart (s : State) (slot : Nat) (w : Wave) (e : Part) : Bool :=
  let earlier := earlierThan e.key e.num e.covers e.jm
  let pending := w.sb.any (fun x => earlier x.key x.num) || w.readsLeft earlier
  ((e.ord == .so || e.marks.rel) && pending) || (e.marks.rel && s.anyPending e.marks.scope (w.beforePart e)) ||
  s.loads.any (fun l => l.slot == slot && l.cohort == w.cohort && l.acq && earlier l.key l.num) || w.lateAcqs.any fun a => earlier a.2.1 a.2.2

/-- The part may be sent (R196). -/
def State.sendable (s : State) (slot : Nat) (w : Wave) (e : Part) : Bool :=
  !s.holdsPart slot w e && w.pq.all fun a => a.id == e.id || !a.holds e (((w.pq.takeWhile fun x => x.id != e.id).any fun x => x.id == a.id))

/-! ## Performing parts (R197, R202, R328) -/

/-- A width and an address whose access performs in one step (R197). -/
def wholeStep (pa width : Nat) : Bool := [1, 2, 4, 8, 16].contains width && pa % width == 0

/-- The part performs in one step (R197). -/
def Part.single (p : Part) : Bool := wholeStep p.pa p.width

/-- Bytes return to a load: bytes at their offsets, poison, and one part less when the part has performed. -/
def State.returnBytes (s : State) (load at_ : Nat) (bs : List (Nat × Byte)) (poison : Option Nat) (last : Bool) : State :=
  { s with loads := s.loads.map fun l => if l.id = load then
      { l with bytes := bs.foldl (fun (m : FMap Byte) b => m.put (at_ + b.1) b.2) l.bytes,
               poison := (poison.map fun o => min (l.va + at_ + o) (l.poison.getD (l.va + at_ + o))).or l.poison, parts := if last then l.parts - 1 else l.parts }
    else l }

/-- The first poisoned byte among offsets of a part (R312, R313). -/
def State.poisonOf (s : State) (p : Part) (os : List Nat) : Option Nat :=
  if s.poisonG.isEmpty then none else os.find? fun o => s.poisonG.contains ((p.pa + o) / 64)

/-- Offsets of a part's bytes perform at its home or at the host port, with what happens before it in its wave. Where no link leads to
the chip, reads return all-ones with poison and writes are dropped (R328). -/
def State.performAt (s : State) (w : Wave) (p : Part) (os : List Nat) (last : Bool) : State :=
  let lost := !s.hasLink p.pa
  let old := os.map fun o => (o, if lost then 0xFF else s.gbyte p.mkey (p.pa + o))
  let poison := if lost then os.head? else s.poisonOf p os
  let ids := w.beforePart p
  let put (t : State) (bs : List (Nat × Byte)) : State :=
    if lost then t else t.homeWrite p.mkey (bs.map fun b => (p.pa + b.1, b.2)) (s.releaseOf w p.key p.marks ids) (s.stillPending ids)
  match p.kind with
  | .read =>
    match p.load with
    | some l => s.returnBytes l.1 l.2 old poison last
    | none => s
  | .write => put s (os.map fun o => (o, p.data.getD o 0))
  | .atomic op un opnd cmp =>
    let w64 := p.width == 8
    let x : DWord := BitVec.ofNat 64 (leNat (old.map (·.2)))
    let t := if op.fails w64 x cmp then s else put s (os.zip (leBytes p.width (op.apply w64 un x opnd cmp).toNat))
    match p.load with
    | some l => t.returnBytes l.1 l.2 old poison last
    | none => t
  | _ => s

/-- Replaces a part of a post queue; one that has performed and needs no acknowledgement leaves it. -/
def State.putPart (s : State) (slot : Nat) (p : Part) : State :=
  s.modWave slot fun w => { w with pq := (w.pq.map fun q => if q.id = p.id then p else q).filter fun q => !(q.sent && q.performed && !q.unacked) }

/-- Performs offsets of a part and takes note of it. -/
def State.performPart (s : State) (slot : Nat) (w : Wave) (p : Part) (os : List Nat) : State :=
  let rem := p.rem.filter fun o => !os.contains o
  let got := if p.marks.acq then s.synced w p.key p.marks.scope 1 (os.map (p.pa + ·)) else []
  ((s.performAt w p os rem.isEmpty).putPart slot { p with rem := rem, unacked := rem.isEmpty && isHost p.pa && !p.reads }).acquireParts slot
    p.key p.num got

/-- Parts that can be combined with plain UO stores already taken: sent, of the same page, whole, and sharing no byte (R196). -/
def combine (w : Wave) (p : Part) (k : Nat) : List Part :=
  (w.pq.foldl (fun (acc : List Part) q =>
    if acc.length ≤ k ∧ q.sent ∧ q.plainUO ∧ q.pa / 65536 = p.pa / 65536 ∧ q.rem.length = q.width ∧ acc.all (fun a => !a.meets q) then acc ++ [q]
    else acc) [p])

/-- Combined stores perform in one home step (R196). -/
def State.performCombined (s : State) (slot : Nat) (w : Wave) (ps : List Part) : State :=
  match ps with
  | [] => s
  | p :: _ =>
    let t := if s.hasLink p.pa then s.homeWrite p.mkey (ps.flatMap fun q => (addrs q.pa q.width).zip q.data) none (s.stillPending (ps.flatMap w.beforePart)) else s
    ps.foldl (fun u q => u.putPart slot { q with rem := [] }) t

/-- A read, write or atomic part: no subscription request. -/
def Part.isAccess (p : Part) : Bool :=
  match p.kind with
  | .subscribe _ => false
  | .unsubscribe _ => false
  | _ => true

/-! ## Subscriptions (R235 to R237) -/

/-- Entries of a home's subscription table in use: subscriptions, and one for the TAIL of each command queue (R235, R284). -/
def State.tableUse (s : State) (home : Nat) : Nat :=
  (s.subs.filter fun b => homeOf (b.word * 8) == some home).length +
  (s.parts.map fun p => (p.2.queues.filter fun q => homeOf q.2.tail == some home).length).sum

/-- Entries a home's table has (R235). -/
def tableSize (home : Nat) : Nat := if home % 64 < 16 then 16384 else 8192

/-- Enqueues a refusal or an acknowledgement with the requests it answers (R199, R233). -/
def State.pushPlain (s : State) (home core slot word : Nat) (k : PushKind) (answers : List Nat) : State :=
  { s with pushes := s.pushes ++ [⟨home, core, slot, word, k, answers, none, false⟩] }

/-- What a push answers has been answered (R233). -/
def State.answered (s : State) (p : Push) : State := p.answers.foldl (fun t a => t.acquired (.answer a)) s

/-- The head of a push channel, and the pushes without it (R199). -/
def popPush (home core : Nat) : List Push → Option (Push × List Push)
  | [] => none
  | p :: t => if p.home = home ∧ p.core = core then some (p, t) else (popPush home core t).map fun x => (x.1, p :: x.2)

/-- The delivery of a value (R236). That of a poisoned word poisons the slot (R313). -/
def State.deliverValue (s : State) (slot : Nat) (val : DWord) (seq : Word) (restored : Bool) (rel : Option Release) (poison : Bool) : State :=
  let fresh := (s.vaultByte (slot + 14)).getLsbD 0
  let ovr := leNat (s.vaultBytes (slot + 12) 2)
  let flags : Nat := 3 + (if restored then 8 else 0)
  let t := s.vaultWrite ((addrs slot 16).zip (leBytes 8 val.toNat ++ leBytes 4 seq.toNat ++ leBytes 2 (if fresh then min (ovr + 1) 0xFFFF else ovr) ++
    leBytes 2 flags)) rel
  if poison then { t with poisonV := t.poisonV ++ [slot / 16] } else t

/-- Frees an entry of a core's subscription directory (R234). -/
def State.freeDir (s : State) (core word slot : Nat) : State :=
  s.modCore core fun k => { k with subs := k.subs.filter (· != (word, slot)) }

/-- Removes a home's entries for which a test holds; a word without subscriptions has no counter (R235, R237, R239). -/
def State.dropSubs (s : State) (p : Subscription → Bool) : State :=
  let subs := s.subs.filter fun b => !p b
  { s with subs := subs, seqs := s.seqs.keep fun w _ => subs.any (·.word == w) }

/-! ## Landings (R158, R160, R308, R313) -/

/-- A load's bytes have all arrived and land as one vault write; then the barrier's pending bytes fall (R158, R160). A landing aimed
at a retired cohort is discarded (R30), and a poisoned one writes nothing: its wave traps (R313). -/
def State.land (s : State) (l : Load) : State :=
  let t := { s with loads := s.loads.filter (·.id != l.id) }.acquired (.load l.id)
  let gone := match l.target with
    | some k => match s.cohorts.find k with
      | some c => c.gone || c.freed
      | none => true
    | none => false
  match l.poison with
  | some va =>
    if (s.waves.find l.slot).any fun w => w.alive && w.cohort == l.cohort then
      t.setDue l.slot (s.eccRecord l.slot l.entry l.pc (dva va) l.mask 0) else t
  | none =>
    if gone then t else
    let bs := (List.range l.width).map fun k => (l.bytes.find k).getD 0
    (t.vaultWrite ((addrs l.ea l.land).zip (leBytes l.land (extend (8 * l.land) l.sx bs).toNat))).barrier l.cohort l.barrier
      fun b => { b with pend := b.pend - BitVec.ofNat 32 l.land }

/-! ## Regions (R201, R245, R246) -/

/-- The queue of a partition has no room (R283). -/
def State.queueFull (s : State) (part queue : Nat) : Bool :=
  match s.parts.find part with
  | none => true
  | some p =>
    match p.queues.find queue with
    | none => true
    | some x =>
      let word (pa : Nat) : DWord := BitVec.ofNat 64 (leNat (s.gbytes p.dkey pa 8))
      decide (2 ^ x.k ≤ (word x.tail - word x.head).toNat)

/-- A group of a launch holds as many RELEASEs as it can (R179). -/
def State.groupFull (s : State) (launch g : Nat) : Bool :=
  ((s.launches.find launch).bind fun l => l.groups.find g).any fun x => decide (0xFFFF ≤ x.held)

/-- An enabled action of an entry comes before its later counting steps (R201), but counting goes on while a LAUNCH waits for its queue, or a
RELEASE for its group, which holds 65,535 (R179, R246). -/
def State.blocksCount (s : State) (r : Region) : Bool :=
  r.enabled && match r.action with
  | .launch q _ => !s.queueFull (((s.launches.find r.launch).map (·.part)).getD 0) q
  | .release launch g => !s.groupFull launch g
  | _ => true

/-- The region that a hit of a write step counts for: one whose entry has not been freed since (R248). -/
def Arrival.hit (a : Arrival) (h : Nat × Word × Nat) : Option Region := if a.gen h.1 = h.2.1 then a.entries.find h.1 else none

/-- Counts bytes of one write step for an entry, with what happens before the write (R201, R245). -/
def Region.counted (r : Region) (n : Nat) (ids : List Nat) : Region := { r with count := min (r.count + n) (2 ^ 48 - 1), parts := ids }

/-- What every action does to its entry (R246). -/
def State.acted (s : State) (die k : Nat) : State :=
  { s with arrivals := s.arrivals.change die fun a => { a with entries := a.entries.change k fun r =>
      { r with count := if r.rearm then r.count - r.total else r.count, spent := !r.rearm, actions := min (r.actions + 1) 0xFFFF } } }

/-- The enabled action of an entry. -/
def State.enabledAction (s : State) (die k : Nat) : Option Region := do
  let a ← s.arrivals.find die
  let r ← a.entries.find k
  guard r.enabled
  some r

/-- An 8-byte word of a queue's parts (R283). -/
def State.queueWord (s : State) (p : Partition) (pa : Nat) : DWord := BitVec.ofNat 64 (leNat (s.gbytes p.dkey pa 8))

/-! ## Host requests (R323, R324) -/

/-- An address lies in a physical range. -/
def inRange (r : Nat × Nat) (pa : Nat) : Bool := decide (r.1 ≤ pa) && decide (pa < r.1 + r.2)

/-- The partition that an address belongs to (R31). -/
def State.ownerPart (s : State) (pa : Nat) : Option (Nat × Partition) :=
  s.parts.find? fun p => p.2.alloc.any (inRange · pa) || inRange p.2.qarea pa || inRange p.2.carea pa

/-- What a host request reaches (R323). -/
inductive HostTarget where
  | queue (key : Nat)
  | nothing
  | owned (key : Nat)
  | device (part : Option Nat)
deriving DecidableEq, Repr

/-- The entries of a table that are valid. -/
def State.validEntries (s : State) (key table n : Nat) : List DWord :=
  ((List.range n).map fun i => s.pte key (table + 8 * i)).filter fun e => e.getLsbD 0

/-- The leaves of a page table with the bytes each maps (R139, R140). -/
def State.leaves (s : State) (key root : Nat) : List (DWord × Nat) :=
  let next (e : DWord) : Nat := pteField e 12 44 * 4096
  (s.validEntries key root 512).flatMap fun e3 => (s.validEntries key (next e3) 512).flatMap fun e2 =>
    (s.validEntries key (next e2) 4096).flatMap fun e1 =>
      if e1.getLsbD 1 then (s.validEntries key (next e1) 1024).map fun e0 => (e0, if pteField e0 8 2 = 1 then 0x200000 else 0x10000)
      else [(e1, 0x4000000)]

/-- The leaf that maps a page of memory in some partition's page tables, with the partition (R323). -/
def State.leafOf (s : State) (pa : Nat) : Option (Nat × DWord) :=
  s.roots.findSome? fun r => ((s.leaves (s.dkey r.1) r.2).find? fun e =>
    decide (pteField e.1 16 40 * 65536 ≤ pa) && decide (pa < pteField e.1 16 40 * 65536 + e.2)).map fun e => (r.1, e.1)

/-- The target of a host request, in the order of R323. A page belongs to whom H of its entry says; one that no entry maps to whom it was
handed last, and to the host before (log 39). A page with CH holds what its channel key wrote. -/
def State.hostTarget (s : State) (pa : Nat) : HostTarget :=
  let owner := s.ownerPart pa
  let key := ((owner.map (·.2.dkey)).or (s.gkeys.find (pa / 64))).getD 0
  if s.parts.any fun p => inRange p.2.qarea pa then .queue key
  else if (s.parts.any fun p => inRange p.2.carea pa) || (homeOf pa).isNone then .nothing
  else match s.leafOf pa with
  | some (part, e) =>
    if !e.getLsbD 6 then .device (owner.map (·.1))
    else .owned (if e.getLsbD 7 then (s.channelKey part (pteField e 60 4)).getD key else key)
  | none => if (s.devPages.find (pa / 65536)).isSome then .device (owner.map (·.1)) else .owned key

/-- Posts a migration request, at most one a page; a full ring drops it (R324). -/
def State.migrate (s : State) (part : Option Nat) (pa : Nat) (write : Bool) : State :=
  let page := pa / 65536
  match part with
  | none => s
  | some k =>
    match s.parts.find k with
    | none => s
    | some p =>
      if p.migOut.contains page || decide (2 ^ p.migs.k ≤ p.migs.used) then s
      else (s.ringPut p p.migs 16 [leBytes 8 (65536 * (page % 2 ^ 32)) ++ leBytes 1 (if write then 1 else 0) ++ leBytes 1 k ++ leBytes 6 0]).modPart k fun x =>
        { x with migs := { x.migs with put := x.migs.put + 1 }, migOut := x.migOut ++ [page] }

/-- The physical address of a host request inside one page, and its length: no more than a line (R323). -/
def State.hostAddr (s : State) (addr n : Nat) : Option Nat := do
  let chip ← s.selfChip
  guard (s.hdmBase ≤ addr ∧ addr - s.hdmBase + n ≤ 0x200000000000 ∧ 1 ≤ n ∧ n ≤ 64 ∧
    (addr - s.hdmBase) / 65536 = (addr - s.hdmBase + n - 1) / 65536)
  some (chip * 2 ^ 48 + (addr - s.hdmBase))

/-- A host request enters the home of its page as a part (R202). -/
def State.enterHost (s : State) (key addr pa width : Nat) (data : Option (List Byte)) : State :=
  { s with hostq := s.hostq ++ [⟨s.nextPart, key, addr, pa, width, data, addrs 0 width, [], false⟩], nextPart := s.nextPart + 1 }

/-- The host has read bytes: whole entries among them, from the oldest on, make room in a ring (log 54). -/
def Ring.read (size pa n : Nat) : (fuel : Nat) → Ring → Ring
  | 0, r => r
  | k + 1, r =>
    let a := r.base + size * (r.got.toNat % 2 ^ r.k)
    if r.got ≠ r.put ∧ pa ≤ a ∧ a + size ≤ pa + n then Ring.read size pa n k { r with got := r.got + 1 } else r

/-- A host part whose last byte has performed leaves: a read replies, and a write that has covered a line ends its poison (R312, R323). -/
def State.leaveHost (s : State) (h : HostPart) : State :=
  let t := { s with hostq := s.hostq.filter (·.id != h.id) }
  match h.data with
  | some _ => { t with poisonG := t.poisonG.filter fun g => !(decide (h.pa ≤ 64 * g) && decide (64 * g + 64 ≤ h.pa + h.width)) }
  | none =>
    { t with hostReplies := t.hostReplies ++ [⟨h.addr, (List.range h.width).map fun o => (h.got.find o).getD 0, h.poison⟩],
             parts := t.parts.mapv fun _ p =>
               { p with faults := Ring.read 32 h.pa h.width 4 p.faults, migs := Ring.read 16 h.pa h.width 4 p.migs } }

/-- Offsets of a host part perform (R197). -/
def State.performHost (s : State) (h : HostPart) (os : List Nat) : State :=
  let rem := h.rem.filter fun o => !os.contains o
  let h' : HostPart := match h.data with
    | some _ => { h with rem := rem }
    | none =>
      { h with rem := rem, got := os.foldl (fun (m : FMap Byte) o => m.put o (s.gbyte h.key (h.pa + o))) h.got,
               poison := h.poison || (!s.poisonG.isEmpty && os.any fun o => s.poisonG.contains ((h.pa + o) / 64)) }
  let t := match h.data with
    | some bs => s.homeWrite h.key (os.map fun o => (h.pa + o, bs.getD o 0))
    | none => s
  if rem.isEmpty then t.leaveHost h' else { t with hostq := t.hostq.map fun x => if x.id = h.id then h' else x }

/-! ## Translations (R145, R210) -/

/-- Two runs of addresses meet. -/
def meet (a n b m : Nat) : Bool := decide (a < b + m) && decide (b < a + n)

/-- A cohort's launch uses a root. -/
def State.usesRoot (s : State) (root cohort : Nat) : Bool :=
  (s.cohorts.find cohort).any fun c => (s.launches.find c.launch).any fun l => l.root == root

/-- The parts of a wave that have not performed: those of its post queue and of its undrained entries. -/
def Wave.unperformed (w : Wave) : List Part :=
  (w.pq ++ w.sb.flatMap fun e => match e.kind with
    | .global ps => ps
    | .subscr ls => ls.map (·.2)
    | .unsub ls => ls.map (·.2)
    | _ => []).filter fun p => !p.performed

/-- An access of a wave to virtual addresses [va, va + n) has still to perform (R145). -/
def Wave.usesVa (w : Wave) (va n : Nat) : Bool := w.unperformed.any (fun p => meet p.va p.width va n) || w.blocks.any fun b => meet b.2 128 va n

/-- An access of a wave to a physical range has still to perform (R210). -/
def Wave.usesPa (w : Wave) (pa n : Nat) : Bool := w.unperformed.any (fun p => meet p.pa p.width pa n) || w.blocks.any fun b => meet b.1.frame b.1.size pa n

/-- The pieces of global memory that a job has translated and not finished with. -/
def Job.pieces (j : Job) : List Piece := j.left.flatMap fun p => p.2.src ++ p.2.dst

/-- A register translated through an entry that a shootdown covers becomes stale (R145). -/
def XReg.shot (va size : Nat) (x : XReg) : XReg :=
  match x.trans with
  | some t => if x.valid && meet t.vbase t.size va size then { x with stale := true, trans := none } else x
  | none => x

/-- Changes the translation registers of a wave, and the results of its XLATs on their way. -/
def Wave.mapX (f : XReg → XReg) (w : Wave) : Wave :=
  { w.mapRuns fun r => { r with flights := r.flights.map fun g => { g with writes := g.writes.map fun a => match a with
      | .x k v => .x k (f v)
      | a => a } } with x := w.x.mapv fun _ x => f x }

/-- POST_QUEUE_SEND: one part leaves for its home (R196). -/
def execPostQueueSend (slot part : Nat) (s : State) : Out :=
  State.event "POST_QUEUE_SEND" (do
    let w ← s.waves.find slot
    let p ← w.pq.find? (·.id == part)
    guard (!p.sent ∧ s.sendable slot w p)
    some (s.putPart slot { p with sent := true, sentAt := s.tick }))

/-- HOME_PERFORM: a home performs a part of a wave or of the host, or one byte of a part, read or written, that does not perform whole (R197, R202,
log 107). A byte
number at or beyond the width performs a plain UO store together with others (R196). -/
def execHomePerform (slot part byte : Nat) (s : State) : Out :=
  State.event "HOME_PERFORM" (
    if slot = hostSlot then do
      let h ← s.hostq.find? (·.id == part)
      if wholeStep h.pa h.width then
        guard (byte = 0)
        some (s.performHost h h.rem)
      else
        guard (h.rem.contains byte)
        some (s.performHost h [byte])
    else do
      let w ← s.waves.find slot
      let p ← w.pq.find? (·.id == part)
      guard (p.sent ∧ p.isAccess ∧ !isHost p.pa)
      if p.width ≤ byte then
        guard (p.plainUO ∧ p.rem.length = p.width)
        some (s.performCombined slot w (combine { w with pq := w.pq.filter (·.id != part) } p (byte - p.width)))
      else if p.single then
        guard (byte = 0)
        some (s.performPart slot w p p.rem)
      else
        guard (p.rem.contains byte)
        some (s.performPart slot w p [byte]))

/-- SUBSCRIBE_REQUEST: a home performs a subscribe request (R235). -/
def execSubscribeRequest (slot part : Nat) (s : State) : Out :=
  State.event "SUBSCRIBE_REQUEST" (do
    let w ← s.waves.find slot
    let p ← w.pq.find? (·.id == part)
    match p.kind with
    | .subscribe a =>
      guard p.sent
      let home := (homeOf p.pa).getD 0
      let word := p.pa / 8
      let core := slotCore slot
      let t := (s.putPart slot { p with rem := [] }).acquireParts slot p.key p.num
        (if p.marks.acq then s.synced w p.key p.marks.scope 1 (addrs p.pa 8) else [])
      let b : Subscription := ⟨word, core, a, w.cohort, false, []⟩
      if !s.hasLink p.pa then some t
      else if s.subs.any fun x => x.word == word && x.core == core && x.slot == a && !x.dormant then
        some (t.pushValue home b (s.gword p.mkey word) ((s.seqs.find word).getD 0) false [p.id] none (s.poisonedWord word))
      else if tableSize home ≤ s.tableUse home then some (t.pushPlain home core a word .refusal [p.id])
      else
        let seq := if s.subs.any (·.word == word) then (s.seqs.find word).getD 0 else Config.freeSeq s.tick word
        some ({ t with subs := t.subs ++ [b], seqs := t.seqs.put word seq }.pushValue home b (s.gword p.mkey word) seq false [p.id] none (s.poisonedWord word))
    | _ => none)

/-- UNSUBSCRIBE_REQUEST: a home performs an unsubscribe request (R237). -/
def execUnsubscribeRequest (slot part : Nat) (s : State) : Out :=
  State.event "UNSUBSCRIBE_REQUEST" (do
    let w ← s.waves.find slot
    let p ← w.pq.find? (·.id == part)
    match p.kind with
    | .unsubscribe a =>
      guard p.sent
      let home := (homeOf p.pa).getD 0
      let word := p.pa / 8
      let core := slotCore slot
      let t := (s.putPart slot { p with rem := [] })
      if !s.hasLink p.pa then some t else
      let u := t.dropSubs fun x => x.word == word && x.core == core && x.slot == a && !x.dormant
      some ({ u with pushes := dropValues home core a u.pushes }.pushPlain home core a word .ack
        (p.id :: (u.pushes.filter (Push.valueFor home core a)).flatMap fun (x : Push) => x.answers))
    | _ => none)

/-- PUSH_DELIVERY: a channel delivers its head push into the slot (R199, R236). -/
def execPushDelivery (home core : Nat) (s : State) : Out :=
  State.event "PUSH_DELIVERY" (do
    let (p, ps) ← popPush home core s.pushes
    match p.kind with
    | .value val seq restored => some (({ s with pushes := ps }.deliverValue p.slot val seq restored p.rel p.poison).answered p)
    | _ => none)

/-- REFUSAL_DELIVERY: a refusal lands: only REFUSED stays set (R234, R235). -/
def execRefusalDelivery (home core : Nat) (s : State) : Out :=
  State.event "REFUSAL_DELIVERY" (do
    let (p, ps) ← popPush home core s.pushes
    match p.kind with
    | .refusal => some ((({ s with pushes := ps }.slotStatus p.slot (2 ^ 50)).freeDir core p.word p.slot).answered p)
    | _ => none)

/-- UNSUB_ACK_DELIVERY: an acknowledgement clears ACTIVE and frees the directory entry (R234, R237). -/
def execUnsubAckDelivery (home core : Nat) (s : State) : Out :=
  State.event "UNSUB_ACK_DELIVERY" (do
    let (p, ps) ← popPush home core s.pushes
    match p.kind with
    | .ack => some ((({ s with pushes := ps }.slotInactive p.slot).freeDir core p.word p.slot).answered p)
    | _ => none)

/-- GLD_LANDING: the bytes of a GLD lane land (R158), in any order of the lanes (log 122). -/
def execGldLanding (load : Nat) (s : State) : Out :=
  State.event "GLD_LANDING" (do
    let l ← s.loads.find? (·.id == load)
    guard (!l.atomic ∧ l.parts = 0)
    some (s.land l))

/-- GATOM_LANDING: the old value of a GATOM lane lands (R160), in any order of the lanes (log 122). -/
def execGatomLanding (load : Nat) (s : State) : Out :=
  State.event "GATOM_LANDING" (do
    let l ← s.loads.find? (·.id == load)
    guard (l.atomic ∧ l.parts = 0)
    some (s.land l))

/-- SHOOTDOWN: a die drops old translations once every access through them has performed, those of saved waves among them (R145). -/
def execShootdown (die root va size : Nat) (s : State) : Out :=
  State.event "SHOOTDOWN" (do
    guard (s.waves.all fun e => e.1 / 2048 != die || !s.usesRoot root e.2.cohort || !e.2.usesVa va size)
    guard (s.saved.all fun v => !s.usesRoot root v.cohort || v.waves.all fun e => !e.2.usesVa va size)
    guard (s.cores.all fun e => e.1 / 64 != die || e.2.jobs.all fun j => !s.usesRoot root j.cohort ||
      j.pieces.all fun x => !meet x.t.vbase x.t.size va size)
    some { s with
      tlb := s.tlb.change die fun es => es.filter fun e => !(e.root == root && meet e.trans.vbase e.trans.size va size),
      waves := s.waves.mapv fun k w => if k / 2048 = die ∧ s.usesRoot root w.cohort then w.mapX (XReg.shot va size) else w })

/-- The pieces of the packet that an action will read (R243, R246). -/
def Action.packet : Action → List Piece
  | .launch _ ps => ps
  | _ => []

/-- OWNERSHIP_STEP: a page moves from one owner to the other at its home: H of its entries, but for those to which no link leads, and who owns it
(R140, R146, R210, R328). -/
def execOwnershipStep (pte frame size : Nat) (host : Bool) (s : State) : Out :=
  State.event "OWNERSHIP_STEP" (do
    guard (size = 0x10000 ∨ size = 0x200000 ∨ size = 0x4000000)
    guard (frame % size = 0 ∧ (homeOf frame).isSome)
    let held (t : Trans) := meet t.frame t.size frame size
    guard (if host then
        (s.waves.all fun e => !e.2.usesPa frame size) && (s.saved.all fun v => v.waves.all fun e => !e.2.usesPa frame size) &&
        (s.tlb.all fun e => e.2.all fun x => !held x.trans) &&
        (s.waves.all fun e => (e.2.x.all fun x => !(x.2.valid && x.2.trans.any held)) && e.2.runs.all fun r => r.2.flights.all fun f =>
          f.writes.all fun a => match a with
            | .x _ v => !(v.valid && v.trans.any held)
            | _ => true) &&
        (s.cores.all fun e => e.2.jobs.all fun j => j.pieces.all fun x => !held x.t) &&
        s.arrivals.all fun e => e.2.entries.all fun r => r.2.spent || !r.2.action.packet.any fun x => held x.t
      else s.hostq.all fun h => !meet h.pa h.width frame size)
    let entries := if size = 0x200000 then (List.range 32).map fun k => pte / 256 * 256 + 8 * k else [pte]
    let key := (s.gkeys.find (pte / 64)).getD 0
    let t := (entries.filter s.hasLink).foldl (fun u a =>
      u.homeWrite key ((addrs a 8).zip (leBytes 8 (setBit (u.pte key a) 6 host).toNat))) s
    let pages := addrs (frame / 65536) (size / 65536)
    some { t with
      devPages := if host then t.devPages.keep fun k _ => !pages.contains k else pages.foldl (fun (m : FMap Unit) k => m.put k ()) t.devPages,
      parts := if host then t.parts.mapv fun _ p => { p with migOut := p.migOut.filter fun k => !pages.contains k } else t.parts })

/-- REGION_COUNT: an arrival unit counts the oldest write step of a home, for every region that it meets (R201, R245). -/
def execRegionCount (home : Nat) (s : State) : Out :=
  State.event "REGION_COUNT" (do
    let a ← s.arrivals.find (homeDie home)
    let x ← a.writes.find? (·.home == home)
    guard (x.hits.all fun h => (a.hit h).all fun r => !s.blocksCount r)
    let entries := x.hits.foldl (fun (m : FMap Region) h => match a.hit h with
      | some r => m.put h.1 (r.counted h.2.2 (s.stillPending (r.parts ++ x.parts)))
      | none => m) a.entries
    some { s with arrivals := s.arrivals.put (homeDie home) { a with writes := a.writes.eraseP (·.home == home), entries := entries } })

/-- REGION_ARRIVE: one engine arrival at a barrier of the arming cohort (R246). -/
def execRegionArrive (die entry : Nat) (s : State) : Out :=
  State.event "REGION_ARRIVE" (do
    let r ← s.enabledAction die entry
    match r.action with
    | .arrive cohort k =>
      let t := s.acted die entry
      some (if (s.cohorts.find cohort).any fun c => !c.gone then t.barrier cohort k Barrier.arriveEngine r.parts else t)
    | _ => none)

/-- REGION_RELEASE: one RELEASE for a group; it waits while 65,535 are held (R179, R246). -/
def execRegionRelease (die entry : Nat) (s : State) : Out :=
  State.event "REGION_RELEASE" (do
    let r ← s.enabledAction die entry
    match r.action with
    | .release launch g =>
      let l ← s.launches.find launch
      let x ← l.groups.find g
      guard (x.held < 0xFFFF)
      some (((s.acted die entry).modLaunch launch fun y =>
        { y with groups := y.groups.change g fun z => { z with held := z.held + 1, parts := s.stillPending (z.parts ++ r.parts) } }).settleGroup launch g)
    | _ => none)

/-- REGION_TASK: pushes a task record where the arming cohort is bound, or onto the overflow queue (R246). -/
def execRegionTask (die entry : Nat) (s : State) : Out :=
  State.event "REGION_TASK" (do
    let r ← s.enabledAction die entry
    match r.action with
    | .task cohort record =>
      let part := ((s.launches.find r.launch).map (·.part)).getD 0
      let t := s.acted die entry
      let x : TaskRec := ⟨r.launch, record, s.stillPending r.parts⟩
      some (match s.cohorts.find cohort with
        | some c => if c.preempted || c.gone then t.overflowTask part x else t.pushTask part c.place x
        | none => t.overflowTask part x)
    | _ => none)

/-- The packet of a LAUNCH action is poisoned in one of its halves of 64 bytes, or no link leads to it (R312, R313, R328). -/
def State.packetPoison (s : State) (ps : List Piece) (half : Nat) : Bool :=
  (((ps.flatMap fun b => addrs b.pa b.len).drop (64 * half)).take 64).any fun a => !s.hasLink a || s.poisonG.contains (a / 64)

/-- The release that a region's FLAG write is: an acquire that reads it has every counted byte, whatever its scope (R201, R207). -/
def State.actionRelease (s : State) (r : Region) : Option Release :=
  let die := (homeOf r.pa).map homeDie
  some ⟨7, ⟨cohortKey r.launch 0, 0, cohortKey r.launch 0, die.getD 0, []⟩, s.stillPending r.parts, true⟩

/-- REGION_FLAG: one 8-byte vault write in the resolved cohort's window, or in its saved window (R246). -/
def execRegionFlag (die entry : Nat) (s : State) : Out :=
  State.event "REGION_FLAG" (do
    let r ← s.enabledAction die entry
    match r.action with
    | .flag cohort at_ x =>
      let t := s.acted die entry
      some (match cohort.bind s.cohorts.find with
        | some c =>
          if c.preempted then
            { t with saved := t.saved.map fun v => if some v.cohort = cohort then
                { v with window := ((addrs at_ 8).zip (leBytes 8 x.toNat)).foldl (fun (m : FMap Byte) b => m.put b.1 b.2) v.window,
                         syncs := (v.syncs.filter fun y => !(addrs at_ 8).contains y.1) ++ (addrs at_ 8).filterMap fun a => (s.actionRelease r).map fun z => (a, z) } else v }
          else if c.gone || c.freed then t
          else t.vaultWrite ((addrs (c.winBase + at_) 8).zip (leBytes 8 x.toNat)) (s.actionRelease r)
        | none => t)
    | _ => none)

/-- REGION_LAUNCH: reads a launch packet and enqueues it, with its poison; it waits while the queue is full, and behind the parts that have arrived at
the host port before its reads (R202, R246, R283, R313). -/
def execRegionLaunch (die entry : Nat) (s : State) : Out :=
  State.event "REGION_LAUNCH" (do
    let r ← s.enabledAction die entry
    match r.action with
    | .launch q ps =>
      let l ← s.launches.find r.launch
      let p ← s.parts.find l.part
      let x ← p.queues.find q
      let tail := s.queueWord p x.tail
      guard (!s.queueFull l.part q ∧ ps.all fun b => s.portFree (addrs b.pa b.len))
      let packet := ps.flatMap fun b => if s.hasLink b.pa then s.gbytes b.t.key b.pa b.len else List.replicate b.len 0xFF
      let at_ := x.ring + 128 * (tail.toNat % 2 ^ x.k)
      let t := (s.acted die entry).queueWrite p at_ packet
      some ({ t with poisonG := t.poisonG ++ ([0, 1].filter (s.packetPoison ps)).map (at_ / 64 + ·) }.queueWrite p x.tail (leBytes 8 (tail + 1).toNat))
    | _ => none)

/-- No part that reached the host port before has still to perform one of these bytes (R202). -/
def State.arrivedFirst (s : State) (p : Part) (os : List Nat) : Bool :=
  s.waves.all fun e => e.2.pq.all fun q => !(isHost q.pa && q.sent && decide (q.sentAt < p.sentAt)) ||
    os.all fun o => !(decide (q.pa ≤ p.pa + o) && q.rem.contains (p.pa + o - q.pa))

/-- HOST_PORT_PERFORM: the host port performs a part to host memory (R202, R325). -/
def execHostPortPerform (slot part byte : Nat) (s : State) : Out :=
  State.event "HOST_PORT_PERFORM" (do
    let w ← s.waves.find slot
    let p ← w.pq.find? (·.id == part)
    guard (p.sent ∧ p.isAccess ∧ isHost p.pa ∧ p.rem ≠ [])
    guard (s.arrivedFirst p (if p.single then p.rem else [byte]))
    if p.single then
      guard (byte = 0)
      some (s.performPart slot w p p.rem)
    else
      guard (p.rem.contains byte)
      some (s.performPart slot w p [byte]))

/-- HOST_PORT_ACK: the host port acknowledges a part that the host has made visible (R202). -/
def execHostPortAck (slot part : Nat) (s : State) : Out :=
  State.event "HOST_PORT_ACK" (do
    let w ← s.waves.find slot
    let p ← w.pq.find? (·.id == part)
    guard p.unacked
    some (s.putPart slot { p with unacked := false }))

/-- HOST_READ: a host CXL.mem read of one page enters the device, decided by its target (R323, R324). -/
def execHostRead (addr count : Nat) (s : State) : Out :=
  State.event "HOST_READ" (do
    let pa ← s.hostAddr addr count
    let ones : HostReply := ⟨addr, List.replicate count 0xFF, true⟩
    some (match s.hostTarget pa with
      | .queue key => s.enterHost key addr pa count none
      | .owned key => s.enterHost key addr pa count none
      | .nothing => { s with hostReplies := s.hostReplies ++ [ones] }
      | .device part => { s with hostReplies := s.hostReplies ++ [ones] }.migrate part pa false))

/-- HOST_WRITE: a host CXL.mem write into one page enters the device, decided by its target (R323, R324). -/
def execHostWrite (addr : Nat) (data : List Byte) (s : State) : Out :=
  State.event "HOST_WRITE" (do
    let pa ← s.hostAddr addr data.length
    some (match s.hostTarget pa with
      | .queue key => s.enterHost key addr pa data.length (some data)
      | .owned key => s.enterHost key addr pa data.length (some data)
      | .nothing => s
      | .device part => s.migrate part pa true))

end Sys2Proof.Machine
end

