-- ==== Sys2Proof/Machine/CopyEvents.lean ====
section
/-! DEFINITION. The steps of the copy engines and the matrix arrays (R200, R249 to R255, R267 to R270, R277 to R282). -/

namespace Sys2Proof.Machine

/-! ## A job's launch, wave and records -/

/-- Replaces a job of a core; one that has stopped and has nothing left to finish is gone. -/
def State.setJob (s : State) (core : Nat) (j : Job) : State :=
  s.modCore core fun k =>
    { k with jobs := (k.jobs.map fun x => if x.id = j.id then j else x).filter fun x => !(x.state == .stopped && x.left.isEmpty) }

/-- Removes a job of a core. -/
def State.dropJob (s : State) (core id : Nat) : State := s.modCore core fun k => { k with jobs := k.jobs.filter (·.id != id) }

/-- The wave of a job, while it lives. -/
def State.jobWave (s : State) (slot cohort : Nat) : Option Wave :=
  (s.waves.find slot).filter fun w => w.cohort == cohort && w.alive

/-- The launch of a cohort. -/
def State.launchOf (s : State) (cohort : Nat) : Option Launch := (s.cohorts.find cohort).bind fun c => s.launches.find c.launch

/-- The fault record of a job (R282, R304). -/
def State.jobRecord (s : State) (j : Job) (cause : Cause) (flags : Nat) (addr : DWord) (prog : Nat) : FaultRec :=
  { cause, flags := BitVec.ofNat 8 flags, strand := BitVec.ofNat 8 j.strand,
    launch := BitVec.ofNat 8 (((s.cohorts.find j.cohort).map (·.launch)).getD 0),
    wave := waveField j.slot, pc := BitVec.ofNat 48 j.pc, addr, mask := 0, prog := BitVec.ofNat 32 prog }

/-- A fatal fault of the wave that issued a job: taken at its next instruction boundary (R282, R313). If the wave has retired, its record
is posted and its cohort counts as having taken a fatal fault (R309). -/
def State.waveFault (s : State) (slot cohort : Nat) (f : FaultRec) : State :=
  match s.jobWave slot cohort with
  | some _ => s.setDue slot f
  | none =>
    match s.cohorts.find cohort with
    | none => s
    | some c =>
      let part := ((s.launches.find c.launch).map (·.part)).getD 0
      (((s.postFault part c.launch true f none).modCohort cohort fun d => { d with fatal := true }).abandon cohort 1).loseMeets c.launch c.index

/-- A job stops with a fatal fault of its wave (R282). -/
def State.jobStops (s : State) (core : Nat) (j : Job) (cause : Cause) (addr : DWord) (prog : Nat) : State :=
  (s.setJob core { j with state := .stopped }).waveFault j.slot j.cohort (s.jobRecord j cause 2 addr prog)

/-- A job parks on a translation miss: the record goes to the firmware (R282, R306). -/
def State.jobParks (s : State) (core : Nat) (j : Job) (addr : DWord) : State :=
  { s.setJob core { j with state := .parked } with fwFaults := s.fwFaults ++ [s.jobRecord j .xlateMiss 3 addr j.prog] }

/-- A FENCE.ENG of the wave that was issued before the job has not completed (R184). -/
def State.fenced (s : State) (j : Job) : Bool :=
  (s.jobWave j.slot j.cohort).any fun w => w.runs.any fun r => match r.2.wait with
    | some (.fence .eng _ num) => decide (num ≤ j.num)
    | _ => false

/-! ## Where a job's bytes lie (R131, R249, R250, R258, R278, R279) -/

/-- A step-cache job. -/
def Job.step? (j : Job) : Bool := j.kind == .stepchk || j.kind == .steprec

/-- What a job moves now: its source and destination, each global or a vault address, or bytes of its own; for a step-cache job what its
phase moves. A leg without a destination reads into the job, by its phase. -/
structure Leg where
  src  : Option (Bool × Nat)
  dst  : Option (Bool × Nat)
  data : List Byte
  len  : Nat
deriving DecidableEq, Repr

/-- The bytes that a phase of a step-cache job has read. -/
def Job.read (j : Job) (phase n : Nat) : List Byte :=
  (List.range n).map fun o => (((j.buf.find phase).getD []).find o).getD 0

/-- The phases of a step-cache job (R252, R253): 0 reads the header, 1 the input, 2 the stored input; a match copies the stored output (3),
reads HITS (4) and writes TAG and HITS, which are of one sector (5); a miss clears FLAGS (7), stores the input (8) and writes the header (9); STEPREC
stores the output (11) and sets FLAGS (12). Phase 10 is the end. -/
def Job.leg (j : Job) : Leg :=
  let out := j.entry + 128 + stepPad j.fmt j.count
  match j.phase with
  | 0 => ⟨some (true, j.entry), none, [], 16⟩
  | 1 => ⟨some (false, j.src), none, [], j.rowb⟩
  | 2 => ⟨some (true, j.entry + 128), none, [], j.rowb⟩
  | 3 => ⟨some (true, out), some (false, j.dst), [], j.rowb⟩
  | 4 => ⟨some (true, j.entry + 16), none, [], 8⟩
  | 5 => ⟨none, some (true, j.entry + 4), leBytes 4 j.step.toNat ++ leBytes 8 0 ++ leBytes 8 (BitVec.ofNat 64 (leNat (j.read 4 8) + 1)).toNat, 20⟩
  | 7 => ⟨none, some (true, j.entry), leBytes 4 0, 4⟩
  | 8 => ⟨none, some (true, j.entry + 128), j.read 1 j.rowb, j.rowb⟩
  | 9 => ⟨none, some (true, j.entry), leBytes 4 1 ++ leBytes 4 j.step.toNat ++ leBytes 4 j.count ++ leBytes 1 j.fmt ++ leBytes 3 0, 16⟩
  | 11 => ⟨some (false, j.dst), some (true, out), [], j.rowb⟩
  | 12 => ⟨none, some (true, j.entry), leBytes 4 3, 4⟩
  | _ => ⟨none, none, [], 0⟩

/-- Bytes of the linear order of what the job moves now. -/
def Job.size (j : Job) : Nat := if j.step? then j.leg.len else j.rows * j.rowb

/-- The address of the source and of the destination of byte `i` of the linear order. -/
def Job.srcByte (j : Job) (i : Nat) : Nat :=
  if j.step? then ((j.leg.src.map (·.2)).getD 0) + i else j.src + i / j.rowb * j.sstr + i % j.rowb
def Job.dstByte (j : Job) (i : Nat) : Nat :=
  if j.step? then ((j.leg.dst.map (·.2)).getD 0) + i else j.dst + swizzle j.layout (i / j.rowb * j.dstr + i % j.rowb)

/-- Byte `i` comes from, and goes to, global memory. -/
def Job.fromG (j : Job) : Bool := if j.step? then j.leg.src.any (·.1) else j.srcG
def Job.toG (j : Job) : Bool := if j.step? then j.leg.dst.any (·.1) else j.dstG

/-- The job writes what it moves now. -/
def Job.writes (j : Job) : Bool := !j.step? || j.leg.dst.isSome

/-- The address whose blocks of 128 cut byte `i` into sectors (R282): its destination without the swizzle, which leaves every byte in its
block; its source where the job only reads. -/
def Job.blockByte (j : Job) (i : Nat) : Nat :=
  if j.step? then (if j.writes then j.dstByte i else j.srcByte i) else j.dst + i / j.rowb * j.dstr + i % j.rowb

/-- Length of the sector that begins at byte `i` (R282). -/
def Job.sectorLen (j : Job) (i : Nat) : Nat :=
  min (if j.step? then j.leg.len - i else j.rowb - i % j.rowb) (128 - j.blockByte i % 128)

/-- Number of the sector that byte `i` lies in, among those of what the job moves now (R282). -/
def Job.sectorNo (j : Job) (i : Nat) : Nat :=
  if j.step? then j.blockByte i / 128 - j.blockByte 0 / 128
  else
    let at_ (r : Nat) := (j.dst + r * j.dstr) % 128
    ((List.range (i / j.rowb)).map fun r => (at_ r + j.rowb + 127) / 128).sum + (at_ (i / j.rowb) + i % j.rowb) / 128

/-- The vault address that an EA of a job's cohort reaches now (R131). -/
def State.jobVault (s : State) (j : Job) (ea : Nat) : Nat :=
  ((do
    let co ← s.cohorts.find j.cohort
    let la ← s.launches.find co.launch
    s.vaultAt co la ea).getD 0)

/-- The largest naturally aligned piece of at most 16 bytes at an address (R278). -/
def pieceLen (a n : Nat) : Nat :=
  if a % 16 = 0 ∧ 16 ≤ n then 16 else if a % 8 = 0 ∧ 8 ≤ n then 8 else if a % 4 = 0 ∧ 4 ≤ n then 4 else if a % 2 = 0 ∧ 2 ≤ n then 2 else 1

/-- Cuts a run of destination bytes into pieces: offsets in the run and lengths. -/
def cutPieces : (fuel a at_ n : Nat) → List (Nat × Nat)
  | 0, _, _, _ => []
  | k + 1, a, at_, n => if n = 0 then [] else
      let m := pieceLen a n
      (at_, m) :: cutPieces k (a + m) (at_ + m) (n - m)

/-- The pieces of the sector of a job that begins at byte `i` (R278); between TAG and HITS a match writes nothing (R252). -/
def Job.cut (j : Job) (i n : Nat) : List (Nat × Nat) := if j.step? && j.phase == 5 then [(0, 4), (12, 8)] else cutPieces 128 (j.blockByte i) i n

/-- A job may reach the vault byte of an EA: it lies in its partition (R31, R32). -/
def State.jobReaches (s : State) (j : Job) (ea : Nat) : Bool :=
  ((do
    let co ← s.cohorts.find j.cohort
    let la ← s.launches.find co.launch
    let va ← s.vaultAt co la ea
    some (s.inPartition la.part va)).getD false)

/-- Translates a range for a job: its pieces page by page, or whether permission failed or a walk missed, and where (R277, R282). -/
def State.rangeOf (s : State) (die : Nat) (la : Launch) (rd wr : Bool) : (fuel va n : Nat) → Except (Bool × Nat) (List Piece)
  | 0, _, _ => .ok []
  | k + 1, va, n =>
    if n = 0 then .ok [] else
    match s.walkNow die la.part la.root va with
    | .miss => .error (false, va)
    | .perm => .error (true, va)
    | .ok t =>
      if (rd && !t.r) || (wr && !t.w) then .error (true, va) else
      let m := min n (t.vbase + t.size - va)
      match s.rangeOf die la rd wr k (va + m) (n - m) with
      | .error e => .error e
      | .ok ps => .ok (⟨t.pa va, m, t⟩ :: ps)

/-- The walks of a range come after the lane parts that have arrived at the host port before their reads (R202). -/
def State.rangeFree (s : State) (die : Nat) (la : Launch) : (fuel va n : Nat) → Bool
  | 0, _, _ => true
  | k + 1, va, n =>
    n == 0 || (s.walkNowFree die la.part la.root va && match s.walkNow die la.part la.root va with
      | .ok t => s.rangeFree die la k (va + min n (t.vbase + t.size - va)) (n - min n (t.vbase + t.size - va))
      | _ => true)

/-- The walks of the sector that begins at byte `i` of a job may be made now (R202, R282). -/
def State.sectorFree (s : State) (die : Nat) (la : Launch) (j : Job) (i : Nat) : Bool :=
  (!(j.fromG && (!j.step? || j.leg.src.isSome)) || s.rangeFree die la 3 (j.srcByte i) (j.sectorLen i)) &&
  (!(j.toG && j.writes) || s.rangeFree die la 3 (j.dstByte i) (j.sectorLen i))

/-- Takes the outcome of a failed translation (R282). -/
def State.jobXlate (s : State) (core : Nat) (j : Job) (e : Bool × Nat) : State :=
  if e.1 then s.jobStops core j .xlatePerm (dva e.2) j.prog else s.jobParks core j (dva e.2)

/-! ## The order of jobs (R200, R280) -/

/-- The rows of a range of a job hold a byte: space 0 is the vaults, 1 the virtual addresses. -/
def State.jobRows (s : State) (j : Job) (global : Bool) (base stride rows w : Nat) (lay : BitVec 4) (space a : Nat) : Bool :=
  if global then space == 1 && inRows base stride rows w lay a
  else space == 0 && (match s.cohorts.find j.cohort with
    | none => false
    | some co => match s.launches.find co.launch with
      | none => false
      | some la => s.inVaultRows co la base stride rows w lay a)

/-- A job's footprint has a byte: space 0 is the vaults, 1 the virtual addresses, 2 + slot the tiles of a wave (R254, R280). -/
def State.jobUses (s : State) (j : Job) (write : Bool) (space a : Nat) : Bool :=
  let src := s.jobRows j j.srcG j.src j.sstr j.rows j.rowb 0 space a
  let dst := s.jobRows j j.dstG j.dst j.dstr j.rows j.rowb j.layout space a
  let entry := s.jobRows j true j.entry 0 1 (128 + 2 * stepPad j.fmt j.count) 0 space a
  match j.kind with
  | .copy | .copyl => if write then dst else src
  | .copyc => if write then space == 2 + j.slot && a / 16384 == j.tile else src
  | .tstg => write && dst
  | .stepchk => if write then dst || entry else src || entry
  | .steprec => if write then entry else src || dst || entry

/-- Every job accepted earlier from the cohort whose footprint overlaps at one of these bytes, with a write, has completed or
stopped (R200). -/
def State.allows (s : State) (k : Core) (j : Job) (write : Bool) (space : Nat) (as : List Nat) : Bool :=
  (k.jobs.takeWhile (·.id != j.id)).all fun e => e.cohort != j.cohort || e.state == .handedOver ||
    as.all fun a => !(s.jobUses e true space a) && !(write && s.jobUses e false space a)

/-! ## Pieces (R278, R279, R281, R282) -/

/-- Performs writes to a wave's registers and tiles that no strand makes. -/
def State.writeWave (s : State) (slot : Nat) (ws : List Wr) : State :=
  match s.waves.find slot with
  | none => s
  | some w =>
    let blank : Run := { role := .root, up := none, mask := 0, pc := 0, fromPc := 0, lastPc := 0, priv := [], q := 0, key := [], covers := [], jm := none,
                         joinedV := 0, joinedP := 0, lapsedV := 0, lapsedP := 0, flights := [], wait := none, park := none, held := false,
                         sub := none, acqs := [], lastSub := none, passed := false }
    { s with waves := s.waves.put slot (applyWrs w blank ws).1,
             poisonT := if s.poisonT.isEmpty then [] else s.poisonT.filter fun g => !(g.1 == slot && ws.any fun a => a.granules.contains g.2) }

/-- The entry of two step-cache jobs of different cohorts that are not ordered becomes unspecified: its header and what it stores (R254). -/
def State.scramble (s : State) (die : Nat) (la : Launch) (j : Job) : State :=
  let bytes (a n : Nat) : List Nat := match s.rangeOf die la true true 300 a n with
    | .ok ps => ps.flatMap fun x => addrs x.pa x.len
    | .error _ => []
  { s with gmem := Memory.unsetAll s.gmem (bytes j.entry 24 ++ bytes (j.entry + 128) j.rowb ++
      bytes (j.entry + 128 + stepPad j.fmt j.count) j.rowb) }

/-- A use that happens neither before a job nor after a launch that had ended before the job's began (R207, R254, log 27). -/
def Use.unordered (u : Use) (j : Job) : Bool :=
  u.cohort != j.cohort && !j.after.contains u.id && u.beside.all fun hs => hs.contains (j.cohort / 2 ^ 32)

/-- A step-cache job finds its header: if a job of another cohort uses the same entry or has used it, and the two are not ordered by
happens-before, what they leave there is unspecified (R254, log 27). -/
def State.findHead (s : State) (core : Nat) (j : Job) (la : Launch) (pa : Nat) : State :=
  let rival (e : Job) : Bool := e.step? && e.head == some pa && e.cohort != j.cohort && e.state != .stopped
  let use : Use := ⟨j.use, pa, j.cohort, j.widx, j.key, j.num, none⟩
  let t := { s with uses := s.uses ++ [use] }
  if s.uses.any fun u => u.head == pa && u.unordered j then
    ({ t with cores := s.cores.mapv fun _ k => { k with jobs := k.jobs.map fun e => if rival e then { e with race := true } else e } }.setJob core
      { j with head := some pa, race := true }).scramble (core / 64) la j
  else t.setJob core { j with head := some pa }

/-- The next sector of a job begins: its bytes are translated and cut into pieces, or the job parks or stops (R282). -/
def State.beginSector (s : State) (core : Nat) (j : Job) (la : Launch) : State :=
  let i := j.begun
  let n := j.sectorLen i
  let reads := !j.step? || j.leg.src.isSome
  let src := if j.fromG && reads then s.rangeOf (core / 64) la true false 3 (j.srcByte i) n else .ok []
  let dst := if j.toG && j.writes then s.rangeOf (core / 64) la false true 3 (j.dstByte i) n else .ok []
  match src, dst with
  | .error e, _ => s.jobXlate core j e
  | _, .error e => s.jobXlate core j e
  | .ok ps, .ok _ =>
    let part (rd : Bool) (va m : Nat) : List Piece := match s.rangeOf (core / 64) la rd (!rd) 3 va m with
      | .ok ps => ps
      | .error _ => []
    let new := (j.cut i n).map fun p =>
      (p.1, ({ len := p.2, src := if j.fromG && reads then part true (j.srcByte p.1) p.2 else [],
               dst := if j.toG && j.writes then part false (j.dstByte p.1) p.2 else [],
               data := if j.kind = .tstg then some ((j.staged.drop p.1).take p.2)
                 else if !reads then some ((j.leg.data.drop p.1).take p.2) else none } : JobPiece))
    let j' := { j with begun := i + n, prog := j.prog + 1, left := new.foldl (fun m e => m.put e.1 e.2) j.left }
    match (if j.step? && j.phase = 0 then ps.head? else none) with
    | some x => s.findHead core j' la x.pa
    | none => s.setJob core j'

/-- A byte that a piece cannot read or write: the job stops, and the pieces of its sector are dropped (R282, R313). -/
def State.pieceStops (s : State) (core : Nat) (j : Job) (i : Nat) (cause : Cause) (addr : DWord) : State :=
  s.jobStops core { j with left := j.left.keep fun o _ => j.sectorNo o != j.sectorNo i } cause addr
    (j.prog - 1 - (j.sectorNo (j.begun - 1) - j.sectorNo i))

/-- The FP32 value of an element (R252). -/
def stepVal (fmt x : Nat) : FVal :=
  match fmt with
  | 0 => fmt32.decode x
  | 1 => fmtB16.decode x
  | _ => fmt16.decode x

/-- Elements of an area. -/
def stepVals (fmt count : Nat) (bs : List Byte) : List FVal :=
  (groupsOf (stepSize fmt) count bs).map fun e => stepVal fmt (leNat e)

/-- The larger of two magnitudes. -/
def FVal.larger (a b : FVal) : FVal := if a.lt false b then b else a

/-- The comparison of R252. -/
def stepClose (x y : List FVal) (theta : Word) : Bool :=
  let t := fmt32.decode theta.toNat
  if t.isNan || t.lt false (.fin false 0 0) || x.any FVal.special || y.any FVal.special then false
  else
    let d := (x.zip y).foldl (fun (m : FVal) p => m.larger ((FVal.sum [p.1, p.2.negate]).to32.abs)) (FVal.fin false 0 0)
    let big := y.foldl (fun (m : FVal) b => m.larger b.abs) (FVal.fin false 0 0)
    let bound : FVal := if big.isZero then .fin false 0 0 else (t.mul big).to32
    !(bound.lt false d)

/-- What a step-cache job asks of the header it has read (R252, R253). -/
def Job.headerFits (j : Job) : Bool :=
  let h := j.read 0 16
  let iv := (h.getD 0 0).getLsbD 0
  let ov := (h.getD 0 0).getLsbD 1
  let tag : Word := BitVec.ofNat 32 (field h 4 4)
  iv && field h 8 4 == j.count && field h 12 1 == j.fmt && if j.kind = .stepchk then ov && j.step - tag == 1 else !ov && tag == j.step

/-- The phase that follows, and whether the job has found a match (R252, R253). -/
def Job.next (j : Job) : Nat × Bool :=
  let close := stepClose (stepVals j.fmt j.count (j.read 1 j.rowb)) (stepVals j.fmt j.count (j.read 2 j.rowb)) j.theta
  match j.phase with
  | 0 => if j.kind = .stepchk then (1, false) else if j.headerFits then (11, true) else (10, false)
  | 1 => (if j.headerFits then 2 else 7, false)
  | 2 => if close then (3, true) else (7, false)
  | 3 => (4, true)
  | 4 => (5, true)
  | 7 => (8, false)
  | 8 => (9, false)
  | 11 => (12, true)
  | _ => (10, j.hit)

/-- A step-cache job whose leg is done goes on to its next phase. -/
def Job.advance (j : Job) : Job :=
  if j.step? && j.state == .running && j.left.isEmpty && decide (j.leg.len ≤ j.begun) then
    { j with phase := j.next.1, hit := j.next.2, begun := 0 } else j

/-- A piece whose bytes have all been read: what it does not write the job keeps (R252, R253). -/
def Job.took (j : Job) (i : Nat) (p : JobPiece) (bs : List Byte) : Job :=
  if j.writes then { j with left := j.left.put i { p with src := [], data := some bs } }
  else Job.advance { j with left := j.left.del i,
                            buf := j.buf.put j.phase (bs.zipIdx.foldl (fun (m : FMap Byte) b => m.put (i + b.2) b.1) ((j.buf.find j.phase).getD [])) }

/-- A read of a step-cache job waits until the earlier entries of its strand that write the bytes have drained (R254). -/
def State.stepWaits (s : State) (j : Job) (as : List Nat) : Bool :=
  j.step? && (s.jobWave j.slot j.cohort).any fun w => (w.visible j.key j.num).any fun e => as.any fun a => e.vaultBytes.contains a

/-- A read step of a piece: of global memory, where it comes after the parts that have arrived at the host port before it (R202), or of the vault. A row
between the ends of a range that reaches a vault outside the partition stops the job (R31, R32, log 114). -/
def State.pieceRead (s : State) (k : Core) (core : Nat) (j : Job) (i : Nat) (p : JobPiece) : Option State :=
  let got := p.data.getD []
  match p.src with
  | x :: rest => do
    guard (s.allows k j false 1 (addrs (j.srcByte i + got.length) x.len) ∧ (!isHost x.pa || s.portFree (addrs x.pa x.len)))
    match (if !s.hasLink x.pa then some x.pa else if s.poisonG.isEmpty then none else (addrs x.pa x.len).find? fun a => s.poisonG.contains (a / 64)) with
    | some a => some (s.pieceStops core j i .eccUncorrectable (dva (j.srcByte i + got.length + (a - x.pa))))
    | none =>
      let bs := got ++ s.gbytes x.t.key x.pa x.len
      some (s.setJob core (if rest.isEmpty then j.took i p bs else { j with left := j.left.put i { p with src := rest, data := some bs } }))
  | [] => do
    let eas := addrs (j.srcByte i) p.len
    let as := eas.map (s.jobVault j)
    guard (s.allows k j false 0 as ∧ !s.stepWaits j as)
    match (eas.find? fun a => !s.jobReaches j a).map (fun a => (Cause.vaultBound, a)) |>.or
        (if s.poisonV.isEmpty then none else (eas.find? fun a => s.poisonV.contains (s.jobVault j a / 16)).map fun a => (.eccUncorrectable, a)) with
    | some x => some (s.pieceStops core j i x.1 (BitVec.ofNat 64 x.2))
    | none => some (s.setJob core (j.took i p (as.map s.vaultByte)))

/-- Writes bytes over the pieces of a range, each at its home; nothing reaches a chip that no link leads to (R328). -/
def State.putPieces (s : State) : List Piece → List Byte → State
  | [], _ => s
  | x :: rest, bs =>
    (if s.hasLink x.pa then s.homeWrite x.t.key ((addrs x.pa x.len).zip bs) else s).putPieces rest (bs.drop x.len)

/-- The write step of a piece, on the terms of its reads. What an unordered step-cache job writes into its entry is unspecified (R254). -/
def State.pieceWrite (s : State) (k : Core) (core : Nat) (j : Job) (i : Nat) (p : JobPiece) (bs : List Byte) : Option State :=
  let t := s.setJob core (Job.advance { j with left := j.left.del i })
  let at_ := j.dstByte i
  if j.kind = .copyc then do
    guard (s.allows k j true (2 + j.slot) [tileAddr j.tile 0])
    some (if (s.jobWave j.slot j.cohort).isSome then t.writeWave j.slot [.t j.tile ((addrs at_ p.len).zip bs)] else t)
  else if j.toG then do
    guard (s.allows k j true 1 (addrs at_ p.len) ∧ p.dst.all fun x => !isHost x.pa || s.portFree (addrs x.pa x.len))
    let u := t.putPieces p.dst bs
    some (if j.race then { u with gmem := Memory.unsetAll u.gmem (p.dst.flatMap fun x => addrs x.pa x.len) } else u)
  else do
    let as := (addrs at_ p.len).map (s.jobVault j)
    guard (s.allows k j true 0 as)
    match (addrs at_ p.len).find? fun a => !s.jobReaches j a with
    | some a => some (s.pieceStops core j i .vaultBound (BitVec.ofNat 64 a))
    | none => some ((t.vaultWrite (as.zip bs)).setTags (tagOfLayout j.layout) as)

/-! ## TSTG's capture (R281) -/

/-- One element of a TSTG's epilogue. -/
def tstgElem (ext : DWord) (fpmode : BitVec 4) (x : Nat) : Nat × FFlags :=
  let sf := pteField ext 0 4
  let df := pteField ext 4 4
  let rm := rmOf fpmode (BitVec.ofNat 3 (pteField ext 8 3))
  let sat := ext.getLsbD 11
  if !ext.getLsbD 12 then convert sf df rm sat x
  else
    let v := (cvRead (cvOf sf) x).1
    let a := fmt32.decode (pteField ext 32 32)
    let p := v.mul a
    let r := cvWrite (cvOf df) rm (sat && !cvSatFree sf df) (cvExact sf df) p none
    (r.1, r.2 ||| snan [v, a] ||| flagIf (p.isNan && !v.isNan && !a.isNan) nvF)

/-- The staged bytes of a TSTG and the flags of its conversions. -/
def tstgStage (tick slot : Nat) (w : Wave) (j : Job) : List Byte × FFlags :=
  let sh := w.shapeOf j.tile
  let ew := 2 ^ shapeEW sh
  let es := (List.range (shapeRows sh)).flatMap fun i => (List.range (shapeCols sh)).map fun k =>
    tstgElem j.ext w.fpmode (tileElem tick slot w j.tile ew i k)
  (es.flatMap fun e => leBytes (cvBytes (pteField j.ext 4 4)) e.1, es.foldl (fun f e => f ||| e.2) 0)

/-- A step-cache job completes: qD and SKIPCNT are ready, and its use of the entry happens before what waits on qD: the instructions beyond the
window (R252 to R254, log 27). -/
def State.stepDone (s : State) (core : Nat) (j : Job) : State :=
  let ws := [Wr.q j.tile j.hit] ++ if j.kind = .stepchk && j.hit then [.skip 1] else []
  let u := s.dropJob core j.id
  match s.jobWave j.slot j.cohort with
  | none => u
  | some w =>
    let left := ((w.runs.flatMap fun r => r.2.flights.filter fun f => f.state == .job j.id).map (·.left)).headD 0
    (u.modWave j.slot fun w => w.mapRuns fun r =>
      { r with flights := r.flights.map fun f => if f.state = .job j.id then { f with state := .ready, writes := ws } else f }).acquireParts j.slot j.key
      (w.issued - 1 + left) [j.use]

/-! ## The matrix array (R268 to R270, R279) -/

/-- The command of a queued MMA. -/
def Mma.op (m : Mma) : MmaOp := ⟨m.fmt, m.part, m.tb, m.tc, m.ta, m.tbT⟩

/-- The record of a failed check (R270, R279). It is no job record; a COPYC's follow-on MMA has the mask of its instruction, every live
lane (R55, log 82). -/
def State.mmaRecord (s : State) (m : Mma) (w : Wave) (addr : Nat) : FaultRec :=
  { cause := .mmaCheck, flags := 0, strand := BitVec.ofNat 8 m.strand,
    launch := BitVec.ofNat 8 (((s.cohorts.find w.cohort).map (·.launch)).getD 0), wave := waveField m.slot,
    pc := BitVec.ofNat 48 m.pc, addr := BitVec.ofNat 64 addr,
    mask := if m.job.isSome then w.live else
      ((w.runs.find? fun r => r.2.flights.any fun f => f.state == .job m.id).map (·.2.mask)).getD 0, prog := 0 }

/-- JOB_ACCEPT: the engine accepts the oldest card handed to it (R200, R277). -/
def execJobAccept (core job : Nat) (s : State) : Out :=
  State.event "JOB_ACCEPT" (do
    let k ← s.cores.find core
    let j ← k.jobs.find? fun j => j.state == .handed
    guard (j.id = job)
    some (s.setJob core { j with state := if j.kind = .tstg then .capturing else .running }))

/-- TSTG_CAPTURE: converts the tile into the staging area, and the strand goes on (R281). -/
def execTstgCapture (core job : Nat) (s : State) : Out :=
  State.event "TSTG_CAPTURE" (do
    let k ← s.cores.find core
    let j ← k.jobs.find? (·.id == job)
    guard (j.state = .capturing ∧ !s.fenced j)
    let w ← s.jobWave j.slot j.cohort
    guard (!w.trapped)
    match (if s.poisonT.isEmpty then none else (shapeBytes (w.shapeOf j.tile)).find? fun a => s.poisonT.contains (j.slot, tileAddr j.tile a / 16)) with
    | some _ =>
      (s.dropJob core job).waitTrap j.slot (((w.runs.find? fun r => r.2.wait == some (.capture job)).map (·.1)).getD j.strand) j.num .eccUncorrectable (BitVec.ofNat 64 j.tile)
    | none =>
      let x := tstgStage s.tick j.slot w j
      let t := (s.setJob core { j with state := .running, staged := x.1 }).writeWave j.slot [.fp x.2]
      some (t.modWave j.slot fun v => v.mapRuns fun r => if r.wait = some (.capture job) then { r with wait := none } else r))

/-- COPY_PIECE: one step of a job. A piece of a begun sector is read or written; the number of the next byte that no sector has begun
begins the next sector (R249 to R254, R278 to R282). -/
def execCopyPiece (core job piece : Nat) (s : State) : Out :=
  State.event "COPY_PIECE" (do
    let k ← s.cores.find core
    let j ← k.jobs.find? (·.id == job)
    let la ← s.launchOf j.cohort
    guard (!s.fenced j)
    match j.left.find piece with
    | some p =>
      match p.src, p.data with
      | [], some bs => s.pieceWrite k core j piece p bs
      | _, _ => s.pieceRead k core j piece p
    | none =>
      guard (j.state = .running ∧ piece = j.begun ∧ j.begun < j.size ∧ s.sectorFree (core / 64) la j j.begun)
      some (s.beginSector core j la))

/-- JOB_COMPLETION: the flag value, the engine arrival and the follow-on MMA, in this order (R200, R208, R279); a step-cache job
makes qD (R252 to R254). The flag value sets no layout tag (R259, log 125). A flag that lies outside the partition by now stops the job (R32, log 114). -/
def execJobCompletion (core job : Nat) (s : State) : Out :=
  State.event "JOB_COMPLETION" (do
    let k ← s.cores.find core
    let j ← k.jobs.find? (·.id == job)
    guard (j.state = .running ∧ j.left.isEmpty)
    if j.kind = .stepchk ∨ j.kind = .steprec then
      guard (j.phase = 10)
      some (s.stepDone core j)
    else
      guard (j.rows * j.rowb ≤ j.begun)
      if j.flag.any fun f => !(addrs f.1 8).all (s.jobReaches j) then
        return s.jobStops core j .vaultBound (BitVec.ofNat 64 ((j.flag.map (·.1)).getD 0)) j.prog
      let s1 : State := match j.flag with
        | some f => s.vaultWrite (((addrs f.1 8).map (s.jobVault j)).zip (leBytes 8 f.2.toNat))
        | none => s
      let s2 : State := match j.bar with
        | some b => if (s1.cohorts.find j.cohort).any (fun c => !c.gone) then s1.barrier j.cohort b Barrier.arriveEngine else s1
        | none => s1
      some (if j.kind = .copyc then
        let o := mmaOf j.ext
        let m : Mma := ⟨k.freshId, j.slot, j.strand, j.pc, o.fmt, o.part, o.tb, o.tc, o.ta, o.tbT, false, some j.id⟩
        (s2.setJob core { j with state := .handedOver }).modCore core fun x => { x with mmas := x.mmas ++ [m] }
      else s2.dropJob core job))

/-- JOB_RESUME: the firmware resumes a parked job at its sector (R282, R307). -/
def execJobResume (core job : Nat) (s : State) : Out :=
  State.event "JOB_RESUME" (do
    let k ← s.cores.find core
    let j ← k.jobs.find? (·.id == job)
    guard (j.state = .parked)
    let t := s.setJob core { j with state := .running }
    some { t with fwFaults := t.fwFaults.eraseP fun f =>
      f.flags == 3 && f.wave == waveField j.slot && f.pc == BitVec.ofNat 48 j.pc && f.strand == BitVec.ofNat 8 j.strand })

/-- MMA_START: the array starts the oldest MMA; it works on one at a time (R268). -/
def execMmaStart (core : Nat) (s : State) : Out :=
  State.event "MMA_START" (do
    let k ← s.cores.find core
    match k.mmas with
    | m :: rest =>
      guard (!m.started)
      some (s.modCore core fun x => { x with mmas := { m with started := true } :: rest })
    | [] => none)

/-- MMA_COMPLETE: C and the flags are written, and the checksums tested (R267 to R270); a failed check keeps C alone (R8). The follow-on MMA of a COPYC traps at the wave's next
instruction boundary (R279). A poisoned operand traps at that boundary too, and writes nothing (R313). -/
def execMmaComplete (core : Nat) (s : State) : Out :=
  State.event "MMA_COMPLETE" (do
    let k ← s.cores.find core
    match k.mmas with
    | m :: rest =>
      guard m.started
      let w ← s.waves.find m.slot
      let s0 := s.modCore core fun x => { x with mmas := rest, jobs := x.jobs.filter fun j => !(some j.id == m.job) }
      match s.mmaPoison m.slot w m.op with
      | some t =>
        some (if m.job.isSome then s0.setDue m.slot { s.mmaRecord m w t with cause := .eccUncorrectable }
          else s0.lateEcc m.slot (fun f => f.state == .job m.id) (BitVec.ofNat 64 t) none)
      | none =>
      let r := m.op.result s.tick m.slot w
      let ws := if r.2.isSome then r.1.filter fun a => match a with
          | .t _ _ => true
          | _ => false
        else r.1
      let s1 := s0.writeWave m.slot ws
      let s2 := (s1.modWave m.slot fun v => v.mapRuns fun q =>
        { q with flights := q.flights.map fun f => if f.state = .job m.id then { f with state := .done } else f }).modWave m.slot Wave.settle
      some (match r.2 with
        | none => s2
        | some a => if m.job.isSome || w.trapped then s2.setDue m.slot (s.mmaRecord m w a) else s2.waveTrap m.slot (s.mmaRecord m w a) none)
    | [] => none)

end Sys2Proof.Machine
end

