-- ==== Sys2Proof/Machine/LaunchEvents.lean ====
section
/-! DEFINITION. The command processor: packets, binding, retirement, gangs, the watchdog and the work distributor (R14 to R33, R283 to R301). -/

namespace Sys2Proof.Machine

/-! ## Completion records (R285) -/

/-- The 32 bytes of a completion record (R285). -/
def Completion.bytes (c : Completion) : List Byte :=
  leBytes 8 c.tag.toNat ++ leBytes 1 c.status ++ leBytes 1 c.reason ++ leBytes 2 0 ++ leBytes 4 c.faults ++ leBytes 8 c.left ++ leBytes 8 c.wdog

/-- Writes a completion record at CTAIL and then increments CTAIL (R285). -/
def State.complete (s : State) (c : Completion) : State :=
  match (s.parts.find c.part) with
  | none => s
  | some p =>
    match p.queues.find c.queue with
    | none => s
    | some q =>
      let ct := s.queueWord p q.ctail
      (s.queueWrite p (q.compl + 32 * (ct.toNat % 2 ^ q.k)) c.bytes).queueWrite p q.ctail (leBytes 8 (ct + 1).toNat)

/-- Task records of a launch still in deques or the overflow queue (R294). -/
def State.leftOf (s : State) (launch : Nat) : Nat :=
  (s.cores.map fun e => e.2.deque.countP (·.launch == launch)).sum + (s.parts.map fun e => e.2.overflow.countP (·.launch == launch)).sum

/-- Frees every region of a launch, and their generations advance (R248). -/
def Arrival.freeAll (launch : Nat) (a : Arrival) : Arrival :=
  (a.entries.filter fun e => e.2.launch == launch).foldl (fun b e => b.free e.1) a

/-- Uses of step-cache entries once a launch has ended: the launches that run beside it are not ordered after its own (R254, log 27). -/
def State.endUses (s : State) (h : Nat) : List Use :=
  (s.uses.map fun u => if u.cohort / 2 ^ 32 = h ∧ u.beside.isNone then
    { u with beside := some ((s.launches.filter fun e => e.1 != h && !e.2.ended).map (·.1)) } else u).filter fun u => u.beside != some []

/-- Uses of step-cache entries once a launch has gone. -/
def forgetUses (h : Nat) (us : List Use) : List Use :=
  (us.map fun u => { u with beside := u.beside.map fun hs => hs.filter (· != h) }).filter fun u => u.beside != some []

/-- The FLAG action of a region whose cohort is no more writes nowhere (R246). -/
def Action.forget (gone : Nat → Bool) : Action → Action
  | .flag (some k) o x => .flag (if gone k then none else some k) o x
  | a => a

/-- Cohorts are no more, and with them the targets of FLAG actions. -/
def State.forgetCohorts (s : State) (gone : Nat → Bool) : State :=
  { s with
    cohorts := s.cohorts.keep fun k _ => !gone k,
    arrivals := s.arrivals.mapv fun _ a => { a with entries := a.entries.mapv fun _ r => { r with action := r.action.forget gone } } }

/-- A launch ends with a status: its record is written, its regions are freed and its task records discarded (R248, R285, R294). -/
def State.endLaunch (s : State) (h status : Nat) : State :=
  match s.launches.find h with
  | none => s
  | some l =>
    let t := s.complete ⟨l.part, l.queue, l.tag, status, 0, l.faults, min (s.leftOf h) (2 ^ 64 - 1), l.wcount⟩
    { t with
      arrivals := t.arrivals.mapv fun _ a => a.freeAll h,
      cores := t.cores.mapv fun _ k => { k with deque := k.deque.filter (·.launch != h) },
      parts := t.parts.mapv fun _ p => { p with overflow := p.overflow.filter (·.launch != h) },
      uses := s.endUses h,
      launches := t.launches.change h fun x => { x with ended := true, reqs := [], answers := [] } }

/-- Forgets a launch that has ended and whose bound cohorts have all retired. -/
def State.sweep (s : State) (h : Nat) : State :=
  match s.launches.find h with
  | none => s
  | some l =>
    if l.ended ∧ l.done.length = l.bound.length then
      { s with launches := s.launches.del h, uses := forgetUses h s.uses }.forgetCohorts fun k => (s.cohorts.find k).any fun (c : Cohort) => c.launch == h
    else s

/-! ## Packets (R284, R286 to R288) -/

/-- KIND's bits of a packet. -/
def kindBit (bs : List Byte) (k : Nat) : Bool := (bs.getD 26 0).getLsbD k

/-- A packet's fields as a launch, but for its argument block and its groups (R286). -/
def packetLaunch (part queue : Nat) (bs : List Byte) : Launch :=
  { queue := queue, seq := 0, after := none, part := part, code := field bs 0 8, extent := field bs 8 4, entry := field bs 12 4, args := [],
    argsz := field bs 24 2, persistent := kindBit bs 0, protect := kindBit bs 1, distrib := kindBit bs 2, gang := kindBit bs 3,
    serial := kindBit bs 4, debug := kindBit bs 5, budget := 8 * field bs 27 1, tiles := field bs 28 1, clsz := field bs 29 1,
    lanes := field bs 30 2, cohorts := field bs 32 4, vault := field bs 36 4, root := field bs 40 8, stack := BitVec.ofNat 64 (field bs 56 8),
    stksz := field bs 64 4, fpmode := BitVec.ofNat 4 (field bs 68 1), mmatol := BitVec.ofNat 32 (field bs 72 4), wdog := field bs 76 4,
    dx := field bs 80 2, dy := field bs 82 2, dz := field bs 84 2, gangId := field bs 88 4, gdead := field bs 92 4,
    tag := BitVec.ofNat 64 (field bs 96 8), groups := [], clusters := [], gphase := .none, bound := [], done := [], faults := 0,
    anyFatal := false, wcount := 0, grants := 0, reqs := [], answers := [], ended := false }

/-- Reason 1: a field is out of range or a 0 field is not 0 (R286). -/
def packetBad (debugOk : Bool) (bs : List Byte) : Bool :=
  let l := packetLaunch 0 0 bs
  let axis (d : Nat) := if l.distrib then d == 0 else d != 0
  l.code % 4 != 0 || decide (2 ^ 48 < l.code + l.extent) || l.extent % 4 != 0 || decide (l.extent < 4) ||
  l.entry % 4 != 0 || decide (l.extent ≤ l.entry) || decide (4096 < l.argsz) || kindBit bs 6 || kindBit bs 7 || (l.debug && !debugOk) ||
  decide (field bs 27 1 < 2) || decide (16 < field bs 27 1) || decide (8 < l.tiles) || decide (l.clsz < 1) || decide (16 < l.clsz) ||
  decide (l.lanes < 1) || decide (512 < l.lanes) || decide (l.cohorts < 1) || l.cohorts % l.clsz != 0 || decide (Config.vaultBytes < l.vault) ||
  l.stksz % 16 != 0 || decide (16 ≤ field bs 68 1) || field bs 69 3 != 0 || axis l.dx || axis l.dy || axis l.dz || field bs 86 2 != 0 ||
  (!l.gang && l.gangId != 0) || (l.gang && (decide (l.gdead < 1) || decide (10 ^ 6 < l.gdead))) || field bs 104 24 != 0

/-- Waves of a cohort of the launch (R15, R314). -/
def Launch.waves (l : Launch) : Nat := if l.protect then (l.lanes + 15) / 16 else (l.lanes + 31) / 32

/-- Window bytes of a cohort of the launch (R25). -/
def Launch.window (l : Launch) : Nat := roundUp l.vault 4096

/-- The bytes of pieces of global memory; of a chip that no link leads to, all-ones (R328). -/
def State.pieceBytes (s : State) (ps : List Piece) : List Byte :=
  ps.flatMap fun b => if s.hasLink b.pa then s.gbytes b.t.key b.pa b.len else List.replicate b.len 0xFF

/-- The bytes of a range of virtual addresses that the launch may read; none where the range is not canonical or a walk fails. -/
def State.rangeRead (s : State) (die : Nat) (l : Launch) (va : DWord) (n : Nat) : Option (List Byte) :=
  if n = 0 then some [] else
  if !canonical va || !canonical (va + BitVec.ofNat 64 (n - 1)) || decide (2 ^ 64 < va.toNat + n) then none else
  match s.rangeOf die l true false (n / 65536 + 2) (va56 va) n with
  | .ok ps => some (s.pieceBytes ps)
  | .error _ => none

/-- Reason 5 for the code extent: a walk of one of its pages fails (R288). -/
def State.codeMapped (s : State) (die : Nat) (l : Launch) : Bool :=
  match s.rangeOf die l true false (l.extent / 65536 + 2) l.code l.extent with
  | .ok _ => true
  | .error _ => false

/-- An entry of a group table (R287). -/
structure GroupEntry where
  list  : DWord
  count : Nat
  flags : Nat
  zero  : Nat
deriving DecidableEq, Repr

/-- Cuts a group table into its entries. -/
def groupEntries (bs : List Byte) : List GroupEntry :=
  (groupsOf 16 256 bs).map fun e => ⟨BitVec.ofNat 64 (field e 0 8), field e 8 4, field e 12 1, field e 13 3⟩

/-- An entry is in use: V (R287). -/
def GroupEntry.valid (e : GroupEntry) : Bool := e.flags % 2 == 1

/-- The group table of a packet: `none` where a walk fails (reason 5), else the entries with the members that their lists name. -/
def State.groupTable (s : State) (die : Nat) (l : Launch) (gtab : DWord) : Option (List (GroupEntry × List Nat)) :=
  if gtab = 0 then some [] else do
  let bs ← s.rangeRead die l gtab 4096
  (groupEntries bs).mapM fun e =>
    if e.valid then do
      let n := min e.count l.cohorts
      let ms ← s.rangeRead die l e.list (4 * n)
      some (e, (List.range n).map fun k => field ms (4 * k) 4)
    else some (e, [])

/-- A list is strictly ascending. -/
def ascending : List Nat → Bool
  | a :: b :: t => decide (a < b) && ascending (b :: t)
  | _ => true

/-- Reason 2: the group table's contents (R288). -/
def tableBad (l : Launch) (es : List (GroupEntry × List Nat)) : Bool :=
  (es.any fun e => decide (4 ≤ e.1.flags) || e.1.zero != 0 || (e.1.valid && (e.1.count == 0 || decide (l.cohorts < e.1.count) ||
    !ascending e.2 || e.2.any fun i => decide (l.cohorts ≤ i)))) ||
  ((es.flatMap (·.2)).eraseDups.any fun i => decide (4 < (es.filter fun e => e.2.contains i).length))

/-- The groups of a launch: the entries in use (R287). -/
def groupsOfTable (es : List (GroupEntry × List Nat)) : FMap Group :=
  (es.zipIdx).filterMap fun e =>
    if e.1.1.valid then some (e.2, ⟨e.1.2, true, e.1.1.flags / 2 % 2 == 1, 0, 0, false, []⟩) else none

/-- How many cohorts of the launch one core can hold (R16, R22 to R25). -/
def Launch.perCore (l : Launch) : Nat :=
  let n := (l.waves + 3) / 4
  let regs := min 8 (512 / l.budget) / n
  let tiles := if l.tiles = 0 then regs else min regs (32 / (l.waves * l.tiles))
  if l.window = 0 then tiles else min tiles (Config.vaultBytes / l.window)

/-- Cores that a cluster may share: of one die and within a rectangle of at most 4 by 4 (R18). -/
def clusterShape (cores : List Nat) : Bool :=
  cores.all fun a => cores.all fun b => a / 64 == b / 64 && decide (a % 64 / 8 ≤ b % 64 / 8 + 3) && decide (a % 8 ≤ b % 8 + 3)

/-- `n` clusters can be placed at once, each on one of the sets of cores, with at most `cap` cohorts on a core (R20). -/
def canPlace (sets : List (List Nat)) (cap : Nat) : (n : Nat) → (used : List Nat) → Bool
  | 0, _ => true
  | n + 1, used => sets.any fun cs => cs.all (fun c => decide (used.count c < cap)) && canPlace sets cap n (cs ++ used)

/-- All cohorts of the launch can be bound at once on the cores of its partition (R20). -/
def Launch.coResident (l : Launch) (cores : List Nat) : Bool :=
  decide (l.cohorts ≤ l.perCore * cores.length) &&
    (l.clsz == 1 || canPlace ((cores.sublistsLen l.clsz).filter clusterShape) l.perCore (l.cohorts / l.clsz) [])

/-- The first reason for which a packet is refused, or its launch (R288). Translations use die 0's TLB. -/
def State.judge (s : State) (p : Partition) (part queue : Nat) (bs : List Byte) : Except Nat Launch :=
  let l := packetLaunch part queue bs
  if packetBad p.debug bs then .error 1
  else if l.protect ∧ 256 < l.lanes then .error 6
  else if !s.codeMapped 0 l then .error 5
  else match s.rangeRead 0 l (BitVec.ofNat 64 (field bs 16 8)) l.argsz, s.groupTable 0 l (BitVec.ofNat 64 (field bs 48 8)) with
  | some args, some es =>
    if tableBad l es then .error 2
    else if p.cores.isEmpty ∨ l.perCore = 0 then .error 4
    else if l.persistent ∧ !l.coResident p.cores then .error 3
    else .ok { l with args := args, groups := groupsOfTable es }
  | _, _ => .error 5

/-- The walks and the reads of a range come after the lane parts that have arrived at the host port before them (R202). -/
def State.readFree (s : State) (die : Nat) (l : Launch) (va : DWord) (n : Nat) : Bool :=
  n == 0 || !canonical va || !canonical (va + BitVec.ofNat 64 (n - 1)) || (s.rangeFree die l (n / 65536 + 2) (va56 va) n &&
    match s.rangeOf die l true false (n / 65536 + 2) (va56 va) n with
    | .ok ps => ps.all fun b => s.portFree (addrs b.pa b.len)
    | .error _ => true)

/-- So do those of a group table and of its members' lists (R202, R287). -/
def State.tableFree (s : State) (die : Nat) (l : Launch) (gtab : DWord) : Bool :=
  gtab == 0 || (s.readFree die l gtab 4096 && match s.rangeRead die l gtab 4096 with
    | some bs => (groupEntries bs).all fun e => !e.valid || s.readFree die l e.list (4 * min e.count l.cohorts)
    | none => true)

/-- What `judge` walks and reads may be walked and read now (R202, R288). -/
def State.judgeFree (s : State) (p : Partition) (part queue : Nat) (bs : List Byte) : Bool :=
  let l := packetLaunch part queue bs
  packetBad p.debug bs || (l.protect && decide (256 < l.lanes)) || (s.rangeFree 0 l (l.extent / 65536 + 2) l.code l.extent &&
    (!s.codeMapped 0 l || (s.readFree 0 l (BitVec.ofNat 64 (field bs 16 8)) l.argsz && s.tableFree 0 l (BitVec.ofNat 64 (field bs 48 8)))))

/-- The packet at HEAD of a queue. -/
def State.packetAt (s : State) (p : Partition) (q : Queue) (head : DWord) : List Byte := s.gbytes p.dkey (q.ring + 128 * (head.toNat % 2 ^ q.k)) 128

/-- A queue's HEAD moves on (R284). -/
def State.advanceHead (s : State) (part queue : Nat) (f : Queue → Queue) : State :=
  match s.parts.find part with
  | none => s
  | some p =>
    match p.queues.find queue with
    | none => s
    | some q =>
      (s.queueWrite p q.head (leBytes 8 (s.queueWord p q.head + 1).toNat)).modPart part fun x => { x with queues := x.queues.change queue f }

/-- A packet is refused (R288). -/
def State.refusePacket (s : State) (part queue : Nat) (tag : DWord) (reason : Nat) : State :=
  s.complete ⟨part, queue, tag, 1, reason, 0, 0, 0⟩

/-- Invalidates the lines of a launch's code extent in the instruction caches of its partition (R347). -/
def State.invalidate (s : State) (p : Partition) (l : Launch) : State :=
  { s with icache := s.icache.filter fun x => !(p.cores.contains x.core && x.root == l.root && decide (l.code ≤ x.va) && decide (x.va < l.code + l.extent)) }

/-- The page-table roots that launches of a partition have named (R139). -/
def addRoot (roots : List (Nat × Nat)) (part root : Nat) : List (Nat × Nat) :=
  if roots.contains (part, root) then roots else roots ++ [(part, root)]

/-- A launch is accepted as launch `h`: it is in the state, and stale instruction copies of its extent are gone (R347). -/
def State.acceptLaunch (s : State) (p : Partition) (h : Nat) (l : Launch) : State :=
  { s with launches := s.launches.put h l, roots := addRoot s.roots l.part l.root }.invalidate p l

/-- The command processor takes the packet at HEAD of a queue as launch `h`: it refuses it, or accepts it, and originates its gang if it
is one (R284, R288, R299, R347). -/
def State.takePacket (s : State) (part queue h : Nat) : Option State := do
  let p ← s.parts.find part
  let q ← p.queues.find queue
  let head := s.queueWord p q.head
  let n := (s.queueWord p q.tail - head).toNat
  guard (n ≠ 0 ∧ h < 256 ∧ (s.launches.find h).isNone ∧ s.selfChip.isSome)
  let bs := s.packetAt p q head
  let tag : DWord := BitVec.ofNat 64 (field bs 96 8)
  let late := if 2 ^ q.k < n then some (s.queueWord p q.tail) else q.overrun
  match late with
  | some t =>
    some ((s.advanceHead part queue fun x => { x with overrun := if head + 1 = t then none else some t }).refusePacket part queue tag 7)
  | none =>
    guard (s.judgeFree p part queue bs)
    match s.judge p part queue bs with
    | .error r => some ((s.advanceHead part queue id).refusePacket part queue tag r)
    | .ok l =>
      let t := (s.advanceHead part queue fun x => { x with last := some (h, head) }).acceptLaunch p h { l with seq := head, after := q.last }
      let members := (s.routes.filter fun e => e.2.getLsbD 31).map (·.1)
      some { t with gangs := if l.gang then t.gangs.put l.gangId ⟨l.gangId, members, [], [], [], false, false, false⟩ else t.gangs }

/-- A member chip receives a gang's packet from its originator as launch `h` (R299). It does not pass through a queue of this chip, which it
names for the completion record (log 46); a packet that this chip refuses answers NACK with the reason (R288). -/
def State.receivePacket (s : State) (part queue h : Nat) (bs : List Byte) : Option State := do
  let p ← s.parts.find part
  let q ← p.queues.find queue
  guard (bs.length = 128 ∧ kindBit bs 3 ∧ h < 256 ∧ (s.launches.find h).isNone ∧ s.selfChip.isSome ∧ s.judgeFree p part queue bs)
  match s.judge p part queue bs with
  | .error r => some { s with launches := s.launches.put h { packetLaunch part queue bs with gphase := .nacked r } }
  | .ok l => some (s.acceptLaunch p h { l with after := q.last })

/-! ## Binding (R16, R18, R22 to R28, R289) -/

/-- The wave slots a place gives, in wave order (R16). -/
def placeSlots (p : Place) : List Nat := (p.slots.zipIdx).map fun x => 2048 * p.die + 32 * p.core + 8 * (x.2 % 4) + x.1

/-- Live lanes of wave `w` (R15, R314). -/
def Launch.live (l : Launch) (w : Nat) : Word :=
  maskOf fun k => if l.protect then decide (16 * w + k / 2 < l.lanes) else decide (32 * w + k < l.lanes)

/-- Lane registers that the waves of a quadrant hold (R23). -/
def State.quadRegs (s : State) (quad : Nat) : Nat := ((s.waves.filter fun e => e.1 / 8 == quad).map (·.2.budget)).sum

/-- Two granule masks share a bit. -/
def meetsMask (a b : Word) : Bool := a &&& b != 0

/-- How many bits are set. -/
def bitCount (m : Word) : Nat := (lanesOf m).length

/-- The waves `ws` of a cohort of the launch fit at a place (R16, R22 to R25, R32). -/
def State.fitsAt (s : State) (l : Launch) (p : Place) (ws : List Nat) : Bool :=
  let core := 64 * p.die + p.core
  let slots := ws.map fun w => (placeSlots p).getD w 0
  let tiles := ws.map fun w => p.tiles.getD w 0
  let quad (w : Nat) := 4 * core + w % 4
  let need (u : Nat) := l.budget * (ws.countP fun w => w % 4 == u)
  let held := (s.waves.filter fun e => slotCore e.1 == core && e.2.alive).map (·.2.tmask)
  decide (p.die < 4) && decide (p.core < 64) && (s.cores.find core).any (fun k => k.part == l.part) &&
  p.slots.length == l.waves && p.tiles.length == l.waves && (p.slots.all fun x => decide (x < 8)) && slots.eraseDups.length == slots.length &&
  (slots.all fun x => (s.waves.find x).isNone) &&
  ((List.range 4).all fun u => decide (s.quadRegs (quad u) + need u ≤ 512)) &&
  (tiles.all fun m => bitCount m == l.tiles && !held.any (meetsMask m)) &&
  (tiles.foldl (fun (x : Bool × Word) m => (x.1 && !meetsMask x.2 m, x.2 ||| m)) (true, 0)).1 &&
  p.wbase % 4096 == 0 && decide (p.wbase + l.window ≤ Config.vaultBytes) &&
  s.cohorts.all fun e => e.2.place != core || e.2.freed || e.2.preempted || e.2.wsize == 0 || l.window == 0 ||
    decide (e.2.wbase + e.2.wsize ≤ p.wbase) || decide (p.wbase + l.window ≤ e.2.wbase)

/-- The root strand of a wave (R17, R26). No instruction has passed control to its first one, whose FETCH_BOUND record holds the entry's own
address (log 87). -/
def Launch.root' (l : Launch) (index w : Nat) : Run :=
  { role := .root, up := none, mask := l.live w, pc := l.code + l.entry, fromPc := l.code + l.entry, lastPc := l.code + l.entry,
    priv := [(62, l.stack + BitVec.ofNat 64 ((l.waves * index + w) * l.stksz))], q := 1, key := [0], covers := [], jm := none,
    joinedV := 0, joinedP := 0, lapsedV := 0, lapsedP := 0, flights := [], wait := none, park := none, held := false, sub := none, acqs := [],
    lastSub := none, passed := false }

/-- A wave as it is bound (R24, R26). -/
def Launch.wave (l : Launch) (key index w : Nat) (tmask : Word) : Wave :=
  { cohort := key, widx := w, state := .bound, live := l.live w, budget := l.budget, ntiles := l.tiles, v := [], p := [], s := [], x := [],
    tmem := [], shape := [], layout := [], tmask := tmask, warn := 0, warnBy := [], fpstat := 0, fpmode := l.fpmode, mmatol := l.mmatol, skipcnt := 0,
    splitser := 0, lattice := [(0, ⟨[], some (l.root' index w)⟩)], demoted := [], sb := [], pq := [], before := [], lateAcqs := [], nextId := 0, issued := 0, task := none,
    nextw := 0, due := none, single := none, fatal := none, resumeAt := [] }

/-- A named barrier at bind (R175). -/
def Launch.barrier (l : Launch) : Barrier := ⟨l.waves, 0, 0, 0, 0, 0, 0, []⟩

/-- A wave leaves its slot with its registers and tiles (R29). Poison of a register, which nothing names any more, goes (log 77). -/
def State.leaveSlot (s : State) (slot : Nat) (w : Wave) : State :=
  { s.freeTiles slot w with waves := s.waves.del slot, poisonR := s.poisonR.filter (·.1 != slot) }

/-- A wave takes a slot with the tiles of its mask, in ascending order (log 77), poisoned granules included (R24, R312). -/
def State.takeSlot (s : State) (slot : Nat) (w : Wave) : State :=
  { s with waves := s.waves.put slot w,
           poisonT := if s.poisonT.isEmpty then [] else s.poisonT.map fun g =>
             match ((lanesOf w.tmask).zipIdx).find? fun x => g.1 == freeTile (slotCore slot) x.1 with
             | some x => (slot, 1024 * x.2 + g.2)
             | none => g }

/-- Takes the window of a place: its contents are unspecified and its granules' tags 0 (R25, R259). -/
def State.freshWindow (s : State) (base size : Nat) : State :=
  { s with vmem := Memory.clear s.vmem base (base + size),
           syncs := s.syncs.filter fun y => !(y.space == 0 && decide (base ≤ y.addr) && decide (y.addr < base + size)), tags := s.tags.keep fun g _ => decide (g < base / 4096) || decide ((base + size) / 4096 ≤ g) }

/-- Binds one cohort at a place, if it fits (R25, R26, R28). -/
def State.bindAt (s : State) (h : Nat) (l : Launch) (p : Place) : Option State := do
  guard (p.launch = h ∧ p.cohort < l.cohorts ∧ s.fitsAt l p (List.range l.waves))
  let key := cohortKey h p.cohort
  guard ((s.cohorts.find key).isNone)
  let c : Cohort :=
    { launch := h, index := p.cohort, die := p.die, core := p.core, wbase := p.wbase, wsize := l.window, nwaves := l.waves, retired := [],
      barriers := List.replicate 16 l.barrier, fatal := false, gone := false, freed := false, preempted := false, cbar := [], gbar := [] }
  let t := s.freshWindow c.winBase c.wsize
  let u := ((placeSlots p).zip p.tiles).zipIdx.foldl (fun (v : State) x => v.takeSlot x.1.1 (l.wave key p.cohort x.2 x.1.2)) t
  some { u with
    cohorts := u.cohorts.put key c,
    launches := u.launches.change h fun x => { x with bound := x.bound ++ [p.cohort] } }

/-- Binds several cohorts, one after another, on distinct places. -/
def State.bindAll (s : State) (h : Nat) (l : Launch) : List Place → Option State
  | [] => some s
  | p :: ps => (s.bindAt h l p).bind fun t => State.bindAll t h l ps

/-- The places hold one whole cluster: its members in index order, on distinct cores of a rectangle (R18, R28). -/
def clusterPlaces (l : Launch) (ps : List Place) : Bool :=
  let cores := ps.map fun p => 64 * p.die + p.core
  ps.length == l.clsz && cores.eraseDups.length == cores.length && clusterShape cores &&
  match ps with
  | p :: _ => p.cohort % l.clsz == 0 && ps.map (·.cohort) == addrs p.cohort l.clsz
  | [] => false

/-- A SERIAL launch may bind: the launch of its queue before it has completed (R289). -/
def State.serialOk (s : State) (l : Launch) : Bool :=
  !l.serial || match l.after with
  | some (h, q) => match s.launches.find h with
    | some x => !(x.seq == q && x.part == l.part && x.queue == l.queue) || x.ended
    | none => true
  | none => true

/-! ## Retirement (R29, R30, R239, R308) -/

/-- A push for a slot of this core whose address lies in a window. -/
def Push.inWindow (core lo hi : Nat) (p : Push) : Bool := p.core == core && decide (lo ≤ p.slot) && decide (p.slot < hi)

/-- Directory entries that only a cohort's subscriptions have (R234). -/
def State.ownEntries (s : State) (key : Nat) (core : Nat) : List (Nat × Nat) :=
  ((s.subs.filter fun b => b.cohort == key && b.core == core).map fun b => (b.word, b.slot)).filter fun e =>
    !s.subs.any fun b => b.cohort != key && b.core == core && b.word == e.1 && b.slot == e.2

/-- Removes a retired cohort's subscriptions, their directory entries, and, where it stood on a core, the pushes and entries for its window
(R234, R239). -/
def State.dropCohortSubs (s : State) (key : Nat) (c : Cohort) : State :=
  let es := s.ownEntries key c.place
  let mine (slot : Nat) := !c.preempted && decide (c.winBase ≤ slot) && decide (slot < c.winBase + c.wsize)
  let t := s.dropSubs (·.cohort == key)
  { t with pushes := t.pushes.filter fun p => !(p.core == c.place && mine p.slot) }.modCore c.place fun k =>
    { k with subs := k.subs.filter fun e => !(mine e.2 || es.contains e) }

/-- Frees the windows of a cluster's retired cohorts: at once, or after a fatal fault once every member has retired (R29, R309). -/
def State.freeWindows (s : State) (h : Nat) (l : Launch) (cl : Nat) : State :=
  let keys := (l.clusterMembers cl).map (cohortKey h)
  let all := keys.all fun k => (s.cohorts.find k).any (·.gone)
  { s with cohorts := s.cohorts.mapv fun k c => if keys.contains k && c.gone && (all || !c.fatal) then { c with freed := true } else c }

/-- The bind record of a wave slot, as the firmware reads it (R290). A killed wave holds no tile (R308). A pre-empted wave holds no slot between steps, since PREEMPT is one
step (log 84). -/
def State.bindRecord (s : State) (slot : Nat) : BitVec 128 :=
  match s.waves.find slot with
  | none => 0
  | some w =>
    match s.cohorts.find w.cohort with
    | none => 0
    | some c =>
      let st := match w.state with
        | .bound => 0
        | .running => if w.lattice.isEmpty then 4 else 1
        | .halted => 3
        | .killed => 4
      BitVec.ofNat 128 ((if w.alive then w.tmask.toNat else 0) * 2 ^ 86 + c.wsize / 4096 * 2 ^ 75 + c.wbase / 4096 * 2 ^ 64 + 2 ^ 63 + st * 2 ^ 60 + c.launch * 2 ^ 52 +
        c.index * 2 ^ 20 + w.widx * 2 ^ 16 + w.budget / 8 * 2 ^ 11 + w.ntiles * 2 ^ 7)

/-- A task's record goes to the fault ring without a fault of its own: its wave is killed by a debugger (R189, R321, log 85). -/
def State.postTask (s : State) (part : Nat) (record : List Byte) : State :=
  match s.parts.find part with
  | none => s
  | some p =>
    if p.faults.used + 2 ≤ 2 ^ p.faults.k then
      (s.ringPut p p.faults 32 [record.take 32, record.drop 32]).modPart part fun x => { x with faults := { x.faults with put := x.faults.put + 2 } }
    else s

/-- The record that a kill of the wave turns into a fatal one: a miss of the wave that waits for the firmware (R307). -/
def State.missRecord (s : State) (slot : Nat) (w : Wave) : Option FaultRec :=
  let jobs := ((s.cores.find (slotCore slot)).map (·.jobs)).getD []
  s.fwFaults.find? fun f => f.wave == waveField slot &&
    (if f.flags == 3 then jobs.any fun j => j.state == .parked && j.slot == slot && j.cohort == w.cohort && f.pc == BitVec.ofNat 48 j.pc
     else w.runs.any fun r => f.strand == BitVec.ofNat 8 r.1 && r.2.park.any (·.posted))

/-- Discards a wave of a launch that ends: nothing further issues, and what it has drained performs (R300, R301). -/
def State.discard (s : State) (slot : Nat) : State :=
  match s.waves.find slot with
  | none => s
  | some w =>
    if !w.alive then s else
    let t := (s.modWave slot fun v =>
      { v with state := .killed, lattice := [], demoted := [], sb := [], x := [], tmem := [],
               task := none, nextw := 0, due := none, single := none, fatal := none, resumeAt := [] }).modCore (slotCore slot) fun k =>
      { k with jobs := stopJobs (fun j => j.slot == slot && j.cohort == w.cohort) k.jobs, mmas := k.mmas.filter fun m => m.slot != slot }
    { t.freeTiles slot w with loads := t.loads.filter fun l => !(w.sb.any fun e => e.loads.contains l.id) }.modCohort w.cohort fun c =>
      { c with retired := c.retired ++ [w.widx] }

/-- The launch ends whole (R300, R301): barriers take STATUS 3, waves are discarded, jobs stop, saved contexts go, and the record is written. -/
def State.abortLaunch (s : State) (h status : Nat) : State :=
  let keys := (s.cohorts.filter fun e => e.2.launch == h).map (·.1)
  let slots := (s.waves.filter fun e => keys.contains e.2.cohort).map (·.1)
  let saved := s.saved.filter fun v => keys.contains v.cohort
  let t := slots.foldl State.discard (keys.foldl (fun u k => u.abandon k 3) s)
  let t := { t with saved := t.saved.filter fun v => !keys.contains v.cohort,
                    cohorts := t.cohorts.mapv fun k c => if saved.any (·.cohort == k) then
                      { c with retired := List.range c.nwaves, freed := true } else c,
                    loads := t.loads.filter fun l => !(saved.any fun v => v.waves.any fun e => e.2.sb.any fun x => x.loads.contains l.id),
                    cores := t.cores.mapv fun _ k => { k with jobs := stopJobs (fun j => keys.contains j.cohort) k.jobs } }
  (t.endLaunch h status).sweep h

/-! ## Gangs (R299) -/

/-- The launch of a gang on this chip. -/
def State.gangLaunch (s : State) (gang : Nat) : Option (Nat × Launch) := s.launches.find? fun e => e.2.gang && e.2.gangId == gang

/-- What the originator's record of a gang says, if this chip originates it. -/
def State.gangSays (s : State) (l : Launch) (f : Gang → Bool) : Bool :=
  match s.gangs.find l.gangId with
  | some g => f g
  | none => true

/-- A message from this chip is true of its launch; messages of other chips are their own. -/
def State.gangTold (s : State) (gang chip : Nat) (p : GangPhase) : Bool :=
  s.selfChip != some chip || (s.gangLaunch gang).any fun l => l.2.gphase == p

/-- DISTRIBUTOR_GRANT: grants one request; the requests of one wave in the order in which they left it (R296). A killed wave's request takes its
coordinate, and its answer is discarded (R298). -/
def execDistributorGrant (launch request : Nat) (s : State) : Out :=
  State.event "DISTRIBUTOR_GRANT" (do
    let l ← s.launches.find launch
    let r ← l.reqs[request]?
    guard (l.distrib ∧ (l.reqs.take request).all fun x => x.1 != r.1 || x.1 == none)
    let k := l.grants
    let coord : DWord := if k < l.dx * l.dy * l.dz then
        BitVec.ofNat 64 (k % l.dx + k / l.dx % l.dy * 2 ^ 16 + k / (l.dx * l.dy) * 2 ^ 32)
      else 0xFFFFFFFFFFFFFFFF
    let answer := match r.1 with
      | some slot => [(slot, r.2, k, coord)]
      | none => []
    some (s.modLaunch launch fun x => { x with grants := k + 1, reqs := x.reqs.eraseIdx request, answers := x.answers ++ answer }))

/-- NEXTW_ANSWER: an answer lands in its slot as one 16-byte write (R297, R298). -/
def execNextwAnswer (launch answer : Nat) (s : State) : Out :=
  State.event "NEXTW_ANSWER" (do
    let l ← s.launches.find launch
    let (slot, va, k, coord) ← l.answers[answer]?
    let t := s.modLaunch launch fun x => { x with answers := x.answers.eraseIdx answer }
    some ((t.vaultWrite ((addrs va 16).zip (leBytes 8 coord.toNat ++ leBytes 8 (k + 1)))).modWave slot fun w => { w with nextw := w.nextw - 1 }))

/-- OVERFLOW_MOVE: the oldest overflow record goes to the tail of a deque with free space (R294). -/
def execOverflowMove (part core : Nat) (s : State) : Out :=
  State.event "OVERFLOW_MOVE" (do
    let p ← s.parts.find part
    let k ← s.cores.find core
    match p.overflow with
    | r :: rest =>
      guard (k.part = part ∧ k.deque.length < Config.dequeRecords)
      some ((s.modPart part fun x => { x with overflow := rest }).modCore core fun x => { x with deque := x.deque ++ [r] })
    | [] => none)

/-- PACKET_ACCEPT: the command processor accepts or refuses the packet at HEAD (R284, R286 to R288, R347). -/
def execPacketAccept (part queue launch : Nat) (s : State) : Out :=
  State.event "PACKET_ACCEPT" (do
    guard !s.down
    s.takePacket part queue launch)

/-- COHORT_BIND: the cohorts of a cluster are bound where the firmware puts them, as one step (R15 to R18, R22 to R28, R289). -/
def execCohortBind (launch : Nat) (places : List Place) (s : State) : Out :=
  State.event "COHORT_BIND" (do
    let l ← s.launches.find launch
    guard (!s.down ∧ !l.ended ∧ !l.gang ∧ clusterPlaces l places ∧ s.serialOk l)
    s.bindAll launch l places)

/-- WAVE_RETIRE: a wave whose last strand has ended and whose queues have drained leaves its slot (R29, R279); a trap still due is taken
instead (R313). A killed wave leaves its slot once its post queue has performed (R308). -/
def execWaveRetire (slot : Nat) (s : State) : Out :=
  State.event "WAVE_RETIRE" (do
    let w ← s.waves.find slot
    let t := s.leaveSlot slot w
    if !w.alive then
      guard w.pq.isEmpty
      some t
    else
      let k ← s.cores.find (slotCore slot)
      let c ← s.cohorts.find w.cohort
      guard (w.lattice.isEmpty ∧ w.sb.isEmpty ∧ w.pq.isEmpty ∧ w.nextw = 0 ∧ (k.mmas.all fun m => m.slot != slot) ∧
        k.jobs.all fun j => !(j.kind == .copyc && j.slot == slot && j.cohort == w.cohort && j.state != .stopped))
      match w.due with
      | some f => some (s.waveTrap slot f none)
      | none => some ((t.modCohort w.cohort fun d => { d with retired := d.retired ++ [w.widx] }).settleMeets c.launch c.index))

/-- COHORT_RETIRE: the cohort's waves have retired and its jobs are over; its window is freed, and with the last cohort the grid completes
(R29, R30, R239, R285, R308). Loads whose waves have retired hold it back as those of killed waves do, which R308 says of these alone
(log 86). -/
def execCohortRetire (cohort : Nat) (s : State) : Out :=
  State.event "COHORT_RETIRE" (do
    let c ← s.cohorts.find cohort
    let l ← s.launches.find c.launch
    guard (!c.gone ∧ c.retired.length = c.nwaves ∧ (s.waves.all fun e => e.2.cohort != cohort) ∧
      (s.cores.all fun e => e.2.jobs.all fun j => j.cohort != cohort) ∧ s.loads.all fun x => x.cohort != cohort)
    let t := ((s.dropCohortSubs cohort c).modCohort cohort fun d => { d with gone := true }).modLaunch c.launch fun x =>
      { x with done := x.done ++ [c.index] }
    let u := (t.freeWindows c.launch l (l.clusterOf c.index)).settleMeets c.launch c.index
    some ((if !l.ended ∧ l.done.length + 1 = l.cohorts then u.endLaunch c.launch (if l.anyFatal then 2 else 0) else u).sweep c.launch))

/-- WAVE_KILL: the firmware kills a wave whose miss it cannot resolve, with the miss's cause (R307). A `plain` kill is the debugger's, of a
halted wave, with no record; a miss that still waits is dropped, and the record of a task goes to the fault queue unless the wave's fault has
sent it there (R189, R308 to R310, R321). -/
def execWaveKill (v : Victim) (s : State) : Out :=
  State.event "WAVE_KILL" (do
    let slot := v.slot
    let w ← s.waves.find slot
    let c ← s.cohorts.find w.cohort
    let l ← s.launches.find c.launch
    guard w.alive
    let task := if w.fatal.isSome then none else w.task.map (·.record)
    let t : State := { s with fwFaults := s.fwFaults.filter fun f => f.wave != waveField slot }
    if v.plain then
      guard (w.state = .halted)
      some ((match task with
        | some b => t.postTask l.part b
        | none => t).kill slot)
    else
      let f ← s.missRecord slot w
      some ((t.postFault l.part c.launch true { f with flags := (f.flags &&& 0xFE) ||| if task.isSome then 4 else 0 } task).kill slot))

/-- The places hold a gang's whole grid on this chip (R299). -/
def gangPlaces (l : Launch) (places : List Place) : Bool :=
  places.length == l.cohorts && (groupsOf l.clsz places.length places).all (clusterPlaces l)

/-- GANG_PREPARE: a member chip binds every cohort of a gang's grid, with none issuing, or, where the firmware gives no places, refuses to
(reason 3). On a chip that does not originate the gang the originator's packet comes first (R299). -/
def execGangPrepare (part queue : Nat) (o : GangOffer) (places : List Place) (s : State) : Out :=
  State.event "GANG_PREPARE" (do
    let launch := o.launch
    guard !s.down
    let t ← match o.packet with
      | none => some s
      | some bs => s.receivePacket part queue launch bs
    let l ← t.launches.find launch
    guard (l.gang ∧ l.part = part ∧ l.queue = queue ∧ !l.ended ∧ t.gangSays l fun g => !g.cancelled)
    if o.packet.isSome ∧ l.gphase ≠ .none then some t
    else
      guard (l.gphase = .none)
      if places.isEmpty then some (t.modLaunch launch fun x => { x with gphase := .nacked 3 })
      else
        guard (gangPlaces l places ∧ t.serialOk l)
        let u ← t.bindAll launch l places
        some (u.modLaunch launch fun x => { x with gphase := .prepared }))

/-- GANG_ACK: the originator receives a member's ACK, and sends START once every ACK has arrived (R299). -/
def execGangAck (gang chip : Nat) (s : State) : Out :=
  State.event "GANG_ACK" (do
    let g ← s.gangs.find gang
    guard (g.members.contains chip ∧ !g.acks.contains chip ∧ (g.nacks.all fun x => x.1 != chip) ∧ !g.sentStart ∧ s.gangTold gang chip .prepared)
    some { s with gangs := s.gangs.put gang { g with acks := g.acks ++ [chip],
                                                     sentStart := !g.cancelled && g.acks.length + 1 == g.members.length } })

/-- GANG_NACK: the originator receives a member's NACK with its reason (R299). -/
def execGangNack (gang : Nat) (n : GangRefusal) (s : State) : Out :=
  State.event "GANG_NACK" (do
    let g ← s.gangs.find gang
    guard (g.members.contains n.chip ∧ !g.acks.contains n.chip ∧ (g.nacks.all fun x => x.1 != n.chip) ∧ s.gangTold gang n.chip (.nacked n.reason))
    some { s with gangs := s.gangs.put gang { g with nacks := g.nacks ++ [(n.chip, n.reason)] } })

/-- PREPARE_DEADLINE: GDEAD has passed with an ACK missing or a NACK, and the originator sends CANCEL (R299). -/
def execPrepareDeadline (gang : Nat) (s : State) : Out :=
  State.event "PREPARE_DEADLINE" (do
    let g ← s.gangs.find gang
    guard (!g.sentStart ∧ !g.cancelled)
    some { s with gangs := s.gangs.put gang { g with cancelled := true } })

/-- GANG_CANCEL: a member frees what it bound and refuses the packet with reason 8; nothing has issued (R288, R299). -/
def execGangCancel (launch : Nat) (s : State) : Out :=
  State.event "GANG_CANCEL" (do
    let l ← s.launches.find launch
    guard (l.gang ∧ l.gphase ≠ .started ∧ !l.ended ∧ s.gangSays l fun g => g.cancelled)
    let keys := (s.cohorts.filter fun e => e.2.launch == launch).map (·.1)
    let t := (s.waves.filter fun e => keys.contains e.2.cohort).foldl (fun u e => u.leaveSlot e.1 e.2) s
    some ((({ t with launches := t.launches.del launch }.forgetCohorts keys.contains)).refusePacket l.part l.queue l.tag 8))

/-- GANG_START: issue begins on a member chip, which sends START-ACK (R299). -/
def execGangStart (launch : Nat) (s : State) : Out :=
  State.event "GANG_START" (do
    let l ← s.launches.find launch
    guard (l.gang ∧ l.gphase = .prepared ∧ !l.ended ∧ s.gangSays l fun g => g.sentStart)
    some (s.modLaunch launch fun x => { x with gphase := .started }))

/-- GANG_START_ACK: the originator receives a member's START-ACK; after GANG_ABORT it changes nothing (R299, R300). -/
def execGangStartAck (gang chip : Nat) (s : State) : Out :=
  State.event "GANG_START_ACK" (do
    let g ← s.gangs.find gang
    guard (g.members.contains chip ∧ !g.started.contains chip ∧ g.sentStart)
    if g.aborted then some s
    else
      guard (s.selfChip ≠ some chip ∨ (s.gangLaunch gang).all fun l => l.2.gphase == .started)
      some { s with gangs := s.gangs.put gang { g with started := g.started ++ [chip] } })

/-- START_DEADLINE: GDEAD from START has passed with a START-ACK missing, and the originator sends GANG_ABORT (R299). -/
def execStartDeadline (gang : Nat) (s : State) : Out :=
  State.event "START_DEADLINE" (do
    let g ← s.gangs.find gang
    guard (g.sentStart ∧ !g.aborted ∧ g.started.length < g.members.length)
    some { s with gangs := s.gangs.put gang { g with aborted := true } })

/-- GANG_ABORT: every wave of the launch traps GANG_ABORT and is discarded, and the record carries STATUS 4 (R177, R300). -/
def execGangAbort (launch : Nat) (s : State) : Out :=
  State.event "GANG_ABORT" (do
    let l ← s.launches.find launch
    guard (l.gang ∧ !l.ended ∧ s.gangSays l fun g => g.aborted)
    some (s.abortLaunch launch 4))

/-- WATCHDOG: reference cycles pass for a launch with a wave that is resident and not halted; at the limit the launch ends with STATUS 3
(R301). -/
def execWatchdog (launch cycles : Nat) (s : State) : Out :=
  State.event "WATCHDOG" (do
    let l ← s.launches.find launch
    guard (!l.ended ∧ s.waves.any fun e => e.2.state != .halted && e.2.alive && (s.cohorts.find e.2.cohort).any fun c => c.launch == launch)
    let limit := l.wdog * 2 ^ 20
    if l.wdog ≠ 0 ∧ limit ≤ l.wcount + cycles then some ((s.modLaunch launch fun x => { x with wcount := limit }).abortLaunch launch 3)
    else some (s.modLaunch launch fun x => { x with wcount := l.wcount + cycles }))

end Sys2Proof.Machine
end

