-- ==== Sys2Proof/Machine/ContextEvents.lean ====
section
/-! DEFINITION. Pre-emption and restore (R239, R316 to R320) and the debugger (R310, R311). -/

namespace Sys2Proof.Machine

/-! ## What is pre-empted together (R316) -/

/-- Cohorts go together: with one, every other of its cluster, or of a persistent launch, for which the test holds; never a gang's. -/
def State.wholeUnits (s : State) (keys : List Nat) (p : Nat → Cohort → Bool) : Bool :=
  !keys.isEmpty && keys.eraseDups.length == keys.length && keys.all fun k =>
    match s.cohorts.find k with
    | none => false
    | some c =>
      match s.launches.find c.launch with
      | none => false
      | some l =>
        !l.gang && !l.ended && p k c && s.cohorts.all fun e =>
          !(e.2.launch == c.launch && (l.persistent || l.clusterOf e.2.index == l.clusterOf c.index) && p e.1 e.2) || keys.contains e.1

/-- An issued instruction has completed, as far as it can while its wave does not issue (R317): a JOIN may still wait, and an atomic's
entry may still be in the store buffer. -/
def Flight.settled (f : Flight) : Bool :=
  match f.state with
  | .done => true
  | .join => true
  | .drain _ => true
  | _ => false

/-- The load's request is still in the store buffer of a wave. -/
def State.undrained (s : State) (l : Load) : Bool := s.waves.any fun e => e.2.cohort == l.cohort && e.2.sb.any fun x => x.loads.contains l.id

/-- NEXTW requests that have left and whose answers have not landed; those of undrained entries have still to leave (R297, R298). -/
def Wave.asked (w : Wave) : Nat :=
  w.nextw - w.sb.countP fun e => match e.kind with
    | .nextw _ => true
    | _ => false

/-- A wave can be saved (R317): nothing of it is under way outside the saved context. -/
def State.waveQuiet (s : State) (slot : Nat) (w : Wave) : Bool :=
  w.alive && w.pq.isEmpty && w.asked == 0 && (w.runs.all fun r => r.2.flights.all Flight.settled) &&
  (s.cores.find (slotCore slot)).all fun k => k.mmas.all fun m => m.slot != slot

/-- A job can be saved: it is at a sector boundary, and no step-cache job (R255, R282). -/
def Job.quiet (j : Job) : Bool :=
  j.left.isEmpty && match j.kind, j.state with
  | .stepchk, _ => false
  | .steprec, _ => false
  | _, .stopped => false
  | _, .handedOver => false
  | _, _ => true

/-- A cohort can be saved (R317): the loads of all its waves have landed, those of retired and killed ones too. -/
def State.cohortQuiet (s : State) (key : Nat) (c : Cohort) : Bool :=
  (s.waves.all fun e => e.2.cohort != key || s.waveQuiet e.1 e.2) && (s.loads.all fun l => l.cohort != key || s.undrained l) &&
  ((s.cores.find c.place).all fun k => k.jobs.all fun j => j.cohort != key || j.quiet) &&
  s.pushes.all fun p => !p.inWindow c.place c.winBase (c.winBase + c.wsize) || match p.kind with
    | .value .. => true
    | _ => false

/-- A trap that is due in a wave of some cohorts, which pre-emption takes first (R317). -/
def State.dueIn (s : State) (keys : List Nat) : Option (Nat × FaultRec) :=
  s.waves.findSome? fun e => if keys.contains e.2.cohort && !e.2.trapped then e.2.due.map fun f => (e.1, f) else none

/-- A vault address lies in the cohort's window. -/
def Cohort.has (c : Cohort) (va : Nat) : Bool := decide (c.winBase ≤ va) && decide (va < c.winBase + c.wsize)

/-- The poisoned granules of waves of a cohort and of its window, by wave index and window offset. -/
def State.poisonOfCohort (s : State) (key : Nat) (c : Cohort) : List PoisonSite :=
  let widx (slot : Nat) : Option Nat := (s.waves.find slot).bind fun w => if w.cohort = key then some w.widx else none
  (s.poisonR.filterMap fun g => (widx g.1).map fun i => .register i g.2.1 g.2.2) ++
  (s.poisonT.filterMap fun g => (widx g.1).map fun i => .tile i g.2) ++
  (s.poisonV.filterMap fun g => if c.has (16 * g) then some (.vault (g - c.winBase / 16)) else none)

/-- The context of those waves of a cohort for which a test holds (R318). -/
def State.contextOf (s : State) (key : Nat) (c : Cohort) (p : Wave → Bool) : Saved :=
  let jobs := ((s.cores.find c.place).map (·.jobs)).getD []
  { cohort := key,
    waves := (s.waves.filter fun e => e.2.cohort == key && p e.2).foldl (fun (m : FMap Wave) e => m.put e.2.widx e.2) [],
    jobs := jobs.filter fun j => j.cohort == key,
    window := (s.vmem.filter fun b => c.has b.1 && s.vkeys.find (b.1 / 64) == some (s.vkeyOf c.place)).map fun b => (b.1 - c.winBase, b.2),
    tags := (s.tags.filter fun t => c.has (4096 * t.1)).map fun t => (t.1 - c.winBase / 4096, t.2),
    poison := s.poisonOfCohort key c,
    syncs := (s.syncs.filter fun y => y.space == 0 && c.has y.addr).map fun y => (y.addr - c.winBase, y.rel) }

/-- The subscription goes dormant; what its discarded pushes would have answered is owed by the push at restore (R233, R239). -/
def State.goDormant (s : State) (b : Subscription) : Subscription :=
  { b with dormant := true,
           owed := b.owed ++ (s.pushes.filter fun p => p.core == b.core && p.slot == b.slot && p.word == b.word).flatMap (·.answers) }

/-- Saves one cohort and frees its slots, registers, tiles and window (R317, R318). Granules that hold an error stay poisoned where they are
(R312). -/
def State.saveCohort (s : State) (key : Nat) : State :=
  match s.cohorts.find key with
  | none => s
  | some c =>
    let mine := s.waves.filter fun e => e.2.cohort == key
    let t := mine.foldl (fun u e => u.leaveSlot e.1 e.2) s
    { t with
      cohorts := t.cohorts.put key { c with preempted := true },
      saved := t.saved ++ [s.contextOf key c fun _ => true],
      subs := t.subs.map fun b => if b.cohort = key then s.goDormant b else b,
      pushes := t.pushes.filter fun p => !p.inWindow c.place c.winBase (c.winBase + c.wsize),
      cores := t.cores.change c.place fun k => { k with jobs := k.jobs.filter fun j => j.cohort != key },
      fwFaults := t.fwFaults.filter fun f => !mine.any fun e => f.wave == waveField e.1 }

/-- The bytes of the context areas of the partitions that cores belong to: the firmware writes contexts there, and the manual gives them no
layout (R317). -/
def State.writeArea (s : State) (keys : List Nat) : State :=
  let areas := s.parts.filterMap fun p =>
    if keys.any fun k => (s.cohorts.find k).any fun c => p.2.cores.contains c.place then some p.2.carea else none
  { s with gmem := areas.foldl (fun m a => Memory.clear m a.1 (a.1 + a.2)) s.gmem }

/-! ## Restore (R319, R320) -/

/-- Where windows have moved: the cluster whose cohort has it, by launch and index, old base, size, new base. -/
abbrev Moves := List ((Nat × Nat) × Nat × Nat × Nat)

/-- The windows of a cluster that have moved. -/
def Moves.within (m : Moves) (cl : Nat × Nat) : Moves := m.filter fun r => r.1 == cl

/-- A vault address of a cohort restored on a die: in a window of its cluster that has moved it lies where the window now is (R320), and elsewhere it is
the same offset of the same core number on the die, which is what the die-absolute form names (R9, R131, log 113). -/
def moved (m : Moves) (die va : Nat) : Nat :=
  match m.find? fun r => decide (r.2.1 ≤ va) && decide (va < r.2.1 + r.2.2.1) with
  | some r => va - r.2.1 + r.2.2.2
  | none => 64 * Config.vaultSpan * die + va % (64 * Config.vaultSpan)

/-- The vault addresses that an undrained entry holds, moved. -/
def movePart (mv : Nat → Nat) (p : Part) : Part :=
  match p.kind with
  | .subscribe a => { p with kind := .subscribe (mv a) }
  | .unsubscribe a => { p with kind := .unsubscribe (mv a) }
  | _ => p

/-- An undrained entry, moved. -/
def moveEntry (mv : Nat → Nat) (e : SBEntry) : SBEntry :=
  { e with kind := match e.kind with
      | .vst w bs tag => .vst w (bs.map fun b => (mv b.1, b.2)) tag
      | .vatom op w un ls d u => .vatom op w un (ls.map fun l => { l with addr := mv l.addr }) d u
      | .global ps => .global ps
      | .subscr ls => .subscr (ls.map fun l => (mv l.1, movePart mv l.2))
      | .unsub ls => .unsub (ls.map fun l => (mv l.1, movePart mv l.2))
      | .nextw a => .nextw (mv a) }

/-- A saved job in the wave's new slot and renumbered; a parked one goes on (R282, R319). Its addresses are EAs, resolved at each access. -/
def moveJob (slot base : Nat) (j : Job) : Job :=
  { j with id := base + j.id, slot := slot, state := if j.state = .parked then .running else j.state }

/-- A saved strand as it is restored: parks replay, and a TSTG's job has its new number (R307, R318). -/
def restoreRun (base : Nat) (r : Run) : Run :=
  { r with park := r.park.map fun p => { p with pages := [], posted := false },
           wait := match r.wait with
             | some (.capture j) => some (.capture (base + j))
             | y => y }

/-- A saved wave as it is restored, with the tiles it now holds; its translations are stale (R318). -/
def restoreWave (mv : Nat → Nat) (base : Nat) (tmask : Word) (w : Wave) : Wave :=
  { w.mapRuns (restoreRun base) with
    tmask := tmask, sb := w.sb.map (moveEntry mv),
    x := w.x.mapv fun _ x => if x.valid then { x with trans := none, stale := true } else x }

/-- A load that a restored wave has still to send lands in the moved window, for the wave's new slot. -/
def moveLoad (mv : Nat → Nat) (slotOf : Nat → Nat) (ws : FMap Wave) (l : Load) : Load :=
  match ws.find? fun e => e.2.sb.any fun x => x.loads.contains l.id with
  | some e => { l with slot := slotOf e.1, ea := mv l.ea }
  | none => l

/-- Poison of the granules that a restore writes whole is gone; that of the context comes in its place (R312, R318). -/
def State.restorePoison (s : State) (d : Cohort) (slotOf : Nat → Nat) (tmask : Nat → Word) (sv : Saved) : State :=
  let kept := s.poisonT.filter fun g => !(sv.waves.any fun e => (lanesOf (tmask e.1)).any fun k => g.1 == freeTile d.place k)
  { s with
    poisonR := s.poisonR ++ sv.poison.filterMap (fun z => match z with
      | .register i r n => some (slotOf i, r, n)
      | _ => none),
    poisonT := kept ++ sv.poison.filterMap (fun z => match z with
      | .tile i g => some (slotOf i, g)
      | _ => none),
    poisonV := (s.poisonV.filter fun g => !d.has (16 * g)) ++ sv.poison.filterMap (fun z => match z with
      | .vault g => some (d.winBase / 16 + g)
      | _ => none) }

/-- Every undrained entry of a context reaches vaults of its partition alone once it has moved (R32, log 113). -/
def State.entriesReach (s : State) (part : Nat) (mv : Nat → Nat) (sv : Saved) : Bool :=
  sv.waves.all fun e => e.2.sb.all fun x => (moveEntry mv x).vaultBytes.all (s.inPartition part)

/-- Restores one cohort at a place, which has room for the waves that have not retired (R289, R319). -/
def State.restoreAt (s : State) (m : Moves) (p : Place) : Option State := do
  let key := cohortKey p.launch p.cohort
  let sv ← s.saved.find? (·.cohort == key)
  let c ← s.cohorts.find key
  let l ← s.launches.find p.launch
  guard (c.preempted ∧ s.fitsAt l p (sv.waves.map (·.1)))
  let d : Cohort := { c with die := p.die, core := p.core, wbase := p.wbase, preempted := false }
  let k ← s.cores.find d.place
  let slotOf (i : Nat) := (placeSlots p).getD i 0
  let tmask (i : Nat) := p.tiles.getD i 0
  let mv := moved (m.within (p.launch, l.clusterOf p.cohort)) p.die
  guard (s.entriesReach l.part mv sv ∧ s.loads.all fun x => let y := moveLoad mv slotOf sv.waves x; y == x || s.inPartition l.part y.ea)
  let t := ((s.freshWindow d.winBase d.wsize).vaultPuts (sv.window.map fun b => (d.winBase + b.1, b.2))).restorePoison d slotOf tmask sv
  let jobs := sv.jobs.map fun j => moveJob (slotOf j.widx) k.freshId j
  some { t with
    tags := sv.tags.foldl (fun (x : FMap Nat) g => x.put (d.winBase / 4096 + g.1) g.2) t.tags,
    syncs := t.syncs ++ sv.syncs.map fun y => ⟨0, d.winBase + y.1, y.2⟩,
    waves := sv.waves.foldl (fun (x : FMap Wave) e => x.put (slotOf e.1) (restoreWave mv k.freshId (tmask e.1) e.2)) t.waves,
    cohorts := t.cohorts.put key d,
    saved := t.saved.filter (·.cohort != key),
    cores := t.cores.change d.place (fun y => { y with jobs := y.jobs ++ jobs }),
    loads := t.loads.map (moveLoad mv slotOf sv.waves) }

/-- Restores cohorts one after another. -/
def State.restoreAll (s : State) (m : Moves) : List Place → Option State
  | [] => some s
  | p :: ps => (s.restoreAt m p).bind fun t => State.restoreAll t m ps

/-- A subscription's directory entry moves from its old core, unless another subscription has the same there, to its new one (R234). -/
def State.moveDir (s : State) (b d : Subscription) : State :=
  let shared := s.subs.any fun x => x.core == b.core && x.word == b.word && x.slot == b.slot
  (s.modCore b.core fun k => if shared then k else { k with subs := k.subs.filter (· != (b.word, b.slot)) }).modCore d.core fun k =>
    if k.subs.contains (d.word, d.slot) then k else { k with subs := k.subs ++ [(d.word, d.slot)] }

/-- A subscription of a restored cohort: it moves with its slot, wakes, and receives one push with RESTORED set, which answers what the
pushes discarded at pre-emption would have answered (R233, R234, R239). -/
def State.restoreSub (m : Moves) (core : Nat) (s : State) (b : Subscription) : State :=
  let d := { b with core := core, slot := moved m (core / 64) b.slot, dormant := false, owed := [] }
  let key := (s.gkeys.find (b.word * 8 / 64)).getD 0
  let lost := !s.hasLink (b.word * 8)
  let val := if lost then BitVec.allOnes 64 else s.gword key b.word
  let rel := (s.syncs.find? fun y => y.space == 1 && y.addr / 8 == b.word).map fun (y : Sync) => y.rel
  let t := { s with subs := s.subs.map fun x => if x = b then d else x }
  b.owed.foldl (fun u a => u.acquired (.answer a))
    ((t.deliverValue d.slot val ((s.seqs.find b.word).getD 0) true rel (lost || s.poisonedWord b.word)).moveDir b d)

/-- The subscriptions of a restored cohort (R239). -/
def State.restoreSubs (m : Moves) (s : State) (p : Place) : State :=
  let mine := m.within (p.launch, ((s.launches.find p.launch).map fun l => l.clusterOf p.cohort).getD 0)
  (s.subs.filter fun b => b.cohort == cohortKey p.launch p.cohort).foldl (State.restoreSub mine (64 * p.die + p.core)) s

/-- The cluster of a cohort of a launch (R18). -/
def State.clusterKey (s : State) (launch index : Nat) : Option (Nat × Nat) := (s.launches.find launch).map fun l => (launch, l.clusterOf index)

/-- The members of each cluster, those that are restored and those whose windows have been kept where they are (R309), stand on distinct cores of
one rectangle (R18). -/
def State.shapesOk (s : State) (places : List Place) : Bool :=
  places.all fun p =>
    let cl := s.clusterKey p.launch p.cohort
    let here (c : Cohort) := !c.freed && !c.preempted && s.clusterKey c.launch c.index == cl
    let cores := ((places.filter fun q => s.clusterKey q.launch q.cohort == cl).map fun q => 64 * q.die + q.core) ++
      (s.cohorts.filter fun e => here e.2).map fun e => e.2.place
    cores.eraseDups.length == cores.length && clusterShape cores

/-! ## The debugger (R310, R311, R318) -/

/-- What the debugger writes into a wave's own state; `none` for a piece that the wave does not have. -/
def Wave.debugWrite (w : Wave) : DebugItem → Option Wave
  | .lane r l x => if r < w.budget ∧ l < 32 then some { w with v := w.v.put r (LaneVec.gen fun k => if k = l then x else w.lane r k) } else none
  | .pred r x => if 0 < r ∧ r < 8 then some { w with p := w.p.put r x } else none
  | .uniform r x => if r < 48 then some { w with s := w.s.put r x } else none
  | .priv e r x => (w.run e).bind fun q => if 48 ≤ r ∧ r < 64 then some (w.setRun e { q with priv := q.priv.put r x }) else none
  | .qpred e x => (w.run e).map fun q => w.setRun e { q with q := x ||| 1 }
  | .mask e x => (w.run e).map fun q => w.setRun e { q with mask := x }
  | .pc e x => (w.run e).bind fun q => if x % 4 = 0 ∧ x < 2 ^ 48 then some (w.setRun e { q with pc := x, sub := none, passed := false }) else none
  | .xreg r valid vb lim => if r < 8 then some { w with x := w.x.put r ⟨valid, vb, lim, none, valid⟩ } else none
  | .tile t o x => if t < w.ntiles ∧ o < 16384 then some { w with tmem := Memory.set w.tmem (tileAddr t o) x } else none
  | .shape t x => if t < w.ntiles then some { w with shape := w.shape.put t x } else none
  | .layout t x => if t < w.ntiles then some { w with layout := w.layout.put t x } else none
  | .csr n x => if n = 0x20 ∨ n = 0x21 ∨ n = 0x22 ∨ n = 0x31 ∨ n = 0x32 ∨ n = 0x40 then some (w.putCsr n x) else none
  | .entry n x => if n < 16 then some { w with lattice := match x with
      | some y => w.lattice.put n y
      | none => w.lattice.del n } else none
  | .stores es => if es.length ≤ 64 then some { w with sb := es } else none
  | .task x => some { w with task := x }
  | .read => none
  | .job _ => none
  | .tag .. => none
  | .window .. => none
  | .barrier .. => none

/-- PREEMPT: whole cohorts stop at an instruction boundary, complete what they have issued, and are saved (R316 to R318, R239, R255, R282,
R298). A trap that is due is taken first. The step is enabled once the firmware's waits are over. -/
def execPreempt (cohorts : List Nat) (s : State) : Out :=
  State.event "PREEMPT" (do
    guard (s.wholeUnits cohorts fun _ c => !c.gone && !c.preempted)
    match s.dueIn cohorts with
    | some (slot, f) => some (s.waveTrap slot f none)
    | none =>
      guard (cohorts.all fun k => (s.cohorts.find k).any fun c => s.cohortQuiet k c)
      some ((cohorts.foldl State.saveCohort s).writeArea cohorts))

/-- RESTORE: saved cohorts go on where the firmware puts them, on cores whose directories have room for their subscriptions (R27, R234, R289,
R319, R320). -/
def execRestore (places : List Place) (s : State) : Out :=
  State.event "RESTORE" (do
    let keys := places.map fun p => cohortKey p.launch p.cohort
    guard (!s.down ∧ (s.wholeUnits keys fun _ c => c.preempted) ∧ s.shapesOk places)
    let m : Moves := places.filterMap fun p => (s.cohorts.find (cohortKey p.launch p.cohort)).map fun c =>
      ((c.launch, ((s.launches.find c.launch).map fun l => l.clusterOf c.index).getD 0), c.winBase, c.wsize, vaultBase (64 * p.die + p.core) + p.wbase)
    let t ← s.restoreAll m places
    let u := places.foldl (State.restoreSubs m) t
    guard (u.cores.all fun e => decide (e.2.subs.length ≤ Config.directory) || (s.cores.find e.1).any fun k => k.subs.length == e.2.subs.length)
    some u)

/-- DEBUG_HALT: the firmware halts a wave at an instruction boundary (R28, R311). -/
def execDebugHalt (slot : Nat) (s : State) : Out :=
  State.event "DEBUG_HALT" (do
    let w ← s.waves.find slot
    guard (w.state = .bound ∨ w.state = .running)
    some (s.modWave slot fun v => { v with state := .halted, single := none }))

/-- DEBUG_RESUME: a halted wave goes on at the next instruction; one halted by a fatal trap cannot (R190, R310). -/
def execDebugResume (slot : Nat) (s : State) : Out :=
  State.event "DEBUG_RESUME" (do
    let w ← s.waves.find slot
    guard (w.state = .halted ∧ w.fatal = none)
    some (s.resumeTrap slot))

/-- SINGLE_STEP: a strand of a halted wave may issue one instruction (R310). -/
def execSingleStep (slot entry : Nat) (s : State) : Out :=
  State.event "SINGLE_STEP" (do
    let w ← s.waves.find slot
    guard (w.state = .halted ∧ w.fatal = none ∧ (w.run entry).isSome)
    some (s.modWave slot fun v => { v.resumeRuns (· == entry) with single := some entry }))

/-- What the debugger writes outside the wave itself, or reads; `none` for a piece that the wave or its cohort does not have. -/
def State.debugWrite (s : State) (slot : Nat) (w : Wave) (c : Cohort) : DebugItem → Option State
  | .read => some { s with debugReads := s.debugReads ++ [(slot, s.contextOf w.cohort c (fun v => v.widx == w.widx), c.barriers)] }
  | .window o x => if o < c.wsize then some (s.vaultWrite [(c.winBase + o, x)]) else none
  | .tag o x => if o < c.wsize ∧ x < 16 then some (s.setTags x [c.winBase + o]) else none
  | .barrier b we ee wc ec pend phase status =>
    if b < 16 then some (s.barrier w.cohort b fun _ => ⟨we, ee, wc, ec, pend, phase, status, []⟩) else none
  | .job j =>
    if j.slot = slot ∧ j.cohort = w.cohort then
      some (s.modCore c.place fun k => { k with jobs := k.jobs.map fun x => if x.id = j.id ∧ x.slot = slot ∧ x.cohort = j.cohort then j else x })
    else none
  | .lane r l x => do
    let v ← w.debugWrite (.lane r l x)
    some { s with waves := s.waves.put slot v, poisonR := s.poisonR.filter (· != (slot, r, l)) }
  | x => do
    let v ← w.debugWrite x
    some { s with waves := s.waves.put slot v }

/-- DEBUG_STATE_WRITE: the debugger reads a halted wave's state, or writes a piece of it (R311, R318). A register lane that it writes is
poisoned no more (R312). -/
def execDebugStateWrite (slot : Nat) (item : DebugItem) (s : State) : Out :=
  State.event "DEBUG_STATE_WRITE" (do
    let w ← s.waves.find slot
    let c ← s.cohorts.find w.cohort
    guard (w.state = .halted)
    s.debugWrite slot w c item)

end Sys2Proof.Machine
end

