-- ==== Sys2Proof/Machine/Exchange.lean ====
section
/-! DEFINITION. Lane exchange: OPs 0x18 and 0x19 (R212 to R223). Participants are the active lanes; in a protected launch
each copy exchanges with its own parity only. -/

namespace Sys2Proof.Machine

/-- The participants a lane exchanges with: all, or in a protected launch those of its parity (R212, R214). -/
def Ctx.peers (c : Ctx) (t : Word) (l : Nat) : List Nat :=
  (lanesOf t).filter fun j => !c.la.protect || j % 2 == l % 2

/-- The participant of a lane number, as lane `l` counts lanes (R212, R214). -/
def Ctx.peer (c : Ctx) (t : Word) (l : Nat) (n : Int) : Option Nat :=
  (c.peers t l).find? fun j => (laneNo c.la j : Int) == n

/-- SHFL, SHFLX, SHFLUP and SHFLDN by their source index (R217). -/
def shuffle (wf : Bool) (e : LExt) (d a b : BitVec 7) (pick : BitVec 5) (i w64 : Bool) (f : Int → Nat → Int) (s : State) : Out :=
  execB s (.ofLane wf e (nvw a w64 ++ (if i then [] else nv b)) (nvw d w64)) fun c =>
    let t := c.active e
    wrW w64 d t fun l =>
      let x := if i then pick.toNat else (c.v b l).toNat
      c.vw w64 a ((c.peer t l (f (laneNo c.la l) x)).getD l)

/-- An integer reduction or scan over the peers of each lane (R222). -/
def reduce (wf : Bool) (e : LExt) (d a : BitVec 7) (w64 : Bool) (f : Nat → List (Nat × DWord) → DWord) (s : State) : Out :=
  execB s (.ofLane wf e (nvw a w64) (nvw d w64)) fun c =>
    let t := c.active e
    wrW w64 d t fun l => f l ((c.peers t l).map fun j => (j, c.vw w64 a j))

/-- The sum of the values, modulo 2^64; a 32-bit sum is its low word (R222). -/
def sumOf (xs : List (Nat × DWord)) : DWord := xs.foldl (fun a x => a + x.2) 0

/-- The value that no other beats under an order. -/
def leastOf (lt : DWord → DWord → Bool) : List (Nat × DWord) → DWord
  | [] => 0
  | x :: t => t.foldl (fun m y => if lt y.2 m then y.2 else m) x.2

/-- The order of REDMIN: a pair or a word, signed or unsigned (R222). -/
def redLt (w64 un : Bool) (x y : DWord) : Bool :=
  if un then x.ult y else if w64 then x.slt y else (loWord x).slt (loWord y)

/-- One level of the tree: neighbours are added, a single one passes unchanged (R223). -/
def treeLevel (f : Fmt) (rm : Rm) (ftz : Bool) : List (Option Nat) → List (Option Nat) × FFlags
  | a :: b :: t =>
    let r := treeLevel f rm ftz t
    match a, b with
    | some x, some y =>
      let z := f.add rm ftz (f.decode x) (f.decode y)
      (some z.1 :: r.1, z.2 ||| r.2)
    | some x, none => (some x :: r.1, r.2)
    | none, y => (y :: r.1, r.2)
  | xs => (xs, 0)

/-- The levels of the tree from a list of 2^n nodes. -/
def treeUp (f : Fmt) (rm : Rm) (ftz : Bool) : (levels : Nat) → List (Option Nat) → Nat × FFlags
  | 0, xs => (((xs.head?).getD none).getD 0, 0)
  | n + 1, xs =>
    let r := treeLevel f rm ftz xs
    let z := treeUp f rm ftz n r.1
    (z.1, z.2 ||| r.2)

/-- A leaf read through the flush of R96: its bits and DN. -/
def treeLeaf (f : Fmt) (ftz : Bool) (x : Nat) : Nat × FFlags :=
  let r := f.read ftz x
  (if r.2 = 0 then x else x / 2 ^ (f.width - 1) * 2 ^ (f.width - 1), r.2)

/-- TreeSum over the lanes of a set on one side (R223): the sum and its flags. -/
def Ctx.treeSum (c : Ctx) (f : Fmt) (ftz : Bool) (a : BitVec 7) (set : List Nat) : Nat × FFlags :=
  let at_ (n : Nat) := (set.find? fun j => laneNo c.la j == n).map fun j =>
    treeLeaf f ftz (if f.width = 64 then (c.v64 a j).toNat else (c.v a j).toNat)
  let leaves := (List.range (waveWidth c.la)).map at_
  let r := treeUp f (rmMode c.w.fpmode) ftz (if c.la.protect then 4 else 5) (leaves.map fun x => x.map (·.1))
  (r.1, leaves.foldl (fun g x => g ||| (x.elim 0 (·.2))) r.2)

/-- REDADD.F32, REDADD.F64 and SCAN.F32 (R223). -/
def treeRed (f : Fmt) (scan wf : Bool) (e : LExt) (d a : BitVec 7) (s : State) : Out :=
  let w64 := f.width == 64
  execB s (.ofLane wf e (nvw a w64) (nvw d w64)) fun c =>
    let t := c.active e
    let r (l : Nat) := c.treeSum f (!w64 && c.w.fpmode.getLsbD 2) a ((c.peers t l).filter fun j => !scan || decide (j ≤ l))
    wrW w64 d t (fun l => BitVec.ofNat 64 (r l).1) ++ orFlags t fun l => (r l).2

/-- A byte of the line that a group of eight lanes holds (R220). -/
def Ctx.lineByte (c : Ctx) (a : BitVec 7) (h k : Nat) : Byte :=
  (c.w.lane (a.toNat + k / 4) h).extractLsb' (8 * (k % 4)) 8

/-- SHFL: from lane sel, or the own value (R217). -/
def execShfl (e : LExt) (d a b : BitVec 7) (pick : BitVec 5) (i w64 : Bool) (s : State) : Out :=
  shuffle (e.wf && (absent e.x (pick == 0 && !i && !w64)) && (i || pick == 0) && (!i || b == 0) && (!w64 || (even d && even a))) e d a b pick i w64 (fun _ x => x) s

/-- SHFLX: from lane l xor sel, or the own value (R217). -/
def execShflx (e : LExt) (d a b : BitVec 7) (pick : BitVec 5) (i w64 : Bool) (s : State) : Out :=
  shuffle (e.wf && (absent e.x (pick == 0 && !i && !w64)) && (i || pick == 0) && (!i || b == 0) && (!w64 || (even d && even a))) e d a b pick i w64 (fun l x => ((l.toNat ^^^ x : Nat) : Int)) s

/-- SHFLUP: from lane l − sel, or the own value (R217). -/
def execShflup (e : LExt) (d a b : BitVec 7) (pick : BitVec 5) (i w64 : Bool) (s : State) : Out :=
  shuffle (e.wf && (absent e.x (pick == 0 && !i && !w64)) && (i || pick == 0) && (!i || b == 0) && (!w64 || (even d && even a))) e d a b pick i w64 (fun l x => l - x) s

/-- SHFLDN: from lane l + sel, or the own value (R217). -/
def execShfldn (e : LExt) (d a b : BitVec 7) (pick : BitVec 5) (i w64 : Bool) (s : State) : Out :=
  shuffle (e.wf && (absent e.x (pick == 0 && !i && !w64)) && (i || pick == 0) && (!i || b == 0) && (!w64 || (even d && even a))) e d a b pick i w64 (fun l x => l + x) s

/-- BCAST: from the lane named, or with FIRST from the lowest participant; else the own value (R218). -/
def execBcast (e : LExt) (d a : BitVec 7) (src : BitVec 5) (w64 first : Bool) (s : State) : Out :=
  execB s (.ofLane (e.wf && (absent e.x (src == 0 && !w64 && !first)) && (!first || src == 0) && (!w64 || (even d && even a))) e (nvw a w64) (nvw d w64)) fun c =>
    let t := c.active e
    wrW w64 d t fun l =>
      c.vw w64 a ((if first then (c.peers t l).head? else c.peer t l src.toNat).getD l)

/-- VOTE.ANY, ALL, EQ and BALLOT (R219); copies that differ trap SHADOW_MISMATCH (R315). -/
def execVote (e : LExt) (d : BitVec 7) (a : BitVec 3) (mode : BitVec 2) (s : State) : Out :=
  let dst : BitVec 3 := d.extractLsb' 0 3
  execOwn true s (.ofLane (e.wf && (absent e.x (mode == 0)) && (mode == 3 || d.toNat < 8)) e (np a) (if mode = 3 then nv d else dp dst))
    (fun c => c.shadow (c.active e) fun x y => c.p a x == c.p a y) fun c =>
    let t := c.active e
    let has (l : Nat) (b : Bool) := (c.peers t l).any fun j => c.p a j == b
    match mode.toNat with
    | 0 => wrP dst t fun l => has l true
    | 1 => wrP dst t fun l => !has l false
    | 2 => wrP dst t fun l => !(has l true && has l false)
    | _ => wrV d t fun l => maskOf fun n => (c.peer t l n).any fun j => c.p a j

/-- GATHG: reads the line that groups of eight lanes hold; ILLEGAL_OP in a protected launch, ALIGN for a misaligned offset below 128 (R214, R220). -/
def execGathg (e : LExt) (d a b : BitVec 7) (w : BitVec 2) (sg : Bool) (s : State) : Out :=
  execOwn true s { Need.ofLane (e.wf && (absent e.x (w == 0 && !sg)) && quad a && (!sg || w.toNat < 2) && (w != 3 || even d)) e (nvs a 4 ++ nv b) (nvw d (w == 3)) with badLaunch := fun la => la.protect }
    (fun c => ((lanesOf (c.active e)).find? fun l => decide ((c.v b l).toNat < 128) && (c.v b l).toNat % 2 ^ w.toNat != 0).map
      fun l => (.align, (c.v b l).zeroExtend 64)) fun c =>
    let t := c.active e
    let o (l : Nat) := (c.v b l).toNat
    let h (l : Nat) := l / 8 * 8 + o l / 16
    let m := maskOf fun l => t.getLsbD l && decide (o l < 128) && t.getLsbD (h l)
    wrW (w == 3) d m fun l =>
      let n := 2 ^ w.toNat
      let x := leNat ((addrs (o l % 16) n).map (c.lineByte a (h l)))
      if sg then (BitVec.ofNat (8 * n) x).signExtend 64 else BitVec.ofNat 64 x

/-- REDADD: the wrapped sum over the participants (R222). -/
def execRedadd (e : LExt) (d a : BitVec 7) (w64 : Bool) (s : State) : Out :=
  reduce (e.wf && absent e.x (!w64) && (!w64 || (even d && even a))) e d a w64 (fun _ xs => sumOf xs) s

/-- REDMIN: the least value over the participants (R222). -/
def execRedmin (e : LExt) (d a : BitVec 7) (w64 un : Bool) (s : State) : Out :=
  reduce (e.wf && absent e.x (!w64 && !un) && (!w64 || (even d && even a))) e d a w64 (fun _ xs => leastOf (redLt w64 un) xs) s

/-- REDMAX: the greatest value over the participants (R222). -/
def execRedmax (e : LExt) (d a : BitVec 7) (w64 un : Bool) (s : State) : Out :=
  reduce (e.wf && absent e.x (!w64 && !un) && (!w64 || (even d && even a))) e d a w64 (fun _ xs => leastOf (fun x y => redLt w64 un y x) xs) s

/-- REDADD.F32: TreeSum over the participants (R223). -/
def execRedaddF32 (e : LExt) (d a : BitVec 7) (s : State) : Out :=
  treeRed fmt32 false (e.wf) e d a s

/-- REDADD.F64: TreeSum over the participants (R223). -/
def execRedaddF64 (e : LExt) (d a : BitVec 7) (s : State) : Out :=
  treeRed fmt64 false (e.wf && even d && even a) e d a s

/-- SCAN: the wrapped sum over the participants up to the lane (R222). -/
def execScan (e : LExt) (d a : BitVec 7) (w64 : Bool) (s : State) : Out :=
  reduce (e.wf && absent e.x (!w64) && (!w64 || (even d && even a))) e d a w64 (fun l xs => sumOf (xs.filter fun x => decide (x.1 ≤ l))) s

/-- SCANX: the wrapped sum over the participants below the lane (R222). -/
def execScanx (e : LExt) (d a : BitVec 7) (w64 : Bool) (s : State) : Out :=
  reduce (e.wf && absent e.x (!w64) && (!w64 || (even d && even a))) e d a w64 (fun l xs => sumOf (xs.filter fun x => decide (x.1 < l))) s

/-- SCAN.F32: TreeSum over the participants up to the lane (R223). -/
def execScanF32 (e : LExt) (d a : BitVec 7) (s : State) : Out :=
  treeRed fmt32 true (e.wf) e d a s

end Sys2Proof.Machine
end

