-- ==== Sys2Proof/Machine/Irregular.lean ====
section
/-! DEFINITION. Irregular work: OP 0x1A (R224 to R231). -/

namespace Sys2Proof.Machine

/-- REBAL over the rows left: (lane, length) pairs, the first item's index and the work index (R227). -/
def rebal : List (Nat × Nat) → (start w : Nat) → Option (Nat × Nat)
  | [], _, _ => none
  | (j, n) :: t, start, w => if start ≤ w ∧ w < start + n then some (j, w - start) else rebal t (start + n) w

/-- One output of a merge: the key and the lanes that gave it (R229). -/
structure Merged where
  key : Word
  xl  : Option Nat
  yl  : Option Nat
deriving DecidableEq, Repr

/-- The merge of R229: the outputs, and the elements consumed of each list. -/
def mergeKeys (union fX fY : Bool) (width : Nat) : (fuel : Nat) → (xs ys : List (Nat × Word)) → (out : List Merged) → (nx ny : Nat) →
    List Merged × Nat × Nat
  | 0, _, _, out, nx, ny => (out.reverse, nx, ny)
  | n + 1, xs, ys, out, nx, ny =>
    if out.length = width then (out.reverse, nx, ny) else
    match xs, ys with
    | x :: xt, y :: yt =>
      if x.2 = y.2 then mergeKeys union fX fY width n xt yt (⟨x.2, some x.1, some y.1⟩ :: out) (nx + 1) (ny + 1)
      else if x.2.toNat < y.2.toNat then
        mergeKeys union fX fY width n xt (y :: yt) (if union then ⟨x.2, some x.1, none⟩ :: out else out) (nx + 1) ny
      else mergeKeys union fX fY width n (x :: xt) yt (if union then ⟨y.2, none, some y.1⟩ :: out else out) nx (ny + 1)
    | x :: xt, [] =>
      if fY then
        if union then mergeKeys union fX fY width n xt [] (⟨x.2, some x.1, none⟩ :: out) (nx + 1) ny
        else (out.reverse, nx + (x :: xt).length, ny)
      else (out.reverse, nx, ny)
    | [], y :: yt =>
      if fX then
        if union then mergeKeys union fX fY width n [] yt (⟨y.2, none, some y.1⟩ :: out) nx (ny + 1)
        else (out.reverse, nx, ny + (y :: yt).length)
      else (out.reverse, nx, ny)
    | [], [] => (out.reverse, nx, ny)

/-- The selector word of an output (R230). -/
def selectorWord (nx ny : Nat) (m : Option Merged) : Word :=
  let part (l : Option Nat) : Nat := match l with
    | some i => 32 + i
    | none => 0
  BitVec.ofNat 32 (ny * 2 ^ 24 + nx * 2 ^ 16 + match m with
    | some x => part x.yl * 2 ^ 8 + part x.xl
    | none => 0)

/-- MRGU and MRGI (R228 to R230). -/
def merge (union wf : Bool) (e : LExt) (d a b : BitVec 7) (px py pe : BitVec 3) (s : State) : Out :=
  execB s (.ofLane wf e (nv a ++ nv b ++ np px ++ np py) (nvs d 2 ++ dp pe)) fun c =>
    let t := c.active e
    let r (l : Nat) :=
      let ps := c.peers t l
      let list (v : BitVec 7) (p : BitVec 3) := (ps.filter (c.p p)).map fun j => (laneNo c.la j, c.v v j)
      let xs := list a px
      let ys := list b py
      let m := mergeKeys union (decide (xs.length < ps.length)) (decide (ys.length < ps.length)) ps.length 65 xs ys [] 0 0
      (m.1[(ps.filter fun j => decide (j < l)).length]?, m.2.1, m.2.2)
    wrV d t (fun l => ((r l).1.map (·.key)).getD 0) ++
      [.v (d.toNat + 1) t (LaneVec.gen fun l => selectorWord (r l).2.1 (r l).2.2 (r l).1)] ++
      wrP pe t fun l => (r l).1.isSome

/-- CONFL: the earlier participants that hold the same key (R226). -/
def execConfl (e : LExt) (d a : BitVec 7) (w64 : Bool) (s : State) : Out :=
  execB s (.ofLane (e.wf && absent e.x (!w64) && (!w64 || even a)) e (nvw a w64) (nv d)) fun c =>
    let t := c.active e
    wrV d t fun l => maskOf fun n => (c.peer t l n).any fun j => decide (j < l) && c.vw w64 a j == c.vw w64 a l

/-- REBAL: the row and the offset in it of a work index (R227). -/
def execRebal (e : LExt) (d a b : BitVec 7) (s : State) : Out :=
  execB s (.ofLane (e.wf && even d) e (nv a ++ nv b) (nvs d 2)) fun c =>
    let t := c.active e
    wrPair d t fun l =>
      match Sys2Proof.Machine.rebal ((c.peers t l).map fun j => (laneNo c.la j, (c.v a j).toNat)) 0 (c.v b l).toNat with
      | some (j, o) => pairOf (BitVec.ofNat 32 j) (BitVec.ofNat 32 o)
      | none => pairOf 0xFFFFFFFF 0xFFFFFFFF

/-- MRGU: the union merge of two key lists (R228 to R230). -/
def execMrgu (e : LExt) (d a b : BitVec 7) (px py pe : BitVec 3) (s : State) : Out :=
  merge true (e.wf && (absent e.x (px == 0 && py == 0 && pe == 0)) && even d) e d a b px py pe s

/-- MRGI: the intersection of two key lists (R228 to R230). -/
def execMrgi (e : LExt) (d a b : BitVec 7) (px py pe : BitVec 3) (s : State) : Out :=
  merge false (e.wf && (absent e.x (px == 0 && py == 0 && pe == 0)) && even d) e d a b px py pe s

/-- COMPACT: packs the values that pC selects (R231). -/
def execCompact (e : LExt) (d a : BitVec 7) (c : BitVec 3) (w64 : Bool) (s : State) : Out :=
  execB s (.ofLane (e.wf && (absent e.x (c == 0 && !w64)) && (!w64 || (even d && even a))) e (nvw a w64 ++ np c) (nvw d w64)) fun x =>
    let t := x.active e
    let src (l : Nat) := ((x.peers t l).filter (x.p c))[((x.peers t l).filter fun j => decide (j < l)).length]?
    wrW w64 d (t &&& maskOf fun l => (src l).isSome) fun l => x.vw w64 a ((src l).getD l)

/-- EXPAND: spreads values to the lanes that pC selects (R231). -/
def execExpand (e : LExt) (d a : BitVec 7) (c : BitVec 3) (w64 : Bool) (s : State) : Out :=
  execB s (.ofLane (e.wf && (absent e.x (c == 0 && !w64)) && (!w64 || (even d && even a))) e (nvw a w64 ++ np c) (nvw d w64)) fun x =>
    let t := x.active e
    let src (l : Nat) := (x.peers t l)[((x.peers t l).filter fun j => decide (j < l) && x.p c j).length]?
    wrW w64 d (t &&& maskOf (x.p c)) fun l => x.vw w64 a ((src l).getD l)

end Sys2Proof.Machine
end

