-- ==== Sys2Proof/Machine/Signature.lean ====
section
/-! DEFINITION. SHAKE256 (R333) and the module's XMSS signatures (R11, R331, R334). -/

namespace Sys2Proof.Machine

/-! ## SHAKE256 (R333)

A state is five sheets of five 64-bit lanes each: the lane at column `x` and row `y` is the one of sheet `x` at place `y`. -/

/-- A sponge state. -/
abbrev Sheets := List (List DWord)

/-- The lane at a column and a row, both modulo 5. -/
def Sheets.lane (a : Sheets) (x y : Nat) : DWord := (List.getD a (x % 5) []).getD (y % 5) 0

/-- A state given lane by lane. -/
def Sheets.of (f : Nat → Nat → DWord) : Sheets := (List.range 5).map fun x => (List.range 5).map (f x)

/-- Adds to each lane the parities of the sheet before it and, turned by one, of the sheet after it. -/
def Sheets.mix (a : Sheets) : Sheets :=
  let par := a.map fun sheet => sheet.foldl (fun p l => p ^^^ l) 0
  Sheets.of fun x y => a.lane x y ^^^ par.getD ((x + 4) % 5) 0 ^^^ (par.getD ((x + 1) % 5) 0).rotateLeft 1

/-- The walk over the 24 lanes other than the first, from column `x` and row `y` at step `t`: the place each lane moves to, and the lane turned
by the triangular number of its step. -/
def Sheets.moves (a : Sheets) : (n t x y : Nat) → List (Nat × DWord)
  | 0, _, _, _ => []
  | n + 1, t, x, y =>
    let z := (2 * x + 3 * y) % 5
    (5 * y + z, (a.lane x y).rotateLeft ((t + 1) * (t + 2) / 2 % 64)) :: Sheets.moves a n (t + 1) y z

/-- Turns and moves every lane but the first. -/
def Sheets.turn (a : Sheets) : Sheets :=
  let m := (0, a.lane 0 0) :: a.moves 24 0 1 0
  Sheets.of fun x y => (m.lookup (5 * x + y)).getD 0

/-- One step of the register of eight bits that generates the round constants. -/
def constStep (r : Nat) : Nat := if r < 128 then 2 * r else (2 * r) ^^^ 0x171

/-- A round constant from the register: step `j` of seven gives bit `2 ^ j - 1`. -/
def constOf : (n j r : Nat) → DWord
  | 0, _, _ => 0
  | n + 1, j, r => (if r % 2 = 1 then BitVec.twoPow 64 (2 ^ j - 1) else 0) ||| constOf n (j + 1) (constStep r)

/-- The register `n` steps on. -/
def constRun : (n r : Nat) → Nat
  | 0, r => r
  | n + 1, r => constRun n (constStep r)

/-- One round: the two linear layers, the step that joins the lanes of a row, and the round constant in the first lane. -/
def Sheets.round (a : Sheets) (c : DWord) : Sheets :=
  let b := a.mix.turn
  Sheets.of fun x y => b.lane x y ^^^ (b.lane (x + 2) y &&& ~~~ b.lane (x + 1) y) ^^^ (if x + y = 0 then c else 0)

/-- The remaining rounds, with the register that generates their constants. -/
def Sheets.rounds : (n r : Nat) → Sheets → Sheets
  | 0, _, a => a
  | n + 1, r, a => Sheets.rounds n (constRun 7 r) (a.round (constOf 7 0 r))

/-- Takes in a block of 136 bytes and runs the 24 rounds. -/
def Sheets.absorb (a : Sheets) (block : List Byte) : Sheets :=
  (Sheets.of fun x y => a.lane x y ^^^ if x + 5 * y < 17 then BitVec.ofNat 64 (field block (8 * (x + 5 * y)) 8) else 0).rounds 24 1

/-- The bytes that pad a message of this length to whole blocks. -/
def shakePad (length : Nat) : List Byte :=
  match 135 - length % 136 with
  | 0 => [0x9F]
  | n + 1 => 0x1F :: List.replicate n 0 ++ [0x80]

/-- The state after a message. -/
def shake (msg : List Byte) : Sheets :=
  (groupsOf 136 (msg.length / 136 + 1) (msg ++ shakePad msg.length)).foldl Sheets.absorb (Sheets.of fun _ _ => 0)

/-- Bytes 0 to 7 of the SHAKE256 digest, little-endian (R333). -/
def shakeHead (msg : List Byte) : DWord := (shake msg).lane 0 0

/-- A SHAKE256 digest of 32 bytes (R11, R334). -/
def digest (msg : List Byte) : List Byte := (List.range 4).flatMap fun i => leBytes 8 ((shake msg).lane i 0).toNat

/-! ## XMSS with SHAKE256, n = 32, tree height 20 (R11)

The scheme's other parts are the standard's: Winternitz parameter 16, 67 chains, and the layout of addresses and signatures (log 58). -/

/-- A number as bytes, most significant first. -/
def beBytes (n v : Nat) : List Byte := (leBytes n v).reverse

/-- The number that bytes hold, most significant first. -/
def beNat (b : List Byte) : Nat := leNat b.reverse

/-- What a hash of the scheme is used for. -/
inductive HashUse where
  | chain | node | message | prf
deriving DecidableEq, Repr

/-- The number that stands before a hash's key. -/
def HashUse.number : HashUse → Nat
  | .chain => 0
  | .node => 1
  | .message => 2
  | .prf => 3

/-- A keyed hash. -/
def keyedHash (use : HashUse) (key msg : List Byte) : List Byte := digest (beBytes 32 use.number ++ key ++ msg)

/-- Where in the tree a hash stands: in a chain of a one-time key, in the tree that compresses one, or in the hash tree. -/
inductive HashPlace where
  | chain (leaf chain step : Nat)
  | leafTree (leaf height index : Nat)
  | tree (height index : Nat)
deriving DecidableEq, Repr

/-- The 32-byte address of a place; `part` numbers the key and the masks of its hash. -/
def HashPlace.bytes (part : Nat) (p : HashPlace) : List Byte :=
  let words : List Nat :=
    match p with
    | .chain l c i => [0, l, c, i]
    | .leafTree l h i => [1, l, h, i]
    | .tree h i => [2, 0, h, i]
  beBytes 12 0 ++ (words ++ [part]).flatMap (beBytes 4)

/-- The key (part 0) or a mask (parts 1 and 2) of the hash at a place. -/
def HashPlace.rand (seed : List Byte) (part : Nat) (p : HashPlace) : List Byte := keyedHash .prf seed (p.bytes part)

/-- Two strings of bytes added without carry. -/
def addBytes (a b : List Byte) : List Byte := List.zipWith (fun x y => x ^^^ y) a b

/-- The parent of two nodes. -/
def HashPlace.join (seed : List Byte) (p : HashPlace) (l r : List Byte) : List Byte :=
  keyedHash .node (p.rand seed 0) (addBytes l (p.rand seed 1) ++ addBytes r (p.rand seed 2))

/-- `n` steps of a chain from step `i` on. -/
def chainRun (seed : List Byte) (leaf chain : Nat) : (n i : Nat) → List Byte → List Byte
  | 0, _, x => x
  | n + 1, i, x =>
    let p := HashPlace.chain leaf chain i
    chainRun seed leaf chain n (i + 1) (keyedHash .chain (p.rand seed 0) (addBytes x (p.rand seed 1)))

/-- One level of the tree that compresses a one-time key; a last node without a partner moves up. -/
def leafLevel (seed : List Byte) (leaf height : Nat) : (index : Nat) → List (List Byte) → List (List Byte)
  | index, l :: r :: rest => (HashPlace.leafTree leaf height index).join seed l r :: leafLevel seed leaf height (index + 1) rest
  | _, rest => rest

/-- The leaf that compresses the ends of the 67 chains: seven levels. -/
def leafOf (seed : List Byte) (leaf : Nat) (ends : List (List Byte)) : List Byte :=
  ((List.range 7).foldl (fun nodes height => leafLevel seed leaf height 0 nodes) ends).headD []

/-- The 67 digits of a digest: its 64 in base 16, and the three of their checksum. -/
def chainDigits (d : List Byte) : List Nat :=
  let msg := d.flatMap fun b => [b.toNat / 16, b.toNat % 16]
  let sum := (msg.map fun x => 15 - x).sum
  msg ++ [sum / 256 % 16, sum / 16 % 16, sum % 16]

/-- The root to which a leaf and its authentication path lead. -/
def pathRoot (seed : List Byte) (leaf : Nat) (node : List Byte) (auth : List (List Byte)) : List Byte :=
  auth.zipIdx.foldl (fun n x =>
    let p := HashPlace.tree x.2 (leaf / 2 ^ (x.2 + 1))
    if leaf / 2 ^ x.2 % 2 = 0 then p.join seed n x.1 else p.join seed x.1 n) node

/-- The digest that signature number `leaf` signs. -/
def messageDigest (r root : List Byte) (leaf : Nat) (msg : List Byte) : List Byte :=
  keyedHash .message (r ++ root ++ beBytes 32 leaf) msg

/-- Checks a signature of a message under a public-key root and its seed (R331). A signature holds its number in 4 bytes, the randomiser, the
67 chain values and the nodes of the path, one for each level of the tree. -/
def xmssVerify (height : Nat) (root seed msg sig : List Byte) : Bool :=
  let leaf := beNat (sig.take 4)
  let parts := groupsOf 32 (68 + height) (sig.drop 4)
  let digits := chainDigits (messageDigest (parts.headD []) root leaf msg)
  let ends := (List.zip digits ((parts.drop 1).take 67)).zipIdx.map fun x => chainRun seed leaf x.2 (15 - x.1.1) x.1.1 x.1.2
  sig.length == 2180 + 32 * height && decide (leaf < 2 ^ height) && pathRoot seed leaf (leafOf seed leaf ends) (parts.drop 68) == root

/-- A node of the hash tree of a private key, which is the first value of each chain of each one-time key. -/
def treeNode (seed : List Byte) (secret : (leaf chain : Nat) → List Byte) : (height index : Nat) → List Byte
  | 0, leaf => leafOf seed leaf ((List.range 67).map fun c => chainRun seed leaf c 15 0 (secret leaf c))
  | h + 1, i => (HashPlace.tree h i).join seed (treeNode seed secret h (2 * i)) (treeNode seed secret h (2 * i + 1))

/-- Signature number `leaf` of a private key whose tree has the height, with its randomiser `r`. -/
def xmssSign (seed : List Byte) (secret : (leaf chain : Nat) → List Byte) (height leaf : Nat) (r msg : List Byte) : List Byte :=
  let digits := chainDigits (messageDigest r (treeNode seed secret height 0) leaf msg)
  beBytes 4 leaf ++ r ++ (digits.zipIdx.flatMap fun x => chainRun seed leaf x.2 x.1 0 (secret leaf x.2)) ++
  (List.range height).flatMap fun h => treeNode seed secret h (leaf / 2 ^ h ^^^ 1)

/-- Signature number `leaf` of the module's identity key (R334, log 58). -/
def identitySign (leaf : Nat) (msg : List Byte) : List Byte :=
  xmssSign (beBytes 32 Config.identitySeed.toNat) (fun l c => beBytes 32 (Config.identitySecret l c).toNat) 20 leaf
    (beBytes 32 (Config.identityRandom leaf).toNat) msg

/-- The check of a firmware image's signature under the fused root (R331). -/
def imageSigned (image sig : List Byte) : Bool := xmssVerify 20 (beBytes 32 Config.keyRoot.toNat) (beBytes 32 Config.keySeed.toNat) image sig

end Sys2Proof.Machine
end

