-- ==== Sys2Proof/Machine/ModuleEvents.lean ====
section
/-! DEFINITION. The firmware and the module: errors, links, power, boot, patches, partitions, channels, attestation (R31, R312,
R326 to R336, R347). -/

namespace Sys2Proof.Machine

/-! ## Conditions -/

/-- The firmware runs (R331). -/
def State.fwRuns (s : State) : Bool :=
  !s.down && match s.boot with
  | .running _ => true
  | _ => false

/-- A patch-table entry's lists have the lengths of R332. -/
def PatchSpecOk (e : PatchSpec) : Bool :=
  e.pat.length == 4 && e.msk.length == 4 && decide (1 ≤ e.subst.length) && decide (e.subst.length ≤ 8)

/-- Physical ranges share no byte. -/
def rangesApart (a b : Nat × Nat) : Bool := a.2 == 0 || b.2 == 0 || decide (a.1 + a.2 ≤ b.1) || decide (b.1 + b.2 ≤ a.1)

/-- The physical ranges of a partition. -/
def Partition.ranges (p : Partition) : List (Nat × Nat) := p.alloc ++ [p.qarea, p.carea]
def specRanges (p : PartitionSpec) : List (Nat × Nat) := p.alloc ++ [p.qarea, p.carea]

/-- A range lies in backed memory of this chip (R31, R137). -/
def State.ownRange (s : State) (r : Nat × Nat) : Bool :=
  r.2 == 0 || (s.selfChip == some (r.1 / 2 ^ 48) && (homeOf r.1).isSome && (homeOf (r.1 + r.2 - 1)).isSome && decide (0 < r.2))

/-- A range of an allocation lies in backed memory of one chip that links lead to, or in host memory, which no other partition then maps
(R31, R137, R329, log 99). -/
def State.allocRange (s : State) (r : Nat × Nat) : Bool :=
  r.2 == 0 || (s.backed r.1 && s.backed (r.1 + r.2 - 1) && r.1 / 2 ^ 48 == (r.1 + r.2 - 1) / 2 ^ 48)

/-- Ranges that are pairwise apart. -/
def apart : List (Nat × Nat) → Bool
  | [] => true
  | r :: t => t.all (rangesApart r) && apart t

/-- A queue's parts lie in the queue area, and its ring has from 16 to 4,096 entries (R283). -/
def queueOk (area : Nat × Nat) (q : QueueSpec) : Bool :=
  let within (a n : Nat) := decide (area.1 ≤ a) && decide (a + n ≤ area.1 + area.2)
  decide (q.number < 16) && decide (4 ≤ q.k) && decide (q.k ≤ 12) && within q.ring (128 * 2 ^ q.k) && within q.tail 8 && within q.head 8 &&
  within q.compl (32 * 2 ^ q.k) && within q.ctail 8 && q.ring % 64 == 0 && q.tail % 8 == 0 && q.head % 8 == 0 && q.compl % 32 == 0 && q.ctail % 8 == 0

/-- A ring of 2^k entries and its TAIL word lie in the queue area, with k from 4 to 12 (R305, R324). -/
def ringOk (area : Nat × Nat) (size : Nat) (r : Nat × Nat × Nat) : Bool :=
  decide (4 ≤ r.2.1) && decide (r.2.1 ≤ 12) && decide (area.1 ≤ r.1) && decide (r.1 + size * 2 ^ r.2.1 ≤ area.1 + area.2) &&
  decide (area.1 ≤ r.2.2) && decide (r.2.2 + 8 ≤ area.1 + area.2) && r.2.2 % 8 == 0

/-- The numbers under which shares stand: every home of this chip, and every peer link under 2^16 and its number (R329). -/
def State.shareKeys (s : State) : List Nat :=
  match s.selfChip with
  | some c => (List.range 24).map (c * 64 + ·) ++ (List.range 16).map (2 ^ 16 + ·)
  | none => []

/-- The partition gets a share of every home and every link, and the shares of each add up to at most 64 (R329). -/
def State.sharesOk (s : State) (shares : FMap Nat) : Bool :=
  s.selfChip.isSome && shares.map (·.1) == s.shareKeys && shares.all fun x => decide (1 ≤ x.2 ∧ x.2 + (s.parts.map fun p => (p.2.shares.find x.1).getD 0).sum ≤ 64)

/-- The firmware may create the partition (R31, R283, R305, R324, R329). -/
def State.specOk (s : State) (part : Nat) (p : PartitionSpec) : Bool :=
  decide (part < 8) && (s.parts.find part).isNone && !p.cores.isEmpty && p.cores.eraseDups.length == p.cores.length &&
  (p.cores.all fun c => decide (c < 256) && (s.cores.find c).isNone && s.waves.all fun e => slotCore e.1 != c) &&
  (p.queues.all fun q => queueOk p.qarea q) && (p.queues.map (·.number)).eraseDups.length == p.queues.length &&
  ringOk p.qarea 32 p.faults && ringOk p.qarea 16 p.migs && s.sharesOk p.shares && s.ownRange p.qarea && s.ownRange p.carea && p.alloc.all s.allocRange && apart (specRanges p) &&
  s.parts.all fun e => e.2.ranges.all fun r => (specRanges p).all (rangesApart r)

/-- The partition as created, with its keys (R31, R330). -/
def newPartition (p : PartitionSpec) (dkey vkey : Nat) : Partition :=
  { cores := p.cores,
    queues := p.queues.foldl (fun (m : FMap Queue) q => m.put q.number ⟨q.ring, q.k, q.tail, q.head, q.compl, q.ctail, none, none⟩) [],
    dkey := dkey, vkey := vkey, debug := p.debug, qarea := p.qarea, carea := p.carea, alloc := p.alloc, shares := p.shares,
    faults := ⟨p.faults.1, p.faults.2.1, p.faults.2.2, 0, 0⟩, migs := ⟨p.migs.1, p.migs.2.1, p.migs.2.2, 0, 0⟩, migOut := [], overflow := [] }

/-- The words that count the entries of a new partition's queues and rings (log 55). -/
def specWords (p : PartitionSpec) : List Nat :=
  (p.queues.flatMap fun q => [q.tail, q.head, q.ctail]) ++ [p.faults.2.2, p.migs.2.2]

/-- A partition's configuration (R31, R283, R305, R317, R324, R329). -/
def Partition.config (p : Partition) : PartConfig :=
  { cores := p.cores, queues := p.queues.map fun q => (q.1, q.2.ring, q.2.k), debug := p.debug, qarea := p.qarea, carea := p.carea, alloc := p.alloc,
    shares := p.shares, faultK := p.faults.k, migK := p.migs.k }

/-- The numbers of a configuration. -/
def PartConfig.nums (p : PartConfig) : List Nat :=
  p.cores ++ (p.queues.flatMap fun q => [q.1, q.2.1, q.2.2]) ++ [if p.debug then 1 else 0, p.qarea.1, p.qarea.2, p.carea.1, p.carea.2] ++
  (p.alloc.flatMap fun r => [r.1, r.2]) ++ (p.shares.flatMap fun x => [x.1, x.2]) ++ [p.faultK, p.migK]

/-- What the signature of a report covers: everything in it but the signature (R334). -/
def Report.bytes (r : Report) : List Byte :=
  leBytes 32 r.nonce ++ r.image ++ leBytes 8 r.patch.toNat ++ leBytes 8 r.isaver.toNat ++
  ((r.parts.flatMap fun p => p.1 :: p.2.nums) ++ r.channels.flatMap fun c => [c.1, c.2.1, c.2.2]).flatMap (leBytes 8)

/-- A granule exists; one of a tile that no wave holds stands under the tile's own number (R10, R24, R312). -/
def State.siteOk (s : State) : PoisonSite → Bool
  | .dram line => (homeOf (64 * line)).isSome && s.selfChip == some (64 * line / 2 ^ 48)
  | .vault g => decide (16 * g < 256 * Config.vaultSpan) && decide (16 * g % Config.vaultSpan < Config.vaultBytes + Config.stagingBytes)
  | .tile slot g =>
    if slot ≤ hostSlot then (s.waves.find slot).any fun w => w.alive && decide (g < 1024 * w.ntiles)
    else
      let core := (slot - hostSlot - 1) / 32
      decide (core < 256) && decide (g < 1024) &&
        s.waves.all fun e => slotCore e.1 != core || !e.2.alive || !e.2.tmask.getLsbD ((slot - hostSlot - 1) % 32)
  | .register slot r l => (s.waves.find slot).any fun w => decide (r < w.budget) && decide (l < 32)

/-- Adds to a list what is not in it. -/
def addTo {α : Type} [BEq α] (x : α) (xs : List α) : List α := if xs.contains x then xs else xs ++ [x]

/-- ECC_CORRECTABLE: the error is corrected, and the firmware counts it (R312). -/
def execEccCorrectable (site : PoisonSite) (s : State) : Out :=
  State.event "ECC_CORRECTABLE" (do
    guard (s.siteOk site)
    some { s with corrected := s.corrected + 1 })

/-- ECC_POISON: an uncorrectable error poisons its granule (R312). -/
def execEccPoison (site : PoisonSite) (s : State) : Out :=
  State.event "ECC_POISON" (do
    guard (s.siteOk site)
    some (match site with
      | .dram line => { s with poisonG := addTo line s.poisonG }
      | .vault g => { s with poisonV := addTo g s.poisonV }
      | .tile slot g => { s with poisonT := addTo (slot, g) s.poisonT }
      | .register slot r l => { s with poisonR := addTo (slot, r, l) s.poisonR }))

/-- FLIT_RETRANSMIT: the link sends a flit again; timing only (R326). -/
def execFlitRetransmit (link : Nat) (s : State) : Out :=
  State.event "FLIT_RETRANSMIT" (do
    guard (link < 16 ∧ !s.links.contains link)
    some s)

/-- LINK_FAILURE: the link leaves every LINKS field; requests in flight go over another link, and where none is left pushes are lost and the
firmware reports the loss of the chip to the fabric manager (R328). -/
def execLinkFailure (link : Nat) (s : State) : Out :=
  State.event "LINK_FAILURE" (do
    guard (link < 16 ∧ !s.links.contains link)
    let u := { s with links := s.links ++ [link], routes := s.routes.mapv fun _ e => setBit e link false }
    let cut : List Nat := (s.routes.map (·.1)).filter fun c => s.reachable c && s.linked c && !u.linked c
    let t := { u with lost := u.lost ++ cut }
    some { t with pushes := t.pushes.filter fun p => t.linked (p.home / 64) })

/-- CLOCK_THROTTLE: the firmware moves the core clock by 50 MHz, between 350 MHz and 1.05 GHz (R336). -/
def execClockThrottle (mhz : Nat) (s : State) : Out :=
  State.event "CLOCK_THROTTLE" (do
    guard (s.fwRuns ∧ 350 ≤ mhz ∧ mhz ≤ 1050 ∧ (mhz + 50 = s.mhz ∨ mhz = s.mhz + 50))
    some { s with mhz := mhz })

/-- CURRENT_STEP_STALL: a quadrant stalls for up to 64 cycles (R135, R336). -/
def execCurrentStepStall (quadrant cycles : Nat) (s : State) : Out :=
  State.event "CURRENT_STEP_STALL" (do
    guard (quadrant < 1024 ∧ 1 ≤ cycles ∧ cycles ≤ 64)
    some { s with stalls := s.stalls.put quadrant cycles })

/-- THERMAL_SHUTDOWN: the module shuts down, and every running launch is lost without a completion record (R336). -/
def execThermalShutdown (s : State) : Out :=
  State.event "THERMAL_SHUTDOWN" (do
    guard !s.down
    some { s with down := true, cur := none, waves := [], cohorts := [], launches := [], saved := [], loads := [], pushes := [], subs := [],
                  gangs := [], arrivals := [],
                  cores := s.cores.mapv fun _ k => { k with deque := [], jobs := [], mmas := [], subs := [] } })

/-- BOOT: the mask ROM checks the signature of the image in flash under the fused root, and its version, and runs it only if both pass; the
firmware then sets HDMBASE to a value of its own (R323, R331, log 98). -/
def execBoot (s : State) : Out :=
  State.event "BOOT" (do
    guard (s.boot = .reset)
    some (if imageSigned s.flash.bytes s.flash.sig ∧ s.rollback ≤ s.flash.version then
        { s with boot := .running s.flash, hdmBase := Config.hdmBase s.flash.bytes }
      else { s with boot := .failed }))

/-- PATCH_LOAD: the firmware loads the patch table before any launch and sets PATCHHASH (R332, R333). -/
def execPatchLoad (entries : List PatchSpec) (image : List Byte) (s : State) : Out :=
  State.event "PATCH_LOAD" (do
    guard (s.fwRuns ∧ s.launches.isEmpty ∧ entries.length ≤ 64 ∧ entries.all PatchSpecOk ∧ entries.isEmpty = image.isEmpty)
    some { s with patches := entries.map fun e => ⟨e.pat, e.msk, e.subst⟩, patchHash := shakeHead image })

/-- A core takes a word into its instruction cache, whose oldest word makes room (R10, log 88). -/
def State.fillIcache (s : State) (x : ILine) : State :=
  let same (y : ILine) := y.core == x.core && y.part == x.part && y.root == x.root && y.va == x.va
  let mine := (s.icache.filter fun y => y.core == x.core && !same y) ++ [x]
  { s with icache := (s.icache.filter fun y => y.core != x.core) ++ newest Config.icacheWords mine }

/-- ICACHE_FILL: a core takes a word of a launch's code as it stands at its home (R332, R347). -/
def execIcacheFill (core launch va : Nat) (s : State) : Out :=
  State.event "ICACHE_FILL" (do
    let l ← s.launches.find launch
    let k ← s.cores.find core
    guard (k.part = l.part ∧ va % 4 = 0 ∧ l.inExtent va ∧ s.walkNowFree (core / 64) l.part l.root va)
    match s.walkNow (core / 64) l.part l.root va with
    | .ok t =>
      guard (s.portFree (addrs (t.pa va) 4))
      some (s.fillIcache ⟨core, l.part, l.root, va, BitVec.ofNat 32 (leNat (s.readBytes t.key (t.pa va) 4))⟩)
    | _ => none)

/-- ROUTING_TABLE_WRITE: the firmware programs an entry while no launch runs; one entry alone names this chip, and no entry names a failed link
(R327, R328). -/
def execRoutingTableWrite (chip : Nat) (value : BitVec 64) (s : State) : Out :=
  State.event "ROUTING_TABLE_WRITE" (do
    guard (s.fwRuns ∧ s.launches.isEmpty ∧ chip < 256)
    guard (!value.getLsbD 30 ∨ (value.getLsbD 31 ∧ chip < 0xF0 ∧ s.routes.all fun e => e.1 == chip || !e.2.getLsbD 30))
    some { s with routes := s.routes.put chip ((s.links.foldl (fun v l => setBit v l false) value) &&& 0xC0FFFFFF) })

/-- PARTITION_CREATE: the firmware creates a partition; its keys are drawn at random, and its queues are empty (R31, R283, R330). -/
def execPartitionCreate (part : Nat) (spec : PartitionSpec) (s : State) : Out :=
  State.event "PARTITION_CREATE" (do
    guard (s.fwRuns ∧ s.specOk part spec)
    let p := newPartition spec s.nextKey (s.nextKey + 1)
    let t := { s with
      nextKey := s.nextKey + 2, parts := s.parts.put part p,
      cores := spec.cores.foldl (fun (m : FMap Core) c => m.put c ⟨part, [], [], [], []⟩) s.cores }
    some ((specWords spec).foldl (fun u a => u.queueWrite p a (leBytes 8 0)) t))

/-- ATTESTATION_REQUEST: the firmware returns a signed report, until the key is spent (R334). -/
def execAttestationRequest (nonce : Nat) (s : State) : Out :=
  State.event "ATTESTATION_REQUEST" (do
    guard (!s.down ∧ nonce < 2 ^ 256 ∧ s.signed < 2 ^ 20)
    match s.boot with
    | .running image =>
      let r : Report := ⟨nonce, digest image.bytes, s.patchHash, Config.isaver, s.parts.map fun p => (p.1, p.2.config),
        s.channels.map fun c => (c.1, c.2.p1, c.2.p2), []⟩
      some { s with signed := s.signed + 1, reports := s.reports ++ [{ r with sig := identitySign s.signed r.bytes }] }
    | _ => none)

/-- A translation under one of these keys is no longer valid. -/
def XReg.cut (keys : List Nat) (x : XReg) : XReg :=
  if x.valid && x.trans.any fun t => keys.contains t.key then { x with trans := none, stale := true } else x

/-- A packet's translation under one of these keys selects another key, under which nothing has been written. -/
def Piece.cut (keys : List Nat) (fresh : Nat) (x : Piece) : Piece := if keys.contains x.t.key then { x with t := { x.t with key := fresh } } else x

/-- A LAUNCH action whose packet lay under a destroyed key reads unspecified bytes in its place (R330). -/
def Action.cut (keys : List Nat) (fresh : Nat) : Action → Action
  | .launch queue ps => .launch queue (ps.map (Piece.cut keys fresh))
  | a => a

/-- PARTITION_TEARDOWN: the partition goes, with its keys and its channel keys and every translation that names one of them, once no access
under one of these keys is under way; memory is not scrubbed, but no key that is left reads what they wrote (R31, R330). -/
def execPartitionTeardown (part : Nat) (s : State) : Out :=
  State.event "PARTITION_TEARDOWN" (do
    let p ← s.parts.find part
    guard (s.fwRuns ∧ (s.launches.all fun l => l.2.part != part) ∧ (s.waves.all fun e => !p.cores.contains (slotCore e.1)))
    let cut := s.channels.filter fun c => c.2.p1 == part || c.2.p2 == part
    let keys := cut.map fun c => c.2.key
    let quiet (w : Wave) := (w.unperformed.all fun a => !keys.contains a.mkey) && w.blocks.all fun b => !keys.contains b.1.key
    guard ((s.waves.all fun e => quiet e.2) ∧ (s.saved.all fun v => v.waves.all fun e => quiet e.2) ∧
      (s.cores.all fun e => e.2.jobs.all fun j => j.pieces.all fun x => !keys.contains x.t.key) ∧
      s.hostq.all fun h => !(p.dkey :: keys).contains h.key)
    some { s with
      nextKey := s.nextKey + 1, gkeys := s.gkeys.keep fun _ k => !(p.dkey :: keys).contains k,
      arrivals := s.arrivals.mapv fun _ a => { a with entries := a.entries.mapv fun _ e => { e with action := e.action.cut keys s.nextKey } },
      parts := s.parts.del part, channels := s.channels.keep fun k _ => !cut.any fun c => c.1 == k,
      cores := s.cores.keep fun _ k => k.part != part, roots := s.roots.filter fun r => r.1 != part,
      icache := s.icache.filter fun l => l.part != part,
      tlb := s.tlb.mapv fun _ es => es.filter fun e => e.part != part && !keys.contains e.trans.key,
      waves := s.waves.mapv fun _ w => w.mapX (XReg.cut keys) })

/-- CHANNEL_CREATE: a channel key, drawn at random, binds two partitions (R330). -/
def execChannelCreate (channel part1 part2 : Nat) (s : State) : Out :=
  State.event "CHANNEL_CREATE" (do
    guard (s.fwRuns ∧ channel < 16 ∧ (s.channels.find channel).isNone ∧ part1 ≠ part2 ∧ (s.parts.find part1).isSome ∧ (s.parts.find part2).isSome)
    some { s with channels := s.channels.put channel ⟨part1, part2, s.nextKey⟩, nextKey := s.nextKey + 1 })

/-- MAILBOX_IMAGE_WRITE: after a failed check a new image is written into flash (R331). -/
def execMailboxImageWrite (version : Nat) (image : SignedBytes) (s : State) : Out :=
  State.event "MAILBOX_IMAGE_WRITE" (do
    guard (s.boot = .failed ∧ !s.down)
    some { s with flash := ⟨version, image.bytes, image.sig⟩ })

end Sys2Proof.Machine
end

