-- ==== Sys2Proof/Machine/Scalar.lean ====
section
/-! DEFINITION. Uniform arithmetic, compares and moves: uniform OPs 0x00 to 0x04 (R166 to R169). -/

namespace Sys2Proof.Machine

/-- sD := f sA sB. -/
def uniSS (later wf : Bool) (e : UExt) (d a b : BitVec 6) (f : DWord → DWord → DWord) (s : State) : Out :=
  laneOut later s (.ofUni wf e (ns a ++ ns b) (ns d)) fun c => wrS d (f (c.s a) (c.s b))

/-- sD := f sA, with whatever immediate `f` holds. -/
def uniS (later wf : Bool) (e : UExt) (d a : BitVec 6) (f : DWord → DWord) (s : State) : Out :=
  laneOut later s (.ofUni wf e (ns a) (ns d)) fun c => wrS d (f (c.s a))

/-- qD := f sA sB (R168). -/
def uniQ (wf : Bool) (e : UExt) (d : BitVec 3) (a b : BitVec 6) (f : DWord → DWord → Bool) (s : State) : Out :=
  execA s (.ofUni wf e (ns a ++ ns b) (dq d)) fun c => wrQ d (f (c.s a) (c.s b))

/-- qD := f sA. -/
def uniQImm (wf : Bool) (e : UExt) (d : BitVec 3) (a : BitVec 6) (f : DWord → Bool) (s : State) : Out :=
  execA s (.ofUni wf e (ns a) (dq d)) fun c => wrQ d (f (c.s a))

/-- qD := f qA qB (R169). -/
def uniQop (wf : Bool) (e : UExt) (d a b : BitVec 3) (f : Bool → Bool → Bool) (s : State) : Out :=
  execA s (.ofUni wf e (nq a ++ nq b) (dq d)) fun c => wrQ d (f (c.q a) (c.q b))

/-- qD := f qA; qB is not read (R169). -/
def uniQop1 (wf : Bool) (e : UExt) (d a : BitVec 3) (f : Bool → Bool) (s : State) : Out :=
  execA s (.ofUni wf e (nq a) (dq d)) fun c => wrQ d (f (c.q a))

/-- IMM28 sign-extended (R167). -/
def imm64 (imm : BitVec 28) : DWord := imm.signExtend 64

/-- SADD: Wrap64(a + b) (R167). -/
def execSadd (e : UExt) (d a b : BitVec 6) (s : State) : Out :=
  uniSS false (e.wf) e d a b (fun x y => x + y) s

/-- SSUB: Wrap64(a − b) (R167). -/
def execSsub (e : UExt) (d a b : BitVec 6) (s : State) : Out :=
  uniSS false (e.wf) e d a b (fun x y => x - y) s

/-- SMUL: Wrap64(a × b) (R167). -/
def execSmul (e : UExt) (d a b : BitVec 6) (s : State) : Out :=
  uniSS true (e.wf) e d a b (fun x y => x * y) s

/-- SMULHI: the upper half of the signed product (R167). -/
def execSmulhi (e : UExt) (d a b : BitVec 6) (s : State) : Out :=
  uniSS true (e.wf) e d a b (mulhi) s

/-- SMULHIU: the upper half of the unsigned product (R167). -/
def execSmulhiu (e : UExt) (d a b : BitVec 6) (s : State) : Out :=
  uniSS true (e.wf) e d a b (mulhiu) s

/-- SDIV: signed quotient (R104) (R167). -/
def execSdiv (e : UExt) (d a b : BitVec 6) (s : State) : Out :=
  uniSS true (e.wf) e d a b (sdivBits) s

/-- SDIVU: unsigned quotient (R104) (R167). -/
def execSdivu (e : UExt) (d a b : BitVec 6) (s : State) : Out :=
  uniSS true (e.wf) e d a b (udivBits) s

/-- SREM: signed remainder (R104) (R167). -/
def execSrem (e : UExt) (d a b : BitVec 6) (s : State) : Out :=
  uniSS true (e.wf) e d a b (sremBits) s

/-- SREMU: unsigned remainder (R104) (R167). -/
def execSremu (e : UExt) (d a b : BitVec 6) (s : State) : Out :=
  uniSS true (e.wf) e d a b (uremBits) s

/-- SMIN: the smaller Signed64 value (R167). -/
def execSmin (e : UExt) (d a b : BitVec 6) (s : State) : Out :=
  uniSS false (e.wf) e d a b (pick BitVec.slt) s

/-- SMAX: the larger Signed64 value (R167). -/
def execSmax (e : UExt) (d a b : BitVec 6) (s : State) : Out :=
  uniSS false (e.wf) e d a b (pickMax BitVec.slt) s

/-- SMINU: the smaller unsigned value (R167). -/
def execSminu (e : UExt) (d a b : BitVec 6) (s : State) : Out :=
  uniSS false (e.wf) e d a b (pick BitVec.ult) s

/-- SMAXU: the larger unsigned value (R167). -/
def execSmaxu (e : UExt) (d a b : BitVec 6) (s : State) : Out :=
  uniSS false (e.wf) e d a b (pickMax BitVec.ult) s

/-- SAND: a and b (R167). -/
def execSand (e : UExt) (d a b : BitVec 6) (s : State) : Out :=
  uniSS false (e.wf) e d a b (fun x y => x &&& y) s

/-- SOR: a or b (R167). -/
def execSor (e : UExt) (d a b : BitVec 6) (s : State) : Out :=
  uniSS false (e.wf) e d a b (fun x y => x ||| y) s

/-- SXOR: a xor b (R167). -/
def execSxor (e : UExt) (d a b : BitVec 6) (s : State) : Out :=
  uniSS false (e.wf) e d a b (fun x y => x ^^^ y) s

/-- SANDN: a and not b (R167). -/
def execSandn (e : UExt) (d a b : BitVec 6) (s : State) : Out :=
  uniSS false (e.wf) e d a b (fun x y => x &&& ~~~y) s

/-- SSHL: shifted left (R167). -/
def execSshl (e : UExt) (d a b : BitVec 6) (s : State) : Out :=
  uniSS false (e.wf) e d a b (fun x y => shl x y.toNat) s

/-- SSHR: shifted right (R167). -/
def execSshr (e : UExt) (d a b : BitVec 6) (s : State) : Out :=
  uniSS false (e.wf) e d a b (fun x y => shr x y.toNat) s

/-- SSAR: arithmetically shifted right (R167). -/
def execSsar (e : UExt) (d a b : BitVec 6) (s : State) : Out :=
  uniSS false (e.wf) e d a b (fun x y => sar x y.toNat) s

/-- SADD with IMM28: Wrap64(a + b) (R167). -/
def execSaddImm (e : UExt) (d a : BitVec 6) (imm : BitVec 28) (s : State) : Out :=
  uniS false (e.wf && (absent e.x (imm == 0))) e d a (fun x => (fun x y => x + y) x (imm64 imm)) s

/-- SSUB with IMM28: Wrap64(a − b) (R167). -/
def execSsubImm (e : UExt) (d a : BitVec 6) (imm : BitVec 28) (s : State) : Out :=
  uniS false (e.wf && (absent e.x (imm == 0))) e d a (fun x => (fun x y => x - y) x (imm64 imm)) s

/-- SMUL with IMM28: Wrap64(a × b) (R167). -/
def execSmulImm (e : UExt) (d a : BitVec 6) (imm : BitVec 28) (s : State) : Out :=
  uniS true (e.wf && (absent e.x (imm == 0))) e d a (fun x => (fun x y => x * y) x (imm64 imm)) s

/-- SMULHI with IMM28: the upper half of the signed product (R167). -/
def execSmulhiImm (e : UExt) (d a : BitVec 6) (imm : BitVec 28) (s : State) : Out :=
  uniS true (e.wf && (absent e.x (imm == 0))) e d a (fun x => (mulhi) x (imm64 imm)) s

/-- SMULHIU with IMM28: the upper half of the unsigned product (R167). -/
def execSmulhiuImm (e : UExt) (d a : BitVec 6) (imm : BitVec 28) (s : State) : Out :=
  uniS true (e.wf && (absent e.x (imm == 0))) e d a (fun x => (mulhiu) x (imm64 imm)) s

/-- SDIV with IMM28: signed quotient (R104) (R167). -/
def execSdivImm (e : UExt) (d a : BitVec 6) (imm : BitVec 28) (s : State) : Out :=
  uniS true (e.wf && (absent e.x (imm == 0))) e d a (fun x => (sdivBits) x (imm64 imm)) s

/-- SDIVU with IMM28: unsigned quotient (R104) (R167). -/
def execSdivuImm (e : UExt) (d a : BitVec 6) (imm : BitVec 28) (s : State) : Out :=
  uniS true (e.wf && (absent e.x (imm == 0))) e d a (fun x => (udivBits) x (imm64 imm)) s

/-- SREM with IMM28: signed remainder (R104) (R167). -/
def execSremImm (e : UExt) (d a : BitVec 6) (imm : BitVec 28) (s : State) : Out :=
  uniS true (e.wf && (absent e.x (imm == 0))) e d a (fun x => (sremBits) x (imm64 imm)) s

/-- SREMU with IMM28: unsigned remainder (R104) (R167). -/
def execSremuImm (e : UExt) (d a : BitVec 6) (imm : BitVec 28) (s : State) : Out :=
  uniS true (e.wf && (absent e.x (imm == 0))) e d a (fun x => (uremBits) x (imm64 imm)) s

/-- SMIN with IMM28: the smaller Signed64 value (R167). -/
def execSminImm (e : UExt) (d a : BitVec 6) (imm : BitVec 28) (s : State) : Out :=
  uniS false (e.wf && (absent e.x (imm == 0))) e d a (fun x => (pick BitVec.slt) x (imm64 imm)) s

/-- SMAX with IMM28: the larger Signed64 value (R167). -/
def execSmaxImm (e : UExt) (d a : BitVec 6) (imm : BitVec 28) (s : State) : Out :=
  uniS false (e.wf && (absent e.x (imm == 0))) e d a (fun x => (pickMax BitVec.slt) x (imm64 imm)) s

/-- SMINU with IMM28: the smaller unsigned value (R167). -/
def execSminuImm (e : UExt) (d a : BitVec 6) (imm : BitVec 28) (s : State) : Out :=
  uniS false (e.wf && (absent e.x (imm == 0))) e d a (fun x => (pick BitVec.ult) x (imm64 imm)) s

/-- SMAXU with IMM28: the larger unsigned value (R167). -/
def execSmaxuImm (e : UExt) (d a : BitVec 6) (imm : BitVec 28) (s : State) : Out :=
  uniS false (e.wf && (absent e.x (imm == 0))) e d a (fun x => (pickMax BitVec.ult) x (imm64 imm)) s

/-- SAND with IMM28: a and b (R167). -/
def execSandImm (e : UExt) (d a : BitVec 6) (imm : BitVec 28) (s : State) : Out :=
  uniS false (e.wf && (absent e.x (imm == 0))) e d a (fun x => (fun x y => x &&& y) x (imm64 imm)) s

/-- SOR with IMM28: a or b (R167). -/
def execSorImm (e : UExt) (d a : BitVec 6) (imm : BitVec 28) (s : State) : Out :=
  uniS false (e.wf && (absent e.x (imm == 0))) e d a (fun x => (fun x y => x ||| y) x (imm64 imm)) s

/-- SXOR with IMM28: a xor b (R167). -/
def execSxorImm (e : UExt) (d a : BitVec 6) (imm : BitVec 28) (s : State) : Out :=
  uniS false (e.wf && (absent e.x (imm == 0))) e d a (fun x => (fun x y => x ^^^ y) x (imm64 imm)) s

/-- SANDN with IMM28: a and not b (R167). -/
def execSandnImm (e : UExt) (d a : BitVec 6) (imm : BitVec 28) (s : State) : Out :=
  uniS false (e.wf && (absent e.x (imm == 0))) e d a (fun x => (fun x y => x &&& ~~~y) x (imm64 imm)) s

/-- SSHL with IMM28: shifted left (R167). -/
def execSshlImm (e : UExt) (d a : BitVec 6) (imm : BitVec 28) (s : State) : Out :=
  uniS false (e.wf && (absent e.x (imm == 0))) e d a (fun x => (fun x y => shl x y.toNat) x (imm64 imm)) s

/-- SSHR with IMM28: shifted right (R167). -/
def execSshrImm (e : UExt) (d a : BitVec 6) (imm : BitVec 28) (s : State) : Out :=
  uniS false (e.wf && (absent e.x (imm == 0))) e d a (fun x => (fun x y => shr x y.toNat) x (imm64 imm)) s

/-- SSAR with IMM28: arithmetically shifted right (R167). -/
def execSsarImm (e : UExt) (d a : BitVec 6) (imm : BitVec 28) (s : State) : Out :=
  uniS false (e.wf && (absent e.x (imm == 0))) e d a (fun x => (fun x y => sar x y.toNat) x (imm64 imm)) s

/-- SNOT: not a (R167). -/
def execSnot (e : UExt) (d a : BitVec 6) (s : State) : Out :=
  uniS false (e.wf) e d a (fun x => ~~~x) s

/-- SMOV: a (R167). -/
def execSmov (e : UExt) (d a : BitVec 6) (s : State) : Out :=
  uniS false (e.wf) e d a (fun x => x) s

/-- SCLZ: leading zero bits (R167). -/
def execSclz (e : UExt) (d a : BitVec 6) (s : State) : Out :=
  uniS false (e.wf) e d a (fun x => BitVec.ofNat 64 (clz x)) s

/-- SCTZ: trailing zero bits (R167). -/
def execSctz (e : UExt) (d a : BitVec 6) (s : State) : Out :=
  uniS false (e.wf) e d a (fun x => BitVec.ofNat 64 (ctz x)) s

/-- SPOPC: one bits (R167). -/
def execSpopc (e : UExt) (d a : BitVec 6) (s : State) : Out :=
  uniS false (e.wf) e d a (fun x => BitVec.ofNat 64 (popc x)) s

/-- SMOV with IMM28: b (R167). -/
def execSmovImm (e : UExt) (d : BitVec 6) (imm : BitVec 28) (s : State) : Out :=
  execA s (.ofUni (e.wf && (absent e.x (imm == 0))) e [] (ns d)) fun _ => wrS d (imm64 imm)

/-- EQ on uniform registers (R117, R168). -/
def execQeq (e : UExt) (d : BitVec 3) (a b : BitVec 6) (s : State) : Out :=
  uniQ (e.wf) e d a b (icond 0) s

/-- EQ with IMM28 (R117, R168). -/
def execQeqImm (e : UExt) (d : BitVec 3) (a : BitVec 6) (imm : BitVec 28) (s : State) : Out :=
  uniQImm (e.wf && (absent e.x (imm == 0))) e d a (fun x => icond 0 x (imm64 imm)) s

/-- NE on uniform registers (R117, R168). -/
def execQne (e : UExt) (d : BitVec 3) (a b : BitVec 6) (s : State) : Out :=
  uniQ (e.wf) e d a b (icond 1) s

/-- NE with IMM28 (R117, R168). -/
def execQneImm (e : UExt) (d : BitVec 3) (a : BitVec 6) (imm : BitVec 28) (s : State) : Out :=
  uniQImm (e.wf && (absent e.x (imm == 0))) e d a (fun x => icond 1 x (imm64 imm)) s

/-- LT on uniform registers (R117, R168). -/
def execQlt (e : UExt) (d : BitVec 3) (a b : BitVec 6) (s : State) : Out :=
  uniQ (e.wf) e d a b (icond 2) s

/-- LT with IMM28 (R117, R168). -/
def execQltImm (e : UExt) (d : BitVec 3) (a : BitVec 6) (imm : BitVec 28) (s : State) : Out :=
  uniQImm (e.wf && (absent e.x (imm == 0))) e d a (fun x => icond 2 x (imm64 imm)) s

/-- GE on uniform registers (R117, R168). -/
def execQge (e : UExt) (d : BitVec 3) (a b : BitVec 6) (s : State) : Out :=
  uniQ (e.wf) e d a b (icond 3) s

/-- GE with IMM28 (R117, R168). -/
def execQgeImm (e : UExt) (d : BitVec 3) (a : BitVec 6) (imm : BitVec 28) (s : State) : Out :=
  uniQImm (e.wf && (absent e.x (imm == 0))) e d a (fun x => icond 3 x (imm64 imm)) s

/-- LTU on uniform registers (R117, R168). -/
def execQltu (e : UExt) (d : BitVec 3) (a b : BitVec 6) (s : State) : Out :=
  uniQ (e.wf) e d a b (icond 4) s

/-- LTU with IMM28 (R117, R168). -/
def execQltuImm (e : UExt) (d : BitVec 3) (a : BitVec 6) (imm : BitVec 28) (s : State) : Out :=
  uniQImm (e.wf && (absent e.x (imm == 0))) e d a (fun x => icond 4 x (imm64 imm)) s

/-- GEU on uniform registers (R117, R168). -/
def execQgeu (e : UExt) (d : BitVec 3) (a b : BitVec 6) (s : State) : Out :=
  uniQ (e.wf) e d a b (icond 5) s

/-- GEU with IMM28 (R117, R168). -/
def execQgeuImm (e : UExt) (d : BitVec 3) (a : BitVec 6) (imm : BitVec 28) (s : State) : Out :=
  uniQImm (e.wf && (absent e.x (imm == 0))) e d a (fun x => icond 5 x (imm64 imm)) s

/-- LE on uniform registers (R117, R168). -/
def execQle (e : UExt) (d : BitVec 3) (a b : BitVec 6) (s : State) : Out :=
  uniQ (e.wf) e d a b (icond 6) s

/-- LE with IMM28 (R117, R168). -/
def execQleImm (e : UExt) (d : BitVec 3) (a : BitVec 6) (imm : BitVec 28) (s : State) : Out :=
  uniQImm (e.wf && (absent e.x (imm == 0))) e d a (fun x => icond 6 x (imm64 imm)) s

/-- GT on uniform registers (R117, R168). -/
def execQgt (e : UExt) (d : BitVec 3) (a b : BitVec 6) (s : State) : Out :=
  uniQ (e.wf) e d a b (icond 7) s

/-- GT with IMM28 (R117, R168). -/
def execQgtImm (e : UExt) (d : BitVec 3) (a : BitVec 6) (imm : BitVec 28) (s : State) : Out :=
  uniQImm (e.wf && (absent e.x (imm == 0))) e d a (fun x => icond 7 x (imm64 imm)) s

/-- SLI: IMM28 sign-extended (R169). -/
def execSli (e : UExt) (d : BitVec 6) (imm : BitVec 28) (s : State) : Out :=
  execA s (.ofUni (e.wf && (absent e.x (imm == 0))) e [] (ns d)) fun _ => wrS d (imm64 imm)

/-- SLIS: shifts sD left by 28 and ORs IMM28 in (R169). -/
def execSlis (e : UExt) (d : BitVec 6) (imm : BitVec 28) (s : State) : Out :=
  uniS false (e.wf && (absent e.x (imm == 0))) e d d (fun x => (x <<< 28) ||| imm.zeroExtend 64) s

/-- S2V: a uniform register into the lanes of the strand (R169). -/
def execS2v (e : UExt) (a : BitVec 6) (v : BitVec 7) (w64 : Bool) (s : State) : Out :=
  execA s (.ofUni (e.wf && (absent e.x (v == 0 && !w64)) && (!w64 || even v)) e (ns a) (nvw v w64)) fun c => wrW w64 v c.smask fun _ => c.s a

/-- V2S: one lane of a lane register; 0 for a lane outside the strand; copies that differ trap SHADOW_MISMATCH (R169, R315). -/
def execV2s (e : UExt) (d : BitVec 6) (v : BitVec 7) (w64 : Bool) (src : BitVec 5) (first : Bool) (s : State) : Out :=
  let lane (c : Ctx) : Nat := if first then (((lanesOf c.smask).head?.map (laneNo c.la)).getD 0) else src.toNat
  let phys (c : Ctx) : Nat := if c.la.protect then 2 * lane c else lane c
  let n := Need.ofUni (e.wf && (absent e.x (v == 0 && !w64 && src == 0 && !first)) && (!w64 || even v) && (!first || src == 0)) e (nvw v w64) (ns d)
  execOwn false s { n with lanes := fun c => c.smask &&& maskOf fun l => laneNo c.la l == lane c }
    (fun c => c.shadow (c.smask &&& maskOf fun l => l / 2 == lane c) fun i j => c.vw w64 v i == c.vw w64 v j) fun c =>
    wrS d (if lane c < waveWidth c.la ∧ c.smask.getLsbD (phys c) then c.vw w64 v (phys c) else 0)

/-- QOP.AND (R169). -/
def execQopAnd (e : UExt) (d a b : BitVec 3) (s : State) : Out :=
  uniQop (e.wf) e d a b (fun x y => x && y) s

/-- QOP.OR (R169). -/
def execQopOr (e : UExt) (d a b : BitVec 3) (s : State) : Out :=
  uniQop (e.wf && e.x) e d a b (fun x y => x || y) s

/-- QOP.XOR (R169). -/
def execQopXor (e : UExt) (d a b : BitVec 3) (s : State) : Out :=
  uniQop (e.wf && e.x) e d a b (fun x y => x != y) s

/-- QOP.ANDN (R169). -/
def execQopAndn (e : UExt) (d a b : BitVec 3) (s : State) : Out :=
  uniQop (e.wf && e.x) e d a b (fun x y => x && !y) s

/-- QOP.NOT (R169). -/
def execQopNot (e : UExt) (d a _b : BitVec 3) (s : State) : Out :=
  uniQop1 (e.wf && e.x) e d a (fun x => !x) s

/-- QOP.MOV (R169). -/
def execQopMov (e : UExt) (d a _b : BitVec 3) (s : State) : Out :=
  uniQop1 (e.wf && e.x) e d a (fun x => x) s

/-- The mask of the lane numbers of lanes that a test admits (R169). -/
def Ctx.numbers (c : Ctx) (f : Nat → Bool) : Word := maskOf fun n => (lanesOf c.smask).any fun l => laneNo c.la l == n && f l

/-- P2S: the lanes in which pA is true; copies that differ trap SHADOW_MISMATCH (R169, R315). -/
def execP2s (e : UExt) (d : BitVec 6) (a : BitVec 3) (s : State) : Out :=
  execOwn false s (.ofUni (e.wf) e (np a) (ns d)) (fun c => c.shadow c.smask fun i j => c.p a i == c.p a j) fun c =>
    wrS d ((c.numbers (c.p a)).zeroExtend 64)

/-- S2P: a bit of sA into pD of each lane of the strand (R169). -/
def execS2p (e : UExt) (d : BitVec 3) (a : BitVec 6) (s : State) : Out :=
  execA s (.ofUni (e.wf) e (ns a) (dp d)) fun c => wrP d c.smask fun l => (c.s a).getLsbD (laneNo c.la l)

/-- ACTMASK: the mask of the strand (R169). -/
def execActmask (e : UExt) (d : BitVec 6) (s : State) : Out :=
  execA s (.ofUni (e.wf) e [] (ns d)) fun c => wrS d ((c.numbers fun _ => true).zeroExtend 64)

end Sys2Proof.Machine
end

