-- ==== Sys2Proof/Machine/Dispatch.lean ====
section
/-! DEFINITION. One arm for each instruction: the meaning of each. -/

namespace Sys2Proof.Machine

/-- What an instruction does in a state: the encoded instructions act on the strand selected by `cur`, the others on what they name. -/
def exec (i : Instr) (s : State) : Host.Outcome State Fault Refusal :=
  match i with
  | .iadd e d a b => Sys2Proof.Machine.execIadd e d a b s
  | .isub e d a b => Sys2Proof.Machine.execIsub e d a b s
  | .imin e d a b => Sys2Proof.Machine.execImin e d a b s
  | .imax e d a b => Sys2Proof.Machine.execImax e d a b s
  | .iminu e d a b => Sys2Proof.Machine.execIminu e d a b s
  | .imaxu e d a b => Sys2Proof.Machine.execImaxu e d a b s
  | .iabs e d a => Sys2Proof.Machine.execIabs e d a s
  | .ineg e d a => Sys2Proof.Machine.execIneg e d a s
  | .iaddImm e d a imm => Sys2Proof.Machine.execIaddImm e d a imm s
  | .isubImm e d a imm => Sys2Proof.Machine.execIsubImm e d a imm s
  | .iminImm e d a imm => Sys2Proof.Machine.execIminImm e d a imm s
  | .imaxImm e d a imm => Sys2Proof.Machine.execImaxImm e d a imm s
  | .iminuImm e d a imm => Sys2Proof.Machine.execIminuImm e d a imm s
  | .imaxuImm e d a imm => Sys2Proof.Machine.execImaxuImm e d a imm s
  | .land e d a b => Sys2Proof.Machine.execLand e d a b s
  | .lor e d a b => Sys2Proof.Machine.execLor e d a b s
  | .lxor e d a b => Sys2Proof.Machine.execLxor e d a b s
  | .landn e d a b => Sys2Proof.Machine.execLandn e d a b s
  | .lorn e d a b => Sys2Proof.Machine.execLorn e d a b s
  | .lxnor e d a b => Sys2Proof.Machine.execLxnor e d a b s
  | .lnot e d a => Sys2Proof.Machine.execLnot e d a s
  | .mov e d a => Sys2Proof.Machine.execMov e d a s
  | .landImm e d a imm => Sys2Proof.Machine.execLandImm e d a imm s
  | .lorImm e d a imm => Sys2Proof.Machine.execLorImm e d a imm s
  | .lxorImm e d a imm => Sys2Proof.Machine.execLxorImm e d a imm s
  | .landnImm e d a imm => Sys2Proof.Machine.execLandnImm e d a imm s
  | .lornImm e d a imm => Sys2Proof.Machine.execLornImm e d a imm s
  | .lxnorImm e d a imm => Sys2Proof.Machine.execLxnorImm e d a imm s
  | .movhi e d imm => Sys2Proof.Machine.execMovhi e d imm s
  | .movi e d imm => Sys2Proof.Machine.execMovi e d imm s
  | .shl e d a b => Sys2Proof.Machine.execShl e d a b s
  | .shr e d a b => Sys2Proof.Machine.execShr e d a b s
  | .sar e d a b => Sys2Proof.Machine.execSar e d a b s
  | .rol e d a b => Sys2Proof.Machine.execRol e d a b s
  | .ror e d a b => Sys2Proof.Machine.execRor e d a b s
  | .fshl e d a b c => Sys2Proof.Machine.execFshl e d a b c s
  | .fshr e d a b c => Sys2Proof.Machine.execFshr e d a b c s
  | .shlImm e d a n => Sys2Proof.Machine.execShlImm e d a n s
  | .shrImm e d a n => Sys2Proof.Machine.execShrImm e d a n s
  | .sarImm e d a n => Sys2Proof.Machine.execSarImm e d a n s
  | .rolImm e d a n => Sys2Proof.Machine.execRolImm e d a n s
  | .rorImm e d a n => Sys2Proof.Machine.execRorImm e d a n s
  | .fshlImm e d a n c => Sys2Proof.Machine.execFshlImm e d a n c s
  | .fshrImm e d a n c => Sys2Proof.Machine.execFshrImm e d a n c s
  | .clz e d a => Sys2Proof.Machine.execClz e d a s
  | .ctz e d a => Sys2Proof.Machine.execCtz e d a s
  | .popc e d a => Sys2Proof.Machine.execPopc e d a s
  | .brev e d a => Sys2Proof.Machine.execBrev e d a s
  | .bswap e d a => Sys2Proof.Machine.execBswap e d a s
  | .bfx e d a pos len => Sys2Proof.Machine.execBfx e d a pos len s
  | .bfxs e d a pos len => Sys2Proof.Machine.execBfxs e d a pos len s
  | .bfi e d a b pos len => Sys2Proof.Machine.execBfi e d a b pos len s
  | .imul e d a b => Sys2Proof.Machine.execImul e d a b s
  | .imulhi e d a b => Sys2Proof.Machine.execImulhi e d a b s
  | .imulhiu e d a b => Sys2Proof.Machine.execImulhiu e d a b s
  | .imad e d a b c => Sys2Proof.Machine.execImad e d a b c s
  | .imulw e d a b => Sys2Proof.Machine.execImulw e d a b s
  | .imulwu e d a b => Sys2Proof.Machine.execImulwu e d a b s
  | .imadw e d a b c => Sys2Proof.Machine.execImadw e d a b c s
  | .idiv e d a b => Sys2Proof.Machine.execIdiv e d a b s
  | .idivu e d a b => Sys2Proof.Machine.execIdivu e d a b s
  | .irem e d a b => Sys2Proof.Machine.execIrem e d a b s
  | .iremu e d a b => Sys2Proof.Machine.execIremu e d a b s
  | .ceq e d a b => Sys2Proof.Machine.execCeq e d a b s
  | .cne e d a b => Sys2Proof.Machine.execCne e d a b s
  | .clt e d a b => Sys2Proof.Machine.execClt e d a b s
  | .cge e d a b => Sys2Proof.Machine.execCge e d a b s
  | .cltu e d a b => Sys2Proof.Machine.execCltu e d a b s
  | .cgeu e d a b => Sys2Proof.Machine.execCgeu e d a b s
  | .cle e d a b => Sys2Proof.Machine.execCle e d a b s
  | .cgt e d a b => Sys2Proof.Machine.execCgt e d a b s
  | .ceqImm e d a imm => Sys2Proof.Machine.execCeqImm e d a imm s
  | .cneImm e d a imm => Sys2Proof.Machine.execCneImm e d a imm s
  | .cltImm e d a imm => Sys2Proof.Machine.execCltImm e d a imm s
  | .cgeImm e d a imm => Sys2Proof.Machine.execCgeImm e d a imm s
  | .cltuImm e d a imm => Sys2Proof.Machine.execCltuImm e d a imm s
  | .cgeuImm e d a imm => Sys2Proof.Machine.execCgeuImm e d a imm s
  | .cleImm e d a imm => Sys2Proof.Machine.execCleImm e d a imm s
  | .cgtImm e d a imm => Sys2Proof.Machine.execCgtImm e d a imm s
  | .sel e d a b c => Sys2Proof.Machine.execSel e d a b c s
  | .pand e d a b => Sys2Proof.Machine.execPand e d a b s
  | .por e d a b => Sys2Proof.Machine.execPor e d a b s
  | .pxor e d a b => Sys2Proof.Machine.execPxor e d a b s
  | .pnot e d a => Sys2Proof.Machine.execPnot e d a s
  | .p2v e d => Sys2Proof.Machine.execP2v e d s
  | .v2p e a mask => Sys2Proof.Machine.execV2p e a mask s
  | .pmov e d a => Sys2Proof.Machine.execPmov e d a s
  | .iadd64 e d a b => Sys2Proof.Machine.execIadd64 e d a b s
  | .isub64 e d a b => Sys2Proof.Machine.execIsub64 e d a b s
  | .shl64 e d a b => Sys2Proof.Machine.execShl64 e d a b s
  | .shr64 e d a b => Sys2Proof.Machine.execShr64 e d a b s
  | .sar64 e d a b => Sys2Proof.Machine.execSar64 e d a b s
  | .icmp64 e d a b cond => Sys2Proof.Machine.execIcmp64 e d a b cond s
  | .mov64 e d a => Sys2Proof.Machine.execMov64 e d a s
  | .imul64 e d a b => Sys2Proof.Machine.execImul64 e d a b s
  | .sxtb e d a => Sys2Proof.Machine.execSxtb e d a s
  | .sxth e d a => Sys2Proof.Machine.execSxth e d a s
  | .zxtb e d a => Sys2Proof.Machine.execZxtb e d a s
  | .zxth e d a => Sys2Proof.Machine.execZxth e d a s
  | .sxtw e d a => Sys2Proof.Machine.execSxtw e d a s
  | .zxtw e d a => Sys2Proof.Machine.execZxtw e d a s
  | .laneid e d => Sys2Proof.Machine.execLaneid e d s
  | .tid e d => Sys2Proof.Machine.execTid e d s
  | .faddF64 e d a b rm => Sys2Proof.Machine.execFaddF64 e d a b rm s
  | .fsubF64 e d a b rm => Sys2Proof.Machine.execFsubF64 e d a b rm s
  | .fmulF64 e d a b rm => Sys2Proof.Machine.execFmulF64 e d a b rm s
  | .ffmaF64 e d a b c rm => Sys2Proof.Machine.execFfmaF64 e d a b c rm s
  | .fminF64 e d a b rm => Sys2Proof.Machine.execFminF64 e d a b rm s
  | .fmaxF64 e d a b rm => Sys2Proof.Machine.execFmaxF64 e d a b rm s
  | .fcmpF64 e d a b cond rm => Sys2Proof.Machine.execFcmpF64 e d a b cond rm s
  | .fabsF64 e d a rm => Sys2Proof.Machine.execFabsF64 e d a rm s
  | .fnegF64 e d a rm => Sys2Proof.Machine.execFnegF64 e d a rm s
  | .ffloorF64 e d a rm => Sys2Proof.Machine.execFfloorF64 e d a rm s
  | .fceilF64 e d a rm => Sys2Proof.Machine.execFceilF64 e d a rm s
  | .ftruncF64 e d a rm => Sys2Proof.Machine.execFtruncF64 e d a rm s
  | .frintF64 e d a rm => Sys2Proof.Machine.execFrintF64 e d a rm s
  | .fclassF64 e d a rm => Sys2Proof.Machine.execFclassF64 e d a rm s
  | .faddF32 e d a b rm => Sys2Proof.Machine.execFaddF32 e d a b rm s
  | .fsubF32 e d a b rm => Sys2Proof.Machine.execFsubF32 e d a b rm s
  | .fmulF32 e d a b rm => Sys2Proof.Machine.execFmulF32 e d a b rm s
  | .ffmaF32 e d a b c rm => Sys2Proof.Machine.execFfmaF32 e d a b c rm s
  | .fminF32 e d a b rm => Sys2Proof.Machine.execFminF32 e d a b rm s
  | .fmaxF32 e d a b rm => Sys2Proof.Machine.execFmaxF32 e d a b rm s
  | .fcmpF32 e d a b cond rm => Sys2Proof.Machine.execFcmpF32 e d a b cond rm s
  | .fabsF32 e d a rm => Sys2Proof.Machine.execFabsF32 e d a rm s
  | .fnegF32 e d a rm => Sys2Proof.Machine.execFnegF32 e d a rm s
  | .ffloorF32 e d a rm => Sys2Proof.Machine.execFfloorF32 e d a rm s
  | .fceilF32 e d a rm => Sys2Proof.Machine.execFceilF32 e d a rm s
  | .ftruncF32 e d a rm => Sys2Proof.Machine.execFtruncF32 e d a rm s
  | .frintF32 e d a rm => Sys2Proof.Machine.execFrintF32 e d a rm s
  | .fclassF32 e d a rm => Sys2Proof.Machine.execFclassF32 e d a rm s
  | .faddF16x2 e d a b rm => Sys2Proof.Machine.execFaddF16x2 e d a b rm s
  | .fsubF16x2 e d a b rm => Sys2Proof.Machine.execFsubF16x2 e d a b rm s
  | .fmulF16x2 e d a b rm => Sys2Proof.Machine.execFmulF16x2 e d a b rm s
  | .ffmaF16x2 e d a b c rm => Sys2Proof.Machine.execFfmaF16x2 e d a b c rm s
  | .fminF16x2 e d a b rm => Sys2Proof.Machine.execFminF16x2 e d a b rm s
  | .fmaxF16x2 e d a b rm => Sys2Proof.Machine.execFmaxF16x2 e d a b rm s
  | .fcmpF16x2 e d a b cond rm => Sys2Proof.Machine.execFcmpF16x2 e d a b cond rm s
  | .fabsF16x2 e d a rm => Sys2Proof.Machine.execFabsF16x2 e d a rm s
  | .fnegF16x2 e d a rm => Sys2Proof.Machine.execFnegF16x2 e d a rm s
  | .ffloorF16x2 e d a rm => Sys2Proof.Machine.execFfloorF16x2 e d a rm s
  | .fceilF16x2 e d a rm => Sys2Proof.Machine.execFceilF16x2 e d a rm s
  | .ftruncF16x2 e d a rm => Sys2Proof.Machine.execFtruncF16x2 e d a rm s
  | .frintF16x2 e d a rm => Sys2Proof.Machine.execFrintF16x2 e d a rm s
  | .fclassF16x2 e d a rm => Sys2Proof.Machine.execFclassF16x2 e d a rm s
  | .faddBf16x2 e d a b rm => Sys2Proof.Machine.execFaddBf16x2 e d a b rm s
  | .fsubBf16x2 e d a b rm => Sys2Proof.Machine.execFsubBf16x2 e d a b rm s
  | .fmulBf16x2 e d a b rm => Sys2Proof.Machine.execFmulBf16x2 e d a b rm s
  | .ffmaBf16x2 e d a b c rm => Sys2Proof.Machine.execFfmaBf16x2 e d a b c rm s
  | .fminBf16x2 e d a b rm => Sys2Proof.Machine.execFminBf16x2 e d a b rm s
  | .fmaxBf16x2 e d a b rm => Sys2Proof.Machine.execFmaxBf16x2 e d a b rm s
  | .fcmpBf16x2 e d a b cond rm => Sys2Proof.Machine.execFcmpBf16x2 e d a b cond rm s
  | .fabsBf16x2 e d a rm => Sys2Proof.Machine.execFabsBf16x2 e d a rm s
  | .fnegBf16x2 e d a rm => Sys2Proof.Machine.execFnegBf16x2 e d a rm s
  | .ffloorBf16x2 e d a rm => Sys2Proof.Machine.execFfloorBf16x2 e d a rm s
  | .fceilBf16x2 e d a rm => Sys2Proof.Machine.execFceilBf16x2 e d a rm s
  | .ftruncBf16x2 e d a rm => Sys2Proof.Machine.execFtruncBf16x2 e d a rm s
  | .frintBf16x2 e d a rm => Sys2Proof.Machine.execFrintBf16x2 e d a rm s
  | .fclassBf16x2 e d a rm => Sys2Proof.Machine.execFclassBf16x2 e d a rm s
  | .fdivF64 e d a b rm => Sys2Proof.Machine.execFdivF64 e d a b rm s
  | .fdivF32 e d a b rm => Sys2Proof.Machine.execFdivF32 e d a b rm s
  | .fsqrtF64 e d a rm => Sys2Proof.Machine.execFsqrtF64 e d a rm s
  | .fsqrtF32 e d a rm => Sys2Proof.Machine.execFsqrtF32 e d a rm s
  | .frcpF64 e d a rm => Sys2Proof.Machine.execFrcpF64 e d a rm s
  | .frcpF32 e d a rm => Sys2Proof.Machine.execFrcpF32 e d a rm s
  | .frsqF64 e d a rm => Sys2Proof.Machine.execFrsqF64 e d a rm s
  | .frsqF32 e d a rm => Sys2Proof.Machine.execFrsqF32 e d a rm s
  | .fexp2 e d a => Sys2Proof.Machine.execFexp2 e d a s
  | .flog2 e d a => Sys2Proof.Machine.execFlog2 e d a s
  | .fsinpi e d a => Sys2Proof.Machine.execFsinpi e d a s
  | .fcospi e d a => Sys2Proof.Machine.execFcospi e d a s
  | .ftanh e d a => Sys2Proof.Machine.execFtanh e d a s
  | .cvt e d a src dst rm => Sys2Proof.Machine.execCvt e d a src dst rm s
  | .cvtSat e d a src dst rm => Sys2Proof.Machine.execCvtSat e d a src dst rm s
  | .shfl e d a b pick imm w64 => Sys2Proof.Machine.execShfl e d a b pick imm w64 s
  | .shflx e d a b pick imm w64 => Sys2Proof.Machine.execShflx e d a b pick imm w64 s
  | .shflup e d a b pick imm w64 => Sys2Proof.Machine.execShflup e d a b pick imm w64 s
  | .shfldn e d a b pick imm w64 => Sys2Proof.Machine.execShfldn e d a b pick imm w64 s
  | .bcast e d a src w64 first => Sys2Proof.Machine.execBcast e d a src w64 first s
  | .vote e d a mode => Sys2Proof.Machine.execVote e d a mode s
  | .gathg e d a b w sg => Sys2Proof.Machine.execGathg e d a b w sg s
  | .redadd e d a w64 => Sys2Proof.Machine.execRedadd e d a w64 s
  | .redmin e d a w64 un => Sys2Proof.Machine.execRedmin e d a w64 un s
  | .redmax e d a w64 un => Sys2Proof.Machine.execRedmax e d a w64 un s
  | .redaddF32 e d a => Sys2Proof.Machine.execRedaddF32 e d a s
  | .redaddF64 e d a => Sys2Proof.Machine.execRedaddF64 e d a s
  | .scan e d a w64 => Sys2Proof.Machine.execScan e d a w64 s
  | .scanx e d a w64 => Sys2Proof.Machine.execScanx e d a w64 s
  | .scanF32 e d a => Sys2Proof.Machine.execScanF32 e d a s
  | .confl e d a w64 => Sys2Proof.Machine.execConfl e d a w64 s
  | .rebal e d a b => Sys2Proof.Machine.execRebal e d a b s
  | .mrgu e d a b px py pe => Sys2Proof.Machine.execMrgu e d a b px py pe s
  | .mrgi e d a b px py pe => Sys2Proof.Machine.execMrgi e d a b px py pe s
  | .compact e d a c w64 => Sys2Proof.Machine.execCompact e d a c w64 s
  | .expand e d a c w64 => Sys2Proof.Machine.execExpand e d a c w64 s
  | .vldB e d a o off => Sys2Proof.Machine.execVldB e d a o off s
  | .vldBs e d a o off => Sys2Proof.Machine.execVldBs e d a o off s
  | .vldH e d a o off => Sys2Proof.Machine.execVldH e d a o off s
  | .vldHs e d a o off => Sys2Proof.Machine.execVldHs e d a o off s
  | .vldW e d a o off => Sys2Proof.Machine.execVldW e d a o off s
  | .vldD e d a o off => Sys2Proof.Machine.execVldD e d a o off s
  | .vldQ e d a o off => Sys2Proof.Machine.execVldQ e d a o off s
  | .vldl e d a o off => Sys2Proof.Machine.execVldl e d a o off s
  | .vstB e a b o off => Sys2Proof.Machine.execVstB e a b o off s
  | .vstH e a b o off => Sys2Proof.Machine.execVstH e a b o off s
  | .vstW e a b o off => Sys2Proof.Machine.execVstW e a b o off s
  | .vstD e a b o off => Sys2Proof.Machine.execVstD e a b o off s
  | .vstQ e a b o off => Sys2Proof.Machine.execVstQ e a b o off s
  | .vatomAdd e d a b o w64 un => Sys2Proof.Machine.execVatomAdd e d a b o w64 un s
  | .vatomMin e d a b o w64 un => Sys2Proof.Machine.execVatomMin e d a b o w64 un s
  | .vatomMax e d a b o w64 un => Sys2Proof.Machine.execVatomMax e d a b o w64 un s
  | .vatomAnd e d a b o w64 un => Sys2Proof.Machine.execVatomAnd e d a b o w64 un s
  | .vatomOr e d a b o w64 un => Sys2Proof.Machine.execVatomOr e d a b o w64 un s
  | .vatomXor e d a b o w64 un => Sys2Proof.Machine.execVatomXor e d a b o w64 un s
  | .vatomXchg e d a b o w64 un => Sys2Proof.Machine.execVatomXchg e d a b o w64 un s
  | .vatomCas e d a b o w64 un => Sys2Proof.Machine.execVatomCas e d a b o w64 un s
  | .slotrd e d a o off => Sys2Proof.Machine.execSlotrd e d a o off s
  | .gldB e x k a b o off => Sys2Proof.Machine.execGldB e x k a b o off s
  | .gldBs e x k a b o off => Sys2Proof.Machine.execGldBs e x k a b o off s
  | .gldH e x k a b o off => Sys2Proof.Machine.execGldH e x k a b o off s
  | .gldHs e x k a b o off => Sys2Proof.Machine.execGldHs e x k a b o off s
  | .gldW e x k a b o off => Sys2Proof.Machine.execGldW e x k a b o off s
  | .gldD e x k a b o off => Sys2Proof.Machine.execGldD e x k a b o off s
  | .gldQ e x k a b o off => Sys2Proof.Machine.execGldQ e x k a b o off s
  | .gstB e x a b o => Sys2Proof.Machine.execGstB e x a b o s
  | .gstH e x a b o => Sys2Proof.Machine.execGstH e x a b o s
  | .gstW e x a b o => Sys2Proof.Machine.execGstW e x a b o s
  | .gstD e x a b o => Sys2Proof.Machine.execGstD e x a b o s
  | .gstQ e x a b o => Sys2Proof.Machine.execGstQ e x a b o s
  | .gatomAdd e x k a b o w64 un vo => Sys2Proof.Machine.execGatomAdd e x k a b o w64 un vo s
  | .gatomMin e x k a b o w64 un vo => Sys2Proof.Machine.execGatomMin e x k a b o w64 un vo s
  | .gatomMax e x k a b o w64 un vo => Sys2Proof.Machine.execGatomMax e x k a b o w64 un vo s
  | .gatomAnd e x k a b o w64 un vo => Sys2Proof.Machine.execGatomAnd e x k a b o w64 un vo s
  | .gatomOr e x k a b o w64 un vo => Sys2Proof.Machine.execGatomOr e x k a b o w64 un vo s
  | .gatomXor e x k a b o w64 un vo => Sys2Proof.Machine.execGatomXor e x k a b o w64 un vo s
  | .gatomXchg e x k a b o w64 un vo => Sys2Proof.Machine.execGatomXchg e x k a b o w64 un vo s
  | .gatomCas e x k a b o w64 un vo => Sys2Proof.Machine.execGatomCas e x k a b o w64 un vo s
  | .subscr e x a b o off => Sys2Proof.Machine.execSubscr e x a b o off s
  | .unsub e x a b o off => Sys2Proof.Machine.execUnsub e x a b o off s
  | .trd e d t row part w64 => Sys2Proof.Machine.execTrd e d t row part w64 s
  | .twr e t b row part w64 => Sys2Proof.Machine.execTwr e t b row part w64 s
  | .sadd e d a b => Sys2Proof.Machine.execSadd e d a b s
  | .ssub e d a b => Sys2Proof.Machine.execSsub e d a b s
  | .smul e d a b => Sys2Proof.Machine.execSmul e d a b s
  | .smulhi e d a b => Sys2Proof.Machine.execSmulhi e d a b s
  | .smulhiu e d a b => Sys2Proof.Machine.execSmulhiu e d a b s
  | .sdiv e d a b => Sys2Proof.Machine.execSdiv e d a b s
  | .sdivu e d a b => Sys2Proof.Machine.execSdivu e d a b s
  | .srem e d a b => Sys2Proof.Machine.execSrem e d a b s
  | .sremu e d a b => Sys2Proof.Machine.execSremu e d a b s
  | .smin e d a b => Sys2Proof.Machine.execSmin e d a b s
  | .smax e d a b => Sys2Proof.Machine.execSmax e d a b s
  | .sminu e d a b => Sys2Proof.Machine.execSminu e d a b s
  | .smaxu e d a b => Sys2Proof.Machine.execSmaxu e d a b s
  | .sand e d a b => Sys2Proof.Machine.execSand e d a b s
  | .sor e d a b => Sys2Proof.Machine.execSor e d a b s
  | .sxor e d a b => Sys2Proof.Machine.execSxor e d a b s
  | .sandn e d a b => Sys2Proof.Machine.execSandn e d a b s
  | .snot e d a => Sys2Proof.Machine.execSnot e d a s
  | .smov e d a => Sys2Proof.Machine.execSmov e d a s
  | .sshl e d a b => Sys2Proof.Machine.execSshl e d a b s
  | .sshr e d a b => Sys2Proof.Machine.execSshr e d a b s
  | .ssar e d a b => Sys2Proof.Machine.execSsar e d a b s
  | .sclz e d a => Sys2Proof.Machine.execSclz e d a s
  | .sctz e d a => Sys2Proof.Machine.execSctz e d a s
  | .spopc e d a => Sys2Proof.Machine.execSpopc e d a s
  | .saddImm e d a imm => Sys2Proof.Machine.execSaddImm e d a imm s
  | .ssubImm e d a imm => Sys2Proof.Machine.execSsubImm e d a imm s
  | .smulImm e d a imm => Sys2Proof.Machine.execSmulImm e d a imm s
  | .smulhiImm e d a imm => Sys2Proof.Machine.execSmulhiImm e d a imm s
  | .smulhiuImm e d a imm => Sys2Proof.Machine.execSmulhiuImm e d a imm s
  | .sdivImm e d a imm => Sys2Proof.Machine.execSdivImm e d a imm s
  | .sdivuImm e d a imm => Sys2Proof.Machine.execSdivuImm e d a imm s
  | .sremImm e d a imm => Sys2Proof.Machine.execSremImm e d a imm s
  | .sremuImm e d a imm => Sys2Proof.Machine.execSremuImm e d a imm s
  | .sminImm e d a imm => Sys2Proof.Machine.execSminImm e d a imm s
  | .smaxImm e d a imm => Sys2Proof.Machine.execSmaxImm e d a imm s
  | .sminuImm e d a imm => Sys2Proof.Machine.execSminuImm e d a imm s
  | .smaxuImm e d a imm => Sys2Proof.Machine.execSmaxuImm e d a imm s
  | .sandImm e d a imm => Sys2Proof.Machine.execSandImm e d a imm s
  | .sorImm e d a imm => Sys2Proof.Machine.execSorImm e d a imm s
  | .sxorImm e d a imm => Sys2Proof.Machine.execSxorImm e d a imm s
  | .sandnImm e d a imm => Sys2Proof.Machine.execSandnImm e d a imm s
  | .smovImm e d imm => Sys2Proof.Machine.execSmovImm e d imm s
  | .sshlImm e d a imm => Sys2Proof.Machine.execSshlImm e d a imm s
  | .sshrImm e d a imm => Sys2Proof.Machine.execSshrImm e d a imm s
  | .ssarImm e d a imm => Sys2Proof.Machine.execSsarImm e d a imm s
  | .qeq e d a b => Sys2Proof.Machine.execQeq e d a b s
  | .qne e d a b => Sys2Proof.Machine.execQne e d a b s
  | .qlt e d a b => Sys2Proof.Machine.execQlt e d a b s
  | .qge e d a b => Sys2Proof.Machine.execQge e d a b s
  | .qltu e d a b => Sys2Proof.Machine.execQltu e d a b s
  | .qgeu e d a b => Sys2Proof.Machine.execQgeu e d a b s
  | .qle e d a b => Sys2Proof.Machine.execQle e d a b s
  | .qgt e d a b => Sys2Proof.Machine.execQgt e d a b s
  | .qeqImm e d a imm => Sys2Proof.Machine.execQeqImm e d a imm s
  | .qneImm e d a imm => Sys2Proof.Machine.execQneImm e d a imm s
  | .qltImm e d a imm => Sys2Proof.Machine.execQltImm e d a imm s
  | .qgeImm e d a imm => Sys2Proof.Machine.execQgeImm e d a imm s
  | .qltuImm e d a imm => Sys2Proof.Machine.execQltuImm e d a imm s
  | .qgeuImm e d a imm => Sys2Proof.Machine.execQgeuImm e d a imm s
  | .qleImm e d a imm => Sys2Proof.Machine.execQleImm e d a imm s
  | .qgtImm e d a imm => Sys2Proof.Machine.execQgtImm e d a imm s
  | .sli e d imm => Sys2Proof.Machine.execSli e d imm s
  | .slis e d imm => Sys2Proof.Machine.execSlis e d imm s
  | .s2v e a v w64 => Sys2Proof.Machine.execS2v e a v w64 s
  | .v2s e d v w64 src first => Sys2Proof.Machine.execV2s e d v w64 src first s
  | .qopAnd e d a b => Sys2Proof.Machine.execQopAnd e d a b s
  | .qopOr e d a b => Sys2Proof.Machine.execQopOr e d a b s
  | .qopXor e d a b => Sys2Proof.Machine.execQopXor e d a b s
  | .qopAndn e d a b => Sys2Proof.Machine.execQopAndn e d a b s
  | .qopNot e d a b => Sys2Proof.Machine.execQopNot e d a b s
  | .qopMov e d a b => Sys2Proof.Machine.execQopMov e d a b s
  | .p2s e d a => Sys2Proof.Machine.execP2s e d a s
  | .s2p e d a => Sys2Proof.Machine.execS2p e d a s
  | .actmask e d => Sys2Proof.Machine.execActmask e d s
  | .sldk e d off => Sys2Proof.Machine.execSldk e d off s
  | .sldv e d a w o off => Sys2Proof.Machine.execSldv e d a w o off s
  | .sstv e a b w o off => Sys2Proof.Machine.execSstv e a b w o off s
  | .satomvAdd e d a b w o un => Sys2Proof.Machine.execSatomvAdd e d a b w o un s
  | .satomvMin e d a b w o un => Sys2Proof.Machine.execSatomvMin e d a b w o un s
  | .satomvMax e d a b w o un => Sys2Proof.Machine.execSatomvMax e d a b w o un s
  | .satomvAnd e d a b w o un => Sys2Proof.Machine.execSatomvAnd e d a b w o un s
  | .satomvOr e d a b w o un => Sys2Proof.Machine.execSatomvOr e d a b w o un s
  | .satomvXor e d a b w o un => Sys2Proof.Machine.execSatomvXor e d a b w o un s
  | .satomvXchg e d a b w o un => Sys2Proof.Machine.execSatomvXchg e d a b w o un s
  | .scasv e d a b w o => Sys2Proof.Machine.execScasv e d a b w o s
  | .bra e imm => Sys2Proof.Machine.execBra e imm s
  | .brq e a imm => Sys2Proof.Machine.execBrq e a imm s
  | .brnq e a imm => Sys2Proof.Machine.execBrnq e a imm s
  | .call e q neg imm => Sys2Proof.Machine.execCall e q neg imm s
  | .callr e a q neg => Sys2Proof.Machine.execCallr e a q neg s
  | .ret e a => Sys2Proof.Machine.execRet e a s
  | .endStrand e => Sys2Proof.Machine.execEndStrand e s
  | .loopd e d imm => Sys2Proof.Machine.execLoopd e d imm s
  | .split e p b els cont => Sys2Proof.Machine.execSplit e p b els cont s
  | .calli e d p neg b cont => Sys2Proof.Machine.execCalli e d p neg b cont s
  | .endarm e => Sys2Proof.Machine.execEndarm e s
  | .seal e lo hi pred => Sys2Proof.Machine.execSeal e lo hi pred s
  | .join e lo hi pred => Sys2Proof.Machine.execJoin e lo hi pred s
  | .joinmem e => Sys2Proof.Machine.execJoinmem e s
  | .binit e k waves engines => Sys2Proof.Machine.execBinit e k waves engines s
  | .bexpect e k a r n => Sys2Proof.Machine.execBexpect e k a r n s
  | .barrive e d k => Sys2Proof.Machine.execBarrive e d k s
  | .bwait e q k b => Sys2Proof.Machine.execBwait e q k b s
  | .bsync e q k => Sys2Proof.Machine.execBsync e q k s
  | .gbar e q g => Sys2Proof.Machine.execGbar e q g s
  | .cbar e q => Sys2Proof.Machine.execCbar e q s
  | .bstat e d k pick => Sys2Proof.Machine.execBstat e d k pick s
  | .waita e d a b cond o off => Sys2Proof.Machine.execWaita e d a b cond o off s
  | .sleep e a r n => Sys2Proof.Machine.execSleep e a r n s
  | .yieldS e => Sys2Proof.Machine.execYieldS e s
  | .fenceAcq e scope => Sys2Proof.Machine.execFenceAcq e scope s
  | .fenceRel e scope => Sys2Proof.Machine.execFenceRel e scope s
  | .fenceFull e scope => Sys2Proof.Machine.execFenceFull e scope s
  | .fenceEng e scope => Sys2Proof.Machine.execFenceEng e scope s
  | .xlat e x a b => Sys2Proof.Machine.execXlat e x a b s
  | .xdrop e x => Sys2Proof.Machine.execXdrop e x s
  | .copy e a off => Sys2Proof.Machine.execCopy e a off s
  | .copyc e a off => Sys2Proof.Machine.execCopyc e a off s
  | .copyl e a off => Sys2Proof.Machine.execCopyl e a off s
  | .tstg e a t off => Sys2Proof.Machine.execTstg e a t off s
  | .stepchk e q a => Sys2Proof.Machine.execStepchk e q a s
  | .steprec e q a => Sys2Proof.Machine.execSteprec e q a s
  | .tcfg e t a r shape => Sys2Proof.Machine.execTcfg e t a r shape s
  | .tlay e t layout => Sys2Proof.Machine.execTlay e t layout s
  | .tld e t a off stride => Sys2Proof.Machine.execTld e t a off stride s
  | .tst e a t off stride => Sys2Proof.Machine.execTst e a t off stride s
  | .tzero e t => Sys2Proof.Machine.execTzero e t s
  | .tmov e t src => Sys2Proof.Machine.execTmov e t src s
  | .mmaF64 e c a b part tb => Sys2Proof.Machine.execMmaF64 e c a b part tb s
  | .mmaF32 e c a b part tb => Sys2Proof.Machine.execMmaF32 e c a b part tb s
  | .mmaF16 e c a b part tb => Sys2Proof.Machine.execMmaF16 e c a b part tb s
  | .mmaBf16 e c a b part tb => Sys2Proof.Machine.execMmaBf16 e c a b part tb s
  | .mmaE4m3 e c a b part tb => Sys2Proof.Machine.execMmaE4m3 e c a b part tb s
  | .mmaE5m2 e c a b part tb => Sys2Proof.Machine.execMmaE5m2 e c a b part tb s
  | .mmaDs8 e c a b part tb => Sys2Proof.Machine.execMmaDs8 e c a b part tb s
  | .mmaI8 e c a b part tb => Sys2Proof.Machine.execMmaI8 e c a b part tb s
  | .scacc e c a b q neg ra rb => Sys2Proof.Machine.execScacc e c a b q neg ra rb s
  | .quant e c a b fmt col r => Sys2Proof.Machine.execQuant e c a b fmt col r s
  | .rarm e d a off => Sys2Proof.Machine.execRarm e d a off s
  | .rdisarm e d a => Sys2Proof.Machine.execRdisarm e d a s
  | .rqry e d a pick => Sys2Proof.Machine.execRqry e d a pick s
  | .fork e q a => Sys2Proof.Machine.execFork e q a s
  | .tnext e q => Sys2Proof.Machine.execTnext e q s
  | .tsig e a => Sys2Proof.Machine.execTsig e a s
  | .tdone e => Sys2Proof.Machine.execTdone e s
  | .tpost e a b => Sys2Proof.Machine.execTpost e a b s
  | .nextw e a off => Sys2Proof.Machine.execNextw e a off s
  | .trap e code => Sys2Proof.Machine.execTrap e code s
  | .bkpt e => Sys2Proof.Machine.execBkpt e s
  | .csrr e d csr => Sys2Proof.Machine.execCsrr e d csr s
  | .csrw e a csr => Sys2Proof.Machine.execCsrw e a csr s
  | .nop e => Sys2Proof.Machine.execNop e s
  | .resultWrite slot entry flight => Sys2Proof.Machine.execResultWrite slot entry flight s
  | .serialisedStrandStart slot entry => Sys2Proof.Machine.execSerialisedStrandStart slot entry s
  | .storeBufferDrain slot id => Sys2Proof.Machine.execStoreBufferDrain slot id s
  | .joinmemComplete slot entry => Sys2Proof.Machine.execJoinmemComplete slot entry s
  | .fenceComplete slot entry => Sys2Proof.Machine.execFenceComplete slot entry s
  | .endComplete slot entry => Sys2Proof.Machine.execEndComplete slot entry s
  | .remoteVaultRead slot entry flight access => Sys2Proof.Machine.execRemoteVaultRead slot entry flight access s
  | .postQueueSend slot part => Sys2Proof.Machine.execPostQueueSend slot part s
  | .homePerform slot part byte => Sys2Proof.Machine.execHomePerform slot part byte s
  | .subscribeRequest slot part => Sys2Proof.Machine.execSubscribeRequest slot part s
  | .unsubscribeRequest slot part => Sys2Proof.Machine.execUnsubscribeRequest slot part s
  | .pushDelivery home core => Sys2Proof.Machine.execPushDelivery home core s
  | .refusalDelivery home core => Sys2Proof.Machine.execRefusalDelivery home core s
  | .unsubAckDelivery home core => Sys2Proof.Machine.execUnsubAckDelivery home core s
  | .gldLanding load => Sys2Proof.Machine.execGldLanding load s
  | .gatomLanding load => Sys2Proof.Machine.execGatomLanding load s
  | .waitaWake slot entry => Sys2Proof.Machine.execWaitaWake slot entry s
  | .sleepExpire slot entry => Sys2Proof.Machine.execSleepExpire slot entry s
  | .pageWalkComplete slot entry run => Sys2Proof.Machine.execPageWalkComplete slot entry run s
  | .faultResume slot entry => Sys2Proof.Machine.execFaultResume slot entry s
  | .shootdown die root va size => Sys2Proof.Machine.execShootdown die root va size s
  | .ownershipStep pte frame size host => Sys2Proof.Machine.execOwnershipStep pte frame size host s
  | .jobAccept core job => Sys2Proof.Machine.execJobAccept core job s
  | .tstgCapture core job => Sys2Proof.Machine.execTstgCapture core job s
  | .copyPiece core job piece => Sys2Proof.Machine.execCopyPiece core job piece s
  | .jobCompletion core job => Sys2Proof.Machine.execJobCompletion core job s
  | .jobResume core job => Sys2Proof.Machine.execJobResume core job s
  | .mmaStart core => Sys2Proof.Machine.execMmaStart core s
  | .mmaComplete core => Sys2Proof.Machine.execMmaComplete core s
  | .regionCount e => Sys2Proof.Machine.execRegionCount e s
  | .regionArrive die entry => Sys2Proof.Machine.execRegionArrive die entry s
  | .regionRelease die entry => Sys2Proof.Machine.execRegionRelease die entry s
  | .regionTask die entry => Sys2Proof.Machine.execRegionTask die entry s
  | .regionFlag die entry => Sys2Proof.Machine.execRegionFlag die entry s
  | .regionLaunch die entry => Sys2Proof.Machine.execRegionLaunch die entry s
  | .distributorGrant launch request => Sys2Proof.Machine.execDistributorGrant launch request s
  | .nextwAnswer launch answer => Sys2Proof.Machine.execNextwAnswer launch answer s
  | .overflowMove part core => Sys2Proof.Machine.execOverflowMove part core s
  | .hostPortPerform slot part byte => Sys2Proof.Machine.execHostPortPerform slot part byte s
  | .hostPortAck slot part => Sys2Proof.Machine.execHostPortAck slot part s
  | .hostRead addr count => Sys2Proof.Machine.execHostRead addr count s
  | .hostWrite addr data => Sys2Proof.Machine.execHostWrite addr data s
  | .packetAccept part queue launch => Sys2Proof.Machine.execPacketAccept part queue launch s
  | .cohortBind launch places => Sys2Proof.Machine.execCohortBind launch places s
  | .waveRetire slot => Sys2Proof.Machine.execWaveRetire slot s
  | .cohortRetire cohort => Sys2Proof.Machine.execCohortRetire cohort s
  | .waveKill v => Sys2Proof.Machine.execWaveKill v s
  | .gangPrepare part queue o places => Sys2Proof.Machine.execGangPrepare part queue o places s
  | .gangAck gang chip => Sys2Proof.Machine.execGangAck gang chip s
  | .gangNack gang n => Sys2Proof.Machine.execGangNack gang n s
  | .prepareDeadline gang => Sys2Proof.Machine.execPrepareDeadline gang s
  | .gangCancel launch => Sys2Proof.Machine.execGangCancel launch s
  | .gangStart launch => Sys2Proof.Machine.execGangStart launch s
  | .gangStartAck gang chip => Sys2Proof.Machine.execGangStartAck gang chip s
  | .startDeadline gang => Sys2Proof.Machine.execStartDeadline gang s
  | .gangAbort launch => Sys2Proof.Machine.execGangAbort launch s
  | .watchdog launch cycles => Sys2Proof.Machine.execWatchdog launch cycles s
  | .preempt cohorts => Sys2Proof.Machine.execPreempt cohorts s
  | .restore places => Sys2Proof.Machine.execRestore places s
  | .debugHalt slot => Sys2Proof.Machine.execDebugHalt slot s
  | .debugResume slot => Sys2Proof.Machine.execDebugResume slot s
  | .singleStep slot entry => Sys2Proof.Machine.execSingleStep slot entry s
  | .eccCorrectable site => Sys2Proof.Machine.execEccCorrectable site s
  | .eccPoison site => Sys2Proof.Machine.execEccPoison site s
  | .flitRetransmit link => Sys2Proof.Machine.execFlitRetransmit link s
  | .linkFailure link => Sys2Proof.Machine.execLinkFailure link s
  | .clockThrottle mhz => Sys2Proof.Machine.execClockThrottle mhz s
  | .currentStepStall quadrant cycles => Sys2Proof.Machine.execCurrentStepStall quadrant cycles s
  | .thermalShutdown => Sys2Proof.Machine.execThermalShutdown s
  | .boot => Sys2Proof.Machine.execBoot s
  | .patchLoad entries image => Sys2Proof.Machine.execPatchLoad entries image s
  | .icacheFill core launch va => Sys2Proof.Machine.execIcacheFill core launch va s
  | .routingTableWrite chip value => Sys2Proof.Machine.execRoutingTableWrite chip value s
  | .partitionCreate part spec => Sys2Proof.Machine.execPartitionCreate part spec s
  | .attestationRequest nonce => Sys2Proof.Machine.execAttestationRequest nonce s
  | .partitionTeardown part => Sys2Proof.Machine.execPartitionTeardown part s
  | .channelCreate channel part1 part2 => Sys2Proof.Machine.execChannelCreate channel part1 part2 s
  | .debugStateWrite slot item => Sys2Proof.Machine.execDebugStateWrite slot item s
  | .mailboxImageWrite version image => Sys2Proof.Machine.execMailboxImageWrite version image s

end Sys2Proof.Machine
end

