-- ==== Sys2Proof/Machine/Schedule.lean ====
section
/-! DEFINITION. One step of the machine: what comes next, time, fetching and decoding an instruction, and how a program comes to stand
where the next step fetches it. -/

namespace Sys2Proof.Machine

/-! ## Time (R135, R171) -/

/-- Core-clock cycles that a step takes on a die. -/
def State.elapsed (s : State) (die : Nat) : Nat := 1 + Config.cycles s.tick die

/-- Cycles of a step in which the quadrant of a wave slot is not stalled (R135, R183). -/
def State.unstalled (s : State) (slot : Nat) : Nat := s.elapsed (slot / 2048) - (s.stalls.find (slot / 8)).getD 0

/-- A strand's SLEEP runs off by some cycles (R183). -/
def Run.rest (n : Nat) (r : Run) : Run :=
  match r.wait with
  | some (.sleep k) => { r with wait := some (.sleep (k - n)) }
  | _ => r

/-- A strand of the wave sleeps. -/
def Wave.sleeps (w : Wave) : Bool :=
  w.runs.any fun r => match r.2.wait with
    | some (.sleep _) => true
    | _ => false

/-- Time passes: CLOCK of every die advances, sleeping strands wait so much less, and stalls of quadrants run off (R135, R171, R183, R336). -/
def State.advance (s : State) : State :=
  { s with
    waves := s.waves.mapv fun k w => if w.sleeps then w.mapRuns (Run.rest (s.unstalled k)) else w,
    cur := none, stall := false, tick := s.tick + 1,
    clock := (s.clock.zipIdx).map fun c => c.1 + BitVec.ofNat 64 (s.elapsed c.2),
    stalls := (s.stalls.mapv fun q n => n - s.elapsed (q / 256)).keep fun _ n => n != 0 }

/-! ## Issue (R62, R63, R82, R332, R336) -/

/-- The strand stands in a substitute, or in none (R332). -/
def State.enterSub (s : State) (c : Ctx) (sub : Option (Nat × Nat)) : State :=
  if c.r.sub = sub then s else s.modRun c.slot c.entry fun r => { r with sub := sub }

/-- The strand of a lattice entry fetches, decodes and executes one instruction. -/
noncomputable def State.issueAt (s : State) (slot entry : Nat) : Out :=
  let t := { s with cur := some (slot, entry) }
  match t.ctxAt slot entry with
  | none => t.stalled
  | some c =>
    if !t.fetchFree c then t.stalled else
    match t.fetch c with
    | .bound pc addr => t.fetchTrap slot entry pc addr
    | .words w ext sub =>
      match decodeWords w ext with
      | .ok i => exec i (t.enterSub c sub)
      | .error _ => (t.enterSub c sub).illegal (hasExt w)

/-! ## What comes next when nothing is chosen (R33, R53, R54, R191) -/

/-- Offsets of the bytes that a part may perform next. -/
def Part.offsets (p : Part) : List Nat := if p.single then [0] else p.rem

/-- Steps that a part of a post queue may take. -/
noncomputable def Part.steps (slot : Nat) (p : Part) : List Instr :=
  [.postQueueSend slot p.id, .subscribeRequest slot p.id, .unsubscribeRequest slot p.id, .hostPortAck slot p.id] ++
  p.offsets.flatMap fun b => [.homePerform slot p.id b, .hostPortPerform slot p.id b]

/-- Steps that a strand's instructions in flight and its waits may take. -/
noncomputable def Run.steps (tick slot entry : Nat) (r : Run) : List Instr :=
  ((r.flights.zipIdx).flatMap fun f => match f.1.state with
    | .ready => [Instr.resultWrite slot entry f.2]
    | .reading q => (List.range q.todo.length).map fun a => .remoteVaultRead slot entry f.2 a
    | _ => []) ++
  [.serialisedStrandStart slot entry, .joinmemComplete slot entry, .fenceComplete slot entry, .endComplete slot entry,
   .waitaWake slot entry, .sleepExpire slot entry] ++
  (((r.park.map (·.pages)).getD []).zipIdx).map fun p => .pageWalkComplete slot entry (32 * p.2 + Config.runEntry tick p.1.1 % 32)

/-- Steps of a wave. -/
noncomputable def Wave.steps (tick slot : Nat) (w : Wave) : List Instr :=
  (w.runs.flatMap fun r => r.2.steps tick slot r.1) ++ (w.sb.map fun e => .storeBufferDrain slot e.id) ++
  (w.pq.flatMap (Part.steps slot)) ++ [.waveRetire slot]

/-- Steps of a core. -/
noncomputable def Core.steps (core : Nat) (k : Core) : List Instr :=
  (k.jobs.flatMap fun j => [Instr.jobAccept core j.id, .tstgCapture core j.id] ++ (j.left.map fun p => .copyPiece core j.id p.1) ++
    [.copyPiece core j.id j.begun, .jobCompletion core j.id]) ++ [.mmaStart core, .mmaComplete core, .overflowMove k.part core]

/-- Steps of an arrival unit. -/
noncomputable def Arrival.steps (die : Nat) (a : Arrival) : List Instr :=
  (a.entries.flatMap fun e => [Instr.regionArrive die e.1, .regionRelease die e.1, .regionTask die e.1, .regionFlag die e.1, .regionLaunch die e.1]) ++
  (a.writes.map (·.home)).eraseDups.map .regionCount

/-- Steps of a host request at the home of its page. -/
noncomputable def HostPart.steps (h : HostPart) : List Instr :=
  (if wholeStep h.pa h.width then [0] else h.rem).map fun b => .homePerform hostSlot h.id b

/-- The steps that the machine may take by itself: those of the ordering machine, the copy engines, the arrays, the arrival units and the
command processor, and the boot. The firmware's and the host's own choices are not among them. -/
noncomputable def State.steps (s : State) : List Instr :=
  [Instr.boot] ++ (s.hostq.flatMap HostPart.steps) ++ (s.waves.flatMap fun e => e.2.steps s.tick e.1) ++
  (s.pushes.flatMap fun p => [.pushDelivery p.home p.core, .refusalDelivery p.home p.core, .unsubAckDelivery p.home p.core]) ++
  (s.loads.flatMap fun l => [.gldLanding l.id, .gatomLanding l.id]) ++ (s.cores.flatMap fun e => e.2.steps e.1) ++
  (s.arrivals.flatMap fun e => e.2.steps e.1) ++ (s.launches.flatMap fun e => [.distributorGrant e.1 0, .nextwAnswer e.1 0]) ++
  (s.parts.flatMap fun e => e.2.queues.map fun q =>
    .packetAccept e.1 q.1 (((List.range 256).find? fun h => (s.launches.find h).isNone).getD 0)) ++
  (s.cohorts.map fun e => .cohortRetire e.1)

/-- The step is enabled and changes something. -/
noncomputable def State.takes (s : State) (i : Instr) : Bool :=
  match exec i s with
  | .next t => t != s
  | _ => false

/-- Puts a strand among others that stand in the order of age. -/
def insertRun (x : Nat × Run) : List (Nat × Run) → List (Nat × Run)
  | [] => [x]
  | y :: t => if keyLt y.2.key x.2.key then y :: insertRun x t else x :: y :: t

/-- A wave's strands in the order in which they issue: the oldest first, demoted ones last (R53, R54), those in the order of their demotion
(log 103). -/
def Wave.order (w : Wave) : List Nat :=
  let es := (w.runs.foldr insertRun []).map (·.1)
  es.filter (fun e => !w.demoted.contains e) ++ w.demoted.filter es.contains

/-- The slots of a quadrant in round-robin order: those after the one that issued last, then the others; before any has issued, in their
order (R33). -/
def State.quadOrder (s : State) (quad : Nat) : List Nat :=
  let slots := (s.waves.filter fun e => e.1 / 8 == quad).map (·.1)
  match s.rr.find quad with
  | none => slots
  | some last => slots.filter (fun x => decide (last < x)) ++ slots.filter fun x => decide (x ≤ last)

/-- The strands of the wave in a slot, in the order in which they issue. -/
def State.strandOrder (s : State) (slot : Nat) : List (Nat × Nat) :=
  ((s.waves.find slot).map fun w => w.order.map fun e => (slot, e)).getD []

/-- The wave slots in the order in which they are tried: quadrants in turn from one that the step count gives (log 62). -/
def State.slotOrder (s : State) : List Nat :=
  let quads := (s.waves.map fun e => e.1 / 8).eraseDups
  let start := s.tick % 1024
  (quads.filter (fun q => decide (start ≤ q)) ++ quads.filter fun q => decide (q < start)).flatMap s.quadOrder

/-- Strands to try, in order. -/
def State.tries (s : State) : List (Nat × Nat) := s.slotOrder.flatMap s.strandOrder

/-- The strands of the quadrant that come before one: those of the waves whose turn is first, and the older ones of its own wave, demoted
ones last (R33, R53, R54). -/
def State.ahead (s : State) (slot entry : Nat) : List (Nat × Nat) :=
  ((s.quadOrder (slot / 8)).takeWhile (· != slot)).flatMap s.strandOrder ++ (s.strandOrder slot).takeWhile (· != (slot, entry))

/-- Trying the strand does not end in a wait. -/
noncomputable def State.issues (s : State) (x : Nat × Nat) : Bool :=
  match s.issueAt x.1 x.2 with
  | .next t => !t.stall
  | _ => false

/-- What the machine does next where nothing has been chosen: the first enabled step of its own, else the first strand that can issue. -/
noncomputable def State.choose (s : State) : Option Next :=
  match s.steps.find? s.takes with
  | some i => some (.event i)
  | none => (s.tries.find? s.issues).map fun x => .issue x.1 x.2

/-- FADD.F32, FSUB.F32, FMUL.F32 or FFMA.F32: what an FP32 pipe performs (R291). -/
def pairing (i : Instr) : Bool :=
  match i with
  | .faddF32 .. => true
  | .fsubF32 .. => true
  | .fmulF32 .. => true
  | .ffmaF32 .. => true
  | _ => false

/-- The next instruction of a strand is one that pairs (R291). -/
noncomputable def State.pairsAt (s : State) (slot entry : Nat) : Bool :=
  match s.ctxAt slot entry with
  | none => false
  | some c => match s.fetch c with
    | .bound .. => false
    | .words w ext _ => match decodeWords w ext with
      | .ok i => pairing i
      | .error _ => false

/-- The strand that its quadrant would select in a wave, if one can issue (R53, R54, R291). -/
noncomputable def State.selected (s : State) (slot : Nat) : Option (Nat × Nat) := (s.strandOrder slot).find? s.issues

/-- The strand may be the second of a pair: its quadrant issued a first one last, and it is the selected strand of the next wave in round-robin
order whose instruction pairs (R291, log 112). -/
noncomputable def State.mayPair (s : State) (slot entry : Nat) : Bool :=
  match s.pairs.find (slot / 8) with
  | none => false
  | some first => slot != first && ((s.quadOrder (slot / 8)).filterMap s.selected).find? (fun x => x.1 != first && s.pairsAt x.1 x.2) == some (slot, entry)

/-- Instructions that the wave in a slot has issued. -/
def State.issuedBy (s : State) (slot : Nat) : Nat := ((s.waves.find slot).map (·.issued)).getD 0

/-- A strand issues if it is its quadrant's choice: no strand before it in the order of R33 can issue, or it may be the second of a pair. A first one
is the quadrant's last from then on, a second one leaves the order as it was (R291), and so does an attempt that ends in a wait (R33, R53, R54).
A strand whose turn it is not does not issue. Whether one that could do both is a second is a free value (log 112). -/
noncomputable def State.select (s : State) (slot entry : Nat) : Out :=
  let turn := !(s.ahead slot entry).any s.issues
  let pair := s.mayPair slot entry
  if !turn && !pair then s.stalled else
  let second := pair && (!turn || Config.second s.tick slot)
  let first := !second && s.pairsAt slot entry
  match { s with rr := if second then s.rr else s.rr.put (slot / 8) slot }.issueAt slot entry with
  | .next t =>
    .next (if t.stall then { t with rr := s.rr }
      else { t with pairs := if first && t.issuedBy slot != s.issuedBy slot then t.pairs.put (slot / 8) slot else t.pairs.del (slot / 8) })
  | o => o

/-- Takes a chosen step. -/
noncomputable def State.take (s : State) : Next → Out
  | .event i => exec i s
  | .issue slot entry => s.select slot entry

/-- One step: what the agenda holds, else what the machine chooses, else time alone. After a thermal shutdown there is none (R336). -/
noncomputable def State.once (s : State) : Out :=
  if s.down then .fault .shutDown else
  match s.agenda with
  | x :: rest => State.take { s.advance with agenda := rest } x
  | [] =>
    match s.advance.choose with
    | some x => s.advance.take x
    | none => .next s.advance

/-! ## A program placed from outside -/

/-- An 8-byte entry of a table in memory. -/
def placeEntry (pa v : Nat) : List (Nat × Byte) := (addrs pa 8).zip (leBytes 8 v)

/-- The page tables of `State.bare`: VA 0x10000 holds code and VA 0x20000 data, both in 64 KiB pages (R139, R140). -/
def bareTables : List (Nat × Byte) :=
  placeEntry 0x100000 0x101003 ++ placeEntry 0x101000 0x108003 ++ placeEntry 0x108000 0x110003 ++
  placeEntry 0x110008 0x20000D ++ placeEntry 0x110010 0x21001D

/-- The launch of `State.bare`. -/
def bareLaunch : Launch :=
  { queue := 0, seq := 0, after := none, part := 0, code := 0x10000, extent := 0x10000, entry := 0, args := [], argsz := 0, persistent := true,
    protect := false, distrib := true, gang := false, serial := false, debug := false, budget := 128, tiles := 8, clsz := 1, lanes := 32,
    cohorts := 1, vault := 0x10000, root := 0x100000, stack := 0, stksz := 0, fpmode := 0, mmatol := 0, wdog := 0, dx := 1, dy := 1, dz := 1,
    gangId := 0, gdead := 0, tag := 0, groups := [(0, ⟨[0], true, false, 0, 0, false, []⟩)], clusters := [], gphase := .none, bound := [0],
    done := [], faults := 0, anyFatal := false, wcount := 0, grants := 0, reqs := [], answers := [], ended := false }

/-- The cohort of `State.bare`. -/
def bareCohort : Cohort :=
  { launch := 0, index := 0, die := 0, core := 0, wbase := 0, wsize := 0x10000, nwaves := 1, retired := [],
    barriers := List.replicate 16 ⟨1, 0, 0, 0, 0, 0, 0, []⟩, fatal := false, gone := false, freed := false, preempted := false, cbar := [], gbar := [] }

/-- A share of 8 of every home of a chip and of every peer link (R329). -/
def evenShares (chip : Nat) : FMap Nat :=
  (List.range 24).map (fun n => (chip * 64 + n, 8)) ++ (List.range 16).map fun l => (2 ^ 16 + l, 8)

/-- The state with one wave of one launch bound on core 0, and nothing issued: what booting, the firmware, a packet and its binding come to. -/
def State.bare (s : State) : State :=
  { s with
    boot := .running s.flash, routes := [(0, 0xC0000000)], nextKey := 3,
    gmem := Memory.setAll [] bareTables, gkeys := bareTables.foldl (fun (m : FMap Nat) b => m.put (b.1 / 64) 1) [],
    parts := [(0, { cores := [0], queues := [], dkey := 1, vkey := 2, debug := true, qarea := (0x2000000, 0x1000), carea := (0, 0), alloc := [(0, 0x1000000)],
                    shares := evenShares 0, faults := ⟨0x2000000, 4, 0x2000800, 0, 0⟩, migs := ⟨0x2000900, 4, 0x2000A00, 0, 0⟩, migOut := [], overflow := [] })],
    cores := [(0, ⟨0, [], [], [], []⟩)],
    launches := [(0, bareLaunch)], cohorts := [(0, bareCohort)], waves := [(0, bareLaunch.wave 0 0 0 0xFF)] }

/-- The words stand at a code address at its home, and no core holds a copy of what stood there. -/
def State.placeCode (s : State) (c : Ctx) (va : Nat) (w0 w1 : Word) : State :=
  let t := match s.walkNow c.co.die c.la.part c.la.root va with
    | .ok t => s.gputs t.key ((addrs (t.pa va) 8).zip (bytesOfWord w0 ++ bytesOfWord w1))
    | _ => s
  { t with icache := t.icache.filter fun x => !(x.va == va || x.va == va + 4) }

/-- The instruction whose bits are `w` stands where the oldest strand of the wave in slot 0 fetches next, and that strand is next. -/
def State.placeNext (s : State) (nbits w : Nat) : State :=
  let t := if (s.ctxAt 0 0).isSome then s else s.bare
  let v := w % 2 ^ nbits
  let entry := ((t.waves.find 0).bind fun x => x.order.head?).getD 0
  match t.ctxAt 0 entry with
  | some c => { t.placeCode c c.r.pc (BitVec.ofNat 32 v) (BitVec.ofNat 32 (v / 2 ^ 32)) with rr := t.rr.del 0, agenda := [.issue 0 entry] }
  | none => t

end Sys2Proof.Machine
end

