-- ==== Sys2Proof/Machine/Step.lean ====
section
/-! DEFINITION. The step of the machine, and an instruction placed where it fetches next. -/

namespace Sys2Proof.Machine

/-- One step of the machine (R63, R191). -/
noncomputable def step (s : State) : Host.Outcome State Fault Refusal := s.once

/-- The state with an instruction, whose bits are numbered as the opcode table numbers them, where the next step fetches. -/
def State.withFetchWord (s : State) (nbits w : Nat) : State := s.placeNext nbits w

end Sys2Proof.Machine
end

