-- ==== Sys2Proof/Safety.lean ====
section
/-! DEFINITION. What claims about a run speak of: when a strand may issue an instruction, what an instruction leaves alone, what
stands where a result is on its way, and what every step keeps. -/

namespace Sys2Proof.Machine

/-! ## When an instruction issues -/

/-- The strand `c` may issue an instruction with these needs: no wait holds it (R28, R44, R50, R56, R72, R74, R133, R144, R166, R206, R277,
R291, R313) and
none of the conditions of R82 items 2 to 9 is met. -/
structure MayIssue (s : State) (c : Ctx) (n : Need) : Prop where
  running  : s.down = false
  selected : s.ctx = some c
  ready    : c.ready = true
  quadrant : s.quadBusy c.slot = false
  untrapped : c.w.due = none
  inOrder  : ∀ f ∈ c.r.flights, holdsBack c.r n f = false
  landed   : n.drains = true → ∀ f ∈ c.r.flights, f.state = .done
  acquired : n.mem = true → acquiring c.r = false
  word     : n.wf = true
  budget   : ∀ r ∈ n.all, overBudget c.w r = false
  distance : n.drains = false → offended c.r n = none
  windows  : windowBad c n = false
  launch   : n.badLaunch c.la = false
  free     : n.hold s c = false
  whole    : n.wide = true → partialStrand c = false
  met      : n.barrier = true → partialStrand c = false ∧ c.w.depth = 0
  mode     : n.badWave c = false
  tiles    : ∀ r ∈ n.all, undeclared c.w r = false
  clean    : poisoned s c n = none

/-! ## What an instruction leaves alone -/

/-- The state without what the issue of an instruction may touch: the waves, and the poison that a register write clears (R312). -/
def State.outside (s : State) : State := { s with waves := [], poisonR := [], poisonT := [] }

/-- A wave without what the issue of an instruction may touch: its lattice, its registers, its tiles' bytes, WARN, FPSTAT and
the model's own counts. -/
def Wave.outside (w : Wave) : Wave :=
  { w with lattice := [], v := [], p := [], s := [], x := [], tmem := [], warn := 0, warnBy := [], fpstat := 0, issued := 0, demoted := [],
           state := .running, single := none }

/-- A strand without its PC, registers and instructions in flight. -/
def Run.outside (r : Run) : Run :=
  { r with pc := 0, fromPc := 0, lastPc := 0, sub := none, priv := [], q := 0, flights := [], park := none, lastSub := none, passed := false }

/-- Every register of the wave `w` and its strand `r` that `ws` does not name is as it was in `w₀` and `r₀` (R22, R24, R34, R69, R142). -/
structure Untouched (w₀ : Wave) (r₀ : Run) (w : Wave) (r : Run) (ws : List RegName) : Prop where
  lane : ∀ k l, l < 32 → RegName.v k ∉ ws → w.lane k l = w₀.lane k l
  pred : ∀ k, RegName.p k ∉ ws → w.pred k = w₀.pred k
  uni  : ∀ k, RegName.s k ∉ ws → sreg w r k = sreg w₀ r₀ k
  upred : ∀ k, RegName.q k ∉ ws → r.qreg k = r₀.qreg k
  xlat : ∀ k, RegName.x k ∉ ws → w.xreg k = w₀.xreg k
  tile : ∀ t o, o < 16384 → RegName.t t ∉ ws → Memory.byte w.tmem (tileAddr t o) = Memory.byte w₀.tmem (tileAddr t o)

/-- The lane registers and predicates of a dead lane are as they were (R15). -/
def DeadKept (w₀ w : Wave) : Prop :=
  ∀ l, l < 32 → w₀.live.getLsbD l = false →
    (∀ k, w.lane k l = w₀.lane k l) ∧ ∀ k, (w.pred k).getLsbD l = (w₀.pred k).getLsbD l

/-- An instruction has issued and its strand goes on at `pc` (R62, R72, R84): the wave `w` and the strand `r` are what it leaves. Registers in `ws` may have been written; `fs` are its results in flight; `fp` are the flags it adds to FPSTAT. What else changes of
the state, of the wave and of the strand is what `g`, `u` and `h` say; no memory, no other strand and no other wave changes beside. -/
structure Issued (pc : Nat × Option (Nat × Nat)) (g : State → State) (u : Wave → Wave) (h : Run → Run) (s t : State) (c : Ctx) (n : Need)
    (ws : List RegName) (fs : List Flight) (fp : BitVec 6) (w : Wave) (r : Run) : Prop where
  elsewhere : t.outside = (g s).outside
  others   : ∀ k, k ≠ c.slot → t.waves.find k = s.waves.find k
  wave     : t.waves.find c.slot = some w
  run      : w.run c.entry = some r
  strands  : ∀ k, k ≠ c.entry → w.lattice.find k = c.w.lattice.find k
  frames   : (w.lattice.find c.entry).map Entry.frames = (c.w.lattice.find c.entry).map Entry.frames
  pc       : (r.pc, r.sub) = pc
  regs     : Untouched c.w c.r w r ws
  dead     : DeadKept c.w w
  keptWave : w.outside = (u c.w).outside
  keptRun  : r.outside = (h c.r).outside
  warn     : w.warn = c.w.warn ||| n.warnBits
  fpstat   : w.fpstat = c.w.fpstat ||| fp
  flights  : r.flights = (if n.drains then [] else c.r.count.flights) ++ fs

/-- An instruction has issued and its strand goes on at the next instruction (R62). -/
abbrev DidWith (g : State → State) (u : Wave → Wave) (h : Run → Run) (s t : State) (c : Ctx) (n : Need) (ws : List RegName) (fs : List Flight)
    (fp : BitVec 6) (w : Wave) (r : Run) : Prop := Issued (s.after c.r n.x) g u h s t c n ws fs fp w r

/-- An instruction has issued and nothing has changed but its strand's PC, registers in `ws`, results in flight and FPSTAT. -/
abbrev Did : State → State → Ctx → Need → List RegName → List Flight → BitVec 6 → Wave → Run → Prop := DidWith id id id

/-! ## Results -/

/-- Lane register `d` holds the given values in the lanes of a mask and is unchanged in the others (R106). -/
def LanesAre (c : Ctx) (w : Wave) (d : Nat) (m : Word) (f : Nat → Word) : Prop :=
  ∀ l, l < 32 → w.lane d l = if m.getLsbD l then f l else c.w.lane d l

/-- Lane predicate `d` holds the given values in the lanes of a mask and is unchanged in the others; p0 discards (R69). -/
def PredIs (c : Ctx) (w : Wave) (d : BitVec 3) (m : Word) (f : Nat → Bool) : Prop :=
  ∀ l, l < 32 → (w.pred d.toNat).getLsbD l = if d ≠ 0 ∧ m.getLsbD l then f l else (c.w.pred d.toNat).getLsbD l

/-- The pair from `d` holds the given values in the lanes of a mask and is unchanged in the others (R68). -/
def PairsAre (c : Ctx) (w : Wave) (d : Nat) (m : Word) (f : Nat → DWord) : Prop :=
  ∀ l, l < 32 → w.pair d l = if m.getLsbD l then f l else c.w.pair d l

/-- Visible lane `i` of a protected launch has both its copies in a mask or neither, and two that are in it agree (R314, R315). -/
def PairIs (m : Word) (same : Nat → Nat → Prop) (i : Nat) : Prop :=
  m.getLsbD (2 * i) = m.getLsbD (2 * i + 1) ∧ (m.getLsbD (2 * i) = true → same (2 * i) (2 * i + 1))

/-- In a protected launch the copies of every visible lane are together in a mask and agree (R314). -/
def Paired (c : Ctx) (m : Word) (same : Nat → Nat → Prop) : Prop := c.la.protect = true → ∀ i, i < 16 → PairIs m same i

/-- The lanes of a mask that make accesses of their own: in a protected launch the first copy of each pair (log 12). -/
def acting (c : Ctx) (m : Word) : List Nat := (lanesOf m).filter fun l => !c.la.protect || l % 2 == 0

/-- What an instruction that has accessed memory through a translation register leaves it as: one that was stale holds the translation of the page of its
VB again (R145). -/
def Refreshed (s : State) (c : Ctx) (w : Wave) (x : BitVec 3) (used : Bool) : Prop :=
  w.xreg x.toNat = let v := c.w.xreg x.toNat
    if v.stale && used then { v with trans := s.tlbFind c.co.die c.la.part c.la.root (v.vb.toNat % 2 ^ 56), stale := false } else v

/-- An instruction of class A has issued, and nothing but its destinations has changed (R71, R72). -/
def DidNow (s : State) (c : Ctx) (i : Instr) (n : Need) (P : State → Wave → Run → Prop) : Prop :=
  ∃ t w r, exec i s = .next t ∧ Did s t c n n.writes [] 0 w r ∧ P t w r

/-- An instruction whose result comes later has issued: its result is in flight, with the writes given, and no register has changed (R71, R72). -/
def DidLater (s : State) (c : Ctx) (i : Instr) (n : Need) (st : FlightState) (acq : Bool) (ws : List Wr) : Prop :=
  ∃ t w r, exec i s = .next t ∧ Did s t c n [] [n.flight c st ws acq] 0 w r

/-- An instruction has put one entry into its wave's store buffer (R48), with its results in flight; nothing is written before the entry drains.
Where no lane takes part nothing enters it and the result is there at once (R70). -/
def DidBuffer (s : State) (c : Ctx) (i : Instr) (n : Need) (takes : Prop) [Decidable takes] (kind : SBKind) (m : Marks) (fs : List Flight)
    (h : Run → Run) : Prop :=
  ∃ t w r, exec i s = .next t ∧ DidWith id (fun v => if takes then
    { v with sb := v.sb ++ [{ id := v.nextId, key := c.r.key, num := v.issued, kind := kind, marks := m, covers := c.r.covers, jm := c.r.jm, taken := [] }],
             nextId := v.nextId + 1 } else v) h s t c n [] (if takes then fs else fs.map fun f => { f with state := .ready }) 0 w r

/-- What a lane part asks of its home: lane, operation, physical address, width, data, ordering attribute, marks and key (R196). -/
def Part.asks (p : Part) : Nat × PartKind × Nat × Nat × List Byte × PageOrd × Marks × Nat :=
  (p.lane, p.kind, p.pa, p.width, p.data, p.ord, p.marks, p.mkey)

/-- A lane's parts, one for each page its access touches, with the part of the data that lies there (R196, R198). -/
def asked (l : Nat) (kind : PartKind) (m : Marks) : List Piece → List Byte → List (Nat × PartKind × Nat × Nat × List Byte × PageOrd × Marks × Nat)
  | [], _ => []
  | p :: ps, d => (l, kind, p.pa, p.len, d.take p.len, p.t.ord, m, p.t.key) :: asked l kind m ps (d.drop p.len)

/-- Lane parts as an instruction makes them: of its strand and its place in program order, not sent, nothing performed (R196). -/
def Fresh (c : Ctx) (ps : List Part) : Prop :=
  ∀ p ∈ ps, p.key = c.r.key ∧ p.num = c.w.issued ∧ p.sent = false ∧ p.rem = addrs 0 p.width ∧ p.unacked = false

/-- What a load brings into the vault: where, how wide the landing and the access are, and how it counts (R158, R160). -/
def Load.brings (d : Load) : Nat × Nat × Nat × Bool × Bool × Nat × Nat := (d.ea, d.land, d.width, d.sx, d.atomic, d.barrier, d.parts)

/-- A wave whose post queue and store buffer have grown, and with them what happens before its accesses (R207). -/
def Wave.adds (ps : List Part) (es : List SBEntry) (bs : List Before) (w : Wave) : Wave :=
  { w with pq := w.pq ++ ps, sb := w.sb ++ es, nextId := w.nextId + es.length, before := bs }

/-- The wait of a write that is marked acquire (R84). -/
def acqWait (c : Ctx) (o : Ordering) (r : Run) : Run := if o.acq then { r with wait := some (.fence .acq o.scope (c.w.issued + 1)) } else r

/-- What writes in order leave in one place: the value of the last that covers it. -/
def lastWrite {α : Type} (ws : List Wr) (covers : Wr → Option α) (old : α) : α := ws.foldl (fun x a => (covers a).getD x) old

/-! ## Steps that no instruction takes -/

/-- Of the whole machine only the strand of `c` has changed: it is now `q`. -/
structure StrandIs (s t : State) (c : Ctx) (q : Run) : Prop where
  elsewhere : { t with waves := [] } = { s with waves := [] }
  others    : ∀ k, k ≠ c.slot → t.waves.find k = s.waves.find k
  wave      : ∃ w, t.waves.find c.slot = some w ∧ w.run c.entry = some q ∧
    (∀ k, k ≠ c.entry → w.lattice.find k = c.w.lattice.find k) ∧ { w with lattice := [] } = { c.w with lattice := [] }

/-- The wave in a slot is now `w`, and nothing else of the machine has changed. -/
def WaveIs (s t : State) (slot : Nat) (w : Wave) : Prop :=
  t.waves.find slot = some w ∧ (∀ k, k ≠ slot → t.waves.find k = s.waves.find k) ∧ { t with waves := [] } = { s with waves := [] }

/-- The wave in a slot is now `w`, but for the note of what happens before its accesses, which only an acquire changes (R207), and nothing
else of the machine has changed. -/
def WaveActs (s t : State) (slot : Nat) (w : Wave) (acq : Bool) : Prop :=
  ∃ v, t.waves.find slot = some v ∧ (∀ k, k ≠ slot → t.waves.find k = s.waves.find k) ∧ { t with waves := [] } = { s with waves := [] } ∧
    { v with before := [] } = { w with before := [] } ∧ (acq = false → v.before = w.before)

/-- The step is not enabled. -/
def Disabled (s : State) (i : Instr) (name : String) : Prop := exec i s = .refused (.notEnabled name)

/-- No undrained entry and no strand of the wave stands before this place in drain order (R49). -/
def FirstInOrder (w : Wave) (key : List Nat) : Prop :=
  (∀ e ∈ w.sb, keyLt e.key key = false) ∧ ∀ r ∈ w.runs, keyLt r.2.key key = false

/-- What reads have returned, by the index of each. -/
def collected (got : List (Nat × List Byte)) : FMap (List Byte) := got.foldl (fun (m : FMap (List Byte)) g => m.put g.1 g.2) []

/-- A wave without what an acquire notes in it: what happens before its accesses, and which acquires have read a release before its drain (R50, R207). -/
def Wave.unnoted (w : Wave) : Wave := { w with before := [], sb := w.sb.map fun e => { e with taken := [] } }

/-- Access `j` of a vault read may be made (R50, R157, R193): no undrained atomic that the strand sees holds its bytes; accesses of one SLOTRD
to one slot of the own vault go in order, and another vault's go in the order in which the core issued them. -/
def MayRead (s : State) (c : Ctx) (q : VaultRead) (es : List SBEntry) (j va : Nat) : Prop :=
  atomicBusy es va q.width = false ∧
  if va / Config.vaultSpan = slotCore c.slot then q.clear = true → ∀ b ∈ q.todo.take j, b.2.1 ≠ va
  else s.readsBefore (slotCore c.slot) (va / Config.vaultSpan) q.issued = false ∧
    ∀ b ∈ q.todo.take j, b.2.1 / Config.vaultSpan ≠ va / Config.vaultSpan

/-- An access of the vault read of flight `k` has been made: the read is now `q`, its result there if nothing is left to read; `v` is what the
access has done to the machine. Of the wave only that flight has changed, and, for an acquire, what happens before its accesses (R207). -/
def ReadPerformed (s v t : State) (c : Ctx) (k : Nat) (f : Flight) (q : VaultRead) : Prop :=
  ∃ w, t.waves.find c.slot = some w ∧ (∀ i, i ≠ c.slot → t.waves.find i = s.waves.find i) ∧ { t with waves := [] } = { v with waves := [] } ∧
    w.run c.entry = some { c.r with flights := c.r.flights.set k (if q.todo = [] then
      { f with state := .ready, writes := readWrites q.dst q.regs q.sx q.uni q.tile (collected q.got) } else { f with state := .reading q }) } ∧
    (∀ i, i ≠ c.entry → w.lattice.find i = c.w.lattice.find i) ∧
    { w.unnoted with lattice := [] } = { c.w.unnoted with lattice := [] } ∧ (q.acq = false → w.before = c.w.before ∧ w.sb = c.w.sb)

/-- The outcome of an issue from `s` as a step has it: an attempt that ends in a wait leaves the order of the waves as it was (R33); the first of a
pair is noted for its quadrant once it has issued, and nothing else is (R291). -/
def turn (s : State) (slot : Nat) (first : Bool) : Out → Out
  | .next t => .next (if t.stall then { t with rr := s.rr }
      else { t with pairs := if first && t.issuedBy slot != s.issuedBy slot then t.pairs.put (slot / 8) slot else t.pairs.del (slot / 8) })
  | o => o

/-! ## Values that the rules name -/

/-- The condition that an F value of R117 tests. -/
def holdsCond {n : Nat} (code : BitVec 3) (x y : BitVec n) : Prop :=
  match code.toNat with
  | 0 => x.toNat = y.toNat
  | 1 => x.toNat ≠ y.toNat
  | 2 => x.toInt < y.toInt
  | 3 => y.toInt ≤ x.toInt
  | 4 => x.toNat < y.toNat
  | 5 => y.toNat ≤ x.toNat
  | 6 => x.toInt ≤ y.toInt
  | _ => y.toInt < x.toInt

/-- R104: the signed quotient, truncated, with its edge results. -/
def quotOf {n : Nat} (a b : BitVec n) : BitVec n := if b.toInt = 0 then BitVec.allOnes n else BitVec.ofInt n (a.toInt.tdiv b.toInt)

/-- R104: the signed remainder, with the dividend's sign. -/
def remOf {n : Nat} (a b : BitVec n) : BitVec n := if b.toInt = 0 then a else BitVec.ofInt n (a.toInt.tmod b.toInt)

/-- R104: the unsigned quotient and remainder. -/
def quotUOf {n : Nat} (a b : BitVec n) : BitVec n := if b.toNat = 0 then BitVec.allOnes n else BitVec.ofNat n (a.toNat / b.toNat)

/-- R104: the unsigned remainder. -/
def remUOf {n : Nat} (a b : BitVec n) : BitVec n := if b.toNat = 0 then a else BitVec.ofNat n (a.toNat % b.toNat)

/-- R156: an operand of an atomic of `n` bits as a number. -/
def atomNum (n : Nat) (un : Bool) (x : DWord) : Int := if un then (BitVec.ofNat n x.toNat).toNat else (BitVec.ofNat n x.toNat).toInt

/-- R156: what an atomic of `n` bits writes where it finds `old`. -/
def atomResult (n : Nat) (un : Bool) (op : AtomOp) (old b cmp : DWord) : DWord :=
  match op with
  | .add => old + b
  | .min => if atomNum n un b < atomNum n un old then b else old
  | .max => if atomNum n un old < atomNum n un b then b else old
  | .and => old &&& b
  | .or => old ||| b
  | .xor => old ^^^ b
  | .xchg => b
  | .cas => if atomNum n un old = atomNum n un cmp then b else old

/-- The writes of a floating-point result of a kind: the elements of each active lane, packed, and the flags of all of them (R95, R98). -/
def Fk.results (k : Fk) (c : Ctx) (d : BitVec 7) (m : Word) (srcs : List (BitVec 7)) (op : List Nat → Nat × FFlags) : List Wr :=
  k.write d m (fun l => (k.lane c l srcs op).1) ++ orFlags m fun l => (k.lane c l srcs op).2

/-- The exact magnitude of a finite value (R87). -/
def FVal.mag : FVal → ℚ
  | .fin _ m e => m * 2 ^ e
  | _ => 0

/-- The exact value of a finite value (R87). -/
def FVal.val : FVal → ℚ
  | .fin s m e => if s then -(m * 2 ^ e) else m * 2 ^ e
  | _ => 0

/-- The magnitude that a bit pattern of a format holds. -/
def Fmt.mag (f : Fmt) (x : Nat) : ℚ := (f.decode x).mag

/-- A mode rounds values of this sign toward zero (R94). -/
def Rm.toward (rm : Rm) (neg : Bool) : Bool := rm == .z || (rm == .u && neg) || (rm == .d && !neg)

/-- R94, R96: `r` is the pattern and the flags of a positive magnitude `v` of a sign, rounded once to the format under a mode. A tiny result, judged after
rounding, is flushed where the format flushes; one beyond the largest finite magnitude overflows; any other is the nearest magnitude of the format, of two
equally near the even one, or the next one toward or away from zero. E4M3 has its NaN for an infinity (R100). -/
def Fmt.Rounds (f : Fmt) (rm : Rm) (ftz neg : Bool) (v : ℝ) (r : Nat × FFlags) : Prop :=
  let top := f.maxFin false
  let ulp : ℚ := 2 ^ (f.emax - f.frac)
  let least : ℚ := 2 ^ f.emin
  let toward := rm.toward neg
  let tiny : Prop := (rm = .ne → v < ((least - 2 ^ (f.emin - f.frac - 2) : ℚ) : ℝ)) ∧ (rm ≠ .ne → toward = true → v < (least : ℝ)) ∧
    (rm ≠ .ne → toward = false → v ≤ ((least - 2 ^ (f.emin - f.frac - 1) : ℚ) : ℝ))
  let beyond : Prop := (rm = .ne → ((f.mag top + ulp / 2 : ℚ) : ℝ) < v ∨ (v = ((f.mag top + ulp / 2 : ℚ) : ℝ) ∧ top % 2 = 1)) ∧
    (rm ≠ .ne → toward = true → ((f.mag top + ulp : ℚ) : ℝ) ≤ v) ∧ (rm ≠ .ne → toward = false → (f.mag top : ℝ) < v)
  (ftz = true → tiny → r = (f.sign neg, ufF ||| nxF)) ∧
  (beyond → r = (if toward then f.maxFin neg else f.inf neg, ofF ||| nxF)) ∧
  (¬ (ftz = true ∧ tiny) → ¬ beyond → ∃ q, q ≤ top ∧ r.1 = f.sign neg + q ∧
    (rm = .ne → ∀ p, p ≤ top → |(f.mag q : ℝ) - v| ≤ |(f.mag p : ℝ) - v| ∧ (p ≠ q → |(f.mag q : ℝ) - v| = |(f.mag p : ℝ) - v| → q % 2 = 0)) ∧
    (rm ≠ .ne → toward = true → (f.mag q : ℝ) ≤ v ∧ ∀ p, p ≤ top → (f.mag p : ℝ) ≤ v → p ≤ q) ∧
    (rm ≠ .ne → toward = false → v ≤ (f.mag q : ℝ) ∧ ∀ p, p ≤ top → v ≤ (f.mag p : ℝ) → q ≤ p) ∧
    ((f.mag q : ℝ) = v → r.2 = 0) ∧ ((f.mag q : ℝ) ≠ v → tiny → r.2 = ufF ||| nxF) ∧ ((f.mag q : ℝ) ≠ v → ¬ tiny → r.2 = nxF))

/-- R94: the integer `n` is a magnitude of a sign rounded under a mode. -/
def Rm.RoundsInt (rm : Rm) (neg : Bool) (v : ℚ) (n : Nat) : Prop :=
  (rm = .ne → |(n : ℚ) - v| ≤ 1 / 2 ∧ (|(n : ℚ) - v| = 1 / 2 → n % 2 = 0)) ∧
  (rm ≠ .ne → rm.toward neg = true → (n : ℚ) ≤ v ∧ v < n + 1) ∧ (rm ≠ .ne → rm.toward neg = false → v ≤ n ∧ (n : ℚ) < v + 1)

/-- R252: two areas of `count` elements of a format, `z` bytes each, are close: THETA is a number not below 0, every element is finite, and no difference,
rounded once to FP32, exceeds THETA times the largest magnitude of the second area, rounded once. -/
def StepClose (f : Fmt) (z count : Nat) (theta : Word) (x y : List Byte) : Prop :=
  let elem (bs : List Byte) (k : Nat) : FVal := f.decode (leNat ((bs.drop (z * k)).take z))
  let t := fmt32.decode theta.toNat
  t.isNan = false ∧ (theta.toNat < 2 ^ 31 ∨ theta.toNat = 2 ^ 31) ∧
  (∀ k, k < count → (elem x k).special = false ∧ (elem y k).special = false) ∧
  ∃ (top : ℚ) (bound : Nat), (∀ k, k < count → (elem y k).mag ≤ top) ∧ (top = 0 ∨ ∃ k, k < count ∧ top = (elem y k).mag) ∧
    (top = 0 → bound = 0) ∧ (top ≠ 0 → t.special = true → bound = fmt32.inf false) ∧
    (top ≠ 0 → t.special = false → ∃ fl, fmt32.Rounds .ne false false ((t.mag * top : ℚ) : ℝ) (bound, fl)) ∧
    ∀ k, k < count → ∃ d fl, fmt32.Rounds .ne false false ((|(elem x k).val - (elem y k).val| : ℚ) : ℝ) (d, fl) ∧ d ≤ bound

/-! ## What every step keeps -/

/-- Memories, and the vaults with them, are in their canonical form; the dies are the four of the module (R10). -/
structure State.Inv (s : State) : Prop where
  gmem : Memory.wf s.gmem = true
  vmem : Memory.wf s.vmem = true
  dies : s.clock.length = 4

end Sys2Proof.Machine
end

