-- ==== Sys2Proof/Certificates/Slice0/Obligations.lean ====
section
/-! DEFINITION. The statements about the model, each for what the manual's rules say an instruction, an event or the machine does. -/

open Sys2Proof Sys2Proof.Machine

/-! ## Lane arithmetic -/

/-- R111, R112, R113 with register operands: in each active lane the destination takes the value that the rules' tables give, and nothing
else changes; SHL, SHR and SAR take any amount (R113), minima and maxima of equal operands are that operand. -/
def Obligations.TwoRegisterWordResults : Prop :=
  ∀ (s : State) (c : Ctx) (e : LExt) (d a b : BitVec 7), MayIssue s c (Need.ofLane true e (nv a ++ nv b) (nv d)) →
  ∀ p ∈ ([(.iadd e d a b, fun x y => x + y), (.isub e d a b, fun x y => x - y),
      (.imin e d a b, fun x y => if x.toInt ≤ y.toInt then x else y), (.imax e d a b, fun x y => if x.toInt ≤ y.toInt then y else x),
      (.iminu e d a b, fun x y => if x.toNat ≤ y.toNat then x else y), (.imaxu e d a b, fun x y => if x.toNat ≤ y.toNat then y else x),
      (.land e d a b, fun x y => x &&& y), (.lor e d a b, fun x y => x ||| y), (.lxor e d a b, fun x y => x ^^^ y),
      (.landn e d a b, fun x y => x &&& ~~~y), (.lorn e d a b, fun x y => x ||| ~~~y), (.lxnor e d a b, fun x y => ~~~(x ^^^ y)),
      (.shl e d a b, fun x y => if y.toNat < 32 then BitVec.ofNat 32 (x.toNat * 2 ^ y.toNat) else 0),
      (.shr e d a b, fun x y => if y.toNat < 32 then BitVec.ofNat 32 (x.toNat / 2 ^ y.toNat) else 0),
      (.sar e d a b, fun x y => BitVec.ofInt 32 (x.toInt / 2 ^ min y.toNat 31)),
      (.rol e d a b, fun x y => BitVec.ofNat 32 (x.toNat * 2 ^ (y.toNat % 32) + x.toNat / 2 ^ (32 - y.toNat % 32))),
      (.ror e d a b, fun x y => BitVec.ofNat 32 (x.toNat / 2 ^ (y.toNat % 32) + x.toNat * 2 ^ (32 - y.toNat % 32)))] :
      List (Instr × (Word → Word → Word))), p.1.wf = true →
  DidNow s c p.1 (Need.ofLane true e (nv a ++ nv b) (nv d)) fun _ w _ => LanesAre c w d.toNat (c.active e) fun l => p.2 (c.v a l) (c.v b l)

/-- R111, R112, R113, R114, R120 with one register operand and with an immediate, sign-extended for the integer group and zero-extended for
the logic group.
R112, R113, R114, R118, R120: the forms with three sources or none, and the bit fields, whose clamped length sets WIDTH_CLAMPED. -/
def Obligations.OneRegisterFieldAndMoveResults : Prop :=
  (∀ (s : State) (c : Ctx) (e : LExt) (d a : BitVec 7) (imm : BitVec 16) (n : BitVec 5), MayIssue s c (Need.ofLane true e (nv a) (nv d)) →
   ∀ p ∈ ([(.iabs e d a, fun x => BitVec.ofInt 32 x.toInt.natAbs), (.ineg e d a, fun x => BitVec.ofInt 32 (-x.toInt)),
       (.iaddImm e d a imm, fun x => x + imm.signExtend 32), (.isubImm e d a imm, fun x => x - imm.signExtend 32),
       (.iminImm e d a imm, fun x => if x.toInt ≤ imm.toInt then x else imm.signExtend 32),
       (.imaxImm e d a imm, fun x => if x.toInt ≤ imm.toInt then imm.signExtend 32 else x),
       (.iminuImm e d a imm, fun x => if x.toNat ≤ (imm.signExtend 32).toNat then x else imm.signExtend 32),
       (.imaxuImm e d a imm, fun x => if x.toNat ≤ (imm.signExtend 32).toNat then imm.signExtend 32 else x),
       (.lnot e d a, fun x => ~~~x), (.mov e d a, fun x => x),
       (.landImm e d a imm, fun x => x &&& imm.setWidth 32), (.lorImm e d a imm, fun x => x ||| imm.setWidth 32),
       (.lxorImm e d a imm, fun x => x ^^^ imm.setWidth 32), (.landnImm e d a imm, fun x => x &&& ~~~imm.setWidth 32),
       (.lornImm e d a imm, fun x => x ||| ~~~imm.setWidth 32), (.lxnorImm e d a imm, fun x => ~~~(x ^^^ imm.setWidth 32)),
       (.shlImm e d a n, fun x => BitVec.ofNat 32 (x.toNat * 2 ^ n.toNat)), (.shrImm e d a n, fun x => BitVec.ofNat 32 (x.toNat / 2 ^ n.toNat)),
       (.sarImm e d a n, fun x => BitVec.ofInt 32 (x.toInt / 2 ^ n.toNat)),
       (.rolImm e d a n, fun x => BitVec.ofNat 32 (x.toNat * 2 ^ n.toNat + x.toNat / 2 ^ (32 - n.toNat))),
       (.rorImm e d a n, fun x => BitVec.ofNat 32 (x.toNat / 2 ^ n.toNat + x.toNat * 2 ^ (32 - n.toNat))),
       (.clz e d a, fun x => BitVec.ofNat 32 (((List.range 32).find? fun i => x.getLsbD (31 - i)).getD 32)),
       (.ctz e d a, fun x => BitVec.ofNat 32 (((List.range 32).find? fun i => x.getLsbD i).getD 32)),
       (.popc e d a, fun x => BitVec.ofNat 32 ((List.range 32).countP fun i => x.getLsbD i)),
       (.brev e d a, fun x => x.reverse),
       (.bswap e d a, fun x => BitVec.ofNat 32 (x.toNat / 2 ^ 24 + x.toNat / 2 ^ 16 % 2 ^ 8 * 2 ^ 8 + x.toNat / 2 ^ 8 % 2 ^ 8 * 2 ^ 16 +
         x.toNat % 2 ^ 8 * 2 ^ 24)),
       (.sxtb e d a, fun x => BitVec.ofInt 32 (x.setWidth 8).toInt), (.sxth e d a, fun x => BitVec.ofInt 32 (x.setWidth 16).toInt),
       (.zxtb e d a, fun x => BitVec.ofNat 32 (x.toNat % 2 ^ 8)), (.zxth e d a, fun x => BitVec.ofNat 32 (x.toNat % 2 ^ 16))] :
       List (Instr × (Word → Word))), p.1.wf = true →
   DidNow s c p.1 (Need.ofLane true e (nv a) (nv d)) fun _ w _ => LanesAre c w d.toNat (c.active e) fun l => p.2 (c.v a l)) ∧
  (∀ (s : State) (c : Ctx) (e : LExt) (d a b g : BitVec 7) (k : BitVec 3) (imm : BitVec 16) (n pos : BitVec 5) (len : BitVec 6),
   let is (i : Instr) (need : Need) (f : Nat → Word) : Prop :=
     MayIssue s c need → i.wf = true → DidNow s c i need fun _ w _ => LanesAre c w d.toNat (c.active e) f
   let width := min len.toNat (32 - pos.toNat)
   let clamp : BitVec 8 := if 32 < pos.toNat + len.toNat then 0x10 else 0
   is (.fshl e d a b g) (.ofLane true e (nv a ++ nv b ++ nv g) (nv d)) (fun l =>
     BitVec.ofNat 32 ((c.v a l).toNat * 2 ^ ((c.v b l).toNat % 32) + (c.v g l).toNat / 2 ^ (32 - (c.v b l).toNat % 32))) ∧
   is (.fshr e d a b g) (.ofLane true e (nv a ++ nv b ++ nv g) (nv d)) (fun l =>
     BitVec.ofNat 32 ((c.v g l).toNat / 2 ^ ((c.v b l).toNat % 32) + (c.v a l).toNat * 2 ^ (32 - (c.v b l).toNat % 32))) ∧
   is (.fshlImm e d a n g) (.ofLane true e (nv a ++ nv g) (nv d)) (fun l =>
     BitVec.ofNat 32 ((c.v a l).toNat * 2 ^ n.toNat + (c.v g l).toNat / 2 ^ (32 - n.toNat))) ∧
   is (.fshrImm e d a n g) (.ofLane true e (nv a ++ nv g) (nv d)) (fun l =>
     BitVec.ofNat 32 ((c.v g l).toNat / 2 ^ n.toNat + (c.v a l).toNat * 2 ^ (32 - n.toNat))) ∧
   is (.bfx e d a pos len) { Need.ofLane true e (nv a) (nv d) with warn := clamp } (fun l =>
     BitVec.ofNat 32 ((c.v a l).toNat / 2 ^ pos.toNat % 2 ^ width)) ∧
   is (.bfxs e d a pos len) { Need.ofLane true e (nv a) (nv d) with warn := clamp } (fun l =>
     BitVec.ofInt 32 ((c.v a l).extractLsb' pos.toNat width).toInt) ∧
   is (.bfi e d a b pos len) { Need.ofLane true e (nv a ++ nv b) (nv d) with warn := clamp } (fun l =>
     maskOf fun i => if pos.toNat ≤ i ∧ i < pos.toNat + width then (c.v b l).getLsbD (i - pos.toNat) else (c.v a l).getLsbD i) ∧
   is (.movhi e d imm) (.ofLane true e (nv d) (nv d)) (fun l => BitVec.ofNat 32 (imm.toNat * 2 ^ 16 + (c.v d l).toNat % 2 ^ 16)) ∧
   is (.movi e d imm) (.ofLane true e [] (nv d)) (fun _ => BitVec.ofInt 32 imm.toInt) ∧
   is (.sel e d a b k) (.ofLane true e (nv a ++ nv b ++ np k) (nv d)) (fun l => if c.p k l then c.v a l else c.v b l) ∧
   is (.p2v e d) (.ofLane true e ((addrs 1 7).map RegName.p) (nv d)) (fun l =>
     maskOf fun i => decide (i < 8) && (c.w.pred i).getLsbD l) ∧
   is (.laneid e d) (.ofLane true e [] (nv d)) (fun l => BitVec.ofNat 32 (if c.la.protect then l / 2 else l)) ∧
   is (.tid e d) (.ofLane true e [] (nv d)) (fun l =>
     BitVec.ofNat 32 (if c.la.protect then 16 * c.w.widx + l / 2 else 32 * c.w.widx + l)))

/-- R117, R118, R119: compares and predicate operations write their predicate in the active lanes; p0 discards the result (R69). -/
def Obligations.LanePredicateResults : Prop :=
  ∀ (s : State) (c : Ctx) (e : LExt) (d : BitVec 3) (a b mask : BitVec 7) (pa pb : BitVec 3) (imm : BitVec 16) (cond : BitVec 3),
  let is (i : Instr) (need : Need) (f : Nat → Prop) : Prop :=
    MayIssue s c need → i.wf = true →
      DidNow s c i need fun _ w _ => ∀ l, l < 32 → ((w.pred d.toNat).getLsbD l = true ↔
        if d ≠ 0 ∧ (c.active e).getLsbD l then f l else (c.w.pred d.toNat).getLsbD l = true)
  (∀ p ∈ ([(.ceq e d a b, 0), (.cne e d a b, 1), (.clt e d a b, 2), (.cge e d a b, 3), (.cltu e d a b, 4), (.cgeu e d a b, 5),
      (.cle e d a b, 6), (.cgt e d a b, 7)] : List (Instr × BitVec 3)),
    is p.1 (.ofLane true e (nv a ++ nv b) (dp d)) fun l => holdsCond p.2 (c.v a l) (c.v b l)) ∧
  (∀ p ∈ ([(.ceqImm e d a imm, 0), (.cneImm e d a imm, 1), (.cltImm e d a imm, 2), (.cgeImm e d a imm, 3), (.cltuImm e d a imm, 4),
      (.cgeuImm e d a imm, 5), (.cleImm e d a imm, 6), (.cgtImm e d a imm, 7)] : List (Instr × BitVec 3)),
    is p.1 (.ofLane true e (nv a) (dp d)) fun l => holdsCond p.2 (c.v a l) (imm.signExtend 32)) ∧
  is (.icmp64 e d a b cond) (.ofLane true e (nvs a 2 ++ nvs b 2) (dp d)) (fun l => holdsCond cond (c.v64 a l) (c.v64 b l)) ∧
  is (.pand e d pa pb) (.ofLane true e (np pa ++ np pb) (dp d)) (fun l => c.p pa l = true ∧ c.p pb l = true) ∧
  is (.por e d pa pb) (.ofLane true e (np pa ++ np pb) (dp d)) (fun l => c.p pa l = true ∨ c.p pb l = true) ∧
  is (.pxor e d pa pb) (.ofLane true e (np pa ++ np pb) (dp d)) (fun l => c.p pa l ≠ c.p pb l) ∧
  is (.pnot e d pa) (.ofLane true e (np pa ++ np pa) (dp d)) (fun l => c.p pa l = false) ∧
  is (.pmov e d pa) (.ofLane true e (np pa ++ np pa) (dp d)) (fun l => c.p pa l = true) ∧
  (MayIssue s c (.ofLane true e (nv a) (((addrs 1 7).filter fun i => mask.getLsbD (i - 1)).map RegName.p)) → (Instr.v2p e a mask).wf = true →
    DidNow s c (.v2p e a mask) (.ofLane true e (nv a) (((addrs 1 7).filter fun i => mask.getLsbD (i - 1)).map RegName.p)) fun _ w _ =>
      ∀ k, 1 ≤ k → k < 8 → ∀ l, l < 32 → (w.pred k).getLsbD l =
        if mask.getLsbD (k - 1) ∧ (c.active e).getLsbD l then (c.v a l).getLsbD k else (c.w.pred k).getLsbD l)

/-- R119, R120: the 64-bit group and the extensions to 64 bits write a pair (R68). -/
def Obligations.LanePairResults : Prop :=
  ∀ (s : State) (c : Ctx) (e : LExt) (d a b : BitVec 7),
  let is (i : Instr) (need : Need) (f : Nat → DWord) : Prop :=
    MayIssue s c need → i.wf = true → DidNow s c i need fun _ w _ => PairsAre c w d.toNat (c.active e) f
  is (.iadd64 e d a b) (.ofLane true e (nvs a 2 ++ nvs b 2) (nvs d 2)) (fun l => c.v64 a l + c.v64 b l) ∧
  is (.isub64 e d a b) (.ofLane true e (nvs a 2 ++ nvs b 2) (nvs d 2)) (fun l => c.v64 a l - c.v64 b l) ∧
  is (.shl64 e d a b) (.ofLane true e (nvs a 2 ++ nv b) (nvs d 2)) (fun l =>
    if (c.v b l).toNat < 64 then BitVec.ofNat 64 ((c.v64 a l).toNat * 2 ^ (c.v b l).toNat) else 0) ∧
  is (.shr64 e d a b) (.ofLane true e (nvs a 2 ++ nv b) (nvs d 2)) (fun l =>
    if (c.v b l).toNat < 64 then BitVec.ofNat 64 ((c.v64 a l).toNat / 2 ^ (c.v b l).toNat) else 0) ∧
  is (.sar64 e d a b) (.ofLane true e (nvs a 2 ++ nv b) (nvs d 2)) (fun l =>
    BitVec.ofInt 64 ((c.v64 a l).toInt / 2 ^ min (c.v b l).toNat 63)) ∧
  is (.mov64 e d a) (.ofLane true e (nvs a 2 ++ nvs a 2) (nvs d 2)) (fun l => c.v64 a l) ∧
  is (.sxtw e d a) (.ofLane true e (nv a) (nvs d 2)) (fun l => BitVec.ofInt 64 (c.v a l).toInt) ∧
  is (.zxtw e d a) (.ofLane true e (nv a) (nvs d 2)) (fun l => BitVec.ofNat 64 (c.v a l).toNat)

/-- R104, R108, R115, R116, R119: products, quotients and remainders come later; at issue their values stand in the flight, and no register
has changed. -/
def Obligations.MultiplyAndDivideResults : Prop :=
  ∀ (s : State) (c : Ctx) (e : LExt) (d a b g : BitVec 7),
  let is (i : Instr) (need : Need) (xs : List Wr) : Prop :=
    MayIssue s c need → i.wf = true → DidLater s c i { need with later := true } .ready false xs
  (∀ p ∈ ([(.imul e d a b, fun x y => x * y), (.imulhi e d a b, fun x y => BitVec.ofInt 32 (x.toInt * y.toInt / 2 ^ 32)),
      (.imulhiu e d a b, fun x y => BitVec.ofNat 32 (x.toNat * y.toNat / 2 ^ 32)),
      (.idiv e d a b, quotOf), (.idivu e d a b, quotUOf), (.irem e d a b, remOf), (.iremu e d a b, remUOf)] :
      List (Instr × (Word → Word → Word))),
    is p.1 (.ofLane true e (nv a ++ nv b) (nv d)) [.v d.toNat (c.active e) (LaneVec.gen fun l => p.2 (c.v a l) (c.v b l))]) ∧
  is (.imad e d a b g) (.ofLane true e (nv a ++ nv b ++ nv g) (nv d))
    [.v d.toNat (c.active e) (LaneVec.gen fun l => c.v a l * c.v b l + c.v g l)] ∧
  is (.imulw e d a b) (.ofLane true e (nv a ++ nv b) (nvs d 2)) (wrPair d (c.active e) fun l => BitVec.ofInt 64 ((c.v a l).toInt * (c.v b l).toInt)) ∧
  is (.imulwu e d a b) (.ofLane true e (nv a ++ nv b) (nvs d 2)) (wrPair d (c.active e) fun l => BitVec.ofNat 64 ((c.v a l).toNat * (c.v b l).toNat)) ∧
  is (.imadw e d a b g) (.ofLane true e (nv a ++ nv b ++ nvs g 2) (nvs d 2)) (wrPair d (c.active e) fun l =>
    BitVec.ofNat 64 ((c.v a l).toNat * (c.v b l).toNat + (c.v64 g l).toNat)) ∧
  is (.imul64 e d a b) (.ofLane true e (nvs a 2 ++ nvs b 2) (nvs d 2)) (wrPair d (c.active e) fun l => c.v64 a l * c.v64 b l)

/-! ## Lane floating point -/

/-- R95, R96, R98, R121, R126: FADD, FSUB, FMUL and FFMA in every format, and FDIV, FSQRT, FRCP and FRSQ in FP64 and FP32: the correctly
rounded results of the operands as flushed, element by element, come later; a reserved rounding code sets WARN's bit 0. That FPSTAT keeps its
value at issue and takes the flags when the result is written is the model's choice (log 65). What the rounded results are, FloatOperationsAreCorrect says. -/
def Obligations.FloatArithmeticResults : Prop :=
  ∀ (s : State) (c : Ctx) (e : LExt) (d a b g : BitVec 7) (rm : BitVec 3),
  let is (srcs : List (BitVec 7)) (op : Fmt → Rm → Bool → List FVal → Nat × FFlags) (is : List (Fk × Instr)) : Prop :=
    ∀ p ∈ is, let n := { Need.ofLane true e (p.1.names srcs) (nvs d p.1.regs) with warn := if 5 ≤ rm.toNat then 1 else 0 }
      MayIssue s c n → p.2.wf = true → DidLater s c p.2 { n with later := true } .ready false
        (p.1.results c d (c.active e) srcs (flushed p.1.fmt (p.1.ftz c.w.fpmode) · (op p.1.fmt (rmOf c.w.fpmode rm) (p.1.ftz c.w.fpmode))))
  is [a, b] (fun f m z => on2 (f.add m z)) [(.f64, .faddF64 e d a b rm), (.f32, .faddF32 e d a b rm), (.f16x2, .faddF16x2 e d a b rm), (.bf16x2, .faddBf16x2 e d a b rm)] ∧
  is [a, b] (fun f m z => on2 fun x y => f.add m z x y.negate) [(.f64, .fsubF64 e d a b rm), (.f32, .fsubF32 e d a b rm), (.f16x2, .fsubF16x2 e d a b rm), (.bf16x2, .fsubBf16x2 e d a b rm)] ∧
  is [a, b] (fun f m z => on2 (f.mul m z)) [(.f64, .fmulF64 e d a b rm), (.f32, .fmulF32 e d a b rm), (.f16x2, .fmulF16x2 e d a b rm), (.bf16x2, .fmulBf16x2 e d a b rm)] ∧
  is [a, b, g] (fun f m z => on3 (f.fma m z)) [(.f64, .ffmaF64 e d a b g rm), (.f32, .ffmaF32 e d a b g rm), (.f16x2, .ffmaF16x2 e d a b g rm), (.bf16x2, .ffmaBf16x2 e d a b g rm)] ∧
  is [a, b] (fun f m z => on2 (f.div m z)) [(.f64, .fdivF64 e d a b rm), (.f32, .fdivF32 e d a b rm)] ∧
  is [a] (fun f m z => on1 (f.sqrt m z)) [(.f64, .fsqrtF64 e d a rm), (.f32, .fsqrtF32 e d a rm)] ∧
  is [a] (fun f m z => on1 (f.div m z FVal.one)) [(.f64, .frcpF64 e d a rm), (.f32, .frcpF32 e d a rm)] ∧
  is [a] (fun f m z => on1 (f.rsqrt m z)) [(.f64, .frsqF64 e d a rm), (.f32, .frsqF32 e d a rm)]

/-- R84, R97, R122, R124: FMIN, FMAX, FABS, FNEG, FFLOOR, FCEIL, FTRUNC and FRINT in every format; a rounding code is ignored by all but FRINT.
FABS and FNEG change the sign bit alone, read no operand through a flush and set no flag. What the integral values are, FloatOperationsAreCorrect says. That the flags reach FPSTAT with the result is the
model's choice (log 65).
R123, R125, R127, R129, R130: FCMP, FCLASS, the FP32 transcendentals and the conversions come later with their flags. Where a
transcendental's result is not exact its value is free within R127's bound, by the model's choice (log 5), and so is that the flags reach FPSTAT
with the result (log 65). -/
def Obligations.FloatSelectionTestAndConversionResults : Prop :=
  (∀ (s : State) (c : Ctx) (e : LExt) (d a b : BitVec 7) (rm : BitVec 3),
   let is (warn : BitVec 8) (srcs : List (BitVec 7)) (op : Fk → List Nat → Nat × FFlags) (is : List (Fk × Instr)) : Prop :=
     ∀ p ∈ is, let n := { Need.ofLane true e (p.1.names srcs) (nvs d p.1.regs) with warn := warn }
       MayIssue s c n → p.2.wf = true → DidLater s c p.2 { n with later := true } .ready false (p.1.results c d (c.active e) srcs (op p.1))
   let values (op : Fmt → List FVal → Nat × FFlags) (k : Fk) (xs : List Nat) : Nat × FFlags :=
     flushed k.fmt (k.ftz c.w.fpmode) xs (op k.fmt)
   let ignored : BitVec 8 := if rm = 0 then 0 else 1
   is ignored [a, b] (values fun f => on2 (f.minmax false))
     [(.f64, .fminF64 e d a b rm), (.f32, .fminF32 e d a b rm), (.f16x2, .fminF16x2 e d a b rm), (.bf16x2, .fminBf16x2 e d a b rm)] ∧
   is ignored [a, b] (values fun f => on2 (f.minmax true))
     [(.f64, .fmaxF64 e d a b rm), (.f32, .fmaxF32 e d a b rm), (.f16x2, .fmaxF16x2 e d a b rm), (.bf16x2, .fmaxBf16x2 e d a b rm)] ∧
   is ignored [a] (fun k xs => (xs.getD 0 0 % 2 ^ (k.fmt.width - 1), 0))
     [(.f64, .fabsF64 e d a rm), (.f32, .fabsF32 e d a rm), (.f16x2, .fabsF16x2 e d a rm), (.bf16x2, .fabsBf16x2 e d a rm)] ∧
   is ignored [a] (fun k xs => (if xs.getD 0 0 < 2 ^ (k.fmt.width - 1) then xs.getD 0 0 + 2 ^ (k.fmt.width - 1) else xs.getD 0 0 - 2 ^ (k.fmt.width - 1), 0))
     [(.f64, .fnegF64 e d a rm), (.f32, .fnegF32 e d a rm), (.f16x2, .fnegF16x2 e d a rm), (.bf16x2, .fnegBf16x2 e d a rm)] ∧
   is ignored [a] (values fun f => on1 (f.integral .d false))
     [(.f64, .ffloorF64 e d a rm), (.f32, .ffloorF32 e d a rm), (.f16x2, .ffloorF16x2 e d a rm), (.bf16x2, .ffloorBf16x2 e d a rm)] ∧
   is ignored [a] (values fun f => on1 (f.integral .u false))
     [(.f64, .fceilF64 e d a rm), (.f32, .fceilF32 e d a rm), (.f16x2, .fceilF16x2 e d a rm), (.bf16x2, .fceilBf16x2 e d a rm)] ∧
   is ignored [a] (values fun f => on1 (f.integral .z false))
     [(.f64, .ftruncF64 e d a rm), (.f32, .ftruncF32 e d a rm), (.f16x2, .ftruncF16x2 e d a rm), (.bf16x2, .ftruncBf16x2 e d a rm)] ∧
   is (if 5 ≤ rm.toNat then 1 else 0) [a] (values fun f => on1 (f.integral (rmOf c.w.fpmode rm) true))
     [(.f64, .frintF64 e d a rm), (.f32, .frintF32 e d a rm), (.f16x2, .frintF16x2 e d a rm), (.bf16x2, .frintBf16x2 e d a rm)]) ∧
  (∀ (s : State) (c : Ctx) (e : LExt) (p : BitVec 3) (d a b : BitVec 7) (cond rm : BitVec 3) (src dst : BitVec 4),
   let is (i : Instr) (n : Need) (xs : List Wr) : Prop :=
     MayIssue s c n → i.wf = true → DidLater s c i { n with later := true } .ready false xs
   let ignored : BitVec 8 := if rm = 0 then 0 else 1
   (∀ i ∈ ([(.f64, .fcmpF64 e p a b cond rm), (.f32, .fcmpF32 e p a b cond rm), (.f16x2, .fcmpF16x2 e p a b cond rm), (.bf16x2, .fcmpBf16x2 e p a b cond rm)] : List (Fk × Instr)),
     let bit (l j : Nat) := flushed i.1.fmt (i.1.ftz c.w.fpmode) (i.1.column c l [a, b] j) (on2 fun x y => ((fcond cond.toNat x y).toNat, snan [x, y]))
     is i.2 { Need.ofLane true e (i.1.names [a, b]) (((addrs p.toNat i.1.count).filter (· != 0)).map RegName.p) with warn := ignored }
       (((List.range i.1.count).map fun j => .p (p.toNat + j) (c.active e) (maskOf fun l => (bit l j).1 == 1)) ++
         orFlags (c.active e) fun l => (List.range i.1.count).foldl (fun f j => f ||| (bit l j).2) 0)) ∧
   (∀ i ∈ ([(.f64, .fclassF64 e d a rm), (.f32, .fclassF32 e d a rm), (.f16x2, .fclassF16x2 e d a rm), (.bf16x2, .fclassBf16x2 e d a rm)] : List (Fk × Instr)),
     is i.2 { Need.ofLane true e (i.1.names [a]) (nv d) with warn := ignored }
       [.v d.toNat (c.active e) (LaneVec.gen fun l =>
         BitVec.ofNat 32 (((i.1.elems c l a).zipIdx.map fun x => 2 ^ (16 * x.2 + i.1.fmt.classBit (i.1.fmt.decode x.1))).sum))]) ∧
   (∀ i ∈ ([(.exp2, .fexp2 e d a), (.log2, .flog2 e d a), (.sinpi, .fsinpi e d a), (.cospi, .fcospi e d a), (.tanh, .ftanh e d a)] :
       List (Tr × Instr)),
     is i.2 (.ofLane true e (nv a) (nv d))
       (Fk.f32.results c d (c.active e) [a] fun xs => i.1.eval (c.w.fpmode.getLsbD 2) (BitVec.ofNat 32 (xs.getD 0 0)))) ∧
   ∀ i ∈ ([(false, .cvt e d a src dst rm), (true, .cvtSat e d a src dst rm)] : List (Bool × Instr)),
     let r (l : Nat) := convert src.toNat dst.toNat (rmOf c.w.fpmode rm) i.1 (c.vw (wide src) a l).toNat
     is i.2 { Need.ofLane true e (nvw a (wide src)) (nvw d (wide dst)) with
         warn := (if cvExact src.toNat dst.toNat then ignored else if 5 ≤ rm.toNat then 1 else 0) |||
           (if i.1 && cvSatFree src.toNat dst.toNat then 4 else 0) }
       (wrW (wide dst) d (c.active e) (fun l => cvtPack dst (r l).1) ++ orFlags (c.active e) fun l => (r l).2))

/-- R97: a NaN operand of a sum, product or quotient gives the canonical NaN, and a signalling one sets NV; the invalid operations give it and
set NV; a finite value other than 0 divided by zero gives a signed infinity and sets DZ. FMIN and FMAX give the operand that is no NaN and take −0
as less than +0; of a NaN operand only NE and UNORD hold. -/
def Obligations.SpecialOperandResults : Prop :=
  ∀ (f : Fmt) (rm : Rm) (z : Bool) (a b g : FVal) (u v : Bool) (m : Nat) (e e' : Int),
  (a.isNan = true ∨ b.isNan = true → f.add rm z a b = (f.nan, if a.isSnan || b.isSnan then 1 else 0) ∧
    f.mul rm z a b = (f.nan, if a.isSnan || b.isSnan then 1 else 0) ∧ f.div rm z a b = (f.nan, if a.isSnan || b.isSnan then 1 else 0)) ∧
  f.add rm z (.inf u) (.inf !u) = (f.nan, 1) ∧
  f.mul rm z (.fin u 0 e) (.inf v) = (f.nan, 1) ∧ f.mul rm z (.inf v) (.fin u 0 e) = (f.nan, 1) ∧
  (f.fma rm z (.fin u 0 e) (.inf v) g).1 = f.nan ∧ (f.fma rm z (.fin u 0 e) (.inf v) g).2 &&& 1 = 1 ∧
  f.div rm z (.fin u 0 e) (.fin v 0 e') = (f.nan, 1) ∧ f.div rm z (.inf u) (.inf v) = (f.nan, 1) ∧
  (m ≠ 0 → f.div rm z (.fin u m e) (.fin v 0 e') = (f.inf (u != v), 2)) ∧
  (m ≠ 0 → f.sqrt rm z (.fin true m e) = (f.nan, 1)) ∧ f.sqrt rm z (.inf true) = (f.nan, 1) ∧
  (a.isNan = true → b.isNan = true → f.minmax u a b = (f.nan, if a.isSnan || b.isSnan then 1 else 0)) ∧
  (a.isNan = true → b.isNan = false → f.minmax u a b = (f.encode b, if a.isSnan then 1 else 0) ∧
    f.minmax u b a = (f.encode b, if a.isSnan then 1 else 0)) ∧
  f.minmax u (.fin true 0 e) (.fin false 0 e') = (f.sign (!u), 0) ∧
  f.minmax u (.fin false 0 e) (.fin true 0 e') = (f.sign (!u), 0) ∧
  (a.isNan = true → ∀ k, k < 8 → fcond k a b = decide (k = 1 ∨ k = 6) ∧ fcond k b a = decide (k = 1 ∨ k = 6))

/-- R87, R94, R96: the model's rounding is the one that R94 names. The value is m × 2^e, or, where something is left over below the last bit of m, one that lies between
m × 2^e and (m + 1) × 2^e, m having more bits than the format keeps. A pattern that is no NaN is what its value encodes to. -/
def Obligations.RoundingIsCorrect : Prop :=
  ∀ f ∈ [fmt64, fmt32, fmt16, fmtB16, fmtE4M3, fmtE5M2],
  (∀ (rm : Rm) (z neg st : Bool) (m : Nat) (e : Int) (v : ℝ), m ≠ 0 →
    (st = false → v = m * (2 : ℝ) ^ e) → (st = true → f.frac < Nat.log2 m ∧ m * (2 : ℝ) ^ e < v ∧ v < (m + 1) * (2 : ℝ) ^ e) →
    f.Rounds rm z neg v (f.round rm z neg m e st)) ∧
  ∀ x, x < 2 ^ f.width → (f.decode x).isNan = false → f.encode (f.decode x) = x

/-- R93, R95, R97, R100, R102, R121, R124, R126, R129: of finite operands the sum, the product, the product with a term added, the quotient, the square root and its reciprocal
are the exact result rounded once, an exact zero has R121's sign, and order is that of the values; FFLOOR to FRINT give the integer that their mode names; a conversion to a float format rounds
the source's value once, one to an integer gives the integer or, out of range, the format's bound and NV, and one to DS8 gives a nearest value, of two the smaller, or one next to it. -/
def Obligations.FloatOperationsAreCorrect : Prop :=
  ∀ f ∈ [fmt64, fmt32, fmt16, fmtB16, fmtE4M3, fmtE5M2], ∀ (rm : Rm) (z s t u : Bool) (m n k : Nat) (e g h : Int),
  let a : FVal := .fin s m e
  let b : FVal := .fin t n g
  let d : FVal := .fin u k h
  let rounds (v : ℚ) (zero : Bool) (r : Nat × FFlags) : Prop :=
    (v ≠ 0 → f.Rounds rm z (decide (v < 0)) ((|v| : ℚ) : ℝ) r) ∧ (v = 0 → r = (f.sign zero, 0))
  let down := rm == .d
  rounds (a.val + b.val) (if m = 0 ∧ n = 0 ∧ s = t then s else down) (f.add rm z a b) ∧
  rounds (a.val * b.val) (s != t) (f.mul rm z a b) ∧
  rounds (a.val * b.val + d.val) (if m * n = 0 ∧ k = 0 ∧ (s != t) = u then u else down) (f.fma rm z a b d) ∧
  (n ≠ 0 → rounds (a.val / b.val) (s != t) (f.div rm z a b)) ∧
  (m ≠ 0 → f.Rounds rm z false (Real.sqrt (m * (2 : ℝ) ^ e)) (f.sqrt rm z (.fin false m e)) ∧
    f.Rounds rm z false (1 / Real.sqrt (m * (2 : ℝ) ^ e)) (f.rsqrt rm z (.fin false m e))) ∧
  f.sqrt rm z (.fin s 0 e) = (f.sign s, 0) ∧ f.rsqrt rm z (.fin s 0 e) = (f.inf s, dzF) ∧
  (FVal.lt false a b = true ↔ a.val < b.val) ∧ (FVal.mul a b).val = a.val * b.val ∧
  (∀ xs : List FVal, (∀ x ∈ xs, x.special = false) → (FVal.sum xs).special = false ∧ (FVal.sum xs).val = (xs.map FVal.val).sum) ∧
  (∀ nx : Bool, f.ieee = true → m < 2 ^ (f.frac + 1) → f.emin - f.frac ≤ e → e + f.frac ≤ f.emax →
    ∃ i, rm.RoundsInt s a.mag i ∧ f.mag (f.integral rm nx a).1 = i ∧ (f.decode (f.integral rm nx a).1).neg = s ∧
      (f.integral rm nx a).2 = if nx = true ∧ (i : ℚ) ≠ a.mag then nxF else 0) ∧
  ∀ (src dst x : Nat) (sat : Bool), (cvRead (cvOf src) x).1 = a →
    let r := convert src dst rm sat x
    let wraps := convert src dst rm false x
    (cvOf dst = .flt f → (m ≠ 0 → f.Rounds rm false s (a.mag : ℝ) wraps) ∧ (m = 0 → wraps = (f.sign s, 0)) ∧
      r = if sat && !cvSatFree src dst && wraps.2.getLsbD 2 then (f.maxFin s, wraps.2) else wraps) ∧
    (∀ (w : Nat) (signed : Bool), src < 7 → cvOf dst = .int w signed → ∃ i, rm.RoundsInt s a.mag i ∧
      let y : Int := if s then -(i : Int) else i
      let lo : Int := if signed then -2 ^ (w - 1) else 0
      let hi : Int := if signed then 2 ^ (w - 1) - 1 else 2 ^ w - 1
      (lo ≤ y → y ≤ hi → r = ((y % 2 ^ w).toNat, if (i : ℚ) = a.mag then 0 else nxF)) ∧
      (y < lo → r = (((if sat || signed then lo else hi) % 2 ^ w).toNat, nvF)) ∧ (hi < y → r = (((if sat || !signed then hi else lo) % 2 ^ w).toNat, nvF))) ∧
    (cvOf dst = .ds8 → (2 < a.mag → r = (if s then 0x88 else 0x00, ofF ||| nxF)) ∧
      (a.mag ≤ 2 → let y := ds8Val r.1
        (y.val = 0 → r.1 = 0x77) ∧ (y.val ≠ 0 → y.neg = s) ∧ (r.2 = if y.mag = a.mag then 0 else nxF) ∧
        ∀ c, c < 256 → let o := (ds8Val c).mag
          (rm = .ne → |y.mag - a.mag| ≤ |o - a.mag| ∧ (|y.mag - a.mag| = |o - a.mag| → y.mag ≤ o)) ∧
          (rm ≠ .ne → rm.toward s = true → y.mag ≤ a.mag ∧ (o ≤ a.mag → o ≤ y.mag)) ∧
          (rm ≠ .ne → rm.toward s = false → a.mag ≤ y.mag ∧ (a.mag ≤ o → y.mag ≤ o))))

/-! ## Lane exchange and irregular work -/

/-- R212, R214, R217, R218, R219, R220: shuffles, broadcasts, votes and the line gather read from participants alone; a lane without a source
receives its entry's fallback. GATHG and VOTE complete so where their own trap conditions (R214, R220, R315) are not met. -/
def Obligations.ShuffleVoteAndGatherResults : Prop :=
  ∀ (s : State) (c : Ctx) (e : LExt) (d a b : BitVec 7) (pick : BitVec 5) (i w64 first sg : Bool) (p : BitVec 3) (mode w : BitVec 2),
  let is (j : Instr) (n : Need) (xs : List Wr) : Prop :=
    MayIssue s c n → j.wf = true → DidLater s c j { n with later := true } .ready false xs
  let t := c.active e
  let own (l : Nat) : DWord := c.vw w64 a l
  let sent (l : Nat) (j : Int) : DWord := ((c.peer t l j).map fun k => c.vw w64 a k).getD (own l)
  let sel (l : Nat) : Nat := if i then pick.toNat else (c.v b l).toNat
  let at_ (l : Nat) : Nat := laneNo c.la l
  (∀ q ∈ ([(.shfl e d a b pick i w64, fun l => sent l (sel l)), (.shflx e d a b pick i w64, fun l => sent l ((at_ l ^^^ sel l : Nat) : Int)),
      (.shflup e d a b pick i w64, fun l => sent l ((at_ l : Int) - sel l)), (.shfldn e d a b pick i w64, fun l => sent l ((at_ l : Int) + sel l))] :
      List (Instr × (Nat → DWord))),
    is q.1 (.ofLane true e (nvw a w64 ++ (if i then [] else nv b)) (nvw d w64)) (wrW w64 d t q.2)) ∧
  is (.bcast e d a pick w64 first) (.ofLane true e (nvw a w64) (nvw d w64)) (wrW w64 d t fun l =>
    if first then c.vw w64 a (((c.peers t l).head?).getD l) else sent l pick.toNat) ∧
  ((c.shadow t fun x y => c.p p x == c.p p y) = none →
    let dst : BitVec 3 := d.extractLsb' 0 3
    is (.vote e d p mode) (.ofLane true e (np p) (if mode = 3 then nv d else dp dst)) (match mode.toNat with
      | 0 => wrP dst t fun l => (c.peers t l).any fun j => c.p p j
      | 1 => wrP dst t fun l => (c.peers t l).all fun j => c.p p j
      | 2 => wrP dst t fun l => (c.peers t l).all (fun j => c.p p j) || (c.peers t l).all fun j => !c.p p j
      | _ => wrV d t fun l => maskOf fun n => (c.peer t l n).any fun j => c.p p j)) ∧
  ((∀ l, l < 32 → t.getLsbD l = true → (c.v b l).toNat < 128 → (c.v b l).toNat % 2 ^ w.toNat = 0) →
    let o (l : Nat) : Nat := (c.v b l).toNat
    let h (l : Nat) : Nat := l / 8 * 8 + o l / 16
    let byte (l k : Nat) : Byte := (c.w.lane (a.toNat + k / 4) (h l)).extractLsb' (8 * (k % 4)) 8
    let n := { Need.ofLane true e (nvs a 4 ++ nv b) (nvw d (w == 3)) with badLaunch := fun la => la.protect }
    is (.gathg e d a b w sg) n (wrW (w == 3) d (maskOf fun l => t.getLsbD l && decide (o l < 128) && t.getLsbD (h l)) fun l =>
      let x := leNat ((addrs (o l % 16) (2 ^ w.toNat)).map (byte l))
      if sg then (BitVec.ofNat (8 * 2 ^ w.toNat) x).signExtend 64 else BitVec.ofNat 64 x))

/-- R222, R223: reductions and scans over the participants: wrapped sums, the least and the greatest value, and the fixed tree of the
floating-point forms, whose flags reach FPSTAT with the result, by the model's choice (log 65). -/
def Obligations.ReductionAndScanResults : Prop :=
  ∀ (s : State) (c : Ctx) (e : LExt) (d a : BitVec 7) (w64 un : Bool),
  let is (j : Instr) (n : Need) (xs : List Wr) : Prop :=
    MayIssue s c n → j.wf = true → DidLater s c j { n with later := true } .ready false xs
  let t := c.active e
  let n := Need.ofLane true e (nvw a w64) (nvw d w64)
  let val (j : Nat) : DWord := c.vw w64 a j
  let sum (js : List Nat) : DWord := BitVec.ofNat 64 ((js.map fun j => (val j).toNat).sum)
  is (.redadd e d a w64) n (wrW w64 d t fun l => sum (c.peers t l)) ∧
  is (.scan e d a w64) n (wrW w64 d t fun l => sum ((c.peers t l).filter (· ≤ l))) ∧
  is (.scanx e d a w64) n (wrW w64 d t fun l => sum ((c.peers t l).filter (· < l))) ∧
  (∀ q ∈ ([(.redmin e d a w64 un, fun x y => redLt w64 un x y), (.redmax e d a w64 un, fun x y => redLt w64 un y x)] :
      List (Instr × (DWord → DWord → Bool))),
    is q.1 n (wrW w64 d t fun l => leastOf q.2 ((c.peers t l).map fun j => (j, val j)))) ∧
  (∀ q ∈ ([(fmt32, false, .redaddF32 e d a), (fmt64, false, .redaddF64 e d a), (fmt32, true, .scanF32 e d a)] : List (Fmt × Bool × Instr)),
    let wide := q.1.width == 64
    let r (l : Nat) := c.treeSum q.1 (!wide && c.w.fpmode.getLsbD 2) a ((c.peers t l).filter fun j => !q.2.1 || decide (j ≤ l))
    is q.2.2 (.ofLane true e (nvw a wide) (nvw d wide)) (wrW wide d t (fun l => BitVec.ofNat 64 (r l).1) ++ orFlags t fun l => (r l).2)) ∧
  ∀ (xs : List (Nat × DWord)) (lt : DWord → DWord → Bool), (lt = redLt w64 un ∨ lt = fun x y => redLt w64 un y x) → xs ≠ [] →
    (∃ x ∈ xs, leastOf lt xs = x.2) ∧ ∀ x ∈ xs, lt x.2 (leastOf lt xs) = false

/-- R225 to R231: CONFL, REBAL, COMPACT, EXPAND and the merges. -/
def Obligations.IrregularWorkResults : Prop :=
  ∀ (s : State) (c : Ctx) (e : LExt) (d a b : BitVec 7) (w64 : Bool) (px py pe pc : BitVec 3),
  let is (j : Instr) (n : Need) (xs : List Wr) : Prop :=
    MayIssue s c n → j.wf = true → DidLater s c j { n with later := true } .ready false xs
  let t := c.active e
  let rank (l : Nat) (P : Nat → Bool) : Nat := ((c.peers t l).filter fun j => decide (j < l) && P j).length
  is (.confl e d a w64) (.ofLane true e (nvw a w64) (nv d)) (wrV d t fun l =>
    maskOf fun n => (c.peer t l n).any fun j => decide (j < l) && c.vw w64 a j == c.vw w64 a l) ∧
  is (.rebal e d a b) (.ofLane true e (nv a ++ nv b) (nvs d 2)) (wrPair d t fun l =>
    let start (j : Nat) : Nat := (((c.peers t l).filter (· < j)).map fun i => (c.v a i).toNat).sum
    match (c.peers t l).find? fun j => decide (start j ≤ (c.v b l).toNat) && decide ((c.v b l).toNat < start j + (c.v a j).toNat) with
    | some j => pairOf (BitVec.ofNat 32 (laneNo c.la j)) (BitVec.ofNat 32 ((c.v b l).toNat - start j))
    | none => pairOf 0xFFFFFFFF 0xFFFFFFFF) ∧
  is (.compact e d a pc w64) (.ofLane true e (nvw a w64 ++ np pc) (nvw d w64))
    (let src (l : Nat) := ((c.peers t l).filter (c.p pc))[rank l fun _ => true]?
     wrW w64 d (t &&& maskOf fun l => (src l).isSome) fun l => c.vw w64 a ((src l).getD l)) ∧
  is (.expand e d a pc w64) (.ofLane true e (nvw a w64 ++ np pc) (nvw d w64))
    (wrW w64 d (t &&& maskOf (c.p pc)) fun l => c.vw w64 a (((c.peers t l)[rank l (c.p pc)]?).getD l)) ∧
  ∀ q ∈ ([(true, .mrgu e d a b px py pe), (false, .mrgi e d a b px py pe)] : List (Bool × Instr)),
    let lst (l : Nat) (v : BitVec 7) (p : BitVec 3) := ((c.peers t l).filter (c.p p)).map fun j => (laneNo c.la j, c.v v j)
    let size (l : Nat) : Nat := (c.peers t l).length
    let m (l : Nat) := mergeKeys q.1 (decide ((lst l a px).length < size l)) (decide ((lst l b py).length < size l)) (size l) 65
      (lst l a px) (lst l b py) [] 0 0
    let out (l : Nat) := (m l).1[rank l fun _ => true]?
    is q.2 (.ofLane true e (nv a ++ nv b ++ np px ++ np py) (nvs d 2 ++ dp pe))
      (wrV d t (fun l => ((out l).map Merged.key).getD 0) ++
        [.v (d.toNat + 1) t (LaneVec.gen fun l => selectorWord (m l).2.1 (m l).2.2 (out l))] ++ wrP pe t fun l => (out l).isSome)

/-! ## Vault memory -/

/-- R50, R151, R153, R154, R193: a load whose addresses lie in vaults that its EAs name and are aligned, whose granules are not poisoned, and
whose bytes no undrained atomic of the strand holds, issues: the reads of its active lanes are still to be made, each a step of its own, in the
own vault or another core's, and no register has changed. Without an active lane its result is there at once and writes nothing.
R50, R193, R313: each read of an issued load, lane or uniform, is a step that its vault makes once no undrained atomic of the strand holds
the bytes and, in another vault, the core's earlier reads of that vault are made: it returns the bytes as the strand sees them then; the last
one makes the result, whose lanes or uniform register take their bytes extended. A read of a poisoned granule ends the load with no write, the WARN
bits that it alone has set are clear again (R8, R86, the model's reading of a trap after issue: log 101), and the wave's trap is due; one that was due already stands (the model's reading, log 70). -/
def Obligations.VaultLoadResults : Prop :=
  (∀ (s : State) (c : Ctx) (e : LExt) (d a : BitVec 7) (o : Sys2Proof.Ordering) (off : BitVec 16),
   let ls := lanesOf (c.active e)
   let es := c.w.visible c.r.key c.w.issued
   let is (i : Instr) (width regs : Nat) (sx poll : Bool) (ea : Nat → Word) (at_ : Nat → Nat) (align : Nat) : Prop :=
     let n := { Need.ofLane true e (nv a) (nvs d regs) with later := true, mem := true, warn := warnRead o poll }
     let va (l : Nat) : Nat := (s.vaultEA c.co c.la (ea l) false).getD 0 + at_ l
     MayIssue s c n → i.wf = true → s.relWait c o = false →
     (∀ l ∈ ls, (s.vaultEA c.co c.la (ea l) false).isSome = true ∧ (ea l).toNat % align = 0) →
     (∀ l ∈ ls, atomicBusy es (va l) width = false ∧ s.poisonedV (va l) width = false) →
     if ls = [] then DidLater s c i n .ready false ((List.range regs).map fun k => .v (d.toNat + k) 0 (LaneVec.gen fun _ => 0))
     else DidLater s c i n (.reading ⟨s.tick, ls.map fun l => (l, va l, ea l), [], width, d.toNat, regs, sx, false, false, o.acq || o.rel, false,
       [], o.scope⟩) (o.acq || o.rel) []
   let ea (l : Nat) : Word := eaOf (c.v a l) off
   is (.vldB e d a o off) 1 1 false true ea (fun _ => 0) 1 ∧ is (.vldBs e d a o off) 1 1 true true ea (fun _ => 0) 1 ∧
   is (.vldH e d a o off) 2 1 false true ea (fun _ => 0) 2 ∧ is (.vldHs e d a o off) 2 1 true true ea (fun _ => 0) 2 ∧
   is (.vldW e d a o off) 4 1 false true ea (fun _ => 0) 4 ∧ is (.vldD e d a o off) 8 2 false true ea (fun _ => 0) 8 ∧
   is (.vldQ e d a o off) 16 4 false true ea (fun _ => 0) 16 ∧
   is (.vldl e d a o off) 16 4 false false (fun l => ea ((ls.find? fun j => j / 8 == l / 8).getD l)) (fun l => 16 * (l % 8)) 128) ∧
  ((∀ (s : State) (c : Ctx), s.ctxAt c.slot c.entry = some c → ∀ k f q j a, c.r.flights[k]? = some f → f.state = .reading q → q.clear = false →
     q.todo[j]? = some a →
     let es := c.w.visible c.r.key f.num
     let i : Instr := .remoteVaultRead c.slot c.entry k j
     (¬ MayRead s c q es j a.2.1 → Disabled s i "REMOTE_VAULT_READ") ∧
     (MayRead s c q es j a.2.1 → s.poisonedV a.2.1 q.width = false →
       ∃ t, exec i s = .next t ∧ ReadPerformed s s t c k f { q with todo := q.todo.eraseIdx j, got := q.got ++ [(a.1, s.loadBytes es a.2.1 q.width)] }) ∧
     (MayRead s c q es j a.2.1 → s.poisonedV a.2.1 q.width = true → c.w.alive = true → ∃ t w p, exec i s = .next t ∧ WaveIs (s.refresh q.cleared) t c.slot w ∧
       w = { (c.w.setRun c.entry { c.r with flights := c.r.flights.set k { f with state := .done } }).unwarn f.num with due := some p } ∧
       (∀ b, b < 8 → w.warn.getLsbD b = (c.w.warn.getLsbD b && !(c.w.warnBy.find b == some f.num))) ∧
       (c.w.due = none → p.cause = .eccUncorrectable ∧ p.addr = a.2.2.setWidth 64 ∧ p.pc = BitVec.ofNat 48 f.recPc) ∧
       (∀ x, c.w.due = some x → p = x))) ∧
   ∀ (got : List (Nat × List Byte)) (d regs : Nat) (sx : Bool), (got.map (·.1)).Nodup →
     (∀ bs, got = [(0, bs)] → readWrites d 1 sx true false (collected got) = [.s d (extend 64 sx bs)]) ∧
     (readWrites d regs sx false false (collected got)).length = regs ∧
     ∀ k, k < regs → ∃ m x, (readWrites d regs sx false false (collected got))[k]? = some (.v (d + k) m x) ∧ ∀ l, l < 32 →
       (m.getLsbD l = true ↔ ∃ bs, (l, bs) ∈ got) ∧ ∀ bs, (l, bs) ∈ got → x.at l = (extend (32 * regs) sx bs).extractLsb' (32 * k) 32)

/-- R48, R70, R151, R155, R164: a store enters the store buffer with the bytes of its active lanes, one after another, at the addresses that its
EAs name, or nothing where none is active; memory changes when the entry drains, not before. In a protected launch the copies of a lane agree and one of them stores (R314), which is the model's reading (log 12).
SSTV is one store of the low bytes of sB.
R156, R165: an atomic enters the store buffer with the operands of its lanes, and its value exists once the entry has drained; without an active
lane nothing enters it (R70). In a protected launch the copies of a lane agree and one of them acts (R314), which is the model's reading (log 12). -/
def Obligations.VaultStoreAndAtomicResults : Prop :=
  (∀ (s : State) (c : Ctx) (e : LExt) (u : UExt) (a b : BitVec 7) (ra rb : BitVec 6) (w : BitVec 2) (o : Sys2Proof.Ordering) (off : BitVec 16)
     (off20 : BitVec 20),
   let ls := lanesOf (c.active e)
   let leads := acting c (c.active e)
   let ea (l : Nat) : Word := eaOf (c.v a l) off
   let va (x : Word) : Nat := (s.vaultEA c.co c.la x true).getD 0
   let bytes (l width : Nat) : List Byte := ((addrs b.toNat 4).flatMap fun k => leBytes 4 (c.w.lane k l).toNat).take width
   (∀ q ∈ ([(1, 1, .vstB e a b o off), (2, 1, .vstH e a b o off), (4, 1, .vstW e a b o off), (8, 2, .vstD e a b o off), (16, 4, .vstQ e a b o off)] :
       List (Nat × Nat × Instr)),
     let n := { Need.ofLane true e (nv a ++ nvs b q.2.1) [] with mem := true, warn := warnWrite o }
     MayIssue s c n → q.2.2.wf = true → Paired c (c.active e) (fun i j => ea i = ea j ∧ bytes i q.1 = bytes j q.1) →
     (leads ≠ [] → c.w.canTake c.r.key = true) →
     (∀ l ∈ ls, (s.vaultEA c.co c.la (ea l) true).isSome = true ∧ (ea l).toNat % q.1 = 0) →
     DidBuffer s c q.2.2 n (leads ≠ []) (.vst q.1 (leads.flatMap fun l => (addrs (va (ea l)) q.1).zip (bytes l q.1)) none) (writeMarks o) [] (acqWait c o)) ∧
   (let n := { Need.ofUni true u (ns ra ++ ns rb) [] with mem := true, warn := warnWrite o }
    let x := eaUni (c.s ra) off20
    MayIssue s c n → (Instr.sstv u ra rb w o off20).wf = true → c.w.canTake c.r.key = true →
    (s.vaultEA c.co c.la x true).isSome = true → x.toNat % 2 ^ w.toNat = 0 →
    DidBuffer s c (.sstv u ra rb w o off20) n True (.vst (2 ^ w.toNat) ((addrs (va x) (2 ^ w.toNat)).zip (leBytes (2 ^ w.toNat) (c.s rb).toNat)) none)
      (writeMarks o) [] (acqWait c o))) ∧
  (∀ (s : State) (c : Ctx) (e : LExt) (u : UExt) (d a b : BitVec 7) (rd ra rb : BitVec 6) (w : BitVec 2) (o : Sys2Proof.Ordering) (w64 un : Bool),
   let ls := lanesOf (c.active e)
   let leads := acting c (c.active e)
   let va (x : Word) : Nat := (s.vaultEA c.co c.la x true).getD 0
   let opnd (wide : Bool) (k l : Nat) : DWord := if wide then c.w.pair (b.toNat + 2 * k) l else (c.w.lane (b.toNat + k) l).zeroExtend 64
   let good (x : Word) (width : Nat) : Prop :=
     (s.vaultEA c.co c.la x true).isSome = true ∧ x.toNat % width = 0 ∧ s.poisonedV ((s.vaultEA c.co c.la x false).getD 0) width = false
   (∀ q ∈ ([(.add, .vatomAdd e d a b o w64 un), (.min, .vatomMin e d a b o w64 un), (.max, .vatomMax e d a b o w64 un),
       (.and, .vatomAnd e d a b o w64 un), (.or, .vatomOr e d a b o w64 un), (.xor, .vatomXor e d a b o w64 un),
       (.xchg, .vatomXchg e d a b o w64 un), (.cas, .vatomCas e d a b o w64 un)] : List (AtomOp × Instr)),
     let regs := (if q.1 = .cas then 2 else 1) * (if w64 then 2 else 1)
     let opnds (l : Nat) : DWord × DWord := if q.1 = .cas then (opnd w64 1 l, opnd w64 0 l) else (opnd w64 0 l, 0)
     let n := { Need.ofLane true e (nv a ++ nvs b regs) (nvw d w64) with later := true, mem := true, warn := warnBoth o }
     MayIssue s c n → q.2.wf = true → Paired c (c.active e) (fun i j => c.v a i = c.v a j ∧ opnds i = opnds j) →
     (leads ≠ [] → c.w.canTake c.r.key = true) → (∀ l ∈ ls, good (c.v a l) (if w64 then 8 else 4)) →
     DidBuffer s c q.2 n (leads ≠ []) (.vatom q.1 w64 un (leads.map fun l => ⟨l, va (c.v a l), c.v a l, (opnds l).1, (opnds l).2⟩) d.toNat false) (marksOf o) [n.flight c (.drain c.w.nextId) [] o.acq] id) ∧
   (∀ q ∈ ([(.add, .satomvAdd u rd ra rb w o un), (.min, .satomvMin u rd ra rb w o un), (.max, .satomvMax u rd ra rb w o un),
       (.and, .satomvAnd u rd ra rb w o un), (.or, .satomvOr u rd ra rb w o un), (.xor, .satomvXor u rd ra rb w o un),
       (.xchg, .satomvXchg u rd ra rb w o un)] : List (AtomOp × Instr)),
     let n := { Need.ofUni true u (ns ra ++ ns rb) (ns rd) with later := true, mem := true, warn := warnBoth o }
     MayIssue s c n → q.2.wf = true → c.w.canTake c.r.key = true → good (loWord (c.s ra)) (if w = 3 then 8 else 4) →
     DidBuffer s c q.2 n True (.vatom q.1 (w == 3) un [⟨0, va (loWord (c.s ra)), loWord (c.s ra), c.s rb, 0⟩] rd.toNat true) (marksOf o)
       [n.flight c (.drain c.w.nextId) [] o.acq] id) ∧
   (let n := { Need.ofUni true u (ns ra ++ (ns rb ++ ns (rb + 1))) (ns rd) with later := true, mem := true, warn := warnBoth o }
    MayIssue s c n → (Instr.scasv u rd ra rb w o).wf = true → c.w.canTake c.r.key = true → good (loWord (c.s ra)) (if w = 3 then 8 else 4) →
    DidBuffer s c (.scasv u rd ra rb w o) n True (.vatom .cas (w == 3) false [⟨0, va (loWord (c.s ra)), loWord (c.s ra), c.s (rb + 1), c.s rb⟩] rd.toNat true) (marksOf o)
      [n.flight c (.drain c.w.nextId) [] o.acq] id))

/-- R150, R157, R163, R164, R314: SLOTRD of every set of active lanes issues with one read for each lane, or for each pair of a protected launch, of the
16 bytes of the slot that it names; each read is a step that returns the slot as it stands then and clears its FRESH bit in that step, so that a
later read of the same slot finds FRESH clear, and reads of one slot of the own vault go in ascending lane order. At a poisoned slot the instruction
traps with FRESH set again where it had cleared it (R8, R313). One read for each pair with its bytes going to both lanes is the model's reading
(log 12), and so is the undoing (log 101). SLDK reads the argument block, and
SLDV issues the read of a vault word, zero-extended. -/
def Obligations.SlotAndUniformLoadResults : Prop :=
  ∀ (s : State) (c : Ctx) (e : LExt) (u : UExt) (d a : BitVec 7) (rd ra : BitVec 6) (w : BitVec 2) (o : Sys2Proof.Ordering) (off : BitVec 16)
    (off12 : BitVec 12) (off20 : BitVec 20),
  let es := c.w.visible c.r.key c.w.issued
  let acq := o.acq || o.rel
  (let n := { Need.ofLane true e (nv a) (nvs d 4) with later := true, mem := true, warn := warnRead o true }
   let ea (l : Nat) : Word := eaOf (c.v a l) off
   let va (l : Nat) : Nat := (s.vaultEA c.co c.la (ea l) false).getD 0
   let ls := lanesOf (c.active e)
   let acting := ls.filter fun l => !c.la.protect || l % 2 == 0
   MayIssue s c n → (Instr.slotrd e d a o off).wf = true → c.shadow (c.active e) (fun i j => ea i == ea j) = none → s.relWait c o = false →
   (∀ l ∈ ls, (s.vaultEA c.co c.la (ea l) true).isSome = true ∧ (ea l).toNat % 16 = 0) →
   (∀ l ∈ acting, entryBusy es (va l) 16 = false ∧ s.poisonedV (va l) 16 = false) →
   if acting = [] then DidLater s c (.slotrd e d a o off) n .ready false ((List.range 4).map fun k => .v (d.toNat + k) 0 (LaneVec.gen fun _ => 0))
   else DidLater s c (.slotrd e d a o off) n
     (.reading ⟨s.tick, acting.map fun l => (l, va l, ea l), [], 16, d.toNat, 4, false, false, false, acq, true, [], o.scope⟩) acq []) ∧
  (s.ctxAt c.slot c.entry = some c → ∀ k f q j b, c.r.flights[k]? = some f → f.state = .reading q → q.clear = true → q.todo[j]? = some b →
   let seen := c.w.visible c.r.key f.num
   let i : Instr := .remoteVaultRead c.slot c.entry k j
   let bytes := s.loadBytes seen b.2.1 q.width
   let v := s.vaultWrite [(b.2.1 + 14, s.vaultByte (b.2.1 + 14) &&& 0xFE)]
   (¬ MayRead s c q seen j b.2.1 → Disabled s i "REMOTE_VAULT_READ") ∧
   (MayRead s c q seen j b.2.1 → s.poisonedV b.2.1 q.width = false → ∃ t, exec i s = .next t ∧ ReadPerformed s v t c k f { q with
     todo := q.todo.eraseIdx j, got := q.got ++ (if c.la.protect then [(b.1, bytes), (b.1 + 1, bytes)] else [(b.1, bytes)]),
     cleared := q.cleared ++ if (s.vaultByte (b.2.1 + 14)).getLsbD 0 = true then [b.2.1 + 14] else [] }) ∧
   (MayRead s c q seen j b.2.1 → s.poisonedV b.2.1 q.width = true → c.w.alive = true → ∃ t w p, exec i s = .next t ∧
     WaveIs (s.refresh q.cleared) t c.slot w ∧
     w = { (c.w.setRun c.entry { c.r with flights := c.r.flights.set k { f with state := .done } }).unwarn f.num with due := some p } ∧
     (c.w.due = none → p.cause = .eccUncorrectable ∧ p.addr = b.2.2.setWidth 64)) ∧
   (s.inWindow (b.2.1 + 14) = true → (s.refresh [b.2.1 + 14]).vaultByte (b.2.1 + 14) = s.vaultByte (b.2.1 + 14) ||| 1) ∧
   (s.inWindow (b.2.1 + 14) = true → v.vaultByte (b.2.1 + 14) = s.vaultByte (b.2.1 + 14) &&& 0xFE)) ∧
  (off12.toNat % 8 = 0 → MayIssue s c (.ofUni true u [] (ns rd)) → (Instr.sldk u rd off12).wf = true →
   DidLater s c (.sldk u rd off12) { Need.ofUni true u [] (ns rd) with later := true } .ready false
     [.s rd.toNat (BitVec.ofNat 64 (leNat ((addrs off12.toNat 8).map fun k => if k < c.la.argsz then c.la.args.getD k 0 else 0)))]) ∧
  (let n := { Need.ofUni true u (ns ra) (ns rd) with later := true, mem := true, warn := warnRead o true }
   let x := eaUni (c.s ra) off20
   let va := (s.vaultEA c.co c.la x false).getD 0
   MayIssue s c n → (Instr.sldv u rd ra w o off20).wf = true → s.relWait c o = false → (s.vaultEA c.co c.la x false).isSome = true →
   x.toNat % 2 ^ w.toNat = 0 → atomicBusy es va (2 ^ w.toNat) = false → s.poisonedV va (2 ^ w.toNat) = false →
   DidLater s c (.sldv u rd ra w o off20) n
     (.reading ⟨s.tick, [(0, va, x)], [], 2 ^ w.toNat, rd.toNat, 1, false, true, false, acq, false, [], o.scope⟩) acq [])

/-! ## Uniform arithmetic -/

/-- R167: each uniform operation, with a register and with a sign-extended immediate, writes its table's value at issue.
R104, R167: the uniform multiplications and divisions; a divisor of 0 gives all ones or the dividend, and no trap. -/
def Obligations.UniformIntegerResults : Prop :=
  (∀ (s : State) (c : Ctx) (e : UExt) (d a b : BitVec 6) (imm : BitVec 28),
   let is (i : Instr) (n : Need) (x : DWord) : Prop := MayIssue s c n → i.wf = true → DidNow s c i n fun _ w r => sreg w r d.toNat = x
   let y : DWord := imm.signExtend 64
   (∀ p ∈ ([(.sadd e d a b, .saddImm e d a imm, fun x y => x + y), (.ssub e d a b, .ssubImm e d a imm, fun x y => x - y),
       (.smin e d a b, .sminImm e d a imm, fun x y => if x.toInt ≤ y.toInt then x else y),
       (.smax e d a b, .smaxImm e d a imm, fun x y => if x.toInt ≤ y.toInt then y else x),
       (.sminu e d a b, .sminuImm e d a imm, fun x y => if x.toNat ≤ y.toNat then x else y),
       (.smaxu e d a b, .smaxuImm e d a imm, fun x y => if x.toNat ≤ y.toNat then y else x),
       (.sand e d a b, .sandImm e d a imm, fun x y => x &&& y), (.sor e d a b, .sorImm e d a imm, fun x y => x ||| y),
       (.sxor e d a b, .sxorImm e d a imm, fun x y => x ^^^ y), (.sandn e d a b, .sandnImm e d a imm, fun x y => x &&& ~~~y),
       (.sshl e d a b, .sshlImm e d a imm, fun x y => if y.toNat < 64 then BitVec.ofNat 64 (x.toNat * 2 ^ y.toNat) else 0),
       (.sshr e d a b, .sshrImm e d a imm, fun x y => if y.toNat < 64 then BitVec.ofNat 64 (x.toNat / 2 ^ y.toNat) else 0),
       (.ssar e d a b, .ssarImm e d a imm, fun x y => BitVec.ofInt 64 (x.toInt / 2 ^ min y.toNat 63))] :
       List (Instr × Instr × (DWord → DWord → DWord))),
     is p.1 (.ofUni true e (ns a ++ ns b) (ns d)) (p.2.2 (c.s a) (c.s b)) ∧ is p.2.1 (.ofUni true e (ns a) (ns d)) (p.2.2 (c.s a) y)) ∧
   (∀ p ∈ ([(.snot e d a, fun x => ~~~x), (.smov e d a, fun x => x),
       (.sclz e d a, fun x => BitVec.ofNat 64 (((List.range 64).find? fun i => x.getLsbD (63 - i)).getD 64)),
       (.sctz e d a, fun x => BitVec.ofNat 64 (((List.range 64).find? fun i => x.getLsbD i).getD 64)),
       (.spopc e d a, fun x => BitVec.ofNat 64 ((List.range 64).countP fun i => x.getLsbD i))] : List (Instr × (DWord → DWord))),
     is p.1 (.ofUni true e (ns a) (ns d)) (p.2 (c.s a))) ∧
   is (.smovImm e d imm) (.ofUni true e [] (ns d)) y ∧ is (.sli e d imm) (.ofUni true e [] (ns d)) y ∧
   is (.slis e d imm) (.ofUni true e (ns d) (ns d)) (BitVec.ofNat 64 ((c.s d).toNat * 2 ^ 28) ||| imm.setWidth 64)) ∧
  (∀ (s : State) (c : Ctx) (e : UExt) (d a b : BitVec 6) (imm : BitVec 28),
   let is (i : Instr) (n : Need) (x : DWord) : Prop :=
     MayIssue s c n → i.wf = true → DidLater s c i { n with later := true } .ready false [.s d.toNat x]
   ∀ p ∈ ([(.smul e d a b, .smulImm e d a imm, fun x y => x * y),
       (.smulhi e d a b, .smulhiImm e d a imm, fun x y => BitVec.ofInt 64 (x.toInt * y.toInt / 2 ^ 64)),
       (.smulhiu e d a b, .smulhiuImm e d a imm, fun x y => BitVec.ofNat 64 (x.toNat * y.toNat / 2 ^ 64)),
       (.sdiv e d a b, .sdivImm e d a imm, quotOf), (.sdivu e d a b, .sdivuImm e d a imm, quotUOf),
       (.srem e d a b, .sremImm e d a imm, remOf), (.sremu e d a b, .sremuImm e d a imm, remUOf)] :
       List (Instr × Instr × (DWord → DWord → DWord))),
     is p.1 (.ofUni true e (ns a ++ ns b) (ns d)) (p.2.2 (c.s a) (c.s b)) ∧
     is p.2.1 (.ofUni true e (ns a) (ns d)) (p.2.2 (c.s a) (imm.signExtend 64)))

/-- R117, R168, R169: uniform compares and predicate operations; q0 stays true whatever is written to it (R69). That NOT and
MOV neither read nor wait for qB is the model's reading (log 60).
R169, R315: moves between uniform and lane registers and predicates. A lane outside the strand gives 0; in a protected launch lane
numbers are visible lane numbers and both copies of a source must agree. That V2S reads the lanes of its number alone is the model's reading (log 69). -/
def Obligations.UniformPredicateAndMoveResults : Prop :=
  (∀ (s : State) (c : Ctx) (e : UExt) (d : BitVec 3) (a b : BitVec 6) (qa qb : BitVec 3) (imm : BitVec 28),
   let is (i : Instr) (n : Need) (f : Prop) : Prop := MayIssue s c n → i.wf = true → DidNow s c i n fun _ _ r =>
     r.qreg d.toNat = true ↔ d = 0 ∨ f
   let y : DWord := imm.signExtend 64
   (∀ p ∈ ([(0, .qeq e d a b, .qeqImm e d a imm), (1, .qne e d a b, .qneImm e d a imm), (2, .qlt e d a b, .qltImm e d a imm),
       (3, .qge e d a b, .qgeImm e d a imm), (4, .qltu e d a b, .qltuImm e d a imm), (5, .qgeu e d a b, .qgeuImm e d a imm),
       (6, .qle e d a b, .qleImm e d a imm), (7, .qgt e d a b, .qgtImm e d a imm)] : List (BitVec 3 × Instr × Instr)),
     is p.2.1 (.ofUni true e (ns a ++ ns b) (dq d)) (holdsCond p.1 (c.s a) (c.s b)) ∧
     is p.2.2 (.ofUni true e (ns a) (dq d)) (holdsCond p.1 (c.s a) y)) ∧
   (∀ p ∈ ([(.qopAnd e d qa qb, fun x y => x && y), (.qopOr e d qa qb, fun x y => x || y), (.qopXor e d qa qb, fun x y => x != y),
       (.qopAndn e d qa qb, fun x y => x && !y)] : List (Instr × (Bool → Bool → Bool))),
     is p.1 (.ofUni true e (nq qa ++ nq qb) (dq d)) (p.2 (c.q qa) (c.q qb) = true)) ∧
   is (.qopNot e d qa qb) (.ofUni true e (nq qa) (dq d)) (c.q qa = false) ∧ is (.qopMov e d qa qb) (.ofUni true e (nq qa) (dq d)) (c.q qa = true)) ∧
  (∀ (s : State) (c : Ctx) (e : UExt) (d a : BitVec 6) (v : BitVec 7) (p : BitVec 3) (w64 first : Bool) (src : BitVec 5),
   let num (l : Nat) : Nat := if c.la.protect then l / 2 else l
   let lowest : Nat := (((List.range 32).find? fun l => c.smask.getLsbD l).map num).getD 0
   let lane : Nat := if first then lowest else src.toNat
   let phys : Nat := if c.la.protect then 2 * lane else lane
   let width : Nat := if c.la.protect then 16 else 32
   let val (l : Nat) : DWord := if w64 then c.v64 v l else (c.v v l).setWidth 64
   let bits (f : Nat → Bool) : DWord := BitVec.ofNat 64 (((List.range 32).filter fun n => (List.range 32).any fun l =>
     c.smask.getLsbD l && num l == n && f l).foldl (fun x n => x + 2 ^ n) 0)
   let uni (i : Instr) (n : Need) (x : DWord) : Prop := MayIssue s c n → i.wf = true →
     DidNow s c i n fun _ w r => sreg w r d.toNat = x
   let same (m : Word) (f : Nat → DWord) : Prop := c.la.protect = true → ∀ l, l < 16 → m.getLsbD (2 * l) = m.getLsbD (2 * l + 1) ∧
     (m.getLsbD (2 * l) = true → f (2 * l) = f (2 * l + 1))
   (MayIssue s c (.ofUni true e (ns a) (nvw v w64)) → (Instr.s2v e a v w64).wf = true →
     DidNow s c (.s2v e a v w64) (.ofUni true e (ns a) (nvw v w64)) fun _ w _ =>
       if w64 then PairsAre c w v.toNat c.smask fun _ => c.s a else LanesAre c w v.toNat c.smask fun _ => (c.s a).setWidth 32) ∧
   (same (c.smask &&& maskOf fun l => l / 2 == lane) val →
     uni (.v2s e d v w64 src first) { Need.ofUni true e (nvw v w64) (ns d) with lanes := fun _ => c.smask &&& maskOf fun l => num l == lane } (if lane < width ∧ c.smask.getLsbD phys = true then val phys else 0)) ∧
   (same c.smask (fun l => if c.p p l then 1 else 0) → uni (.p2s e d p) (.ofUni true e (np p) (ns d)) (bits (c.p p))) ∧
   uni (.actmask e d) (.ofUni true e [] (ns d)) (bits fun _ => true) ∧
   (MayIssue s c (.ofUni true e (ns a) (dp p)) → (Instr.s2p e p a).wf = true →
     DidNow s c (.s2p e p a) (.ofUni true e (ns a) (dp p)) fun _ w _ => PredIs c w p c.smask fun l => (c.s a).getLsbD (num l)))

/-! ## Global memory -/

/-- R143, R158, R196: a GLD all of whose lanes are translated puts one part per page of each active lane into the wave's post queue, and its
loads are on their way to the vault; no register changes but a stale translation register, which holds its translation again. A replay makes the accesses of
the lanes that are not yet done (R144); in a protected launch the copies of a lane agree and one of them accesses memory (R314), which is the model's reading (log 12).
R48, R70, R159, R196: a GST is one store-buffer entry of the parts of its active lanes, each with its bytes, low register first;
with no active lane nothing enters. A stale translation register holds its translation again. A replay stores the lanes that are not yet done (R144); in a protected
launch the copies of a lane agree and one of them stores (R314), which is the model's reading (log 12). -/
def Obligations.GlobalLoadAndStoreResults : Prop :=
  (∀ (s : State) (c : Ctx) (e : LExt) (x : BitVec 3) (k : BitVec 4) (a b : BitVec 7) (o : Sys2Proof.Ordering) (off : BitVec 16) (ps : Nat → List Piece),
   c.globalsUndrained = false → s.relWait c o = false →
   let ls := lanesOf (c.todo e)
   let leads := acting c (c.todo e)
   let ea (l : Nat) : Word := eaOf (c.v a l) off
   let n := { Need.ofLane true e (nv a ++ nv b ++ nx x) [] with mem := true, warn := warnRead o false }
   MayIssue s c n → Paired c (c.todo e) (fun i j => ea i = ea j ∧ c.v b i = c.v b j) →
   ∀ q ∈ ([(1, 4, false, .gldB e x k a b o off), (1, 4, true, .gldBs e x k a b o off), (2, 4, false, .gldH e x k a b o off),
       (2, 4, true, .gldHs e x k a b o off), (4, 4, false, .gldW e x k a b o off), (8, 8, false, .gldD e x k a b o off),
       (16, 16, false, .gldQ e x k a b o off)] : List (Nat × Nat × Bool × Instr)),
     q.2.2.2.wf = true → (∀ l ∈ ls, (s.vaultEA c.co c.la (ea l) true).isSome = true ∧ (ea l).toNat % q.2.1 = 0) →
     (∀ l ∈ ls, ∃ va, s.xaccess c (c.w.xreg x.toNat) (c.v b l).toNat q.1 true false = .ok va (ps l)) →
     ∃ t w r ns ds bs, exec q.2.2.2 s = .next t ∧ DidWith (fun s => { s with loads := s.loads ++ ds, nextPart := s.nextPart + 2 * leads.length }) (Wave.adds ns [] bs)
       (fun r => { r with acqs := r.acqs ++ if o.acq || o.rel then ds.map fun d => .load d.id else [] }) s t c n [.x x.toNat] [] 0 w r ∧
       Refreshed s c w x !leads.isEmpty ∧ Fresh c ns ∧
       ns.map Part.asks = leads.flatMap (fun l => asked l .read (readMarks o) (ps l) []) ∧
       ds.map Load.brings = leads.map fun l => ((s.vaultEA c.co c.la (ea l) true).getD 0, q.2.1, q.1, q.2.2.1, false, k.toNat, (ps l).length)) ∧
  (∀ (s : State) (c : Ctx) (e : LExt) (x : BitVec 3) (a b : BitVec 7) (o : Sys2Proof.Ordering) (ps : Nat → List Piece),
   let ls := lanesOf (c.todo e)
   let leads := acting c (c.todo e)
   (leads ≠ [] → c.w.canTake c.r.key = true) →
   let bytes (l width : Nat) : List Byte := ((addrs a.toNat 4).flatMap fun k => leBytes 4 (c.w.lane k l).toNat).take width
   ∀ q ∈ ([(1, 1, .gstB e x a b o), (2, 1, .gstH e x a b o), (4, 1, .gstW e x a b o), (8, 2, .gstD e x a b o), (16, 4, .gstQ e x a b o)] :
       List (Nat × Nat × Instr)),
     let n := { Need.ofLane true e (nvs a q.2.1 ++ nv b ++ nx x) [] with mem := true, warn := warnWrite o }
     MayIssue s c n → q.2.2.wf = true → Paired c (c.todo e) (fun i j => c.v b i = c.v b j ∧ bytes i q.1 = bytes j q.1) →
     (∀ l ∈ ls, ∃ va, s.xaccess c (c.w.xreg x.toNat) (c.v b l).toNat q.1 false true = .ok va (ps l)) →
     ∃ t w r ns, exec q.2.2 s = .next t ∧ DidWith (State.takeIds · (2 * leads.length)) (Wave.adds [] (if leads = [] then [] else
         [⟨c.w.nextId, c.r.key, c.w.issued, .global ns, writeMarks o, c.r.covers, c.r.jm, []⟩]) c.w.before) (acqWait c o) s t c n [.x x.toNat] [] 0 w r ∧
       Refreshed s c w x !leads.isEmpty ∧ Fresh c ns ∧
       ns.map Part.asks = leads.flatMap fun l => asked l .write (writeMarks o) (ps l) (bytes l q.1))

/-- R148, R160, R196, R325: a GATOM is one store-buffer entry of its lanes' atomic parts, and loads that bring the old values into the vault.
MIN, MAX, AND, OR and XOR do not act on host memory. A stale translation register holds its translation again, a replay takes the lanes that are not yet done (R144),
and in a protected launch the copies of a lane agree and one of them acts (R314), which is the model's reading (log 12). -/
def Obligations.GlobalAtomicResults : Prop :=
  ∀ (s : State) (c : Ctx) (e : LExt) (x : BitVec 3) (k : BitVec 4) (a b vo : BitVec 7) (o : Sys2Proof.Ordering) (w64 un : Bool)
    (ps : Nat → List Piece),
  let ls := lanesOf (c.todo e)
  let leads := acting c (c.todo e)
  (leads ≠ [] → c.w.canTake c.r.key = true) →
  let width := if w64 then 8 else 4
  let opnd (j l : Nat) : DWord := if w64 then c.w.pair (vo.toNat + 2 * j) l else (c.w.lane (vo.toNat + j) l).setWidth 64
  ∀ q ∈ ([(.add, .gatomAdd e x k a b o w64 un vo), (.min, .gatomMin e x k a b o w64 un vo), (.max, .gatomMax e x k a b o w64 un vo),
      (.and, .gatomAnd e x k a b o w64 un vo), (.or, .gatomOr e x k a b o w64 un vo), (.xor, .gatomXor e x k a b o w64 un vo),
      (.xchg, .gatomXchg e x k a b o w64 un vo), (.cas, .gatomCas e x k a b o w64 un vo)] : List (AtomOp × Instr)),
    let n := { Need.ofLane true e (nv a ++ nv b ++ nvs vo ((if q.1 = .cas then 2 else 1) * if w64 then 2 else 1) ++ nx x) [] with
      mem := true, warn := warnBoth o }
    let kind (l : Nat) : PartKind := if q.1 = .cas then .atomic .cas un (opnd 1 l) (opnd 0 l) else .atomic q.1 un (opnd 0 l) 0
    MayIssue s c n → q.2.wf = true → Paired c (c.todo e) (fun i j => c.v a i = c.v a j ∧ c.v b i = c.v b j ∧ kind i = kind j) →
    (∀ l ∈ ls, (s.vaultEA c.co c.la (c.v a l) true).isSome = true ∧ (c.v a l).toNat % width = 0) →
    (∀ l ∈ ls, ((c.w.xreg x.toNat).vb.toNat + (c.v b l).toNat) % width = 0 ∧
      ∃ va, s.xaccess c (c.w.xreg x.toNat) (c.v b l).toNat width true true = .ok va (ps l)) →
    (q.1 ∈ ([.add, .xchg, .cas] : List AtomOp) ∨ ∀ l ∈ ls, ∀ p ∈ ps l, isHost p.pa = false) →
    ∃ t w r ns ds, exec q.2 s = .next t ∧ DidWith (fun s => { s with loads := s.loads ++ ds, nextPart := s.nextPart + 2 * leads.length })
      (Wave.adds [] (if leads = [] then [] else [⟨c.w.nextId, c.r.key, c.w.issued, .global ns, marksOf o, c.r.covers, c.r.jm, []⟩]) c.w.before)
      (fun r => { r with acqs := r.acqs ++ if o.acq then ds.map fun d => .load d.id else [] }) s t c n [.x x.toNat] [] 0 w r ∧
      Refreshed s c w x !leads.isEmpty ∧ Fresh c ns ∧
      ns.map Part.asks = leads.flatMap (fun l => asked l (kind l) (marksOf o) (ps l) []) ∧
      ds.map Load.brings = leads.map fun l => ((s.vaultEA c.co c.la (c.v a l) true).getD 0, width, width, false, true, k.toNat, (ps l).length)

/-- R233: SUBSCR and UNSUB put one entry with a request per active lane, each for the own-window slot that the lane names, into the store
buffer; an acquire mark waits for the answer to every lane's own request. A stale translation register holds its translation again, and in a protected launch
the copies of a lane agree and one of them asks (R314), which is the model's reading (log 12). R142, R161, R162: XLAT and XDROP set a translation register. -/
def Obligations.SubscriptionAndTranslationResults : Prop :=
  ∀ (s : State) (c : Ctx) (e : LExt) (u : UExt) (x : BitVec 3) (a b : BitVec 7) (ra rb : BitVec 6) (o : Sys2Proof.Ordering) (off : BitVec 16)
    (ps : Nat → List Piece) (tr : Trans),
  let ls := lanesOf (c.todo e)
  let leads := acting c (c.todo e)
  let ea (l : Nat) : Word := eaOf (c.v a l) off
  let slot (l : Nat) : Nat := (ownEA c.co (ea l)).getD 0
  (∀ sub ∈ [true, false], ∀ i : Instr, i = (if sub = true then .subscr e x a b o off else .unsub e x a b o off) →
    (leads ≠ [] → c.w.canTake c.r.key = true) →
    let n := { Need.ofLane true e (nv a ++ nv b ++ nx x) [] with mem := true, warn := warnBoth o }
    MayIssue s c n → i.wf = true → Paired c (c.todo e) (fun i j => ea i = ea j ∧ c.v b i = c.v b j) → (∀ l ∈ ls, (ownEA c.co (ea l)).isSome = true ∧ (ea l).toNat % 16 = 0) →
    (∀ l ∈ ls, ((c.w.xreg x.toNat).vb.toNat + (c.v b l).toNat) % 8 = 0 ∧
      ∃ va, s.xaccess c (c.w.xreg x.toNat) (c.v b l).toNat 8 true false = .ok va (ps l)) →
    ∃ t w r lanes, exec i s = .next t ∧
      let entry : SBEntry :=
        ⟨c.w.nextId, c.r.key, c.w.issued, if sub = true then .subscr lanes else .unsub lanes, marksOf o, c.r.covers, c.r.jm, []⟩
      DidWith (State.takeIds · (2 * leads.length)) (Wave.adds [] (if leads = [] then [] else [entry]) c.w.before)
      (fun r => { r with acqs := r.acqs ++ if o.acq then lanes.map fun p => .answer p.2.id else [] })
      s t c n [.x x.toNat] [] 0 w r ∧ Refreshed s c w x !leads.isEmpty ∧ Fresh c (lanes.map Prod.snd) ∧ (∀ p ∈ lanes, p.1 = slot p.2.lane) ∧
      lanes.map (fun p => p.2.asks) =
        leads.flatMap fun l => asked l (if sub = true then .subscribe (slot l) else .unsubscribe (slot l)) (marksOf o) (ps l) []) ∧
  (let n := { Need.ofUni true u (ns ra ++ ns rb) (nx x) with later := true, noSplit := true, addr := fun x => x.s ra }
   MayIssue s c n → (Instr.xlat u x ra rb).wf = true → canonical (c.s ra) = true →
   s.tlbFind c.co.die c.la.part c.la.root ((c.s ra).toNat % 2 ^ 56) = some tr →
   DidLater s c (.xlat u x ra rb) n .ready false [.x x.toNat ⟨true, c.s ra, min (c.s rb).toNat (2 ^ 32), some tr, false⟩]) ∧
  (let n := { Need.ofUni true u [] (nx x) with noSplit := true }
   MayIssue s c n → (Instr.xdrop u x).wf = true →
   DidNow s c (.xdrop u x) n fun _ w _ => w.xreg x.toNat = { c.w.xreg x.toNat with valid := false })

/-! ## Flow and strands -/

/-- R65, R75, R172: a taken branch passes control to PC plus four times its offset, one not taken to the next instruction; LOOPD writes its
counter less one either way.
R65, R75, R76, R304: a branch, call or return that is taken to an address outside the code extent takes FETCH_BOUND and nothing else: its record holds the target,
48 bits of it, as its PC and its own PC as its address. A register target that is no multiple of 4 takes it too. -/
def Obligations.BranchResults : Prop :=
  (∀ (s : State) (c : Ctx) (e : UExt) (d : BitVec 6) (a : BitVec 3) (imm : BitVec 28),
   let target : Int := c.r.pc + 4 * imm.toInt
   let taken (i : Instr) (n : Need) (P : Wave → Run → Prop) : Prop := s.targetBad (slotCore c.slot) c.la target = none →
     ∃ t w r, exec i s = .next t ∧ Issued (target.toNat, none) id id id s t c n n.writes [] 0 w r ∧ r.fromPc = c.r.pc ∧ P w r
   let passed (i : Instr) (n : Need) (P : Wave → Run → Prop) : Prop := DidNow s c i n fun _ w r => P w r
   (let n := Need.ofUni true e [] []
    MayIssue s c n → (Instr.bra e imm).wf = true → taken (.bra e imm) n fun _ _ => True) ∧
   (let n := Need.ofUni true e (nq a) []
    MayIssue s c n →
    ((Instr.brq e a imm).wf = true → if c.q a = true then taken (.brq e a imm) n fun _ _ => True else passed (.brq e a imm) n fun _ _ => True) ∧
    ((Instr.brnq e a imm).wf = true → if c.q a = true then passed (.brnq e a imm) n fun _ _ => True else taken (.brnq e a imm) n fun _ _ => True)) ∧
   (let n := Need.ofUni true e (ns d) (ns d)
    MayIssue s c n → (Instr.loopd e d imm).wf = true →
    if c.s d = 1 then passed (.loopd e d imm) n fun w r => sreg w r d.toNat = 0
    else taken (.loopd e d imm) n fun w r => sreg w r d.toNat = c.s d - 1)) ∧
  (∀ (s : State) (c : Ctx) (e : UExt) (q : BitVec 3) (d : BitVec 6) (neg : Bool) (imm : BitVec 28), c.r.sub = none → c.r.pc < 2 ^ 48 →
   let out (x : Int) : Prop := x < c.la.code ∨ c.la.code + c.la.extent < x + 4
   let traps (i : Instr) (n : Need) (target : Int) : Prop := MayIssue s c n → i.wf = true →
     ∃ f, exec i s = .next (s.trapWith c f) ∧ f.cause = .fetchBound ∧ f.pc.toNat = (target % 2 ^ 48).toNat ∧ f.addr.toNat = c.r.pc ∧ f.mask = c.r.mask ∧ f.prog = 0
   let rel : Int := c.r.pc + 4 * imm.toInt
   let reg : Int := (c.s d).toNat
   (out rel → traps (.bra e imm) (.ofUni true e [] []) rel ∧
     (c.q q = true → traps (.brq e q imm) (.ofUni true e (nq q) []) rel) ∧ (c.q q = false → traps (.brnq e q imm) (.ofUni true e (nq q) []) rel) ∧
     (c.s d ≠ 1 → traps (.loopd e d imm) (.ofUni true e (ns d) (ns d)) rel) ∧
     (c.q q ≠ neg → traps (.call e q neg imm) (.ofUni true e (nq q) (ns 63)) rel)) ∧
   ((c.s d).toNat % 4 ≠ 0 ∨ out reg → c.q q ≠ neg → traps (.callr e d q neg) (.ofUni true e (ns d ++ nq q) (ns 63)) reg) ∧
   ((c.s d).getLsbD 0 = false → (c.s d).toNat % 4 ≠ 0 ∨ out reg → traps (.ret e d) { Need.ofUni true e (ns d) [] with drains := true } reg))

/-- R47, R59, R60, R76, R172: CALL and CALLR under a guard that holds write the address of the next instruction to s63 and pass control, and do
nothing otherwise; RET passes control to the address in sA, or, given the link value of the call strand it stands in, ends that arm; END of a
strand in no arm waits for its splits to close. -/
def Obligations.CallAndReturnResults : Prop :=
  ∀ (s : State) (c : Ctx) (e : UExt) (a : BitVec 6) (q : BitVec 3) (neg : Bool) (imm : BitVec 28),
  let link : DWord := BitVec.ofNat 64 (c.r.pc + if e.x then 8 else 4)
  let called (i : Instr) (n : Need) (target : Int) : Prop := s.targetBad (slotCore c.slot) c.la target = none →
    ∃ t w r, exec i s = .next t ∧ Issued (target.toNat, none) id id id s t c n (ns 63) [] 0 w r ∧ r.fromPc = c.r.pc ∧ sreg w r 63 = link
  (let n := Need.ofUni true e (nq q) (ns 63)
   MayIssue s c n → (Instr.call e q neg imm).wf = true →
   if c.q q = neg then ∃ t w r, exec (.call e q neg imm) s = .next t ∧ Did s t c n [] [] 0 w r
   else called (.call e q neg imm) n (c.r.pc + 4 * imm.toInt)) ∧
  (let n := Need.ofUni true e (ns a ++ nq q) (ns 63)
   MayIssue s c n → (Instr.callr e a q neg).wf = true →
   if c.q q = neg then ∃ t w r, exec (.callr e a q neg) s = .next t ∧ Did s t c n [] [] 0 w r
   else (c.s a).toNat % 4 = 0 → called (.callr e a q neg) n (c.s a).toNat) ∧
  (let n := { Need.ofUni true e (ns a) [] with drains := true }
   MayIssue s c n → (Instr.ret e a).wf = true →
   ((c.s a).toNat % 4 = 0 → s.targetBad (slotCore c.slot) c.la (c.s a).toNat = none →
     ∃ t w r, exec (.ret e a) s = .next t ∧ Issued ((c.s a).toNat, none) id id id s t c n [] [] 0 w r ∧ r.fromPc = c.r.pc) ∧
   (∀ k up l, c.r.role = .arm k → c.r.up = some up → c.lv.head? = some l → l.role = .arm k → l.link = some (c.s a) → (c.s a).getLsbD 0 = true →
     ∃ t w r, Did s t c n [] [] 0 w r ∧ exec (.ret e a) s = .next (t.modWave c.slot fun v => v.endArm c.entry up k)) ∧
   ((c.s a).getLsbD 0 = false → (c.s a).toNat % 4 ≠ 0 → ∃ f, exec (.ret e a) s = .next (s.trapWith c f) ∧ f.cause = .fetchBound)) ∧
  (let n := { Need.ofUni true e [] [] with drains := true }
   MayIssue s c n → (Instr.endStrand e).wf = true → belowArm c.lv = false →
   ∃ t w r, exec (.endStrand e) s = .next t ∧ DidWith id id (fun r => { r with wait := some .ending }) s t c n [] [] 0 w r)

/-- R34, R35, R37, R38, R54, R57, R58, R65, R173, R174: SPLIT and CALLI turn the strand into the frame of a split whose arms and continuation start
with its private registers and predicates: at once in the lowest free entries of the lattice where it has one for each arm and the
continuation, else one after another in the frame's own entry. An arm without lanes has ended; no demotion passes to the strands that start. A
SPLIT's then-arm starts where flow comes next, in a substitute the word that follows (R332). That it is no target of R65, and that each strand takes the
lowest free entry, is the model's choice (logs 81 and 102). -/
def Obligations.SplitResults : Prop :=
  ∀ (s : State) (c : Ctx) (e : UExt) (p : BitVec 3) (d b : BitVec 6) (neg : Bool) (els cont : BitVec 14),
  let dest (off : BitVec 14) : Int := c.r.pc + 4 * off.toInt
  let fine (x : Int) : Prop := s.targetBad (slotCore c.slot) c.la x = none
  let m := WinMask.of (c.s b)
  let forks (i : Instr) (n : Need) (arms : List ArmSpec) : Prop :=
    ∃ t w r, Did s t c n [] [] 0 w r ∧ ∃ v : Wave, exec i s = .next (t.modWave c.slot fun _ => v.settle) ∧
      let depth := ((c.w.lattice.find c.entry).map fun x => x.frames.length).getD 0
      let starts (x : Run) (role : Role) (mask : Word) (pc k : Nat) (link : Option DWord)
          (sub : Option (Nat × Nat)) : Prop :=
        x.role = role ∧ x.mask = mask ∧ x.pc = pc ∧ x.sub = sub ∧ x.up = some (c.entry, depth) ∧ x.key = c.r.key ++ [k] ∧ x.q = c.r.q ∧
        (∀ j, 48 ≤ j → sreg w x j = if j = 63 then link.getD (sreg c.w c.r 63) else sreg c.w c.r j) ∧ x.flights = [] ∧ x.wait = none
      let live := arms.zipIdx.filter fun a => a.1.mask != 0
      let isRun (x : Run) (k : Nat) : Prop := if h : k < live.length then
          starts x (.arm (live[k]).2) (live[k]).1.mask (live[k]).1.pc (live[k]).2 (live[k]).1.link (live[k]).1.sub
        else starts x .cont c.r.mask (dest cont).toNat arms.length none none
      v.outside = { w with splitser := if c.w.freeEntries.length < arms.length + 1 then c.w.splitser + 1 else c.w.splitser }.outside ∧
      v.demoted = [] ∧ v.warn = w.warn ∧ v.v = w.v ∧ v.p = w.p ∧ v.s = w.s ∧ v.x = w.x ∧ v.tmem = w.tmem ∧
      ∃ x f, v.lattice.find c.entry = some x ∧ x.frames = ((c.w.lattice.find c.entry).map Entry.frames).getD [] ++ [f] ∧
        f.role = c.r.role ∧ f.up = c.r.up ∧ f.key = c.r.key ∧ f.wC = m.wC ∧ f.pA = m.pA ∧ f.pC = m.pC ∧ f.uC = m.uC ∧
        f.arms = arms.map (fun a => ⟨a.wA, 0, 0, a.mask == 0, a.link⟩) ∧
        if arms.length + 1 ≤ c.w.freeEntries.length then
          x.run = none ∧ f.serial = false ∧ f.pending = [] ∧
          (∀ k, k ≤ live.length → ∃ y g, v.lattice.find (c.w.freeEntries.getD k 0) = some y ∧ y.frames = [] ∧ y.run = some g ∧ g.held = false ∧ isRun g k) ∧
          ∀ k, k ≠ c.entry → (∀ j, j ≤ live.length → k ≠ c.w.freeEntries.getD j 0) → v.lattice.find k = c.w.lattice.find k
        else
          f.serial = true ∧ (∀ k, k ≠ c.entry → v.lattice.find k = c.w.lattice.find k) ∧
          (if live = [] then x.run = none ∧ ∃ g, f.pending = [g] ∧ isRun g 0 else
            (∃ g, x.run = some g ∧ g.held = true ∧ isRun g 0) ∧ f.pending.length = live.length ∧
              ∀ k g, f.pending[k]? = some g → g.held = true ∧ isRun g (k + 1))
  (let n := { Need.ofUni true e (np p ++ ns b) [] with drains := true, mem := true }
   let mT := c.r.mask &&& c.w.pred p.toNat
   let mE := c.r.mask &&& ~~~ c.w.pred p.toNat
   let next := s.after c.r e.x
   let core := slotCore c.slot
   MayIssue s c n → (Instr.split e p b els cont).wf = true → Paired c c.r.mask (fun i j => c.p p i = c.p p j) → c.windowTrap m = none → (mT ≠ 0 → s.flowBad core c.la next.1 (s.subAt core c.la next.1 next.2) = none) →
   (mE ≠ 0 → fine (dest els)) → fine (dest cont) →
   forks (.split e p b els cont) n [⟨mT, next.1, m.wA, none, next.2⟩, ⟨mE, (dest els).toNat, m.wA, none, none⟩]) ∧
  (let n := { Need.ofUni true e ((addrs (2 * d.toNat) 2).map RegName.v ++ np p ++ ns b) [] with drains := true, mem := true, lanes := fun _ => c.smask &&& (if neg then ~~~ c.w.pred p.toNat else c.w.pred p.toNat) }
   let part := c.smask &&& if neg then ~~~ c.w.pred p.toNat else c.w.pred p.toNat
   let hdr (x : DWord) : Word := s.wordAt (slotCore c.slot) c.la none (x.toNat - 4)
   MayIssue s c n → (Instr.calli e d p neg b cont).wf = true → Paired c part (fun i j => c.target d i = c.target d j) → fine (dest cont) →
   s.calliTrap c (lanesOf part) (c.target d) (c.s b) hdr = none →
   ∀ ts : List Nat, ts.Pairwise (· < ·) → (∀ x, x ∈ ts ↔ ∃ l ∈ lanesOf part, (c.target d l).toNat = x) →
   forks (.calli e d p neg b cont) n (ts.map fun x =>
     ⟨part &&& maskOf fun l => (c.target d l).toNat == x, x, (hdr (BitVec.ofNat 64 x)).extractLsb' 16 16, some (BitVec.ofNat 64 (c.r.pc ||| 1)), none⟩))

/-- R43, R44, R45, R46, R51, R173: ENDARM ends the arm it stands in; SEAL makes registers of an arm's windows final; JOIN waits, by name and
without a blocking wait, for registers of the arms' windows, and is done at once where they lapsed with a closed split, which is the model's
reading (log 15); JOINMEM waits.
R45, R46: when an arm of the one open split of a root ends and the other has ended, the split closes: the continuation takes the root's
place, its registers lapse into joined ones, and no other entry is left. When the other has not ended, the arm's entry is free and the rest
goes on. That the entry is free whatever the arm has left undrained is the model's reading (log 16). -/
def Obligations.ArmSealAndJoinResults : Prop :=
  (∀ (s : State) (c : Ctx) (e : UExt) (lo hi : BitVec 7) (pred : Bool),
   let named : List RegName := (addrs lo.toNat (hi.toNat + 1 - lo.toNat)).map fun k => if pred then .p k else .v k
   (let n := { Need.ofUni true e [] [] with drains := true }
    MayIssue s c n → (Instr.endarm e).wf = true → ∀ k up l, c.r.role = .arm k → c.r.up = some up → c.lv.head? = some l → l.role = .arm k →
      ∃ t w r, Did s t c n [] [] 0 w r ∧ exec (.endarm e) s = .next (t.modWave c.slot fun v => v.endArm c.entry up k)) ∧
   (let n := { Need.ofUni true e [] [] with names := named }
    MayIssue s c n → (Instr.seal e lo hi pred).wf = true → ∀ k up l a, c.r.role = .arm k → c.r.up = some up → c.lv.head? = some l →
      l.frame.arms[k]? = some a → (∀ x ∈ named, inArmWindow a.wA l.frame.pA x = true) →
      ∃ t w r, Did s t c n [] [] 0 w r ∧ exec (.seal e lo hi pred) s = .next (t.modWave c.slot fun v => (v.modFrame up fun f =>
        { f with arms := f.arms.modify k fun b => { b with
           sealedV := if pred then b.sealedV else named.foldl (fun m x => match x with | .v j => m ||| BitVec.twoPow 128 j | _ => m) b.sealedV,
           sealedP := if pred then named.foldl (fun m x => match x with | .p j => m ||| BitVec.twoPow 8 j | _ => m) b.sealedP else b.sealedP } }).settle)) ∧
   (let n := { Need.ofUni true e [] [] with later := true, names := named }
    MayIssue s c n → (Instr.join e lo hi pred).wf = true →
    (∀ l, c.r.role = .cont → c.lv.head? = some l → (∀ x ∈ named, inArmWindow l.frame.wA l.frame.pA x = true) →
      ∃ t w r, Did s t c n [] [{ n.flight c .join [] with dests := named }] 0 w r ∧
        exec (.join e lo hi pred) s = .next (t.modWave c.slot Wave.settle)) ∧
    (c.lv = [] → c.r.role ≠ .cont → (∀ x ∈ named, c.r.lapsed x = true) →
      ∃ t w r, exec (.join e lo hi pred) s = .next t ∧ Did s t c n [] [{ n.flight c .done [] with dests := named }] 0 w r)) ∧
   (let n := Need.ofUni true e [] []
    MayIssue s c n → (Instr.joinmem e).wf = true →
    ∃ t w r, exec (.joinmem e) s = .next t ∧ DidWith id id (fun r => { r with wait := some .joinmem }) s t c n [] [] 0 w r)) ∧
  (∀ (w : Wave) (f : Frame) (a b k : Nat) (ra rc ro : Run) (i : Nat),
   0 < a → a < b → b < k → i < 2 → f.arms.length = 2 → f.role = .root → f.up = none → f.serial = false → f.pending = [] →
   ra.role = .arm i → ra.up = some (0, 0) → rc.role = .cont → rc.up = some (0, 0) → rc.wait = none → (∀ g ∈ rc.flights, g.state ≠ .join) →
   (f.arms.map Arm.ended = (if i = 0 then [false, true] else [true, false]) → w.lattice = [(0, ⟨[f], none⟩), (a, ⟨[], some ra⟩), (b, ⟨[], some rc⟩)] →
     ∃ r, (w.endArm a (0, 0) i).lattice = [(0, ⟨[], some r⟩)] ∧ r.role = .root ∧ r.up = none ∧ r.pc = rc.pc ∧ r.priv = rc.priv ∧ r.q = rc.q ∧
       r.key = rc.key ∧ (∀ n, f.wA.getLsbD (n / 8) = true → n < 128 → r.lapsedV.getLsbD n = true)) ∧
   (f.arms.map Arm.ended = [false, false] → ro.role = .arm (1 - i) → ro.up = some (0, 0) → (∀ g ∈ ro.flights, g.state ≠ .join) →
     w.lattice = [(0, ⟨[f], none⟩), (a, ⟨[], some ra⟩), (b, ⟨[], some ro⟩), (k, ⟨[], some rc⟩)] →
     ∃ g, (w.endArm a (0, 0) i).lattice = [(0, ⟨[g], none⟩), (b, ⟨[], some ro⟩), (k, ⟨[], some rc⟩)] ∧
       g.arms.map Arm.ended = (if i = 0 then [true, false] else [false, true])))

/-! ## Barriers, waits and fences -/

/-- R56, R175, R178: BINIT, BEXPECT, BARRIVE, BWAIT and BSYNC change the cohort's named barrier as their table says; BARRIVE gives PHASE as the
arrival finds it, BWAIT and BSYNC wait. An arrival is a release at COHORT: earlier accesses
have performed there, and what has not performed everywhere goes on before the phase. BSTAT reads the fields.
R176, R177, R178: a phase completes while WCNT and ECNT reach their expectations and PEND is 0, and takes the expectations off; then each
strand of the cohort that waits on the barrier is released exactly if PHASE has passed its phase or STATUS is not 0, with qD telling STATUS. -/
def Obligations.BarrierResults : Prop :=
  (∀ (s : State) (c : Ctx) (e : UExt) (k : BitVec 4) (q : BitVec 3) (d a : BitVec 6) (waves : BitVec 5) (engines : BitVec 10) (reg pick : Bool)
     (num : BitVec 27), k.toNat < c.co.barriers.length →
   ∀ b, c.co.barriers[k.toNat]? = some b →
   let acts (i : Instr) (n : Need) (ws : List RegName) (h : Run → Run) (x : Barrier) (ids : List Nat) (P : Wave → Run → Prop) : Prop := MayIssue s c n → i.wf = true →
     ∃ t w r, DidWith id id h s t c n ws [] 0 w r ∧ P w r ∧ exec i s = .next (t.barrier c.w.cohort k.toNat (fun _ => x) ids)
   let arrived : Barrier := { b with wcnt := min (b.wcnt + 1) 0xFFFF }
   let none_ (_ : Wave) (_ : Run) : Prop := True
   acts (.binit e k waves engines) (.bar true e [] []) [] id
     { b with wexp := waves.toNat, eexp := engines.toNat, wcnt := 0, ecnt := 0, pend := 0, status := 0 } [] none_ ∧
   acts (.bexpect e k a reg num) (.bar true e (if reg then ns a else []) []) [] id
     { b with pend := b.pend + if reg then (c.s a).setWidth 32 else num.setWidth 32 } [] none_ ∧
   (s.unperformed c 2 = false → acts (.barrive e d k) (.bar true e [] (ns d)) (ns d) id arrived c.releases fun w r => sreg w r d.toNat = b.phase.setWidth 64) ∧
   acts (.bwait e q k a) (.bar true e (ns a) (dq q)) [] (fun r => { r with wait := some (.barrier k.toNat ((c.s a).setWidth 32) q.toNat) }) b [] none_ ∧
   (s.unperformed c 2 = false → acts (.bsync e q k) (.bar true e [] (dq q)) []
     (fun r => { r with wait := some (.barrier k.toNat b.phase q.toNat) }) arrived c.releases none_) ∧
   (MayIssue s c (.bar true e [] (ns d)) → (Instr.bstat e d k pick).wf = true →
    DidNow s c (.bstat e d k pick) (.bar true e [] (ns d)) fun _ w r => sreg w r d.toNat = BitVec.ofNat 64 (if pick then
      b.wcnt + b.ecnt * 2 ^ 16 + b.wexp * 2 ^ 32 + b.eexp * 2 ^ 37 + b.status * 2 ^ 48 else b.pend.toNat * 2 ^ 32 + b.phase.toNat))) ∧
  (∀ (s : State) (cohort k : Nat) (c : Cohort) (b : Barrier), s.cohorts.find cohort = some c → k < c.barriers.length →
   let t := s.barrier cohort k fun _ => b
   ∃ (m : Nat) (d : Cohort), t.cohorts.find cohort = some d ∧ (∀ j, j ≠ k → d.barriers[j]? = c.barriers[j]?) ∧
     let x : Barrier := { b with phase := b.phase + BitVec.ofNat 32 m, wcnt := b.wcnt - m * b.wexp, ecnt := b.ecnt - m * b.eexp }
     (∃ ps, d.barriers[k]? = some { x with parts := ps }) ∧
     (∀ j, j ≤ m ↔ j = 0 ∨ (b.pend = 0 ∧ (b.wexp ≠ 0 ∨ b.eexp ≠ 0) ∧ j * b.wexp ≤ b.wcnt ∧ j * b.eexp ≤ b.ecnt)) ∧
     (∀ i, i ≠ cohort → t.cohorts.find i = s.cohorts.find i) ∧
     ∀ slot w, s.waves.find slot = some w → ∃ v, t.waves.find slot = some v ∧ (w.cohort ≠ cohort → v = w) ∧
       ∀ e r, w.run e = some r → w.cohort = cohort → ∃ z, v.run e = some z ∧
         match r.wait with
         | some (.barrier j phase q) =>
           if j = k ∧ (x.status ≠ 0 ∨ (1 ≤ (x.phase - phase).toNat ∧ (x.phase - phase).toNat < 2 ^ 31)) then
             z.wait = none ∧ (z.qreg q = true ↔ q = 0 ∨ (q < 8 ∧ x.status = 0)) else z = r
         | _ => z = r)

/-- R179, R180: GBAR and CBAR count their execution and wait for the phase, the wave's earlier accesses having performed; in a group or cluster
that a fault has lost they give qD := 0 at once; with the only wave of the only member the phase completes at once, with qD := 1. -/
def Obligations.GroupAndClusterBarrierResults : Prop :=
  ∀ (s : State) (c : Ctx) (e : UExt) (q : BitVec 3) (g : BitVec 2) (k : Nat) (gr : Group) (cl : Cluster),
  let ran (m : FMap Nat) (key : Nat) : Nat := (m.find (key * 16 + c.w.widx)).getD 0
  let gput : State → State := fun s => s.modCohort c.w.cohort fun d => { d with gbar := d.gbar.put (k * 16 + c.w.widx) (ran d.gbar k + 1) }
  let cput : State → State := fun s => s.modCohort c.w.cohort fun d => { d with cbar := d.cbar.put c.w.widx (ran d.cbar 0 + 1) }
  let held (ps : List Nat) : List Nat := s.stillPending (ps ++ c.releases)
  let gmeet : State → State := fun s => (gput s).modLaunch c.co.launch fun l =>
    { l with groups := l.groups.change k fun g => { g with parts := held g.parts } }
  let nG := { Need.bar true e [] (dq q) with badLaunch := fun la => !la.persistent, badWave := fun c => (c.group g).isNone }
  let index := c.co.index / c.la.clsz
  (MayIssue s c nG → (Instr.gbar e q g).wf = true → s.unperformed c 5 = false → c.group g = some k → c.la.groups.find k = some gr →
    (gr.lost = true → ∃ t w r, exec (.gbar e q g) s = .next t ∧ DidWith gput id id s t c nG (dq q) [] 0 w r ∧ (r.qreg q.toNat = true ↔ q = 0)) ∧
    (gr.lost = false → ∃ t w r, DidWith gmeet id (fun r => { r with wait := some (.group k (ran c.co.gbar k) q.toNat) }) s t c nG [] [] 0 w r ∧
      exec (.gbar e q g) s = .next (t.settleGroup c.co.launch k) ∧
      (gr.members = [c.co.index] → c.w.cohort = cohortKey c.co.launch c.co.index → c.co.nwaves = 1 → c.co.retired = [] → c.w.widx = 0 →
       gr.rwait = false → ran c.co.gbar k = gr.phase → ∃ la, (t.settleGroup c.co.launch k).launches.find c.co.launch = some la ∧
         (∃ ps, la.groups.find k = some { gr with phase := gr.phase + 1, parts := ps }) ∧ ∃ v z, (t.settleGroup c.co.launch k).waves.find c.slot = some v ∧
         v.run c.entry = some z ∧ z.wait = none ∧ z.qreg q.toNat = true))) ∧
  (let n := Need.bar true e [] (dq q)
   let cmeet : State → State := fun s => (cput s).modLaunch c.co.launch fun l => { l with clusters := l.clusters.put index { cl with parts := held cl.parts } }
   MayIssue s c n → (Instr.cbar e q).wf = true → s.unperformed c 3 = false → (c.la.clusters.find index).getD ⟨0, false, []⟩ = cl →
    (cl.lost = true → ∃ t w r, exec (.cbar e q) s = .next t ∧ DidWith cput id id s t c n (dq q) [] 0 w r ∧ (r.qreg q.toNat = true ↔ q = 0)) ∧
    (cl.lost = false → ∃ t w r, DidWith cmeet id (fun r => { r with wait := some (.cluster (ran c.co.cbar 0) q.toNat) }) s t c n [] [] 0 w r ∧
      exec (.cbar e q) s = .next (t.settleCluster c.co.launch index) ∧
      (c.la.clsz = 1 → c.w.cohort = cohortKey c.co.launch c.co.index → c.co.nwaves = 1 → c.co.retired = [] → c.w.widx = 0 →
       ran c.co.cbar 0 = cl.phase → ∃ la, (t.settleCluster c.co.launch index).launches.find c.co.launch = some la ∧
         (∃ ps, la.clusters.find index = some { cl with phase := cl.phase + 1, parts := ps }) ∧ ∃ v z, (t.settleCluster c.co.launch index).waves.find c.slot = some v ∧
         v.run c.entry = some z ∧ z.wait = none ∧ z.qreg q.toNat = true)))

/-- R54, R84, R181, R182, R183, R184: WAITA gives the word of its own vault at once where it meets the condition, and waits
otherwise, also to read another vault or a byte of an undrained atomic; an EA that is not 8-byte-aligned traps ALIGN whatever vault it names; SLEEP stops the strand for its unstalled cycles, none for 0; YIELD demotes the strand and its wave; a FENCE waits, with FENCE.ENG at least at COHORT. That a WAITA of another
vault issues with no read and reads for the first time in WAITA_WAKE is the model's reading (log 23). -/
def Obligations.WaitAndFenceResults : Prop :=
  ∀ (s : State) (c : Ctx) (e : UExt) (d a b : BitVec 6) (cond : BitVec 2) (o : Sys2Proof.Ordering) (off : BitVec 20) (reg : Bool) (num : BitVec 27)
    (scope : BitVec 3),
  let waits (i : Instr) (n : Need) (x : Wait) : Prop :=
    ∃ t w r, exec i s = .next t ∧ DidWith id id (fun r => { r with wait := some x }) s t c n [] [] 0 w r
  (let n := { Need.ofUni true e (ns a ++ ns b) (ns d) with mem := true, warn := warnRead o false }
   let ea := eaUni (c.s a) off
   let va := (s.vaultEA c.co c.la ea false).getD 0
   let es := c.w.visible c.r.key c.w.issued
   let x : DWord := BitVec.ofNat 64 (leNat (s.loadBytes es va 8))
   let meets : Prop := match cond.toNat with
     | 0 => x = c.s b
     | 1 => x ≠ c.s b
     | 2 => (c.s b).toNat ≤ x.toNat
     | _ => (c.s b).toInt ≤ x.toInt
   MayIssue s c n → (Instr.waita e d a b cond o off).wf = true →
   (ea.toNat % 8 ≠ 0 → ∃ f, exec (.waita e d a b cond o off) s = .next (s.trapWith c f) ∧ f.cause = .align ∧ f.addr = ea.setWidth 64 ∧ f.pc = BitVec.ofNat 48 c.r.recPc) ∧
   ((s.vaultEA c.co c.la ea false).isSome = true → ea.toNat % 8 = 0 → s.relWait c o = false →
   let here : Prop := va / Config.vaultSpan = slotCore c.slot ∧ atomicBusy es va 8 = false
   let wait (first : Bool) : Wait := .waita ea (WaitCond.of cond) (c.s b) d.toNat (o.acq || o.rel) o.scope s.tick first c.w.issued
   (here → s.poisonedV va 8 = false → meets → ∃ t w r bs es, exec (.waita e d a b cond o off) s = .next t ∧
     DidWith id (fun v => { v with before := bs, sb := es }) id s t c n n.writes [] 0 w r ∧ sreg w r d.toNat = x ∧
     es.map (fun e => { e with taken := [] }) = c.w.sb.map (fun e => { e with taken := [] }) ∧ (o.acq || o.rel = false → bs = c.w.before ∧ es = c.w.sb)) ∧
   (here → s.poisonedV va 8 = false → ¬ meets → waits (.waita e d a b cond o off) n (wait false)) ∧
   (¬ here → waits (.waita e d a b cond o off) n (wait true)))) ∧
  (let n := Need.ofUni true e (if reg then ns a else []) []
   let k := if reg then min (c.s a).toNat (2 ^ 27 - 1) else num.toNat
   MayIssue s c n → (Instr.sleep e a reg num).wf = true →
   (k = 0 → ∃ t w r, exec (.sleep e a reg num) s = .next t ∧ Did s t c n [] [] 0 w r) ∧
   (k ≠ 0 → waits (.sleep e a reg num) n (.sleep k))) ∧
  (MayIssue s c (.ofUni true e [] []) → (Instr.yieldS e).wf = true →
   ∃ t w r, exec (.yieldS e) s = .next t ∧
     DidWith (fun s => { s with rr := s.rr.put (c.slot / 8) c.slot }) id id s t c (.ofUni true e [] []) [] [] 0 w r ∧ c.entry ∈ w.demoted) ∧
  (∀ p ∈ ([(.acq, .fenceAcq e scope), (.rel, .fenceRel e scope), (.full, .fenceFull e scope), (.eng, .fenceEng e scope)] :
      List (FenceKind × Instr)),
    let raised := p.1 = .eng ∧ scope.toNat < 2
    let n := { Need.ofUni true e [] [] with warn := if raised then 0x20 else 0 }
    MayIssue s c n → p.2.wf = true → waits p.2 n (.fence p.1 (if raised then 2 else scope) c.w.issued))

/-! ## Tiles and matrices -/

/-- R24, R256, R261, R262, R265: TRD and TWR move a part of a physical row between the tile and the live lanes, whatever the guard says; TCFG and
TLAY set the shape and layout words; TZERO and TMOV give every byte of the tile its value.
R257, R258, R259, R263, R264: TLD issues a read of each 16-byte piece of a row area, swizzled as the layout says, whose bytes go
into the tile's rows when the last is made; each piece's EA is resolved by itself. TST puts one
store of them, which also sets the area's layout tags, into the store buffer, with the tile's bytes as they are now. -/
def Obligations.TileResults : Prop :=
  (∀ (s : State) (c : Ctx) (e : LExt) (u : UExt) (d b : BitVec 7) (t x : BitVec 3) (a : BitVec 6) (row : BitVec 6) (part : BitVec 2) (w64 reg : Bool)
     (shape : BitVec 14) (lay : BitVec 4),
   let width := if w64 then 8 else 4
   let lanes := if c.la.protect then 16 else 32
   let place (l : Nat) : Nat := 256 * row.toNat + (part.toNat * lanes + if c.la.protect then l / 2 else l) * width
   let val (l : Nat) : DWord := if w64 then c.v64 b l else (c.v b l).setWidth 64
   let sh : BitVec 14 := if reg then (c.s a).setWidth 14 else shape
   (let n := Need.tileRow true e part w64 (nt t) (nvw d w64)
    MayIssue s c n → (Instr.trd e d t row part w64).wf = true → s.poisonT = [] → s.tileBusy c.slot t.toNat false = false →
    DidLater s c (.trd e d t row part w64) n .ready false (wrW w64 d c.w.live fun l => BitVec.ofNat 64 (leNat
      ((addrs (place l) width).map fun o => c.w.tileByte s.tick c.slot t.toNat o)))) ∧
   (let n := Need.tileRow true e part w64 (nvw b w64) (nt t)
    MayIssue s c n → (Instr.twr e t b row part w64).wf = true → s.tileBusy c.slot t.toNat true = false →
    (c.la.protect = true → ∀ l, l < 16 → c.w.live.getLsbD (2 * l) = c.w.live.getLsbD (2 * l + 1) ∧ (c.w.live.getLsbD (2 * l) = true → val (2 * l) = val (2 * l + 1))) →
    DidLater s c (.twr e t b row part w64) n .ready false [.t t.toNat ((lanesOf c.w.live).flatMap fun l =>
      (addrs (place l) width).zip (leBytes width (val l).toNat))]) ∧
   (let n := { Need.tile true u (if reg then ns a else []) [] with names := nt t }
    MayIssue s c n → (Instr.tcfg u t a reg shape).wf = true → s.tileBusy c.slot t.toNat true = false →
    (1 ≤ shapeRows sh ∧ shapeRows sh ≤ 64 ∧ 1 ≤ shapeRB sh ∧ shapeRB sh ≤ 256) →
    ∃ v w r, exec (.tcfg u t a reg shape) s = .next v ∧ DidWith id (fun w => { w with shape := w.shape.put t.toNat sh }) id s v c n [] [] 0 w r) ∧
   (let n := { Need.tile true u [] [] with names := nt t }
    MayIssue s c n → (Instr.tlay u t lay).wf = true → s.tileBusy c.slot t.toNat true = false →
    ∃ v w r, exec (.tlay u t lay) s = .next v ∧ DidWith id (fun w => { w with layout := w.layout.put t.toNat lay }) id s v c n [] [] 0 w r) ∧
   (let n := { Need.tile true u [] (nt t) with later := true }
    MayIssue s c n → (Instr.tzero u t).wf = true → s.tileBusy c.slot t.toNat true = false →
    DidLater s c (.tzero u t) n .ready false [.t t.toNat ((List.range 16384).map fun o => (o, 0))]) ∧
   (let n := { Need.tile true u [] (nt t) with later := true, names := nt x }
    MayIssue s c n → (Instr.tmov u t x).wf = true → s.poisonT = [] → s.tileBusy c.slot t.toNat true = false →
    s.tileBusy c.slot x.toNat false = false →
    DidLater s c (.tmov u t x) n .ready false (if t = x then [] else
      [.t t.toNat ((List.range 16384).map fun o => (o, c.w.tileByte s.tick c.slot x.toNat o))]))) ∧
  (∀ (s : State) (c : Ctx) (e : UExt) (t : BitVec 3) (a : BitVec 6) (off : BitVec 20) (stride : BitVec 8),
   let sh := c.w.shapeOf t.toNat
   let lay := c.w.layoutOf t.toNat
   let ar := c.area t (c.s a) off stride
   let step := if stride = 0 then shapeRB sh else 16 * stride.toNat
   let swz (o : Nat) : Nat := if lay.getLsbD 3 then o ^^^ (o / 2 ^ (lay.toNat % 8 + 7) % 8 * 16) else o
   let pieces : List (Nat × Nat) := (List.range (shapeRows sh)).flatMap fun r => (List.range (shapeRB sh / 16)).map fun k =>
     (256 * r + 16 * k, swz (r * step + 16 * k))
   let base := eaUni (c.s a) off
   let va (o : Nat) : Nat := (s.vaultAt c.co c.la (base.toNat + o)).getD 0
   (let n := { Need.tile true e (ns a) (nt t) with later := true, mem := true }
    MayIssue s c n → (Instr.tld e t a off stride).wf = true → s.areaTrap c ar false = none → s.tagTrap c ar = none →
    s.tileBusy c.slot t.toNat true = false →
    (∀ p ∈ pieces, entryBusy (c.w.visible c.r.key c.w.issued) (va p.2) 16 = false ∧ s.poisonedV (va p.2) 16 = false) →
    if pieces = [] then DidLater s c (.tld e t a off stride) n .ready false [.t t.toNat []]
    else DidLater s c (.tld e t a off stride) n (.reading ⟨s.tick, pieces.map fun p => (p.1, va p.2, base + BitVec.ofNat 32 p.2), [], 16, t.toNat, 0,
      false, false, true, false, false, [], 0⟩) false []) ∧
   (∀ (got : List (Nat × List Byte)) (d : Nat), (got.map (·.1)).Nodup → ∃ bs, readWrites d 0 false false true (collected got) = [.t d bs] ∧
     ∀ x, x ∈ bs ↔ ∃ o b, (o, b) ∈ got ∧ x ∈ (addrs o b.length).zip b) ∧
   (let n := { Need.tile true e (ns a) [] with mem := true, names := nt t }
    MayIssue s c n → (Instr.tst e a t off stride).wf = true → s.areaTrap c ar true = none → s.poisonT = [] →
    s.tileBusy c.slot t.toNat false = false → c.w.canTake c.r.key = true →
    DidBuffer s c (.tst e a t off stride) n (pieces ≠ []) (.vst 16 (pieces.flatMap fun p =>
      (addrs (va p.2) 16).zip ((addrs p.1 16).map fun o => c.w.tileByte s.tick c.slot t.toNat o))
      (some (if lay.getLsbD 3 then lay.toNat else 0))) ⟨0, false, false⟩ [] id))

/-- R266, R268: an MMA whose tiles' shapes fit joins the queue of its core's array, and its result comes when the array is done with it. -/
def Obligations.MmaIssueResults : Prop :=
  ∀ (s : State) (c : Ctx) (e : UExt) (tc ta tb : BitVec 3) (part tr : Bool) (k : Core), s.cores.find (slotCore c.slot) = some k → s.poisonT = [] →
  s.copycHolds c.slot ta.toNat = false → s.copycHolds c.slot tb.toNat = false → s.copycHolds c.slot tc.toNat = false →
  let n := { Need.tile true e (nt ta ++ nt tb) (nt tc) with later := true }
  let A := c.w.shapeOf ta.toNat
  let B := c.w.shapeOf tb.toNat
  let C := c.w.shapeOf tc.toNat
  let K := shapeCols A
  MayIssue s c n →
  ∀ q ∈ ([(0, 3, 3, 1, .mmaF64 e tc ta tb part tr), (1, 2, 2, 2, .mmaF32 e tc ta tb part tr), (2, 1, 2, 4, .mmaF16 e tc ta tb part tr),
      (3, 1, 2, 4, .mmaBf16 e tc ta tb part tr), (4, 0, 2, 8, .mmaE4m3 e tc ta tb part tr), (5, 0, 2, 8, .mmaE5m2 e tc ta tb part tr),
      (6, 0, 2, 8, .mmaDs8 e tc ta tb part tr), (7, 0, 2, 8, .mmaI8 e tc ta tb part tr)] : List (Nat × Nat × Nat × Nat × Instr)),
    q.2.2.2.2.wf = true →
    (shapeEW A = q.2.1 ∧ shapeEW B = q.2.1 ∧ shapeEW C = q.2.2.1 ∧ shapeRows A = shapeRows C ∧
      (if tr then K = shapeCols B ∧ shapeRows B = shapeCols C else K = shapeRows B ∧ shapeCols B = shapeCols C) ∧
      K % q.2.2.2.1 = 0 ∧ (part = true → K = 32)) →
    ∃ t w r x, exec q.2.2.2.2 s = .next t ∧ (∀ m ∈ k.mmas, m.id ≠ x) ∧ (∀ j ∈ k.jobs, j.id ≠ x) ∧
      DidWith (fun s => s.modCore (slotCore c.slot) fun k => { k with mmas := k.mmas ++
        [⟨x, c.slot, c.entry, c.r.recPc, q.1, part, tr, tc.toNat, ta.toNat, tb.toNat, false, none⟩] }) id id
        s t c n [] [n.flight c (.job x) []] 0 w r

/-- R102, R103, R267, R269, R270: what an MMA writes and when its own check fails. Element (i, j) of C, as bytes in its place in the tile, is for INT8 the wrapped sum of C's
element and the products of the row of A and the column of B, and for the floating formats C's element to which the groups' exact sums of products are
added in order, each addition rounded once; .PART starts from 0. FPSTAT takes the flags of those additions, and NV for a product 0 × ∞ or products of both infinities in one group.
A column, and a row so, fails where the FP32 roundings of what C has gained and of the sum of its products differ by more than MMATOL times that of the magnitudes, for INT8 where
they differ; the lowest failing column is reported, with none the lowest failing row. An MMATOL of +∞ disables the check, a NaN or a negative one acts as +0. -/
def Obligations.MmaArithmetic : Prop :=
  ∀ (o : MmaOp) (tick slot : Nat) (w : Wave), o.fits w = true → o.fmt < 8 →
  let M := shapeRows (w.shapeOf o.ta)
  let N := shapeCols (w.shapeOf o.tc)
  let K := shapeCols (w.shapeOf o.ta)
  let ew := if o.fmt = 0 then 8 else if o.fmt = 1 then 4 else if o.fmt < 4 then 2 else 1
  let ec := if o.fmt = 0 then 8 else 4
  let G := if o.fmt = 0 then 1 else if o.fmt = 1 then 2 else if o.fmt < 4 then 4 else 8
  let raw (t width i k : Nat) : Nat := leNat ((addrs (256 * i + width * k) width).map fun x => w.tileByte tick slot t x)
  let A (i k : Nat) : Nat := raw o.ta ew i k
  let B (k j : Nat) : Nat := if o.tb then raw o.tbT ew j k else raw o.tbT ew k j
  let C (i j : Nat) : Nat := if o.part then 0 else raw o.tc ec i j
  let int8 (x : Nat) : Int := (BitVec.ofNat 8 x).toInt
  let factors (i j k : Nat) : FVal × FVal := (mmaVal o.fmt (A i k), mmaVal o.fmt (B k j))
  let group (i j g : Nat) : List (FVal × FVal) := (List.range G).map fun x => factors i j (g * G + x)
  let step (i j acc g : Nat) : Nat × FFlags := accAdd (mmaAcc o.fmt) acc (FVal.sum ((group i j g).map fun p => p.1.mul p.2))
  let upto (i j n : Nat) : Nat := (List.range n).foldl (fun acc g => (step i j acc g).1) (C i j)
  let invalid (ps : List (FVal × FVal)) : FFlags :=
    if (∃ p ∈ ps, p.1.isNan = false ∧ p.2.isNan = false ∧ (p.1.mul p.2).isNan = true) ∨
      ((∃ p ∈ ps, p.1.mul p.2 = .inf false) ∧ ∃ p ∈ ps, p.1.mul p.2 = .inf true) then 1 else 0
  let el (i j : Nat) : Nat := if o.fmt = 7 then
      (BitVec.ofInt 32 ((BitVec.ofNat 32 (C i j)).toInt + ((List.range K).map fun k => int8 (A i k) * int8 (B k j)).sum)).toNat
    else upto i j (K / G)
  let flags : FFlags := if o.fmt = 7 then 0 else ((List.range M).flatMap fun i => (List.range N).flatMap fun j => (List.range (K / G)).map fun g =>
    (step i j (upto i j g) g).2 ||| invalid (group i j g)).foldl (fun x y => x ||| y) 0
  let single (v : FVal) : FVal := match v with
    | .fin z m e => fmt32.decode (fmt32.round .ne false z m e).1
    | v => v
  let tol : FVal := match fmt32.decode w.mmatol.toNat with
    | .inf false => .inf false
    | .fin false m e => .fin false m e
    | _ => .fin false 0 0
  let fails (is js : List Nat) : Prop :=
    if o.fmt = 7 then
      BitVec.ofInt 32 ((is.flatMap fun i => js.map fun j => (BitVec.ofNat 32 (el i j)).toInt - (BitVec.ofNat 32 (C i j)).toInt).sum) ≠
        BitVec.ofInt 32 ((is.flatMap fun i => js.flatMap fun j => (List.range K).map fun k => int8 (A i k) * int8 (B k j)).sum)
    else
      let old := is.flatMap fun i => js.map fun j => (mmaAcc o.fmt).decode (C i j)
      let new := is.flatMap fun i => js.map fun j => (mmaAcc o.fmt).decode (el i j)
      let prods := is.flatMap fun i => js.flatMap fun j => (List.range K).map fun k => (factors i j k).1.mul (factors i j k).2
      let ef := single (FVal.sum (new ++ old.map FVal.negate))
      let sf := single (FVal.sum prods)
      let tf := single (FVal.sum (old.map FVal.abs ++ prods.map FVal.abs))
      tol ≠ .inf false ∧ ef.special = false ∧ sf.special = false ∧ tf.special = false ∧ (∀ x ∈ new ++ old, x.isNan = false) ∧
        FVal.lt false (single (tol.mul tf)) (single (FVal.sum [ef, sf.negate])).abs = true
  let column (j : Nat) : Prop := fails (List.range M) [j]
  let row (i : Nat) : Prop := fails [i] (List.range N)
  (o.result tick slot w).1 = [.t o.tc ((List.range M).flatMap fun i => (List.range N).flatMap fun j =>
    (addrs (256 * i + ec * j) ec).zip (leBytes ec (el i j))), .fp flags] ∧
  (∀ j, j < N → column j → (∀ k, k < j → ¬ column k) → (o.result tick slot w).2 = some j) ∧
  ((∀ j, j < N → ¬ column j) → ∀ i, i < M → row i → (∀ k, k < i → ¬ row k) → (o.result tick slot w).2 = some (2 ^ 31 + i)) ∧
  ((∀ j, j < N → ¬ column j) → (∀ i, i < M → ¬ row i) → (o.result tick slot w).2 = none)

/-- R101, R103, R271, R272: SCACC adds to each element of C the element of the partial sums scaled by the two scales, or nothing where its
guard fails; QUANT cuts its source into blocks of 32, chooses for each block the smallest code with mx ≤ fmax × 2^(code − 127), 255 for a block with a
NaN or an infinity and 0 for one of zeros, and writes the code and the block's elements, rounded to nearest from value / 2^(code − 127), canonical NaNs or
+0. That the flags reach FPSTAT with the result, and that DS8 rounds so whatever FPMODE says, is the model's choice (logs 65 and 90). Where the tile of the
codes is the tile of the elements both are written, the codes last, by the model's choice (log 109). FPSTAT takes the flags of SCACC's additions, and of QUANT NV for a block with a NaN
or an infinity and NX for an element that is not exact. -/
def Obligations.ScaleAndQuantiseResults : Prop :=
  ∀ (s : State) (c : Ctx) (e : UExt) (tc ta tb : BitVec 3) (q : BitVec 3) (neg col : Bool) (ra rb r : BitVec 6) (fmt : BitVec 4), s.poisonT = [] →
  let raw (t width i k : Nat) : Nat := leNat ((addrs (256 * i + width * k) width).map fun x => c.w.tileByte s.tick c.slot t x)
  let holds := c.q q != neg
  (let n := { Need.tile true e (nq q) (nt tc) with later := true, names := nt ta ++ nt tb }
   let M := shapeRows (c.w.shapeOf tc.toNat)
   let N := shapeCols (c.w.shapeOf tc.toNat)
   let sum (i j : Nat) : Nat × FFlags :=
     let x := raw tb.toNat 1 ra.toNat i
     let y := raw tb.toNat 1 rb.toNat j
     accAdd fmt32 (raw tc.toNat 4 i j) (if holds = false then .fin false 0 0 else if x = 255 ∨ y = 255 then .nan false else
       match fmt32.decode (raw ta.toNat 4 i j) with
       | .fin z m ex => .fin z m (ex + x + y - 254)
       | v => v)
   MayIssue s c n → (Instr.scacc e tc ta tb q neg ra rb).wf = true → scaccFits c.w tc.toNat ta.toNat tb.toNat holds ra.toNat rb.toNat = true →
   s.tileBusy c.slot tc.toNat true = false → s.tileBusy c.slot ta.toNat false = false → s.tileBusy c.slot tb.toNat false = false →
   DidLater s c (.scacc e tc ta tb q neg ra rb) n .ready false [.t tc.toNat ((List.range M).flatMap fun i => (List.range N).flatMap fun j =>
     (addrs (256 * i + 4 * j) 4).zip (leBytes 4 (sum i j).1)), .fp (((List.range M).flatMap fun i => (List.range N).map fun j => (sum i j).2).foldl (fun x y => x ||| y) 0)]) ∧
  (let n := { Need.tile true e [] (nt tc ++ nt tb) with later := true, names := nt ta }
   let rows := shapeRows (c.w.shapeOf ta.toNat)
   let cols := shapeCols (c.w.shapeOf ta.toNat)
   let x (l b k : Nat) : FVal := fmt32.decode (if col then raw ta.toNat 4 (32 * b + k) l else raw ta.toNat 4 l (32 * b + k))
   let mag (v : FVal) : Nat := match v with   -- in units of 2^(−149)
     | .fin _ m ex => m * 2 ^ (ex + 149).toNat
     | _ => 0
   let fmax : Nat := if fmt = 4 then 448 else if fmt = 5 then 57344 else 2
   let f8 : Fmt := if fmt = 4 then fmtE4M3 else fmtE5M2
   let rounded (code : Nat) (v : FVal) : Nat × FFlags := match v with
     | .fin z m ex => if fmt = 6 then ds8Round .ne (.fin z m (ex - (code - 127))) else f8.round .ne false z m (ex - (code - 127))
     | _ => (0, 0)
   let odd (l b : Nat) : Prop := ∃ k, k < 32 ∧ (x l b k).special = true
   let chosen (l b code : Nat) (el : Nat → Nat) : Prop :=
     (odd l b → code = 255 ∧ ∀ k, k < 32 → el k = if fmt = 6 then 0x77 else f8.nan) ∧
     (¬ odd l b → (∀ k, k < 32 → mag (x l b k) ≤ fmax * 2 ^ (code + 22)) ∧ (code = 0 ∨ ∃ k, k < 32 ∧ fmax * 2 ^ (code + 21) < mag (x l b k)) ∧
       ∀ k, k < 32 → el k = if ((List.range 32).all fun j => mag (x l b j) == 0) = true then (if fmt = 6 then 0x77 else 0) else (rounded code (x l b k)).1)
   MayIssue s c n → (Instr.quant e tc ta tb fmt col r).wf = true → quantFits c.w tc.toNat ta.toNat tb.toNat col r.toNat = true →
   s.tileBusy c.slot tc.toNat true = false → s.tileBusy c.slot tb.toNat true = false → s.tileBusy c.slot ta.toNat false = false →
   let isBlock (l b : Nat) : Prop := l < (if col then cols else rows) ∧ b < (if col then rows else cols) / 32
   ∃ (els scales : List (Nat × Byte)) (flags : FFlags) (code : Nat → Nat → Nat) (el : Nat → Nat → Nat → Nat),
     DidLater s c (.quant e tc ta tb fmt col r) n .ready false [.t tc.toNat els, .t tb.toNat scales, .fp flags] ∧
     (∀ l b, isBlock l b → chosen l b (code l b) (el l b) ∧ (256 * (r.toNat + b) + l, BitVec.ofNat 8 (code l b)) ∈ scales ∧
       ∀ k, k < 32 → (if col then 256 * (32 * b + k) + l else 256 * l + (32 * b + k), BitVec.ofNat 8 (el l b k)) ∈ els) ∧
     ∀ n, n < 6 → (flags.getLsbD n = true ↔ (n = 0 ∧ ∃ l b, isBlock l b ∧ odd l b) ∨
       (n = 4 ∧ ∃ l b k, isBlock l b ∧ ¬ odd l b ∧ k < 32 ∧ (rounded (code l b) (x l b k)).2.getLsbD 4 = true)))

/-! ## Copies, step descriptors and regions -/

/-- R273, R275, R276, R277: COPY, COPYL, COPYC and TSTG read their 64-byte card from the own window and, where no check of R277 fails, hand the
engine one job with the card's fields; a COPYC moves the rows of a tile, a TSTG those of its tile's elements, and waits for its capture. The job keeps an
address in a vault as its EA, which each of its accesses resolves.
R249, R251, R254: STEPCHK and STEPREC read a 32-byte descriptor from the own window and, where no check fails and every page of the entry is
translated, hand the engine one job whose result is qD. -/
def Obligations.CopyAndStepCacheResults : Prop :=
  (∀ (s : State) (c : Ctx) (e : UExt) (a : BitVec 6) (t : BitVec 3) (off : BitVec 20) (k : Core) (va : Nat),
   let ea := eaUni (c.s a) off
   let bs := s.vaultBytes va 64
   let num (at_ n : Nat) : Nat := leNat ((bs.drop at_).take n)
   ownEA c.co ea = some va → ea.toNat % 64 = 0 → s.poisonedV va 64 = false → entryBusy (c.w.visible c.r.key c.w.issued) va 64 = false →
   s.cores.find (slotCore c.slot) = some k →
   ∀ q ∈ ([(.copy, 0, [], .copy e a off), (.copyl, 0, [], .copyl e a off), (.copyc, 0, [], .copyc e a off), (.tstg, t.toNat, nt t, .tstg e a t off)] :
       List (JobKind × Nat × List RegName × Instr)),
     let n := { Need.tile true e (ns a) [] with mem := true, names := q.2.2.1 }
     let tile := if q.1 = .copyc then num 56 1 % 8 else q.2.1
     let sh := c.w.shapeOf tile
     let size : Nat × Nat := match q.1 with
       | .copyc => (shapeRows sh, shapeRB sh)
       | .tstg => (shapeRows sh, shapeCols sh * cvBytes (num 56 1 / 16))
       | _ => (num 16 4, num 20 4)
     let place (kind at_ : Nat) : Nat := if kind = 1 then num at_ 8 % 2 ^ 56 else num at_ 8
     MayIssue s c n → q.2.2.2.wf = true → s.cardTrap c q.1 (Card.of bs) ea q.2.1 = none → s.jobTilesBusy c q.1 (Card.of bs) q.2.1 = false →
     k.engineFull (if q.1 = .tstg then stagingUnits size.1 size.2 else 0) = false →
     ∃ v w r j, exec q.2.2.2 s = .next v ∧ (∀ x ∈ k.jobs, x.id ≠ j.id) ∧ (∀ m ∈ k.mmas, m.id ≠ j.id) ∧
       DidWith (fun s => s.modCore (slotCore c.slot) fun x => { x with jobs := x.jobs ++ [j] }) id
         (fun r => if q.1 = .tstg then { r with wait := some (.capture j.id) } else r) s v c n [] [] 0 w r ∧
       j.kind = q.1 ∧ j.state = .handed ∧ (j.slot, j.cohort, j.strand, j.pc) = (c.slot, c.w.cohort, c.entry, c.r.recPc) ∧
       (j.rows, j.rowb) = size ∧ j.sstr = num 24 4 ∧ j.dstr = (if q.1 = .copyc then 256 else num 28 4) ∧ j.layout = BitVec.ofNat 4 (num 35 1) ∧
       j.srcG = (num 32 1 == 1) ∧ j.dstG = (num 33 1 == 1) ∧ j.src = place (num 32 1) 0 ∧
       (q.1 ≠ .copyc → j.dst = place (num 33 1) 8) ∧ j.tile = tile ∧ j.ext = BitVec.ofNat 64 (num 56 8) ∧
       j.bar = (if 16 ≤ num 34 1 then some (num 34 1 % 16) else none) ∧
       j.flag = (if num 36 1 = 1 then some (num 40 4, BitVec.ofNat 64 (num 48 8)) else none) ∧
       j.prog = 0 ∧ j.begun = 0 ∧ j.left = []) ∧
  (∀ (s : State) (c : Ctx) (e : UExt) (q : BitVec 3) (a : BitVec 6) (k : Core) (va : Nat),
   let ea : Word := (c.s a).setWidth 32
   let bs := s.vaultBytes va 32
   let num (at_ n : Nat) : Nat := leNat ((bs.drop at_).take n)
   let n := { Need.tile true e (ns a) (dq q) with later := true, mem := true }
   let size := num 8 4 * if num 12 1 = 0 then 4 else 2
   ownEA c.co ea = some va → ea.toNat % 32 = 0 → s.poisonedV va 32 = false → entryBusy (c.w.visible c.r.key c.w.issued) va 32 = false →
   s.cores.find (slotCore c.slot) = some k → k.engineFull 0 = false → MayIssue s c n →
   rangePages (s.tlbOf c) 300 (num 24 8 % 2 ^ 56) (128 + 2 * ((size + 127) / 128 * 128)) = .ok [] →
   ∀ p ∈ ([(true, .stepchk e q a), (false, .steprec e q a)] : List (Bool × Instr)), p.2.wf = true → s.stepTrap c p.1 bs = none →
     ∃ v w r j, exec p.2 s = .next v ∧ (∀ x ∈ k.jobs, x.id ≠ j.id) ∧ (∀ m ∈ k.mmas, m.id ≠ j.id) ∧
       DidWith (fun s => (s.takeIds 1).modCore (slotCore c.slot) fun x => { x with jobs := x.jobs ++ [j] }) id id s v c n [] [n.flight c (.job j.id) []] 0 w r ∧
       j.kind = (if p.1 = true then .stepchk else .steprec) ∧ j.state = .handed ∧ (j.slot, j.cohort, j.strand, j.pc) = (c.slot, c.w.cohort, c.entry, c.r.recPc) ∧
       j.src = num 0 4 ∧ j.dst = num 4 4 ∧
       (j.rows, j.rowb) = (1, size) ∧ (j.theta, j.step) = (BitVec.ofNat 32 (num 16 4), BitVec.ofNat 32 (num 20 4)) ∧
       j.entry = num 24 8 % 2 ^ 56 ∧ (j.fmt, j.count) = (num 12 1, num 8 4) ∧ j.tile = q.toNat ∧ j.use = s.nextPart)

/-- R241, R243, R244, R247, R248: RARM of a well-formed descriptor that resolves arms a free entry of the die's arrival unit and returns its handle; with no entry free, a malformed descriptor or one that is refused it returns 2^63 and the reason; a page that misses, of the
region or of a packet, parks the strand. RDISARM frees an entry that has
no enabled action and returns its count, RQRY reads it; both return 2^63 for a handle that names no entry of the launch.
Reason 3 for a misaligned packet is the model's (log 33); which free entry it is is left free (log 34). -/
def Obligations.RegionInstructionResults : Prop :=
  ∀ (s : State) (c : Ctx) (e : UExt) (d a : BitVec 6) (off : BitVec 20) (pick : Bool),
  let u := s.arrival c.co.die
  (∀ va : Nat, let ea := eaUni (c.s a) off
   let bs := s.vaultBytes va 64
   let num (at_ n : Nat) : Nat := leNat ((bs.drop at_).take n)
   let n := { Need.ofUni true e (ns a) (ns d) with later := true, mem := true }
   let answers (x : DWord) : Prop := DidLater s c (.rarm e d a off) n .ready false [.s d.toNat x]
   MayIssue s c n → (Instr.rarm e d a off).wf = true → ownEA c.co ea = some va → ea.toNat % 64 = 0 → s.unperformed c 2 = false →
   s.poisonedV va 64 = false →
   (regionBad bs = true → answers (BitVec.ofNat 64 (2 ^ 63 + 3))) ∧
   (∀ k, regionBad bs = false → s.resolve c bs = .refused k → answers (BitVec.ofNat 64 (2 ^ 63 + k))) ∧
   (∀ t x, regionBad bs = false → s.resolve c bs = .ok t x →
     ((∀ k, k < 1024 → (u.entries.find k).isSome = true) → answers (BitVec.ofNat 64 (2 ^ 63 + 1))) ∧
     ((∃ k, k < 1024 ∧ u.entries.find k = none) →
       ∃ k v w r z, k < 1024 ∧ u.entries.find k = none ∧ exec (.rarm e d a off) s = .next v ∧
         let arm (x : State) : State := { x with arrivals := x.arrivals.put c.co.die { u with entries := u.entries.put k z } }
         let handle : DWord := BitVec.ofNat 64 (k + c.co.die * 2 ^ 10 + ((u.gens.find k).getD 0).toNat * 2 ^ 16)
         DidWith arm id id s v c n [] [n.flight c .ready [.s d.toNat handle]] 0 w r ∧
         z.launch = c.co.launch ∧ z.pa = t.frame + (num 0 8 % 2 ^ 56 - t.vbase) ∧ z.length = num 16 4 ∧ z.total = num 8 6 ∧
         z.rearm = (num 21 1 == 1) ∧ z.action = x ∧ z.count = 0 ∧ z.spent = false ∧ z.actions = 0)) ∧
   (∀ p, num 20 1 = 0 → regionBad bs = false → canonical (BitVec.ofNat 64 (num 0 8)) = true →
     splitPages (s.tlbOf c) (BitVec.ofNat 64 (num 0 8)) 1 true false = .ok (BitVec.ofNat 64 (num 0 8)) [p] →
     p.t.vbase + p.t.size ≥ num 0 8 % 2 ^ 56 + num 16 4 → s.selfChip = some (p.pa / 2 ^ 48) → (homeOf p.pa).map homeDie = some c.co.die →
     s.resolve c bs = .ok p.t (.arrive c.w.cohort (num 24 8))) ∧
   (∀ pages x, regionBad bs = false → s.resolve c bs = .miss pages x →
     exec (.rarm e d a off) s = .next (s.parkStrand c c.r.mask c.r.mask x (pages.map fun page => (page, x.toNat % 2 ^ 56)) true false))) ∧
  (let n := { Need.ofUni true e (ns a) (ns d) with later := true }
   MayIssue s c n → (Instr.rdisarm e d a).wf = true → (Instr.rqry e d a pick).wf = true →
   let named (die k : Nat) (z : Region) : Prop := (s.arrival die).entries.find k = some z ∧ z.launch = c.co.launch ∧ die < 4 ∧ k < 1024 ∧
     c.s a = BitVec.ofNat 64 (k + die * 2 ^ 10 + (((s.arrival die).gens.find k).getD 0).toNat * 2 ^ 16)
   (∀ die k z, named die k z → (z.spent = true ∨ z.count < z.total) →
     let x := s.arrival die
     let freed : Arrival := { x with entries := x.entries.del k, gens := x.gens.put k ((x.gens.find k).getD 0 + 1) }
     ∃ v w r, exec (.rdisarm e d a) s = .next v ∧ DidWith (fun y => { y with arrivals := y.arrivals.put die freed }) id id s v c n []
       [n.flight c .ready [.s d.toNat (BitVec.ofNat 64 z.count)]] 0 w r) ∧
   (∀ die k z, named die k z → DidLater s c (.rqry e d a pick) n .ready false [.s d.toNat
     (BitVec.ofNat 64 (if pick then (if z.spent then 2 else 1) + z.actions * 2 ^ 16 else z.count))]) ∧
   ((¬ ∃ die k z, named die k z) → DidLater s c (.rdisarm e d a) n .ready false [.s d.toNat (BitVec.ofNat 64 (2 ^ 63))] ∧
     DidLater s c (.rqry e d a pick) n .ready false [.s d.toNat (BitVec.ofNat 64 (2 ^ 63))]))

/-! ## Tasks and the system group -/

/-- R186, R187, R292, R293, R294, R296, R298: FORK pushes a record at the head of the core's deque, or gives qD := 0 when it is full; TNEXT takes
the head, or the tail of the first core of the ring with a record, and enters the task at its ENTRY with the record's words in s37 to s43; with no
record anywhere it gives qD := 0 and changes no other register. NEXTW enters a request, at most four of the wave. That FORK reads its record as it issues, from another vault too, is
the model's reading (log 18). -/
def Obligations.TaskQueueResults : Prop :=
  ∀ (s : State) (c : Ctx) (e : UExt) (q : BitVec 3) (a : BitVec 6) (off : BitVec 20) (k : Core), s.cores.find (slotCore c.slot) = some k →
  (let n := { Need.ofUni true e (ns a) (dq q) with mem := true }
   let ea : Word := (c.s a).setWidth 32
   ∀ va, MayIssue s c n → (Instr.fork e q a).wf = true → s.vaultEA c.co c.la ea false = some va → ea.toNat % 64 = 0 → s.unperformed c 4 = false →
   s.poisonedV va 64 = false → s.readsBefore (slotCore c.slot) (va / Config.vaultSpan) s.tick = false →
   if k.deque.length < 256 then
     let push (k : Core) : Core := { k with deque := ⟨c.co.launch, s.vaultBytes va 64, s.stillPending c.releases⟩ :: k.deque }
     ∃ t w r, exec (.fork e q a) s = .next t ∧ DidWith (fun s => s.modCore (slotCore c.slot) push) id id s t c n (dq q) [] 0 w r ∧
       r.qreg q.toNat = true
   else DidNow s c (.fork e q a) n fun _ _ r => (r.qreg q.toNat = true ↔ q = 0)) ∧
  (let n := { Need.ofUni true e [] ((addrs 37 7).map RegName.s ++ ns 63 ++ dq q) with wide := true, mem := true, badWave := fun c => c.w.task.isSome }
   MayIssue s c n → (Instr.tnext e q).wf = true →
   let enters (l : Nat) (x : TaskRec) (f : Core → Core) : Prop :=
     let bs := x.bytes
     let num (at_ : Nat) : Nat := leNat ((bs.drop at_).take 8)
     num 0 % 4 = 0 → s.targetBad (slotCore c.slot) c.la (num 0) = none →
     ∃ t w r ns, exec (.tnext e q) s = .next t ∧ (x.parts = [] → ns = c.w.before) ∧
       Issued (num 0, none) (fun s => s.modCore l f) (fun w => { w with task := some ⟨bs, []⟩, before := ns }) id s t c n n.writes [] 0 w r ∧
       r.qreg q.toNat = true ∧ sreg w r 63 = BitVec.ofNat 64 (c.r.pc + if e.x then 8 else 4) ∧
       ∀ p ∈ [(37, 24), (38, 8), (39, 16), (40, 32), (41, 40), (42, 48), (43, 56)], sreg w r p.1 = BitVec.ofNat 64 (num p.2)
   (∀ x rest, k.deque = x :: rest → enters (slotCore c.slot) x fun k => { k with deque := rest }) ∧
   (∀ l x rest, k.deque = [] → (s.ring c.la.part (slotCore c.slot)).find? (fun l => (s.cores.find l).any fun k => !k.deque.isEmpty) = some l →
     (s.cores.find l).map Core.deque = some (rest ++ [x]) → enters l x fun k => { k with deque := rest }) ∧
   (k.deque = [] → (∀ l ∈ s.ring c.la.part (slotCore c.slot), ∀ j, s.cores.find l = some j → j.deque = []) →
     ∃ t w r, exec (.tnext e q) s = .next t ∧ Did s t c n (dq q) [] 0 w r ∧ (r.qreg q.toNat = true ↔ q = 0))) ∧
  (let n := { Need.ofUni true e (ns a) [] with mem := true, badLaunch := fun la => !la.distrib }
   let ea := eaUni (c.s a) off
   ∀ va, MayIssue s c n → (Instr.nextw e a off).wf = true → ownEA c.co ea = some va → ea.toNat % 16 = 0 → c.w.nextw < 4 → c.w.canTake c.r.key = true →
   let entry : SBEntry := ⟨c.w.nextId, c.r.key, c.w.issued, .nextw va, ⟨0, false, false⟩, c.r.covers, c.r.jm, []⟩
   ∃ t w r, exec (.nextw e a off) s = .next t ∧
     DidWith id (fun v => { v.adds [] [entry] v.before with nextw := v.nextw + 1 }) id s t c n [] [] 0 w r)

/-- R188, R189, R295, R313, R321: TSIG and TPOST enter a signal or a result for a 128-byte successor block that translates for reading and writing into the
task's buffer of 16; TDONE of a wave whose stores have performed, and what happens before it too, applies them, leaves the task and returns to
s63, behind what has arrived at the host port for its blocks and an alternative record (R202). Where an alternative record's walk misses it parks with the record posted, and where
bytes that it reads are poisoned or out of reach it traps, in both cases with none of its entries applied, which is the model's reading (logs 18 and 37).
R188, R189, R295, R313, R328: one signal decreases its block's count; the last one pushes the record behind the block when the expected result agrees
under the mask, else the alternative record if there is one: a walk of it that misses stops the TDONE, one that fails posts a record.
A posted result goes into the block. A block that no link leads to stops a signal of it and takes no result; the first thing that stops a TDONE is what it
comes to (the model's reading, logs 18, 37, 72). -/
def Obligations.TaskSignalResults : Prop :=
  (∀ (s : State) (c : Ctx) (e : UExt) (a b : BitVec 6) (k : Task) (tr : Trans), c.w.task = some k →
   let block (a : BitVec 6) : Prop := (c.s a).toNat % 128 = 0 ∧ canonical (c.s a) = true ∧
     s.tlbFind c.co.die c.la.part c.la.root ((c.s a).toNat % 2 ^ 56) = some tr ∧ tr.r = true ∧ tr.w = true ∧ k.signals.length < 16
   let none_ : Ctx → Bool := fun c => c.w.task.isNone
   let enters (i : Instr) (n : Need) (x : Signal) : Prop := MayIssue s c n → i.wf = true → block a → ∃ t w r, exec i s = .next t ∧
     DidWith id (fun w => { w with task := some { k with signals := k.signals ++ [x] } }) id s t c n [] [] 0 w r
   enters (.tsig e a) { Need.ofUni true e (ns a) [] with mem := true, badWave := none_ } (.sig tr ((c.s a).toNat % 2 ^ 56)) ∧
   enters (.tpost e a b) { Need.ofUni true e (ns a ++ ns b) [] with mem := true, badWave := none_ } (.post tr ((c.s a).toNat % 2 ^ 56) (c.s b)) ∧
   (let n := { Need.ofUni true e (ns 63) [] with wide := true, mem := true, badWave := none_ }
    MayIssue s c n → (Instr.tdone e).wf = true → c.w.sb = [] → c.w.readsLeft (fun _ _ => true) = false → (∀ p ∈ c.w.pq, p.rem = []) →
    s.anyPending 5 c.releases = false → (∀ b ∈ c.w.blocks, s.portFree (addrs (b.1.pa b.2) 128) = true) → (c.s 63).toNat % 4 = 0 → s.targetBad (slotCore c.slot) c.la (c.s 63).toNat = none →
    let z := applySignals c k.signals ⟨s, none⟩
    (z.bad = none → ∃ t w r, exec (.tdone e) s = .next t ∧
      Issued ((c.s 63).toNat, none) (fun _ => z.s) (fun w => { w with task := none }) id s t c n [] [] 0 w r) ∧
    (z.bad = some .port → exec (.tdone e) s = .next { s with stall := true }) ∧
    (∀ va, z.bad = some (.ecc va) → exec (.tdone e) s = .next (s.takeTrap c .eccUncorrectable ((BitVec.ofNat 56 va).signExtend 64) c.r.mask)) ∧
    (∀ va, z.bad = some (.miss va) → ∃ t w r, exec (.tdone e) s = .next t ∧ { t with waves := [], fwFaults := [] } = { s with waves := [], fwFaults := [] } ∧
      t.fwFaults = s.fwFaults ++ [c.record .xlateMiss 1 c.r.recPc va c.r.mask] ∧ (∀ j, j ≠ c.slot → t.waves.find j = s.waves.find j) ∧
      t.waves.find c.slot = some w ∧ w.run c.entry = some r ∧
      r = { c.r with park := some ⟨c.r.mask, c.r.mask, [], va, false, true, [], true, false⟩ } ∧ w.task = some k))) ∧
  (∀ (s : State) (c : Ctx) (t : Trans) (va : Nat) (x : DWord) (rest : List Signal) (bad : Option Setback), t.vbase ≤ va → s.poisonG = [] →
   let word (u : State) (k : Nat) : DWord := BitVec.ofNat 64 (leNat ((addrs (t.pa va + k) 8).map (u.gbyte t.key)))
   let write (k : Nat) (y : DWord) : State := s.homeWrite t.key ((addrs (t.pa va + k) 8).zip (leBytes 8 y.toNat))
     (some ⟨5, s.agent c.w c.r.key, s.stillPending c.releases, false⟩) c.releases
   let u := write 0 (word s 0 - 1)
   let pushed (bs : List Byte) : State := u.pushTask c.la.part (slotCore c.slot) ⟨c.co.launch, bs, u.stillPending c.releases⟩
   let goes (y : Signal) (v : State) : Prop := applySignals c (y :: rest) ⟨s, bad⟩ = applySignals c rest ⟨v, bad⟩
   let stops (y : Signal) (v : State) (b : Setback) : Prop := applySignals c (y :: rest) ⟨s, bad⟩ = applySignals c rest ⟨v, bad.or (some b)⟩
   let a := word u 32
   let at_ := a.toNat % 2 ^ 56
   let other : Prop := word s 0 = 1 ∧ word u 8 &&& word u 16 ≠ word u 24 ∧ a ≠ 0
   let free := u.walkNowFree c.co.die c.la.part c.la.root at_
   (s.hasLink (t.pa va) = false → stops (.sig t va) s (.ecc va) ∧ goes (.post t va x) s) ∧
   (s.hasLink (t.pa va) = true → s.hasLink (t.pa va + 8) = true → s.hasLink (t.pa va + 64) = true →
     goes (.post t va x) (write 8 x) ∧
     (word s 0 ≠ 1 → goes (.sig t va) u) ∧
     (word s 0 = 1 → word u 8 &&& word u 16 = word u 24 → goes (.sig t va) (pushed ((addrs (t.pa va + 64) 64).map (u.gbyte t.key)))) ∧
     (word s 0 = 1 → word u 8 &&& word u 16 ≠ word u 24 → a = 0 → goes (.sig t va) u) ∧
     (∀ b, other → a.toNat % 64 = 0 → canonical a = true → free = true → u.walkNow c.co.die c.la.part c.la.root at_ = .ok b → b.r = true →
       (u.portFree (addrs (b.pa at_) 64) = true → s.hasLink (b.pa at_) = true → goes (.sig t va) (pushed ((addrs (b.pa at_) 64).map (u.gbyte b.key)))) ∧
       (u.portFree (addrs (b.pa at_) 64) = true → s.hasLink (b.pa at_) = false → stops (.sig t va) u (.ecc at_)) ∧
       (u.portFree (addrs (b.pa at_) 64) = false → stops (.sig t va) u .port)) ∧
     (other → canonical a = true → free = false → stops (.sig t va) u .port) ∧
     (other → canonical a = true → free = true → u.walkNow c.co.die c.la.part c.la.root at_ = .miss → stops (.sig t va) u (.miss a)) ∧
     (other → canonical a = false ∨ (free = true ∧ (u.walkNow c.co.die c.la.part c.la.root at_ = .perm ∨
       ∃ b, u.walkNow c.co.die c.la.part c.la.root at_ = .ok b ∧ b.r = false)) → goes (.sig t va) (u.postFault c.la.part c.co.launch true (c.record .xlatePerm 0 c.r.recPc a c.r.mask) none))))

/-- R5, R27, R170, R171: CSRR reads each control and status register; CSRW writes the fields that its table lets software write and nothing of a
read-only register, and what it writes to WARN stands over its own LA_IGNORED (log 91); NOP does nothing. -/
def Obligations.ControlRegisterResults : Prop :=
  ∀ (s : State) (c : Ctx) (e : UExt) (d a : BitVec 6) (csr : BitVec 12),
  let n := Need.ofUni true e [] (ns d)
  let m := { Need.ofUni true e (ns a) [] with noSplit := true }
  (MayIssue s c n → ∀ p ∈ ([(0x000, 0x0003000000000001), (0x001, s.patchHash),
      (0x010, BitVec.ofNat 64 (c.w.widx + c.w.widx % 4 * 2 ^ 4 + c.co.core * 2 ^ 6 + c.co.die * 2 ^ 12)), (0x011, BitVec.ofNat 64 c.co.index),
      (0x012, BitVec.ofNat 64 (c.co.index / c.la.clsz)), (0x013, BitVec.ofNat 64 ((c.la.clsz - 1) * 2 ^ 4 + c.co.index % c.la.clsz)),
      (0x014, BitVec.ofNat 64 (c.la.lanes * 2 ^ 32 + c.la.cohorts)), (0x015, BitVec.ofNat 64 c.la.part), (0x020, c.w.warn.setWidth 64),
      (0x021, c.w.fpstat.setWidth 64), (0x022, c.w.fpmode.setWidth 64), (0x030, s.clock.getD c.co.die 0), (0x031, c.w.skipcnt),
      (0x032, c.w.splitser), (0x040, c.w.mmatol.setWidth 64)] : List (BitVec 12 × DWord)),
    (Instr.csrr e d p.1).wf = true → DidNow s c (.csrr e d p.1) n fun _ w r => sreg w r d.toNat = p.2) ∧
  (MayIssue s c n → ∀ k : Nat, k < 4 →
    let g := (c.la.groups.filter fun g => g.2.valid && g.2.members.contains c.co.index)[k]?
    let rank (x : Group) : Nat := x.members.countP fun i => decide (i < c.co.index)
    ((c.la.groups.map Prod.fst).Pairwise (· < ·)) →
    ((Instr.csrr e d (BitVec.ofNat 12 (0x016 + k))).wf = true → DidNow s c (.csrr e d (BitVec.ofNat 12 (0x016 + k))) n fun _ w r =>
      sreg w r d.toNat = match g with
        | some x => BitVec.ofNat 64 (x.1 + 2 ^ 8 + min (rank x.2) 0xFFFF * 2 ^ 16 + x.2.members.length * 2 ^ 32)
        | none => 0) ∧
    ((Instr.csrr e d (BitVec.ofNat 12 (0x01A + k))).wf = true → DidNow s c (.csrr e d (BitVec.ofNat 12 (0x01A + k))) n fun _ w r =>
      sreg w r d.toNat = match g with
        | some x => BitVec.ofNat 64 (rank x.2)
        | none => 0)) ∧
  (MayIssue s c m → (Instr.csrw e a csr).wf = true →
    ∃ t w r, exec (.csrw e a csr) s = .next t ∧ t.outside = s.outside ∧ (∀ k, k ≠ c.slot → t.waves.find k = s.waves.find k) ∧
      t.waves.find c.slot = some w ∧ w.run c.entry = some r ∧ (r.pc, r.sub) = s.after c.r e.x ∧ Untouched c.w c.r w r [] ∧
      let x := c.s a
      w.outside = Wave.outside (if csr = 0x022 then { c.w with fpmode := x.setWidth 4 } else if csr = 0x031 then { c.w with skipcnt := x }
        else if csr = 0x032 then { c.w with splitser := x } else if csr = 0x040 then { c.w with mmatol := x.setWidth 32 } else c.w) ∧
      w.warn = (if csr = 0x020 then x.setWidth 8 else c.w.warn ||| m.warnBits) ∧
      w.fpstat = (if csr = 0x021 then x.setWidth 6 else c.w.fpstat)) ∧
  (MayIssue s c (.ofUni true e [] []) → (Instr.nop e).wf = true → DidNow s c (.nop e) (.ofUni true e [] []) fun _ _ _ => True)

/-- R190, R302, R304, R305, R310: TRAP and BKPT write a record with their own PC, TRAP's with its code as the address, into
the partition's fault ring and then its TAIL. In a DEBUG launch the wave
halts, and its strand resumes, if it does, at the next instruction; in another the wave is killed. -/
def Obligations.HaltingTrapResults : Prop :=
  ∀ (s : State) (c : Ctx) (e : UExt) (code : BitVec 16) (p : Partition), s.parts.find c.la.part = some p → c.w.task = none →
  p.faults.used < 2 ^ p.faults.k →
  let at_ : Nat := p.faults.base + 32 * (p.faults.put.toNat % 2 ^ p.faults.k)
  ∀ q ∈ ([(.softTrap, code.setWidth 64, .trap e code), (.breakpoint, 0, .bkpt e)] : List (Cause × DWord × Instr)),
    MayIssue s c (.ofUni true e [] []) → q.2.2.wf = true →
    ∃ (t : State) (f : FaultRec), exec q.2.2 s = .next t ∧ f = ⟨q.1, 0, BitVec.ofNat 8 c.entry, BitVec.ofNat 8 c.co.launch, waveField c.slot,
        BitVec.ofNat 48 c.r.recPc, q.2.1, c.r.mask, 0⟩ ∧
      (t.parts.find c.la.part).map Partition.faults = some { p.faults with put := p.faults.put + 1 } ∧
      (let z := (s.homeWrite p.dkey ((addrs at_ 32).zip f.bytes)).homeWrite p.dkey ((addrs p.faults.tail 8).zip (leBytes 8 (p.faults.put + 1).toNat))
       (t.gmem, t.gkeys, t.seqs, t.pushes) = (z.gmem, z.gkeys, z.seqs, z.pushes)) ∧
      (let num (k n : Nat) : Nat := leNat ((f.bytes.drop k).take n)
       f.bytes.length = 32 ∧ num 0 1 = (if q.1 = .softTrap then 16 else 17) ∧ num 1 1 = f.flags.toNat ∧ num 2 1 = f.strand.toNat ∧
       num 3 1 = f.launch.toNat ∧ num 4 2 = f.wave.toNat ∧ num 6 2 = 0 ∧ num 8 8 = f.pc.toNat ∧ num 16 8 = f.addr.toNat ∧
       num 24 4 = f.mask.toNat ∧ num 28 4 = f.prog.toNat) ∧
      (∀ k, k ≠ c.slot → ∀ w, s.waves.find k = some w → ∃ v, t.waves.find k = some v ∧ v.state = w.state ∧ v.v = w.v ∧ v.s = w.s) ∧
      ∃ v, t.waves.find c.slot = some v ∧
      if c.la.debug then
        v = { c.w with state := .halted, single := none, due := none, fatal := none, resumeAt := c.w.resumeAt ++ [(c.entry, s.after c.r e.x)] } ∧
        ∃ w r, (t.resumeTrap c.slot).waves.find c.slot = some w ∧ w.state = .running ∧ w.run c.entry = some r ∧ (r.pc, r.sub) = s.after c.r e.x ∧
          r.priv = c.r.priv ∧ r.q = c.r.q ∧ w.s = c.w.s ∧ w.v = c.w.v
      else v.state = .killed ∧ v.sb = [] ∧ v.lattice = [] ∧ v.pq = c.w.pq

/-! ## Steps of a strand that no instruction takes -/

/-- R35, R47, R49, R51, R182, R183, R184, R193, R254, R307: a strand of a serialised split, a JOINMEM, a FENCE, a SLEEP, a WAITA, an END and a strand
parked on a miss go on exactly where their conditions are met; nothing of the machine changes but that strand, WAITA's result, an ended strand's
entry, and, for a FENCE and an acquire, the note of what happens before the strand's later accesses (R207), in which a FENCE.ENG
puts the strand's earlier uses of step-cache entries (log 27). That FENCE.REL and FENCE.FULL wait also for parts that acquires have put before them is the
model's reading (log 97), and so is the order of a WAITA's first read of another vault (log 23). A WAITA whose later read finds its vault gone or poisoned traps
at its own PC, with the WARN bits that it alone has set clear again (R8, R86, R303; the model's reading of a trap after issue: log 101). -/
def Obligations.StrandWaitsEnd : Prop :=
  ∀ (s : State) (c : Ctx), s.ctxAt c.slot c.entry = some c →
  let becomes (i : Instr) (q : Run) : Prop := ∃ t, exec i s = .next t ∧ StrandIs s t c q
  let goes (name : String) (i : Instr) (p : Prop) (q : Run) : Prop := (p → becomes i q) ∧ (¬ p → Disabled s i name)
  goes "SERIALISED_STRAND_START" (.serialisedStrandStart c.slot c.entry) (c.r.held = true ∧ FirstInOrder c.w c.r.key) { c.r with held := false } ∧
  goes "JOINMEM_COMPLETE" (.joinmemComplete c.slot c.entry) (c.r.wait = some .joinmem ∧ FirstInOrder c.w c.r.key)
    { c.r with wait := none, jm := some c.r.key } ∧
  (∀ kind scope num, c.r.wait = some (.fence kind scope num) →
    let before (key : List Nat) (k : Nat) : Prop := earlierThan c.r.key num c.r.covers c.r.jm key k = true
    let reads : Prop := (∀ x ∈ c.w.runs, ∀ f ∈ x.2.flights, before x.2.key f.num → (∀ q, f.state ≠ .reading q) ∧ ∀ e, f.state ≠ .drain e) ∧
      ∀ l ∈ s.loads, l.slot = c.slot → l.cohort = c.w.cohort → ¬ before l.key l.num
    let stores (at_ : BitVec 3) : Prop := FirstInOrder c.w c.r.key ∧ (∀ e ∈ c.w.sb, ¬ before e.key e.num) ∧
      (2 ≤ at_.toNat → ∀ id ∈ c.w.fenced c.r .rel num, s.pendingAt at_ id = false)
    let jobs : Prop := ∀ k, s.cores.find (slotCore c.slot) = some k →
      ∀ j ∈ k.jobs, j.slot = c.slot → j.cohort = c.w.cohort → j.num < num → j.state = .stopped ∨ j.state = .handedOver
    let met : Prop := match kind with
      | .acq => reads
      | .rel => stores scope
      | .full => reads ∧ stores scope
      | .eng => stores 2 ∧ jobs
    let i : Instr := .fenceComplete c.slot c.entry
    (¬ met → Disabled s i "FENCE_COMPLETE") ∧
    (met → ∃ t w, exec i s = .next t ∧ { t with waves := [] } = { s with waves := [] } ∧ (∀ k, k ≠ c.slot → t.waves.find k = s.waves.find k) ∧
      t.waves.find c.slot = some w ∧ w.run c.entry = some { c.r with wait := none } ∧
      (∀ k, k ≠ c.entry → w.lattice.find k = c.w.lattice.find k) ∧ { w with lattice := [], before := [] } = { c.w with lattice := [], before := [] } ∧
      (kind = .acq → w.before = c.w.before) ∧
      (kind ≠ .acq → ∀ id ∈ c.w.fenced c.r kind num, s.pendingAt 7 id = true → ⟨c.r.key, num, id, true, 0, 0, 0⟩ ∈ w.before) ∧
      (kind = .eng → ∀ u ∈ s.uses, u.cohort = c.w.cohort → u.widx = c.w.widx → before u.key u.num →
        ⟨c.r.key, num, u.id, true, 0, 0, 0⟩ ∈ w.before))) ∧
  (∀ n, c.r.wait = some (.sleep n) → goes "SLEEP_EXPIRE" (.sleepExpire c.slot c.entry) (n = 0) { c.r with wait := none }) ∧
  (∀ ea cond x sd acq scope at_ first num, c.r.wait = some (.waita ea cond x sd acq scope at_ first num) → c.w.trapped = false →
   let i : Instr := .waitaWake c.slot c.entry
   let traps (cause : Cause) : Prop := ∃ u w f, exec i s = .next (u.trapWith c f) ∧ WaveIs s u c.slot w ∧
     w.run c.entry = some { c.r with pc := c.r.fromPc, sub := c.r.lastSub, wait := none, passed := false } ∧
     (∀ b, b < 8 → w.warn.getLsbD b = (c.w.warn.getLsbD b && !(c.w.warnBy.find b == some num))) ∧
     f.cause = cause ∧ f.addr = ea.setWidth 64 ∧ f.pc = BitVec.ofNat 48 c.r.lastPc ∧ f.mask = c.r.mask
   (s.vaultEA c.co c.la ea false = none → traps .vaultBound) ∧
   ∀ va, s.vaultEA c.co c.la ea false = some va →
    let es := c.w.visible c.r.key c.w.issued
    let y : DWord := BitVec.ofNat 64 (leNat (s.loadBytes es va 8))
    let meets : Prop := match cond with
      | .eq => y = x
      | .ne => y ≠ x
      | .geu => x.toNat ≤ y.toNat
      | .ge => x.toInt ≤ y.toInt
    let mayRead : Prop := atomicBusy es va 8 = false ∧ (first = true → s.readsBefore (slotCore c.slot) (va / Config.vaultSpan) at_ = false)
    (¬ mayRead → Disabled s i "WAITA_WAKE") ∧
    (mayRead → s.poisonedV va 8 = false → ¬ meets → becomes i { c.r with wait := some (.waita ea cond x sd acq scope at_ false num) }) ∧
    (mayRead → s.poisonedV va 8 = true → traps .eccUncorrectable) ∧
    (mayRead → s.poisonedV va 8 = false → meets → ∃ t w r, exec i s = .next t ∧ t.outside = s.outside ∧
      (∀ k, k ≠ c.slot → t.waves.find k = s.waves.find k) ∧ t.waves.find c.slot = some w ∧ w.run c.entry = some r ∧
      (∀ k, k ≠ c.entry → w.lattice.find k = c.w.lattice.find k) ∧ sreg w r sd = y ∧ Untouched c.w c.r w r [.s sd] ∧
      w.outside.unnoted = c.w.outside.unnoted ∧ (acq = false → w.before = c.w.before ∧ w.sb = c.w.sb) ∧
      { r with priv := [] } = { c.r with priv := [], wait := none })) ∧
  (c.r.wait = some .ending → c.w.due = none → c.w.trapped = false → (c.w.depth = 0 → ∃ t, exec (.endComplete c.slot c.entry) s = .next t ∧
      WaveIs s t c.slot { c.w with lattice := c.w.lattice.del c.entry, demoted := c.w.demoted.filter (· != c.entry) }) ∧
    (c.w.depth ≠ 0 → Disabled s (.endComplete c.slot c.entry) "END_COMPLETE")) ∧
  (∀ p, c.r.park = some p → (p.posted = false → Disabled s (.faultResume c.slot c.entry) "FAULT_RESUME") ∧
    (p.posted = true → ∃ t, exec (.faultResume c.slot c.entry) s = .next t ∧ (∀ f ∈ t.fwFaults, f ∈ s.fwFaults ∧ ¬ (f.wave = waveField c.slot ∧ f.strand = BitVec.ofNat 8 c.entry ∧ f.flags = 1)) ∧
      StrandIs { s with fwFaults := t.fwFaults } t c { c.r with park := some { p with posted := false } }))

/-- R6, R15, R24, R34, R69, R72, R98, R109, R141, R143, R144, R252, R312: a result that is ready is written, whatever registers it has: lanes and lane
predicates of live lanes, uniform registers and predicates, translation registers, bytes of a tile, the flags of a lane instruction, which reach FPSTAT
then and not at issue (the model's choice, log 65), and SKIPCNT. The strand may stand inside a split: other strands go on as they were but for the
JOINs that the result settles, and its register lanes and granules are poisoned no more. A page walk ends in a translation, in a recoverable record of
its own with the other walks still under way, or, where it gives no translation or one without the right that is asked, in a trap at the lowest lane with such a page; it waits for
the parts that reached the host port before its reads (R202). That the lanes of one 64 KiB page share one walk is
the model's reading (log 83). -/
def Obligations.ResultsArrive : Prop :=
  ∀ (s : State) (c : Ctx), s.ctxAt c.slot c.entry = some c →
  (∀ k f, c.r.flights[k]? = some f → f.state = .ready → c.w.closable = none →
    (∀ j bs, Wr.t j bs ∈ f.writes → ∀ b ∈ bs, b.1 < 16384) →
    ∃ t w r, exec (.resultWrite c.slot c.entry k) s = .next t ∧ t.outside = s.outside ∧ (∀ j, j ≠ c.slot → t.waves.find j = s.waves.find j) ∧
    t.waves.find c.slot = some w ∧ w.run c.entry = some r ∧
    (∀ d l, l < 32 → w.lane d l = lastWrite f.writes (fun a => match a with
      | .v n m x => if n = d ∧ m.getLsbD l = true ∧ c.w.live.getLsbD l = true then some (x.at l) else none
      | _ => none) (c.w.lane d l)) ∧
    (∀ d l, l < 32 → d ≠ 0 → (w.pred d).getLsbD l = lastWrite f.writes (fun a => match a with
      | .p n m x => if n = d ∧ m.getLsbD l = true ∧ c.w.live.getLsbD l = true then some (x.getLsbD l) else none
      | _ => none) ((c.w.pred d).getLsbD l)) ∧
    (∀ d, sreg w r d = lastWrite f.writes (fun a => match a with
      | .s n x => if n = d then some x else none
      | _ => none) (sreg c.w c.r d)) ∧
    (∀ d, d < 8 → r.qreg d = if d = 0 then true else lastWrite f.writes (fun a => match a with
      | .q n x => if n = d then some x else none
      | _ => none) (c.r.qreg d)) ∧
    (∀ d, w.xreg d = lastWrite f.writes (fun a => match a with
      | .x n x => if n = d then some x else none
      | _ => none) (c.w.xreg d)) ∧
    (∀ d o, o < 16384 → Memory.byte w.tmem (tileAddr d o) = lastWrite f.writes (fun a => match a with
      | .t n bs => if n = d then (bs.reverse.find? fun b => b.1 == o).map fun b => some b.2 else none
      | _ => none) (Memory.byte c.w.tmem (tileAddr d o))) ∧
    w.fpstat = f.writes.foldl (fun x a => match a with
      | .fp g => x ||| g
      | _ => x) c.w.fpstat ∧
    w.skipcnt = f.writes.foldl (fun x a => match a with
      | .skip n => x + n
      | _ => x) c.w.skipcnt ∧
    { w.outside with skipcnt := 0 } = { c.w.outside with skipcnt := 0 } ∧ (w.warn, w.demoted, w.state) = (c.w.warn, c.w.demoted, c.w.state) ∧
    (r.pc, r.wait, r.mask, r.role, r.up, r.key) = (c.r.pc, c.r.wait, c.r.mask, c.r.role, c.r.up, c.r.key) ∧
    r.flights[k]? = some { f with state := .done, writes := [] } ∧
    (∀ j g, j ≠ k → c.r.flights[j]? = some g → g.state ≠ .join → r.flights[j]? = some g) ∧
    (∀ j g, j ≠ c.entry → c.w.run j = some g → ∃ h, w.run j = some h ∧
      (h.pc, h.wait, h.mask, h.priv, h.q, h.flights.length) = (g.pc, g.wait, g.mask, g.priv, g.q, g.flights.length)) ∧
    (∀ g, g ∈ t.poisonR ↔ g ∈ s.poisonR ∧ ∀ a ∈ f.writes, g ∉ a.lanes c.slot) ∧
    (∀ g, g ∈ t.poisonT ↔ g ∈ s.poisonT ∧ ¬ (g.1 = c.slot ∧ ∃ a ∈ f.writes, g.2 ∈ a.granules))) ∧
  (∀ k f, c.r.flights[k]? = some f → f.state ≠ .ready → Disabled s (.resultWrite c.slot c.entry k) "RESULT_WRITE") ∧
  (∀ p k page va entry, c.r.park = some p → p.pages[k]? = some (page, va) → entry < 32 →
    let i : Instr := .pageWalkComplete c.slot c.entry (32 * k + entry)
    let walk (x : Nat) : Walk := if x / 65536 = page / 65536 then s.walk c.la.part c.la.root x entry else s.walkNow c.co.die c.la.part c.la.root x
    let fails (x : Nat × Nat) : Prop := walk x.1 = .perm ∨
      ∃ t, walk x.1 = .ok t ∧ x.2 ≤ x.1 ∧ ((p.rd = true ∧ t.r = false) ∨ (p.wr = true ∧ t.w = false))
    (s.walkFree c.la.part c.la.root page entry = false → Disabled s i "PAGE_WALK_COMPLETE") ∧
    (s.walkFree c.la.part c.la.root page entry = true →
     (∀ tr, walk page = .ok tr → ¬ fails (page, va) → ∃ t, exec i s = .next t ∧
       (∃ es, t.tlb.find c.co.die = some es ∧ ⟨c.la.part, c.la.root, tr⟩ ∈ es ∧ es.length ≤ 6144) ∧
       (∀ j, j ≠ c.co.die → t.tlb.find j = s.tlb.find j) ∧
       StrandIs { s with tlb := t.tlb } t c { c.r with park := some { p with pages := p.pages.filter fun x => !tr.covers x.1 } }) ∧
     (walk page = .miss → ∃ t, exec i s = .next t ∧
       StrandIs { s with fwFaults := s.fwFaults ++ [c.record .xlateMiss 1 c.r.recPc (if p.each = true then dva va else p.addr) p.mask] } t
         c { c.r with park := some { p with posted := true, pages := p.pages.filter fun x => x.1 / 65536 != page / 65536 } }) ∧
     (fails (page, va) → c.w.state = .halted → Disabled s i "PAGE_WALK_COMPLETE") ∧
     (fails (page, va) → c.w.state ≠ .halted → ∀ (j pg v : Nat), p.asked[j]? = some (pg, v) → fails (pg, v) →
       (∀ (h : Nat) (x : Nat × Nat), h < j → p.asked[h]? = some x → ¬ fails x) → exec i s = .next (s.takeTrap c .xlatePerm (dva v) p.act))))

/-! ## Homes, push channels, regions, translations and the host -/

/-- R156, R158, R160, R196, R197, R202, R206, R308, R313, R328: a lane part leaves its post queue exactly when no row of R196 holds it back; its home, or
the host port, performs a naturally aligned part of 1 to 16 bytes in one step and another part byte by byte; the host port performs after the parts that
reached it before and share a byte, and a part that writes stays until it is acknowledged; a load notes the bytes that its parts read and the first of them
that is poisoned; one all of whose parts have performed lands in the vault as one write and
lowers its barrier's pending bytes, but writes nothing where its cohort has retired or a byte was poisoned. That a landing for a cohort that has retired is
discarded with its barrier count, whoever issued it, is the model's reading (log 73). -/
def Obligations.PartsPerformAndLand : Prop :=
  ∀ (s : State) (slot : Nat) (w : Wave) (p : Part), s.waves.find slot = some w → w.pq.find? (fun x => x.id == p.id) = some p →
  let earlier (k : List Nat) (m : Nat) : Prop := earlierThan p.key p.num p.covers p.jm k m = true
  let gone : Wave := { w with pq := w.pq.filter fun x => x.id != p.id }
  let becomes (q : Part) : Wave := { w with pq := w.pq.map fun x => if x.id = p.id then q else x }
  let whole : Prop := p.width ∈ [1, 2, 4, 8, 16] ∧ p.pa % p.width = 0
  let stays : Prop := ∀ x ∈ w.pq, x.id ≠ p.id → x.sent = false ∨ x.rem ≠ [] ∨ x.unacked = true
  let put (bs : List (Nat × Byte)) : State :=
    s.homeWrite p.mkey bs (s.releaseOf w p.key p.marks (w.beforePart p)) (s.stillPending (w.beforePart p))
  let bad (os : List Nat) : Option Nat := os.find? fun o => s.poisonG.any (· == (p.pa + o) / 64)
  let returns (os rest : List Nat) (t : State) : Prop := match p.load with
    | none => t.loads = s.loads
    | some (l, k) => ∀ (j : Nat) (d : Load), s.loads[j]? = some d → ∃ e : Load, t.loads[j]? = some e ∧ (d.id ≠ l → e = d) ∧
        (d.id = l → { e with bytes := [], poison := none, parts := 0 } = { d with bytes := [], poison := none, parts := 0 } ∧
          e.parts = (if rest = [] then d.parts - 1 else d.parts) ∧
          e.poison = (match bad os with
            | none => d.poison
            | some x => some (min (d.va + k + x) (d.poison.getD (d.va + k + x)))) ∧
          (∀ x ∈ os, e.bytes.find (k + x) = some (s.gbyte p.mkey (p.pa + x))) ∧ ∀ n, (∀ x ∈ os, n ≠ k + x) → e.bytes.find n = d.bytes.find n)
  (p.sent = false → p.rem ≠ [] → stays →
    let ahead (a : Part) : Prop := ∃ x ∈ w.pq.takeWhile fun x => x.id != p.id, x.id = a.id
    let kept : Prop := (∃ a ∈ w.pq, a.id ≠ p.id ∧ a.rem ≠ [] ∧ ((earlier a.key a.num ∧ (p.ord = .so ∨ a.ord = .so)) ∨
        (ahead a ∧ a.meets p = true ∧ ¬ (a.reads = true ∧ p.reads = true) ∧ ¬ (a.plainUO = true ∧ p.plainUO = true)))) ∨
      ((p.ord = .so ∨ p.marks.rel = true) ∧ ((∃ e ∈ w.sb, earlier e.key e.num) ∨
        ∃ x ∈ w.runs, ∃ f ∈ x.2.flights, (∃ q, f.state = .reading q) ∧ earlier x.2.key f.num)) ∨
      (p.marks.rel = true ∧ ∃ k ∈ w.beforePart p, s.pendingAt p.marks.scope k = true) ∨
      (∃ l ∈ s.loads, l.slot = slot ∧ l.cohort = w.cohort ∧ l.acq = true ∧ earlier l.key l.num) ∨ ∃ x ∈ w.lateAcqs, earlier x.2.1 x.2.2
    (kept → Disabled s (.postQueueSend slot p.id) "POST_QUEUE_SEND") ∧
    (¬ kept → ∃ t, exec (.postQueueSend slot p.id) s = .next t ∧ WaveIs s t slot (becomes { p with sent := true, sentAt := s.tick }))) ∧
  (slot < 8192 → p.sent = true → p.unacked = false → p.rem ≠ [] → stays → s.hasLink p.pa = true →
    ∀ (b : Nat) (os : List Nat), (whole ∧ b = 0 ∧ os = p.rem) ∨ (¬ whole ∧ b < p.width ∧ b ∈ p.rem ∧ os = [b]) →
    let host := isHost p.pa
    let i : Instr := if host = true then .hostPortPerform slot p.id b else .homePerform slot p.id b
    let rest := p.rem.filter fun o => !os.any (· == o)
    let stands (reads : Bool) : Wave :=
      if rest = [] then (if host = true ∧ reads = false then becomes { p with rem := [], unacked := true } else gone) else becomes { p with rem := rest }
    let late : Prop := host = true ∧ ∃ e ∈ s.waves, ∃ q ∈ e.2.pq, isHost q.pa = true ∧ q.sent = true ∧ q.sentAt < p.sentAt ∧
      ∃ o ∈ os, q.pa ≤ p.pa + o ∧ p.pa + o - q.pa ∈ q.rem
    (late → Disabled s i "HOST_PORT_PERFORM") ∧
    (¬ late →
      (p.kind = .read → ∃ t, exec i s = .next t ∧ WaveActs { s with loads := t.loads } t slot (stands true) p.marks.acq ∧ returns os rest t) ∧
      (p.kind = .write → ∃ t, exec i s = .next t ∧ WaveActs (put (os.map fun o => (p.pa + o, p.data.getD o 0))) t slot (stands false) p.marks.acq) ∧
      (∀ op un x cmp, p.kind = .atomic op un x cmp → p.width ∈ [4, 8] → whole → os = addrs 0 p.width →
        let old : DWord := BitVec.ofNat 64 (leNat (s.gbytes p.mkey p.pa p.width))
        let n := 8 * p.width
        let u := if op = .cas ∧ atomNum n un old ≠ atomNum n un cmp then s
          else put ((addrs p.pa p.width).zip (leBytes p.width (atomResult n un op old x cmp).toNat))
        ∃ t, exec i s = .next t ∧ WaveActs { u with loads := t.loads } t slot (stands false) p.marks.acq ∧ returns os rest t))) ∧
  (p.sent = true → p.rem = [] → p.unacked = true → stays →
    ∃ t, exec (.hostPortAck slot p.id) s = .next t ∧ WaveIs s t slot gone) ∧
  (∀ l atomic, s.loads.find? (fun x => x.id == l.id) = some l → l.atomic = atomic →
    let i : Instr := if atomic = true then .gatomLanding l.id else .gldLanding l.id
    let v : BitVec (8 * l.land) := extend (8 * l.land) l.sx ((List.range l.width).map fun k => (l.bytes.find k).getD 0)
    let u : State := { s with loads := s.loads.filter fun x => x.id != l.id }.acquired (.load l.id)
    let retired : Prop := ∃ k, l.target = some k ∧ ∀ c, s.cohorts.find k = some c → c.gone = true ∨ c.freed = true
    (l.parts ≠ 0 → Disabled s i (if atomic = true then "GATOM_LANDING" else "GLD_LANDING")) ∧
    (l.parts = 0 → l.poison = none → retired → exec i s = .next u) ∧
    (l.parts = 0 → l.poison = none → ¬ retired → exec i s = .next ((u.vaultWrite ((addrs l.ea l.land).zip (leBytes l.land v.toNat))).barrier
      l.cohort l.barrier fun b => { b with pend := b.pend - BitVec.ofNat 32 l.land })) ∧
    (∀ va x, l.parts = 0 → l.poison = some va → s.waves.find l.slot = some x → x.alive = true → x.cohort = l.cohort → x.due = none →
      ∃ t y f, exec i s = .next t ∧ { t with waves := [] } = { u with waves := [] } ∧ t.waves.find l.slot = some y ∧ y.due = some f ∧
        f.cause = .eccUncorrectable ∧ f.addr = dva va ∧ f.mask = l.mask))

/-- R199, R207, R233, R234, R235, R236, R237: a home answers a subscribe request with the word's value, or with a refusal where its table is full; an
unsubscribe request ends the subscription and is acknowledged; each channel delivers in order: a value fills the slot and counts an overrun of a value not yet
taken, a refusal leaves only REFUSED, an acknowledgement clears ACTIVE; a poisoned word poisons the slot (R313); each answers the requests it stands for. That a push answers those of one whose
place it takes, too, is the model's reading (log 17). -/
def Obligations.SubscriptionsPush : Prop :=
  ∀ (s : State),
  (∀ (slot a : Nat) (w : Wave) (p : Part), s.waves.find slot = some w → w.pq.find? (fun x => x.id == p.id) = some p → p.sent = true →
    s.hasLink p.pa = true → (∀ x ∈ w.pq, x.id ≠ p.id → x.sent = false ∨ x.rem ≠ [] ∨ x.unacked = true) → p.unacked = false →
    let home := (homeOf p.pa).getD 0
    let word := p.pa / 8
    let core := slotCore slot
    let gone : Wave := { w with pq := w.pq.filter fun x => x.id != p.id }
    let mine (x : Push) : Bool := x.home == home && x.core == core && x.slot == a && match x.kind with
      | .value .. => true
      | _ => false
    let others := s.pushes.filter fun x => !mine x
    let replaced := (s.pushes.filter mine).flatMap fun x => x.answers
    (p.kind = .subscribe a → ∃ t, exec (.subscribeRequest slot p.id) s = .next t ∧
      WaveActs { s with subs := t.subs, pushes := t.pushes, seqs := t.seqs } t slot gone p.marks.acq ∧
      let already : Prop := ∃ x ∈ s.subs, x.word = word ∧ x.core = core ∧ x.slot = a ∧ x.dormant = false
      let value (seq : Word) : Prop :=
        t.pushes = others ++ [⟨home, core, a, word, .value (s.gword p.mkey word) seq false, replaced ++ [p.id], none, s.poisonedWord word⟩]
      (already → t.subs = s.subs ∧ value ((s.seqs.find word).getD 0)) ∧
      (¬ already → tableSize home ≤ s.tableUse home → t.subs = s.subs ∧ t.pushes = s.pushes ++ [⟨home, core, a, word, .refusal, [p.id], none, false⟩]) ∧
      (¬ already → s.tableUse home < tableSize home → t.subs = s.subs ++ [⟨word, core, a, w.cohort, false, []⟩] ∧ ∃ seq, value seq ∧
        t.seqs.find word = some seq ∧ ((∃ x ∈ s.subs, x.word = word) → seq = (s.seqs.find word).getD 0))) ∧
    (p.kind = .unsubscribe a → ∃ t, exec (.unsubscribeRequest slot p.id) s = .next t ∧
      WaveIs { s with subs := t.subs, pushes := t.pushes, seqs := t.seqs } t slot gone ∧
      t.subs = s.subs.filter (fun x => !(x.word == word && x.core == core && x.slot == a && !x.dormant)) ∧
      t.pushes = others ++ [⟨home, core, a, word, .ack, p.id :: replaced, none, false⟩])) ∧
  (∀ (home core slot word : Nat) (kind : PushKind) (answers : List Nat) (rel : Option Release) (poison : Bool) (as bs : List Push),
    (∀ x ∈ as, ¬ (x.home = home ∧ x.core = core)) → s.pushes = as ++ ⟨home, core, slot, word, kind, answers, rel, poison⟩ :: bs →
    let u : State := { s with pushes := as ++ bs }
    let taken := (s.vaultByte (slot + 14)).getLsbD 0
    let missed := leNat (s.vaultBytes (slot + 12) 2)
    let free (v : State) : State := v.modCore core fun k => { k with subs := k.subs.filter (· != (word, slot)) }
    let answered (v : State) : State := answers.foldl (fun x k => x.acquired (.answer k)) v
    (∀ val seq restored, kind = .value val seq restored →
      let v := u.vaultWrite ((addrs slot 16).zip (leBytes 8 val.toNat ++ leBytes 4 seq.toNat ++
        leBytes 2 (if taken then min (missed + 1) 0xFFFF else missed) ++ leBytes 2 (if restored then 11 else 3))) rel
      exec (.pushDelivery home core) s = .next (answered { v with poisonV := if poison then v.poisonV ++ [slot / 16] else v.poisonV })) ∧
    (kind = .refusal → exec (.refusalDelivery home core) s = .next
      (answered (free (u.vaultWrite ((addrs (slot + 8) 8).zip [0, 0, 0, 0, 0, 0, 4, 0]))))) ∧
    (kind = .ack → exec (.unsubAckDelivery home core) s = .next
      (answered (free (u.vaultWrite [(slot + 14, s.vaultByte (slot + 14) &&& 0xFD)])))))

/-- R179, R201, R202, R207, R245, R246, R312, R313, R328: an arrival unit counts the oldest write step of a home for every region that it meets, but not while an action of
one of them is enabled, unless that is a LAUNCH that waits for its queue or a RELEASE that waits for a group of 65,535; bytes of an entry that was armed
again since count for nothing. An entry whose count has reached its total acts once: it is rearmed with the total taken off, or spent, and its action arrives at
a barrier, releases a group, pushes a task, onto the overflow queue where the deque is full or the cohort stands on no core, writes a flag, in the window, in the saved window or nowhere where the cohort is no more, or enqueues a launch
packet, with its poison. -/
def Obligations.RegionsCountAndAct : Prop :=
  ∀ (s : State) (die k : Nat) (a : Arrival) (r : Region), s.arrivals.find die = some a → a.entries.find k = some r →
  let word (p : Partition) (pa : Nat) : DWord := BitVec.ofNat 64 (leNat (s.gbytes p.dkey pa 8))
  let full (p : Partition) (x : Queue) : Prop := 2 ^ x.k ≤ (word p x.tail - word p x.head).toNat
  (∀ home x xs rest, homeDie home = die → a.writes = xs ++ x :: rest → x.home = home → (∀ y ∈ xs, y.home ≠ home) →
    let i : Instr := .regionCount home
    let meets (h : Nat × Word × Nat) (z : Region) : Prop := (a.gens.find h.1).getD 0 = h.2.1 ∧ a.entries.find h.1 = some z
    let waits (z : Region) : Prop := match z.action with
      | .launch q _ => ∃ l p y, s.launches.find z.launch = some l ∧ s.parts.find l.part = some p ∧ p.queues.find q = some y ∧ full p y
      | .release launch g => ∃ l y, s.launches.find launch = some l ∧ l.groups.find g = some y ∧ 0xFFFF ≤ y.held
      | _ => False
    let acts (z : Region) : Prop := match z.action with
      | .launch q _ => ∃ l p y, s.launches.find z.launch = some l ∧ s.parts.find l.part = some p ∧ p.queues.find q = some y ∧ ¬ full p y
      | .release launch g => ∃ l y, s.launches.find launch = some l ∧ l.groups.find g = some y ∧ y.held < 0xFFFF
      | _ => True
    ((∃ h ∈ x.hits, ∃ z, meets h z ∧ z.enabled = true ∧ acts z) → Disabled s i "REGION_COUNT") ∧
    ((∀ h ∈ x.hits, ∀ z, meets h z → z.enabled = false ∨ waits z) → ∃ t b, exec i s = .next t ∧ { t with arrivals := [] } = { s with arrivals := [] } ∧
      t.arrivals.find die = some b ∧ (∀ j, j ≠ die → t.arrivals.find j = s.arrivals.find j) ∧ b.writes = xs ++ rest ∧ b.gens = a.gens ∧
      ((¬ ∃ h ∈ x.hits, h.1 = k ∧ meets h r) → b.entries.find k = some r) ∧
      ∀ us h vs, x.hits = us ++ h :: vs → h.1 = k → meets h r → (∀ y ∈ vs, y.1 ≠ k) →
        b.entries.find k = some { r with count := min (r.count + h.2.2) (2 ^ 48 - 1), parts := s.stillPending (r.parts ++ x.parts) })) ∧
  (let acted : Region := { r with count := if r.rearm then r.count - r.total else r.count, spent := !r.rearm, actions := min (r.actions + 1) 0xFFFF }
   let u : State := { s with arrivals := s.arrivals.put die { a with entries := a.entries.put k acted } }
   (∀ cohort b c, r.action = .arrive cohort b → s.cohorts.find cohort = some c → c.gone = false →
     (r.enabled = true → exec (.regionArrive die k) s = .next (u.barrier cohort b (fun x => { x with ecnt := min (x.ecnt + 1) 0xFFFF }) r.parts)) ∧
     (r.enabled = false → Disabled s (.regionArrive die k) "REGION_ARRIVE")) ∧
   (∀ launch g l x, r.action = .release launch g → s.launches.find launch = some l → l.groups.find g = some x → r.enabled = true →
     (x.held < 0xFFFF → exec (.regionRelease die k) s = .next (State.settleGroup { u with launches := s.launches.put launch { l with
       groups := l.groups.put g { x with held := x.held + 1, parts := s.stillPending (x.parts ++ r.parts) } } } launch g)) ∧
     (0xFFFF ≤ x.held → Disabled s (.regionRelease die k) "REGION_RELEASE")) ∧
   (∀ cohort record c l j, r.action = .task cohort record → s.cohorts.find cohort = some c → s.launches.find r.launch = some l → r.enabled = true →
     let x : TaskRec := ⟨r.launch, record, s.stillPending r.parts⟩
     (c.preempted = false → c.gone = false → s.cores.find (64 * c.die + c.core) = some j → j.deque.length < 256 → exec (.regionTask die k) s = .next
       { u with cores := s.cores.put (64 * c.die + c.core) { j with deque := x :: j.deque } }) ∧
     ∀ p, s.parts.find l.part = some p →
       let overflows : State := { u with parts := s.parts.put l.part { p with overflow := p.overflow ++ [x] } }
       (c.preempted = true ∨ c.gone = true → exec (.regionTask die k) s = .next overflows) ∧
       (∀ j, s.cores.find (64 * c.die + c.core) = some j → 256 ≤ j.deque.length → exec (.regionTask die k) s = .next overflows)) ∧
   (∀ cohort record l p, r.action = .task cohort record → s.cohorts.find cohort = none → s.launches.find r.launch = some l → r.enabled = true →
     s.parts.find l.part = some p → exec (.regionTask die k) s = .next
       { u with parts := s.parts.put l.part { p with overflow := p.overflow ++ [⟨r.launch, record, s.stillPending r.parts⟩] } }) ∧
   (∀ cohort o x, r.action = .flag cohort o x → r.enabled = true →
     ((∀ n, cohort = some n → ∀ c, s.cohorts.find n = some c → c.preempted = false ∧ (c.gone = true ∨ c.freed = true)) →
       exec (.regionFlag die k) s = .next u) ∧
     (∀ n c, cohort = some n → s.cohorts.find n = some c → c.preempted = false → c.gone = false → c.freed = false →
       ∃ rel, exec (.regionFlag die k) s = .next (u.vaultWrite ((addrs (c.winBase + o) 8).zip (leBytes 8 x.toNat)) (some rel)) ∧
         rel.parts = s.stillPending r.parts ∧ rel.any = true) ∧
     (∀ n c, cohort = some n → s.cohorts.find n = some c → c.preempted = true →
       ∃ t, exec (.regionFlag die k) s = .next t ∧ { t with saved := [] } = { u with saved := [] } ∧ t.saved.length = s.saved.length ∧
         ∀ (j : Nat) (v : Saved), s.saved[j]? = some v → ∃ y : Saved, t.saved[j]? = some y ∧ (v.cohort ≠ n → y = v) ∧ (v.cohort = n →
           (∀ b, b < 8 → y.window.find (o + b) = some (x.extractLsb' (8 * b) 8)) ∧
           (∀ b, b < o ∨ o + 8 ≤ b → y.window.find b = v.window.find b) ∧
           { y with window := [], syncs := [] } = { v with window := [], syncs := [] }))) ∧
   (∀ q ps l p x, r.action = .launch q ps → s.launches.find r.launch = some l → s.parts.find l.part = some p → p.queues.find q = some x →
     r.enabled = true →
     let bytes := ps.flatMap fun b => if s.hasLink b.pa = true then s.gbytes b.t.key b.pa b.len else List.replicate b.len 0xFF
     let bad (half : Nat) : Bool := (((ps.flatMap fun b => addrs b.pa b.len).drop (64 * half)).take 64).any fun a => !s.hasLink a || s.poisonG.any (· == a / 64)
     let at_ := x.ring + 128 * ((word p x.tail).toNat % 2 ^ x.k)
     let behind : Prop := ∃ b ∈ ps, s.portFree (addrs b.pa b.len) = false
     (full p x ∨ behind → Disabled s (.regionLaunch die k) "REGION_LAUNCH") ∧
     let v := u.homeWrite p.dkey ((addrs at_ bytes.length).zip bytes)
     (¬ full p x → ¬ behind → exec (.regionLaunch die k) s = .next (State.homeWrite
       { v with poisonG := v.poisonG ++ ([0, 1].filter bad).map fun half => at_ / 64 + half } p.dkey ((addrs x.tail 8).zip (leBytes 8 (word p x.tail + 1).toNat))))))

/-- R140, R145, R147, R197, R202, R210, R317, R323, R324: a shootdown waits until no access in flight, of a saved wave, of a task's signals or of a job uses
what it drops, then no TLB entry and no valid translation register of the die maps the range; an ownership step, of any page size, sets H of every entry of the page that a link leads to, and who
owns it, and waits for accesses under way, those of saved waves among them, and for launch packets that an armed region will read there; the host reaches what it owns, under the page's channel key where it has one, finds
poison where the partition's context lies, and in a page of the device finds poison, or is dropped, and asks for its migration, whose record and TAIL go
to the queue area in memory. A host request enters its home, which performs it whole or byte by byte. Who owns a page that no entry maps, and when
entries of the ring count as read, are the model's (logs 39, 40, 54), and so is it that saved waves, jobs (log 96) and signal buffers (log 41) hold these
steps back. -/
def Obligations.TranslationsAndHostRequests : Prop :=
  ∀ (s : State),
  (∀ (die root va size : Nat),
    let meets (x : Trans) : Prop := x.vbase < va + size ∧ va < x.vbase + x.size
    let used : Prop := (∃ k w, (k, w) ∈ s.waves ∧ k / 2048 = die ∧ s.usesRoot root w.cohort = true ∧ w.usesVa va size = true) ∨
      (∃ v ∈ s.saved, s.usesRoot root v.cohort = true ∧ ∃ e ∈ v.waves, e.2.usesVa va size = true) ∨
      ∃ k x j, (k, x) ∈ s.cores ∧ k / 64 = die ∧ j ∈ x.jobs ∧ s.usesRoot root j.cohort = true ∧ ∃ y ∈ j.pieces, meets y.t
    (used → Disabled s (.shootdown die root va size) "SHOOTDOWN") ∧
    (¬ used → ∃ t, exec (.shootdown die root va size) s = .next t ∧ { t with tlb := [], waves := [] } = { s with tlb := [], waves := [] } ∧
      (∀ j, j ≠ die → t.tlb.find j = s.tlb.find j) ∧
      (∀ es, s.tlb.find die = some es → ∃ fs, t.tlb.find die = some fs ∧ ∀ e, e ∈ fs ↔ e ∈ es ∧ ¬ (e.root = root ∧ meets e.trans)) ∧
      ∀ k w, s.waves.find k = some w → ∃ v, t.waves.find k = some v ∧ { v with x := [], lattice := [] } = { w with x := [], lattice := [] } ∧
        let shot (x : XReg) : XReg := if k / 2048 = die ∧ s.usesRoot root w.cohort = true ∧ x.valid = true ∧ x.trans.any (fun y => meet y.vbase y.size va size) = true
          then { x with stale := true, trans := none } else x
        (∀ n x, w.x.find n = some x → v.x.find n = some (shot x)) ∧
        ∀ n r, w.run n = some r → ∃ q, v.run n = some q ∧ { q with flights := [] } = { r with flights := [] } ∧
          q.flights = r.flights.map fun f => { f with writes := f.writes.map fun a => match a with
            | .x m x => .x m (shot x)
            | a => a })) ∧
  (∀ (pte frame size : Nat), size ∈ [0x10000, 0x200000, 0x4000000] → frame % size = 0 → (homeOf frame).isSome = true →
    let key := (s.gkeys.find (pte / 64)).getD 0
    let entries := if size = 0x200000 then (List.range 32).map fun k => pte / 256 * 256 + 8 * k else [pte]
    let word (u : State) (a : Nat) : DWord := BitVec.ofNat 64 (leNat (u.readBytes key a 8))
    let handed (host : Bool) : State := (entries.filter s.hasLink).foldl (fun u a =>
      u.homeWrite key ((addrs a 8).zip (leBytes 8 (if host then word u a ||| 64#64 else word u a &&& ~~~ 64#64).toNat))) s
    let pages := addrs (frame / 65536) (size / 65536)
    let holds (x : Trans) : Prop := x.frame < frame + size ∧ frame < x.frame + x.size
    let register (x : XReg) : Prop := x.valid = true ∧ ∃ y, x.trans = some y ∧ holds y
    let asked : Prop := ∃ h ∈ s.hostq, h.pa < frame + size ∧ frame < h.pa + h.width
    let used : Prop := (∃ e ∈ s.waves, e.2.usesPa frame size = true) ∨ (∃ v ∈ s.saved, ∃ e ∈ v.waves, e.2.usesPa frame size = true) ∨
      (∃ d ∈ s.tlb, ∃ x ∈ d.2, holds x.trans) ∨ (∃ e ∈ s.waves, ∃ x ∈ e.2.x, register x.2) ∨
      (∃ e ∈ s.waves, ∃ r ∈ e.2.runs, ∃ f ∈ r.2.flights, ∃ n x, Wr.x n x ∈ f.writes ∧ register x) ∨
      (∃ e ∈ s.cores, ∃ j ∈ e.2.jobs, ∃ x ∈ j.pieces, holds x.t) ∨ ∃ e ∈ s.arrivals, ∃ z ∈ e.2.entries, z.2.spent = false ∧ ∃ b ∈ z.2.action.packet, holds b.t
    (asked → Disabled s (.ownershipStep pte frame size false) "OWNERSHIP_STEP") ∧
    (¬ asked → exec (.ownershipStep pte frame size false) s = .next
      { handed false with devPages := pages.foldl (fun (m : FMap Unit) k => m.put k ()) s.devPages }) ∧
    (used → Disabled s (.ownershipStep pte frame size true) "OWNERSHIP_STEP") ∧
    (¬ used → ∃ t, exec (.ownershipStep pte frame size true) s = .next t ∧
      { t with parts := [] } = { handed true with devPages := s.devPages.keep (fun k _ => !pages.any (· == k)), parts := [] } ∧
      ∀ k p, s.parts.find k = some p → t.parts.find k = some { p with migOut := p.migOut.filter fun n => !pages.any (· == n) })) ∧
  (∀ (addr chip : Nat) (bs : List Byte), s.selfChip = some chip → s.hdmBase ≤ addr →
    let pa := chip * 2 ^ 48 + (addr - s.hdmBase)
    addr - s.hdmBase + bs.length ≤ 0x200000000000 → 1 ≤ bs.length → bs.length ≤ 64 →
    (addr - s.hdmBase) / 65536 = (addr - s.hdmBase + bs.length - 1) / 65536 →
    let within (x : Nat × Nat) : Prop := x.1 ≤ pa ∧ pa < x.1 + x.2
    let queue : Prop := ∃ e ∈ s.parts, within e.2.qarea
    let context : Prop := ∃ e ∈ s.parts, within e.2.carea
    let reply (r : HostReply) : State := { s with hostReplies := s.hostReplies ++ [r] }
    let poison : HostReply := ⟨addr, List.replicate bs.length 0xFF, true⟩
    let entered (key : Nat) (data : Option (List Byte)) : State :=
      { s with hostq := s.hostq ++ [⟨s.nextPart, key, addr, pa, bs.length, data, addrs 0 bs.length, [], false⟩], nextPart := s.nextPart + 1 }
    let enters (key : Nat) : Prop := exec (.hostRead addr bs.length) s = .next (entered key none) ∧ exec (.hostWrite addr bs) s = .next (entered key (some bs))
    let key := ((s.ownerPart pa).map (fun o => o.2.dkey)).getD ((s.gkeys.find (pa / 64)).getD 0)
    let own : Prop := ¬ queue ∧ ¬ context ∧ (homeOf pa).isSome = true
    let devices : Prop := own ∧ ((∃ part e, s.leafOf pa = some (part, e) ∧ e.getLsbD 6 = false) ∨ (s.leafOf pa = none ∧ s.devPages.find (pa / 65536) = some ()))
    (queue → enters key) ∧
    (¬ queue → context ∨ homeOf pa = none → exec (.hostRead addr bs.length) s = .next (reply poison) ∧ exec (.hostWrite addr bs) s = .next s) ∧
    (own → s.leafOf pa = none → s.devPages.find (pa / 65536) = none → enters key) ∧
    (∀ part e, own → s.leafOf pa = some (part, e) → e.getLsbD 6 = true → e.getLsbD 7 = false → enters key) ∧
    (∀ part e k, own → s.leafOf pa = some (part, e) → e.getLsbD 6 = true → e.getLsbD 7 = true → s.channelKey part (e.toNat / 2 ^ 60) = some k → enters k) ∧
    (∀ n p, devices → s.ownerPart pa = some (n, p) → s.parts.find n = some p →
      let asks (write : Bool) (u : State) : State :=
        (u.ringPut p p.migs 16 [leBytes 8 (65536 * (pa / 65536 % 2 ^ 32)) ++ leBytes 1 (if write then 1 else 0) ++ leBytes 1 n ++ leBytes 6 0]).modPart n
          fun x => { x with migs := { x.migs with put := x.migs.put + 1 }, migOut := x.migOut ++ [pa / 65536] }
      (pa / 65536 ∉ p.migOut → (p.migs.put - p.migs.got).toNat < 2 ^ p.migs.k →
        exec (.hostRead addr bs.length) s = .next (asks false (reply poison)) ∧ exec (.hostWrite addr bs) s = .next (asks true s)) ∧
      (pa / 65536 ∈ p.migOut ∨ 2 ^ p.migs.k ≤ (p.migs.put - p.migs.got).toNat →
        exec (.hostRead addr bs.length) s = .next (reply poison) ∧ exec (.hostWrite addr bs) s = .next s))) ∧
  (∀ (h : HostPart), s.hostq.find? (fun x => x.id == h.id) = some h → h.rem = addrs 0 h.width → s.poisonG = [] →
    let rest : State := { s with hostq := s.hostq.filter fun x => x.id != h.id }
    let whole : Prop := h.width ∈ [1, 2, 4, 8, 16] ∧ h.pa % h.width = 0
    (whole → (h.data = none → h.got = [] → h.poison = false → ∃ t, exec (.homePerform 8192 h.id 0) s = .next t ∧ { t with parts := [] } =
        { rest with parts := [], hostReplies := s.hostReplies ++ [⟨h.addr, s.gbytes h.key h.pa h.width, false⟩] }) ∧
      (∀ bs, h.data = some bs → bs.length = h.width → exec (.homePerform 8192 h.id 0) s = .next
        (rest.homeWrite h.key ((addrs h.pa h.width).zip bs)))) ∧
    (¬ whole → 1 < h.width → ∀ b, b < h.width → ∀ bs, h.data = some bs → exec (.homePerform 8192 h.id b) s = .next
      ({ s with hostq := s.hostq.map fun (x : HostPart) => if x.id = h.id then { h with rem := h.rem.filter (· != b) } else x }.homeWrite h.key
        [(h.pa + b, bs.getD b 0)])))

/-! ## Copy engines and matrix arrays -/

/-- R136, R200, R202, R208, R249, R250, R252, R253, R254, R258, R259, R277, R278, R279, R281, R282, R313, R328: an engine accepts the oldest card handed to it. A running job begins
its next sector by translating it, page by page, and cutting it into naturally aligned pieces of its destination; a miss parks it, a page without the right stops it. A piece is read and
written in steps, from the vault, from global memory or from what the job holds, to the vault, to global memory or to the wave's tile, behind earlier jobs of the cohort
that it overlaps. A step-cache job reads the header and the input and compares; a match copies the stored output and writes TAG and HITS; a miss clears FLAGS, stores the input and writes the
header; STEPREC stores the output and sets FLAGS. When all is written a job writes its flag, arrives once at its barrier and hands its MMA over, or makes qD and counts SKIPCNT;
a job that has parked goes on when the firmware resumes it; one whose next byte lies in a vault outside its partition stops (R32, log 114). A TSTG's strand goes on once its tile is captured.
Which reads and writes of a job are one step is the model's (logs 27, 28, 29). -/
def Obligations.CopyEnginesMoveBytes : Prop :=
  ∀ (s : State) (core : Nat) (k : Core) (j : Job), s.cores.find core = some k → k.jobs.find? (fun x => x.id == j.id) = some j →
  (∀ x ∈ k.jobs, x.state = .stopped → x.left ≠ []) → (j.kind = .tstg → j.srcG = false) →
  let step : Bool := j.kind == .stepchk || j.kind == .steprec
  let z := if j.fmt = 0 then 4 else 2
  (step = true → j.entry % 128 = 0 ∧ j.rowb = j.count * z ∧ j.layout = 0) →
  let job (t : State) (x : Job) : Prop := ∃ c, t.cores.find core = some c ∧ c.jobs.find? (fun y => y.id == j.id) = some x ∧ c.jobs.length = k.jobs.length ∧
    { c with jobs := [] } = { k with jobs := [] }
  let i := j.begun
  let held (m : FMap (FMap Byte)) (phase n : Nat) : List Byte := (List.range n).map fun o => (((m.find phase).getD []).find o).getD 0
  let output := j.entry + 128 + (j.count * z + 127) / 128 * 128
  let leg : Option (Bool × Nat) × Option (Bool × Nat) × List Byte × Nat :=
    if step then match j.phase with
      | 0 => (some (true, j.entry), none, [], 16)
      | 1 => (some (false, j.src), none, [], j.rowb)
      | 2 => (some (true, j.entry + 128), none, [], j.rowb)
      | 3 => (some (true, output), some (false, j.dst), [], j.rowb)
      | 4 => (some (true, j.entry + 16), none, [], 8)
      | 5 => (none, some (true, j.entry + 4), leBytes 4 j.step.toNat ++ leBytes 8 0 ++
          leBytes 8 ((BitVec.ofNat 64 (leNat (held j.buf 4 8)) : DWord) + 1).toNat, 20)
      | 7 => (none, some (true, j.entry), [0, 0, 0, 0], 4)
      | 8 => (none, some (true, j.entry + 128), held j.buf 1 j.rowb, j.rowb)
      | 9 => (none, some (true, j.entry), [1, 0, 0, 0] ++ leBytes 4 j.step.toNat ++ leBytes 4 j.count ++ leBytes 1 j.fmt ++ [0, 0, 0], 16)
      | 11 => (some (false, j.dst), some (true, output), [], j.rowb)
      | 12 => (none, some (true, j.entry), [3, 0, 0, 0], 4)
      | _ => (none, none, [], 0)
    else (if j.kind = .tstg then none else some (j.srcG, j.src), some (j.dstG, j.dst), j.staged, j.rows * j.rowb)
  let source := leg.1
  let target := leg.2.1
  let size := leg.2.2.2
  let begin_ (e : Option (Bool × Nat)) : Nat := (e.map fun x => x.2).getD 0
  let src (b : Nat) : Nat := if step then begin_ source + b else j.src + b / j.rowb * j.sstr + b % j.rowb
  let row (b : Nat) : Nat := b / j.rowb * j.dstr + b % j.rowb
  let dst (b : Nat) : Nat := if step then begin_ target + b else j.dst + swizzle j.layout (row b)
  let block (b : Nat) : Nat := if step then begin_ (target.or source) + b else j.dst + row b
  let n := min (if step then size - i else j.rowb - i % j.rowb) (128 - block i % 128)
  let global (e : Option (Bool × Nat)) : Bool := e.any fun x => x.1
  let before (write : Bool) (space : Nat) (as : List Nat) : Prop := ∃ e ∈ k.jobs.takeWhile (fun x => x.id != j.id), e.cohort = j.cohort ∧ e.state ≠ .handedOver ∧
    ∃ a ∈ as, s.jobUses e true space a = true ∨ (write = true ∧ s.jobUses e false space a = true)
  let follows (x : Job) (phase : Nat) (hit : Bool) : Prop :=
    let head := held x.buf 0 16
    let flag (b : Nat) : Bool := (head.getD 0 0).getLsbD b
    let tag : Word := BitVec.ofNat 32 (field head 4 4)
    let fits : Prop := flag 0 = true ∧ field head 8 4 = j.count ∧ field head 12 1 = j.fmt ∧
      if j.kind = .stepchk then flag 1 = true ∧ j.step - tag = 1 else flag 1 = false ∧ tag = j.step
    let close : Prop := StepClose (if j.fmt = 0 then fmt32 else if j.fmt = 1 then fmtB16 else fmt16) z j.count j.theta (held x.buf 1 j.rowb) (held x.buf 2 j.rowb)
    match j.phase with
    | 0 => (j.kind = .stepchk → (phase, hit) = (1, false)) ∧ (j.kind = .steprec → (fits → (phase, hit) = (11, true)) ∧ (¬ fits → (phase, hit) = (10, false)))
    | 1 => (fits → (phase, hit) = (2, false)) ∧ (¬ fits → (phase, hit) = (7, false))
    | 2 => (close → (phase, hit) = (3, true)) ∧ (¬ close → (phase, hit) = (7, false))
    | 3 => (phase, hit) = (4, true)
    | 4 => (phase, hit) = (5, true)
    | 7 => (phase, hit) = (8, false)
    | 8 => (phase, hit) = (9, false)
    | 11 => (phase, hit) = (12, true)
    | _ => (phase, hit) = (10, j.hit)
  let goesOn (t : State) (x : Job) : Prop :=
    let ends : Prop := step = true ∧ j.state = .running ∧ x.left = [] ∧ size ≤ i
    (ends → ∃ phase hit, follows x phase hit ∧ job t { x with phase := phase, hit := hit, begun := 0 }) ∧ (¬ ends → job t x)
  (k.jobs.find? (fun x => x.state == .handed) = some j →
    ∃ t, exec (.jobAccept core j.id) s = .next t ∧ job t { j with state := if j.kind = .tstg then .capturing else .running }) ∧
  (∀ x, k.jobs.find? (fun x => x.state == .handed) = some x → x.id ≠ j.id → Disabled s (.jobAccept core j.id) "JOB_ACCEPT") ∧
  (∀ la, s.launchOf j.cohort = some la → s.fenced j = false → j.state = .running → j.left = [] → i < size → (step = false → 0 < j.rowb) →
    (step = true → j.phase = 5 → i = 0) →
    let range (read : Bool) (va m : Nat) := s.rangeOf (core / 64) la read (!read) 3 va m
    let from_ := if global source = true then range true (src i) n else .ok []
    let to_ := if global target = true then range false (dst i) n else .ok []
    let e : Instr := .copyPiece core j.id i
    (∀ va m t read, s.walkNow (core / 64) la.part la.root va = .ok t → 0 < m → va + m ≤ t.vbase + t.size → (if read = true then t.r else t.w) = true →
      range read va m = .ok [⟨t.pa va, m, t⟩]) ∧
    (s.sectorFree (core / 64) la j i = false → Disabled s e "COPY_PIECE") ∧
    (s.sectorFree (core / 64) la j i = true →
      (∀ x, from_ = .error x ∨ ((∃ ps, from_ = .ok ps) ∧ to_ = .error x) →
        (x.1 = true → exec e s = .next (s.jobStops core j .xlatePerm (dva x.2) j.prog)) ∧
        (x.1 = false → ∃ t f, exec e s = .next t ∧ job t { j with state := .parked } ∧ t.fwFaults = s.fwFaults ++ [f] ∧ f.cause = .xlateMiss ∧ f.addr = dva x.2 ∧
          f.flags = 3 ∧ f.prog = BitVec.ofNat 32 j.prog ∧ { t with cores := [], fwFaults := [] } = { s with cores := [], fwFaults := [] })) ∧
      (∀ ps qs, from_ = .ok ps → to_ = .ok qs → (step = true → j.phase = 0 → ∀ u ∈ s.uses, ∀ y ∈ ps.head?, u.head = y.pa → u.cohort = j.cohort ∨ u.id ∈ j.after) →
        let found := if step = true ∧ j.phase = 0 then ps.head? else none
        ∃ t xs, exec e s = .next t ∧ { t with cores := [], uses := [] } = { s with cores := [], uses := [] } ∧
          t.uses = s.uses ++ (found.map fun y => ⟨j.use, y.pa, j.cohort, j.widx, j.key, j.num, none⟩).toList ∧
          job t { j with begun := i + n, prog := j.prog + 1, left := xs, head := (found.map fun y => y.pa).or j.head } ∧
          (∀ b, i ≤ b → b < i + n → (step = true → j.phase = 5 → b < 4 ∨ 12 ≤ b) → ∃ o x, xs.find o = some x ∧ o ≤ b ∧ b < o + x.len) ∧
          ∀ o x, xs.find o = some x → i ≤ o ∧ o + x.len ≤ i + n ∧ x.len ∈ [1, 2, 4, 8, 16] ∧ block o % x.len = 0 ∧
            x.data = (if source = none then some ((leg.2.2.1.drop o).take x.len) else none) ∧
            (global source = false → x.src = []) ∧ (∀ ys, global source = true → range true (src o) x.len = .ok ys → x.src = ys) ∧
            (global target = false → x.dst = []) ∧ ∀ ys, global target = true → range false (dst o) x.len = .ok ys → x.dst = ys))) ∧
  (∀ la o x, s.launchOf j.cohort = some la → s.fenced j = false → j.state = .running ∨ j.state = .parked → j.left.find o = some x →
    let e : Instr := .copyPiece core j.id o
    let takes (bs : List Byte) (rest : List Piece) : Prop := ∃ t, exec e s = .next t ∧ { t with cores := [] } = { s with cores := [] } ∧
      (rest ≠ [] ∨ target.isSome = true → job t { j with left := j.left.put o { x with src := rest, data := some bs } }) ∧
      (rest = [] → target = none → ∃ B : FMap (FMap Byte), goesOn t { j with left := j.left.del o, buf := B } ∧ (∀ q, q ≠ j.phase → B.find q = j.buf.find q) ∧
        ∀ m, ((B.find j.phase).getD []).find m = if o ≤ m ∧ m < o + bs.length then bs[m - o]? else ((j.buf.find j.phase).getD []).find m)
    (x.src = [] → x.data = none →
      let as := (addrs (src o) x.len).map (s.jobVault j)
      let undrained : Prop := step = true ∧ ∃ w, s.jobWave j.slot j.cohort = some w ∧ ∃ d ∈ w.visible j.key j.num, ∃ a ∈ as, a ∈ d.vaultBytes
      let astray := (addrs (src o) x.len).find? fun y => !s.jobReaches j y
      let bad := (addrs (src o) x.len).find? fun y => s.poisonV.any (· == s.jobVault j y / 16)
      (before false 0 as ∨ undrained → Disabled s e "COPY_PIECE") ∧
      (¬ before false 0 as → ¬ undrained →
        (∀ a, astray = some a → exec e s = .next (s.pieceStops core j o .vaultBound (BitVec.ofNat 64 a))) ∧
        (∀ a, astray = none → bad = some a → exec e s = .next (s.pieceStops core j o .eccUncorrectable (BitVec.ofNat 64 a))) ∧
        (astray = none → bad = none → takes (as.map s.vaultByte) []))) ∧
    (∀ y rest, x.src = y :: rest →
      let got := x.data.getD []
      let va := src o + got.length
      let waits : Prop := before false 1 (addrs va y.len) ∨ (isHost y.pa = true ∧ s.portFree (addrs y.pa y.len) = false)
      let bad := if s.hasLink y.pa = false then some y.pa else (addrs y.pa y.len).find? fun a => s.poisonG.any (· == a / 64)
      (waits → Disabled s e "COPY_PIECE") ∧
      (∀ a, ¬ waits → bad = some a → exec e s = .next (s.pieceStops core j o .eccUncorrectable (dva (va + (a - y.pa))))) ∧
      (¬ waits → bad = none → takes (got ++ s.gbytes y.t.key y.pa y.len) rest)) ∧
    (∀ bs, x.src = [] → x.data = some bs → bs.length = x.len →
      let as := (addrs (dst o) x.len).map (s.jobVault j)
      let astray := (addrs (dst o) x.len).find? fun y => !s.jobReaches j y
      let done (u : State) : Prop := ∃ t, exec e s = .next t ∧ { t with cores := [] } = { u with cores := [] } ∧ goesOn t { j with left := j.left.del o }
      (j.kind = .copyc → (before true (2 + j.slot) [tileAddr j.tile 0] → Disabled s e "COPY_PIECE") ∧
        (¬ before true (2 + j.slot) [tileAddr j.tile 0] → (s.jobWave j.slot j.cohort = none → done s) ∧
          ∀ w, s.jobWave j.slot j.cohort = some w → dst o + x.len ≤ 16384 → ∃ v g, done { s with waves := s.waves.put j.slot v, poisonT := g } ∧
            { v with tmem := [] } = { w with tmem := [] } ∧ ∀ m b, b < 16384 → Memory.byte v.tmem (tileAddr m b) =
              if m = j.tile ∧ dst o ≤ b ∧ b < dst o + x.len then bs[b - dst o]? else Memory.byte w.tmem (tileAddr m b))) ∧
      (j.kind ≠ .copyc → global target = true → j.race = false →
        let waits : Prop := before true 1 (addrs (dst o) x.len) ∨ ∃ y ∈ x.dst, isHost y.pa = true ∧ s.portFree (addrs y.pa y.len) = false
        (waits → Disabled s e "COPY_PIECE") ∧
        (¬ waits → done (x.dst.foldl (fun (q : State × List Byte) y =>
          (if s.hasLink y.pa = true then q.1.homeWrite y.t.key ((addrs y.pa y.len).zip q.2) else q.1, q.2.drop y.len)) (s, bs)).1)) ∧
      (j.kind ≠ .copyc → global target = false →
        (before true 0 as → Disabled s e "COPY_PIECE") ∧
        (¬ before true 0 as → (∀ a, astray = some a → exec e s = .next (s.pieceStops core j o .vaultBound (BitVec.ofNat 64 a))) ∧
          (astray = none → done ((s.vaultWrite (as.zip bs)).setTags (if j.layout.getLsbD 3 then j.layout.toNat else 0) as)))))) ∧
  (j.state = .running → j.left = [] →
    let e : Instr := .jobCompletion core j.id
    (step = false → j.rows * j.rowb ≤ i → ∀ c, s.cohorts.find j.cohort = some c →
      let reach : Prop := ∀ f, j.flag = some f → ∀ y ∈ addrs f.1 8, s.jobReaches j y = true
      let flagged : State := match j.flag with
        | some f => s.vaultWrite (((addrs f.1 8).map (s.jobVault j)).zip (leBytes 8 f.2.toNat))
        | none => s
      let arrived : State := match j.bar with
        | some b => if c.gone then flagged else flagged.barrier j.cohort b fun y => { y with ecnt := min (y.ecnt + 1) 0xFFFF }
        | none => flagged
      (∀ f, j.flag = some f → ¬ reach → exec e s = .next (s.jobStops core j .vaultBound (BitVec.ofNat 64 f.1) j.prog)) ∧
      (reach → ∃ t d, exec e s = .next t ∧ { t with cores := [] } = { arrived with cores := [] } ∧ t.cores.find core = some d ∧
        (j.kind ≠ .copyc → d = { k with jobs := k.jobs.filter fun y => y.id != j.id }) ∧
        (j.kind = .copyc → ∃ m : Mma, d = { k with jobs := k.jobs.map (fun y => if y.id = j.id then { j with state := .handedOver } else y), mmas := k.mmas ++ [m] } ∧
          (m.slot, m.strand, m.pc, m.started, m.job) = (j.slot, j.strand, j.pc, false, some j.id) ∧ m.op = mmaOf j.ext))) ∧
    (step = true → j.phase = 10 → ∃ t d, exec e s = .next t ∧ { t with cores := [], waves := [] } = { s with cores := [], waves := [] } ∧
      t.cores.find core = some d ∧ d = { k with jobs := k.jobs.filter fun y => y.id != j.id } ∧
      ∀ w, s.jobWave j.slot j.cohort = some w → ∃ v, t.waves.find j.slot = some v ∧ ∀ x r, w.run x = some r → ∃ q, v.run x = some q ∧
        q.flights = r.flights.map fun f => if f.state = .job j.id then { f with state := .ready, writes := Wr.q j.tile j.hit ::
          if j.kind = .stepchk ∧ j.hit = true then [.skip 1] else [] } else f)) ∧
  ((j.state ≠ .running ∨ j.left ≠ [] ∨ (step = false ∧ i < j.rows * j.rowb) ∨ (step = true ∧ j.phase ≠ 10)) → Disabled s (.jobCompletion core j.id) "JOB_COMPLETION") ∧
  (j.state = .parked → ∃ t, exec (.jobResume core j.id) s = .next t ∧ job t { j with state := .running } ∧ ∀ f ∈ t.fwFaults, f ∈ s.fwFaults) ∧
  (∀ w, j.state = .capturing → s.fenced j = false → s.jobWave j.slot j.cohort = some w → w.trapped = false → s.poisonT = [] →
    let x := tstgStage s.tick j.slot w j
    ∃ t v, exec (.tstgCapture core j.id) s = .next t ∧ job t { j with state := .running, staged := x.1 } ∧ t.waves.find j.slot = some v ∧
      v.fpstat = w.fpstat ||| x.2 ∧ v.tmem = w.tmem ∧ ∀ e r, w.run e = some r →
        v.run e = some (if r.wait = some (.capture j.id) then { r with wait := none } else r))

/-- R267, R268, R269, R270, R313: the array starts its oldest MMA, one at a time; when it completes, its tile and FPSTAT are written, the results of its
instruction exist; of one whose checksum fails only the tile is written, and it takes MMA_CHECK (R8, R98). One of
whose tile operands a granule is poisoned by then writes nothing, and the wave's trap is due. -/
def Obligations.MatrixArrayRunsMmas : Prop :=
  ∀ (s : State) (core : Nat) (k : Core) (m : Mma) (rest : List Mma), s.cores.find core = some k → k.mmas = m :: rest →
  (m.started = false → Disabled s (.mmaComplete core) "MMA_COMPLETE" ∧ ∃ t c, exec (.mmaStart core) s = .next t ∧
    { t with cores := [] } = { s with cores := [] } ∧ t.cores.find core = some c ∧ c = { k with mmas := { m with started := true } :: rest }) ∧
  (m.started = true → Disabled s (.mmaStart core) "MMA_START" ∧ ∀ w, s.waves.find m.slot = some w → w.depth = 0 →
    (∀ x, s.mmaPoison m.slot w m.op = some x → w.alive = true → w.due = none →
      (m.job = none → ∃ y ∈ w.runs, ∃ f ∈ y.2.flights, f.state = .job m.id) → ∃ (t : State) (c : Core) (v : Wave) (p : FaultRec),
        exec (.mmaComplete core) s = .next t ∧ t.cores.find core = some c ∧ c.mmas = rest ∧ t.gmem = s.gmem ∧ t.vmem = s.vmem ∧
        t.waves.find m.slot = some v ∧ v.tmem = w.tmem ∧ v.fpstat = w.fpstat ∧ v.due = some p ∧ p.cause = .eccUncorrectable ∧ p.addr = BitVec.ofNat 64 x) ∧
    (s.mmaPoison m.slot w m.op = none → ∀ ws check, m.op.result s.tick m.slot w = (ws, check) → m.job = none →
    (check = none → ∃ t c v, exec (.mmaComplete core) s = .next t ∧ t.cores.find core = some c ∧ c = { k with mmas := rest } ∧
      t.gmem = s.gmem ∧ t.vmem = s.vmem ∧ (∀ j, j ≠ m.slot → t.waves.find j = s.waves.find j) ∧ t.waves.find m.slot = some v ∧
      (∀ r, v.tmem = (applyWrs w r ws).1.tmem ∧ v.fpstat = (applyWrs w r ws).1.fpstat) ∧
      ∀ e r, w.run e = some r → ∃ q, v.run e = some q ∧ ∀ f ∈ r.flights, f.state = .job m.id → ∃ g ∈ q.flights, g.pc = f.pc ∧ g.dests = f.dests ∧ g.state = .done) ∧
    (∀ a, check = some a → w.trapped = false → ∃ (u : State) (v : Wave) (f : FaultRec), exec (.mmaComplete core) s = .next (u.waveTrap m.slot f none) ∧
      f.cause = .mmaCheck ∧ f.addr = BitVec.ofNat 64 a ∧ f.flags = 0 ∧ f.prog = 0 ∧ f.pc = BitVec.ofNat 48 m.pc ∧
      (∀ e r, w.runs.find? (fun r => r.2.flights.any fun f => f.state == .job m.id) = some (e, r) → f.mask = r.mask) ∧
      { u with waves := [], cores := [], poisonT := [] } = { s with waves := [], cores := [], poisonT := [] } ∧ u.waves.find m.slot = some v ∧
      (∀ j, j ≠ m.slot → u.waves.find j = s.waves.find j) ∧ v.fpstat = w.fpstat ∧ ∀ r, v.tmem = (applyWrs w r ws).1.tmem)))

/-! ## Launches, gangs, and the work distributor -/

/-- R202, R283, R284, R285, R286, R287, R288, R299, R347: the command processor takes the packet at HEAD of a queue that is not empty: an overrun is refused with reason 7,
a packet that fails a check with that check's reason, each with a completion record; another becomes a launch, with its groups, and stale copies of its code are gone; a gang's is originated. The checks come in the order 1, 6, 5, 2, 4, 3; reason 5
is given where the code, the arguments, the group table or a list of members cannot be read.
Its reads of host memory come behind the parts that the host port has still to perform (R202). The reach of an overrun and how reason 5 is judged are the model's (logs 51, 52). -/
def Obligations.PacketsAreAcceptedOrRefused : Prop :=
  ∀ (s : State) (part queue h : Nat) (p : Partition) (q : Queue), s.down = false → s.parts.find part = some p → p.queues.find queue = some q →
  let word (pa : Nat) : DWord := BitVec.ofNat 64 (leNat (s.gbytes p.dkey pa 8))
  let i : Instr := .packetAccept part queue h
  let packet := s.gbytes p.dkey (q.ring + 128 * ((word q.head).toNat % 2 ^ q.k)) 128
  let l := packetLaunch part queue packet
  let n := (word q.tail - word q.head).toNat
  let moved (f : Queue → Queue) : State := (s.homeWrite p.dkey ((addrs q.head 8).zip (leBytes 8 (word q.head + 1).toNat))).modPart part fun x =>
    { x with queues := x.queues.change queue f }
  let refused (u : State) (reason : Nat) : State := u.complete ⟨part, queue, BitVec.ofNat 64 (field packet 96 8), 1, reason, 0, 0, 0⟩
  (n = 0 → Disabled s i "PACKET_ACCEPT") ∧
  (h < 256 → s.launches.find h = none → s.selfChip.isSome = true → n ≠ 0 →
    (q.overrun = none → 2 ^ q.k < n → ∃ f, exec i s = .next (refused (moved f) 7)) ∧
    (q.overrun = none → n ≤ 2 ^ q.k → s.judgeFree p part queue packet = false → Disabled s i "PACKET_ACCEPT") ∧
    (q.overrun = none → n ≤ 2 ^ q.k → s.judgeFree p part queue packet = true →
      (∀ r, s.judge p part queue packet = .error r → exec i s = .next (refused (moved id) r)) ∧
      (∀ x, s.judge p part queue packet = .ok x → ∃ t y, exec i s = .next t ∧ t.launches = s.launches.put h y ∧
        y = { x with seq := word q.head, after := q.last } ∧ t.gmem = (moved id).gmem ∧ t.waves = s.waves ∧ t.cohorts = s.cohorts ∧
        t.gangs = (if x.gang then s.gangs.put x.gangId ⟨x.gangId, (s.routes.filter fun e => e.2.getLsbD 31).map (·.1), [], [], [], false, false, false⟩ else s.gangs) ∧
        ∀ e, e ∈ t.icache ↔ e ∈ s.icache ∧ ¬ (e.core ∈ p.cores ∧ e.root = x.root ∧ x.code ≤ e.va ∧ e.va < x.code + x.extent)))) ∧
  (let judged := s.judge p part queue packet
   let good : Prop := packetBad p.debug packet = false ∧ (l.protect = true → l.lanes ≤ 256)
   let args := s.rangeRead 0 l (BitVec.ofNat 64 (field packet 16 8)) l.argsz
   let table := s.groupTable 0 l (BitVec.ofNat 64 (field packet 48 8))
   (packetBad p.debug packet = true → judged = .error 1) ∧
   (packetBad p.debug packet = false → l.protect = true → 256 < l.lanes → judged = .error 6) ∧
   (good → s.codeMapped 0 l = false ∨ args = none ∨ table = none → judged = .error 5) ∧
   (∀ as es, good → s.codeMapped 0 l = true → args = some as → table = some es →
      let fits : Prop := tableBad l es = false ∧ p.cores ≠ [] ∧ l.perCore ≠ 0
      (tableBad l es = true → judged = .error 2) ∧ (tableBad l es = false → p.cores = [] ∨ l.perCore = 0 → judged = .error 4) ∧
      (fits → l.persistent = true → l.coResident p.cores = false → judged = .error 3) ∧
      (fits → (l.persistent = true → l.coResident p.cores = true) → ∃ x, judged = .ok x ∧ { x with args := [], groups := [] } = l ∧ x.args = as ∧
        ∀ g e, es[g]? = some e → x.groups.find g = if e.1.flags % 2 = 1 then some ⟨e.2, true, e.1.flags / 2 % 2 == 1, 0, 0, false, []⟩ else none))) ∧
  (∀ c : Completion, c.status < 256 → c.reason < 256 → c.faults < 2 ^ 32 → c.left < 2 ^ 64 → c.wdog < 2 ^ 64 →
    c.bytes.length = 32 ∧ field c.bytes 0 8 = c.tag.toNat ∧ field c.bytes 8 1 = c.status ∧ field c.bytes 9 1 = c.reason ∧ field c.bytes 10 2 = 0 ∧
    field c.bytes 12 4 = c.faults ∧ field c.bytes 16 8 = c.left ∧ field c.bytes 24 8 = c.wdog)

/-- R15, R16, R17, R18, R24, R25, R26, R28, R289, R299: the cohorts of a whole cluster are bound where each fits, on distinct cores of one rectangle, as one
step, every wave with its registers zero, its root strand at the entry point with the stack of its wave in s62 and one live lane for each of the launch's lanes; not where
one does not fit, nor, in a SERIAL launch, before the launch ahead of it has ended. A gang's chip binds its whole grid so. What a register holds where the manual gives no value, VB
and LIM of a translation register among them, and that the root strand takes lattice entry 0, are the model's choices (logs 3, 81). -/
def Obligations.CohortsAreBound : Prop :=
  ∀ (s : State) (h : Nat) (l : Launch) (ps : List Place), s.launches.find h = some l → s.down = false → ps ≠ [] →
  (∀ p ∈ ps, p.launch = h ∧ p.cohort < l.cohorts ∧ s.cohorts.find (cohortKey h p.cohort) = none) →
  let core (p : Place) : Nat := 64 * p.die + p.core
  let apart : Prop := (ps.map core).Nodup
  let cluster : Prop := ps.length = l.clsz ∧ apart ∧ (∀ p ∈ ps, ∀ q ∈ ps, core p / 64 = core q / 64 ∧ core p % 64 / 8 ≤ core q % 64 / 8 + 3 ∧ core p % 8 ≤ core q % 8 + 3) ∧
    ∃ n, ps.map (·.cohort) = addrs (n * l.clsz) l.clsz
  let fit (p : Place) : Prop := s.fitsAt l p (List.range l.waves) = true
  let window (p : Place) (a : Nat) : Prop := vaultBase (core p) + p.wbase ≤ a ∧ a < vaultBase (core p) + p.wbase + l.window
  let bound (t : State) : Prop := t.gmem = s.gmem ∧ (∀ a, (∀ p ∈ ps, ¬ window p a) → Memory.byte t.vmem a = Memory.byte s.vmem a) ∧
    (∀ slot, (∀ p ∈ ps, slot ∉ placeSlots p) → t.waves.find slot = s.waves.find slot) ∧ ∀ p ∈ ps, (∀ a, window p a → Memory.byte t.vmem a = none) ∧
    t.cohorts.find (cohortKey h p.cohort) = some ⟨h, p.cohort, p.die, p.core, p.wbase, l.window, l.waves, [],
      List.replicate 16 ⟨l.waves, 0, 0, 0, 0, 0, 0, []⟩, false, false, false, false, [], []⟩ ∧
    ∀ i slot, (placeSlots p)[i]? = some slot → ∃ w r, t.waves.find slot = some w ∧ w.run 0 = some r ∧ w.cohort = cohortKey h p.cohort ∧ w.widx = i ∧
      w.state = .bound ∧ (w.budget, w.ntiles, w.fpmode, w.mmatol) = (l.budget, l.tiles, l.fpmode, l.mmatol) ∧ some w.tmask = p.tiles[i]? ∧
      (∀ n k, w.lane n k = 0) ∧ (∀ n, 0 < n → w.pred n = 0) ∧ (∀ n, w.xreg n = ⟨false, 0, 0, none, false⟩) ∧ w.sb = [] ∧ w.pq = [] ∧
      (w.warn, w.fpstat, w.skipcnt, w.splitser) = (0, 0, 0, 0) ∧ (∀ n, w.shapeOf n = 0x2102 ∧ w.layoutOf n = 0) ∧
      (∀ k, k < 32 → (w.live.getLsbD k = true ↔ if l.protect then 16 * i + k / 2 < l.lanes else 32 * i + k < l.lanes)) ∧
      r.mask = w.live ∧ r.pc = l.code + l.entry ∧ r.role = .root ∧ r.wait = none ∧ (∀ n, r.qreg n = true ↔ n = 0) ∧
      ∀ n, sreg w r n = if n = 62 then l.stack + BitVec.ofNat 64 ((l.waves * p.cohort + i) * l.stksz) else 0
  (l.gang = true ∨ l.ended = true ∨ ¬ cluster ∨ s.serialOk l = false ∨ (∃ p ∈ ps, ¬ fit p) → Disabled s (.cohortBind h ps) "COHORT_BIND") ∧
  (l.gang = false → l.ended = false → cluster → s.serialOk l = true → (∀ p ∈ ps, fit p) → ∃ t m, exec (.cohortBind h ps) s = .next t ∧ bound t ∧
    t.launches.find h = some m ∧ m = { l with bound := l.bound ++ ps.map (·.cohort) }) ∧
  (l.gang = true → l.ended = false → l.gphase = .none → (∀ g, s.gangs.find l.gangId = some g → g.cancelled = false) → ps.length = l.cohorts →
    (groupsOf l.clsz ps.length ps).all (clusterPlaces l) = true → apart → (ps.map (·.cohort)).Nodup → s.serialOk l = true → (∀ p ∈ ps, fit p) →
    ∃ t m, exec (.gangPrepare l.part l.queue ⟨h, none⟩ ps) s = .next t ∧ bound t ∧ t.launches.find h = some m ∧
      m = { l with bound := l.bound ++ ps.map (·.cohort), gphase := .prepared })

/-- R29, R30, R179, R180, R189, R292, R294, R296, R297, R298, R301, R307, R308, R309: a wave leaves its slot only when its strands, entries, parts,
answers and MMAs are over; its cohort counts it as retired, a group or the cluster that waited for it alone goes on, a group whose members' waves are then all retired completes a phase for each RELEASE that it holds, and a trap still due is taken
instead. A cohort retires after its waves, jobs and loads; a killed wave holds nothing that could still issue: the debugger kills a halted wave with no
record, the firmware one whose miss it cannot resolve with the miss's. The watchdog counts a launch's cycles and ends it at its limit;
an overflow record goes to a deque with room; a work request is granted the next coordinate or none, a killed wave's to nobody, and an answer lands
as 16 bytes. The discard in one step, the requests' order, the trap due at retirement, the two ring entries that a task's record takes at a plain kill and the
loads that hold a cohort back are the model's (logs 47 to 50, 70, 85, 86). -/
def Obligations.WavesCohortsAndRequestsEnd : Prop :=
  ∀ (s : State),
  (∀ slot w k c, s.waves.find slot = some w → w.state ≠ .killed → s.cores.find (slotCore slot) = some k → s.cohorts.find w.cohort = some c →
    let finished : Prop := w.lattice = [] ∧ w.sb = [] ∧ w.pq = [] ∧ w.nextw = 0 ∧ (∀ m ∈ k.mmas, m.slot ≠ slot) ∧
      ∀ j ∈ k.jobs, j.kind = .copyc → j.slot = slot → j.cohort = w.cohort → j.state = .stopped
    (¬ finished → Disabled s (.waveRetire slot) "WAVE_RETIRE") ∧
    (finished → ∀ f, w.due = some f → exec (.waveRetire slot) s = .next (s.waveTrap slot f none)) ∧
    (∀ l, finished → w.due = none → FMap.risingFrom 0 s.waves = true → s.launches.find c.launch = some l → FMap.risingFrom 0 l.groups = true →
      let d : Cohort := { c with retired := c.retired ++ [w.widx] }
      let cohorts := s.cohorts.put w.cohort d
      let arrived (members : List Nat) (counts : Cohort → FMap Nat) (key phase : Nat) : Prop :=
        ∀ i ∈ members, ∃ x, cohorts.find (cohortKey c.launch i) = some x ∧ ∀ k, k < x.nwaves → k ∉ x.retired → phase < ((counts x).find (key * 16 + k)).getD 0
      let left (members : List Nat) : Prop := ∃ i ∈ members, ∃ x k, cohorts.find (cohortKey c.launch i) = some x ∧ k < x.nwaves ∧ k ∉ x.retired
      let opens (g : Nat) (x : Group) : Prop := c.index ∈ x.members ∧ arrived x.members Cohort.gbar g x.phase ∧ (left x.members ∨ x.rwait = true) ∧
        (x.rwait = true → x.held ≠ 0)
      let cl := c.index / l.clsz
      let joins : Prop := arrived (addrs (cl * l.clsz) l.clsz) Cohort.cbar 0 (l.cluster cl).phase ∧ left (addrs (cl * l.clsz) l.clsz)
      ∃ t m, exec (.waveRetire slot) s = .next t ∧ t.waves.find slot = none ∧ t.cohorts = cohorts ∧ t.launches.find c.launch = some m ∧
        { m with groups := [], clusters := [] } = { l with groups := [], clusters := [] } ∧
        { t with waves := [], cohorts := [], launches := [], poisonR := [], poisonT := [], saved := [] } =
          { s with waves := [], cohorts := [], launches := [], poisonR := [], poisonT := [], saved := [] } ∧
        (∀ g x, l.groups.find g = some x → ∃ y, m.groups.find g = some y ∧ (y.members, y.valid, y.rwait, y.lost) = (x.members, x.valid, x.rwait, x.lost) ∧
          (opens g x → (left x.members → y.phase = x.phase + 1 ∧ y.held = if x.rwait then x.held - 1 else x.held) ∧
            (¬ left x.members → y.phase = x.phase + x.held ∧ y.held = 0)) ∧ (¬ opens g x → y = x)) ∧
        (joins → (m.cluster cl).phase = (l.cluster cl).phase + 1) ∧ (¬ joins → m.clusters = l.clusters) ∧
        ∀ j v, j ≠ slot → s.waves.find j = some v → ∃ u, t.waves.find j = some u ∧
          { u with lattice := [], before := [] } = { v with lattice := [], before := [] } ∧ ∀ e r, v.run e = some r → ∃ q, u.run e = some q ∧
            { q with wait := none, q := 0 } = { r with wait := none, q := 0 } ∧ (q.wait = r.wait ∨ q.wait = none) ∧
            ((∀ g ph b, r.wait ≠ some (.group g ph b)) → (∀ ph b, r.wait ≠ some (.cluster ph b)) → q = r) ∧
            (∀ x g ph b, s.cohorts.find v.cohort = some x → x.launch = c.launch → r.wait = some (.group g ph b) → (∀ y, l.groups.find g = some y → opens g y → ph ≤ y.phase → q.wait = none) ∧
              (∀ y, l.groups.find g = some y → ¬ opens g y → q = r)))) ∧
  (∀ slot w, s.waves.find slot = some w → w.state = .killed →
    (w.pq ≠ [] → Disabled s (.waveRetire slot) "WAVE_RETIRE") ∧ (w.pq = [] → ∃ t, exec (.waveRetire slot) s = .next t ∧ t.waves = s.waves.del slot)) ∧
  (∀ slot w c l, s.waves.find slot = some w → w.state ≠ .killed → s.cohorts.find w.cohort = some c → s.launches.find c.launch = some l →
    let dead (t : State) : Prop := ∃ v d, t.waves.find slot = some v ∧ v.state = .killed ∧ v.lattice = [] ∧ v.sb = [] ∧ v.pq = w.pq ∧
      v.task = none ∧ t.cohorts.find w.cohort = some d ∧ d.fatal = true ∧ w.widx ∈ d.retired ∧ ∀ b ∈ d.barriers, b.status = 1
    let counted (t : State) (n : Nat) (fatal : Bool) : Prop := ∃ m, t.launches.find c.launch = some m ∧ (m.faults, m.anyFatal) = (n, fatal)
    (w.state ≠ .halted → Disabled s (.waveKill ⟨slot, true⟩) "WAVE_KILL") ∧
    (w.state = .halted → ∃ t, exec (.waveKill ⟨slot, true⟩) s = .next t ∧ dead t ∧ counted t l.faults l.anyFatal ∧
      (w.task = none ∨ w.fatal ≠ none → t.parts = s.parts ∧ t.gmem = s.gmem) ∧
      (∀ k p, w.task = some k → w.fatal = none → s.parts.find l.part = some p → p.faults.used + 2 ≤ 2 ^ p.faults.k →
        (t.parts.find l.part).map Partition.faults = some { p.faults with put := p.faults.put + 2 })) ∧
    (s.missRecord slot w = none → Disabled s (.waveKill ⟨slot, false⟩) "WAVE_KILL") ∧
    (∀ f, s.missRecord slot w = some f → ∃ t, exec (.waveKill ⟨slot, false⟩) s = .next t ∧ dead t ∧
      counted t (min (l.faults + 1) 0xFFFFFFFF) true ∧ ∀ g ∈ t.fwFaults, g ∈ s.fwFaults ∧ g.wave ≠ waveField slot)) ∧
  (∀ key c l, s.cohorts.find key = some c → s.launches.find c.launch = some l →
    (c.retired.length ≠ c.nwaves ∨ c.gone = true ∨ (∃ e ∈ s.waves, e.2.cohort = key) ∨ (∃ e ∈ s.cores, ∃ j ∈ e.2.jobs, j.cohort = key) ∨
      (∃ x ∈ s.loads, x.cohort = key) → Disabled s (.cohortRetire key) "COHORT_RETIRE") ∧
    (c.retired.length = c.nwaves → c.gone = false → (∀ e ∈ s.waves, e.2.cohort ≠ key) → (∀ e ∈ s.cores, ∀ j ∈ e.2.jobs, j.cohort ≠ key) →
      (∀ x ∈ s.loads, x.cohort ≠ key) → key = cohortKey c.launch c.index →
      ∃ t d m, exec (.cohortRetire key) s = .next t ∧ (∀ x ∈ t.subs, x ∈ s.subs ∧ x.cohort ≠ key) ∧
        (l.done.length + 1 < l.cohorts → l.ended = false → t.cohorts.find key = some d ∧ d.gone = true ∧ t.launches.find c.launch = some m ∧
          m.done = l.done ++ [c.index] ∧ m.ended = false ∧ (c.fatal = false → 0 < l.clsz → d.freed = true)))) ∧
  (∀ h l cycles, s.launches.find h = some l →
    let counts : Prop := ∃ e ∈ s.waves, e.2.state ≠ .halted ∧ e.2.state ≠ .killed ∧ ∃ c, s.cohorts.find e.2.cohort = some c ∧ c.launch = h
    (¬ counts ∨ l.ended = true → Disabled s (.watchdog h cycles) "WATCHDOG") ∧
    (counts → l.ended = false → (l.wdog = 0 ∨ l.wcount + cycles < l.wdog * 2 ^ 20) →
      exec (.watchdog h cycles) s = .next { s with launches := s.launches.put h { l with wcount := l.wcount + cycles } }) ∧
    (counts → l.ended = false → l.wdog ≠ 0 → l.wdog * 2 ^ 20 ≤ l.wcount + cycles → exec (.watchdog h cycles) s = .next
      (State.abortLaunch { s with launches := s.launches.put h { l with wcount := l.wdog * 2 ^ 20 } } h 3))) ∧
  (∀ part core p k x rest, s.parts.find part = some p → s.cores.find core = some k → p.overflow = x :: rest → k.part = part →
    (k.deque.length < 256 → exec (.overflowMove part core) s = .next
      { s with parts := s.parts.put part { p with overflow := rest }, cores := s.cores.put core { k with deque := k.deque ++ [x] } }) ∧
    (256 ≤ k.deque.length → Disabled s (.overflowMove part core) "OVERFLOW_MOVE")) ∧
  (∀ h l n who a, s.launches.find h = some l → l.distrib = true → l.reqs[n]? = some (who, a) →
    let g := l.grants
    let place : DWord := if g < l.dx * l.dy * l.dz then BitVec.ofNat 64 (g % l.dx + g / l.dx % l.dy * 2 ^ 16 + g / (l.dx * l.dy) * 2 ^ 32)
      else 0xFFFFFFFFFFFFFFFF
    let first : Prop := ∀ x ∈ l.reqs.take n, x.1 ≠ who ∨ x.1 = none
    let answer : List (Nat × Nat × Nat × DWord) := match who with
      | some slot => [(slot, a, g, place)]
      | none => []
    let m : Launch := { l with grants := g + 1, reqs := l.reqs.eraseIdx n, answers := l.answers ++ answer }
    (first → exec (.distributorGrant h n) s = .next { s with launches := s.launches.put h m }) ∧
    (¬ first → Disabled s (.distributorGrant h n) "DISTRIBUTOR_GRANT")) ∧
  (∀ h l n slot a g place w, s.launches.find h = some l → l.answers[n]? = some (slot, a, g, place) → s.waves.find slot = some w →
    exec (.nextwAnswer h n) s = .next
      { State.vaultWrite { s with launches := s.launches.put h { l with answers := l.answers.eraseIdx n } }
          ((addrs a 16).zip (leBytes 8 place.toNat ++ leBytes 8 (g + 1))) with waves := s.waves.put slot { w with nextw := w.nextw - 1 } })

/-- R177, R288, R299, R300: a gang's members bind with none issuing, in a SERIAL launch after the one before it, or refuse with a reason; the originator counts ACKs and sends START at the last one, or CANCEL at the
deadline, never both; START lets a member issue, CANCEL refuses its packet with reason 8, and a missing START-ACK aborts: every member's launch ends with STATUS 4.
The members, the packets and the abort in one step are the model's (logs 45, 46, 47), and so is that a deadline may pass at any
moment (log 63). -/
def Obligations.GangsStartTogetherOrNotAtAll : Prop :=
  ∀ (s : State) (gang chip : Nat) (g : Gang), s.gangs.find gang = some g →
  let put (x : Gang) : State := { s with gangs := s.gangs.put gang x }
  let new : Prop := chip ∈ g.members ∧ chip ∉ g.acks ∧ ∀ x ∈ g.nacks, x.1 ≠ chip
  (s.selfChip ≠ some chip → new → g.sentStart = false → exec (.gangAck gang chip) s = .next (put { g with
    acks := g.acks ++ [chip], sentStart := !g.cancelled && decide (g.acks.length + 1 = g.members.length) })) ∧
  (chip ∉ g.members ∨ chip ∈ g.acks ∨ (∃ x ∈ g.nacks, x.1 = chip) ∨ g.sentStart = true → Disabled s (.gangAck gang chip) "GANG_ACK") ∧
  (∀ reason, s.selfChip ≠ some chip → new → exec (.gangNack gang ⟨chip, reason⟩) s = .next (put { g with nacks := g.nacks ++ [(chip, reason)] })) ∧
  (g.sentStart = false → g.cancelled = false → exec (.prepareDeadline gang) s = .next (put { g with cancelled := true })) ∧
  (g.sentStart = true ∨ g.cancelled = true → Disabled s (.prepareDeadline gang) "PREPARE_DEADLINE") ∧
  (s.selfChip ≠ some chip → chip ∈ g.members → chip ∉ g.started → g.sentStart = true → g.aborted = false →
    exec (.gangStartAck gang chip) s = .next (put { g with started := g.started ++ [chip] })) ∧
  (g.sentStart = true → g.aborted = false → g.started.length < g.members.length → exec (.startDeadline gang) s = .next (put { g with aborted := true })) ∧
  (g.sentStart = false ∨ g.aborted = true ∨ g.members.length ≤ g.started.length → Disabled s (.startDeadline gang) "START_DEADLINE") ∧
  (∀ h l, s.launches.find h = some l → l.gang = true → l.gangId = gang → l.ended = false →
    (∀ places u, s.down = false → l.gphase = .none → g.cancelled = false → places.length = l.cohorts →
      (groupsOf l.clsz places.length places).all (clusterPlaces l) = true → places ≠ [] → s.bindAll h l places = some u →
      (s.serialOk l = true → ∃ t m, exec (.gangPrepare l.part l.queue ⟨h, none⟩ places) s = .next t ∧ t.waves = u.waves ∧ t.cohorts = u.cohorts ∧
        t.launches.find h = some m ∧ m.gphase = .prepared) ∧
      (s.serialOk l = false → Disabled s (.gangPrepare l.part l.queue ⟨h, none⟩ places) "GANG_PREPARE")) ∧
    (s.down = false → l.gphase = .none → g.cancelled = false → exec (.gangPrepare l.part l.queue ⟨h, none⟩ []) s = .next
      { s with launches := s.launches.put h { l with gphase := .nacked 3 } }) ∧
    (l.gphase = .prepared → g.sentStart = true → exec (.gangStart h) s = .next { s with launches := s.launches.put h { l with gphase := .started } }) ∧
    (g.sentStart = false → Disabled s (.gangStart h) "GANG_START") ∧
    (l.gphase ≠ .started → g.cancelled = true → ∃ t, exec (.gangCancel h) s = .next t ∧ t.launches = s.launches.del h ∧
      t.gmem = (s.complete ⟨l.part, l.queue, l.tag, 1, 8, 0, 0, 0⟩).gmem ∧
      ∀ slot w, s.waves.find slot = some w → (∀ e ∈ s.cohorts, e.1 = w.cohort → e.2.launch ≠ h) → t.waves.find slot = some w) ∧
    (g.cancelled = false → Disabled s (.gangCancel h) "GANG_CANCEL") ∧
    (g.aborted = true → exec (.gangAbort h) s = .next (s.abortLaunch h 4)) ∧ (g.aborted = false → Disabled s (.gangAbort h) "GANG_ABORT"))

/-! ## Context, the debugger, and the module -/

/-- R183, R190, R234, R239, R255, R282, R310, R311, R313, R316, R317, R318, R319, R320: a whole unit is saved once nothing of it is under way, with its
waves and its window, and its subscriptions fall dormant; what else runs stays as it is. A restored cohort goes on where it is put, with its registers, its
window's bytes, its strands and its subscriptions, each of which gets its word's value with RESTORED set. The debugger halts a
wave, lets each strand go on at its next instruction, steps a strand, and reads and writes a halted wave's state; a wave halted by a fatal trap neither goes on nor steps.
A trap that is due is taken before a unit is saved. When a context is saved, that an undrained entry or load that would reach another partition's vault there
keeps it from being restored, and what the debugger writes are the model's (logs 30, 32, 64, 72 and 113). -/
def Obligations.ContextsAndTheDebugger : Prop :=
  ∀ (s : State),
  (∀ key c l, s.cohorts.find key = some c → s.launches.find c.launch = some l → l.gang = false → l.ended = false → c.gone = false → c.preempted = false →
    FMap.risingFrom 0 s.waves = true →
    let unit (e : Nat × Cohort) : Prop := e.2.launch = c.launch ∧ (l.persistent = true ∨ l.clusterOf e.2.index = l.clusterOf c.index)
    ((∃ e ∈ s.cohorts, e.1 ≠ key ∧ unit e ∧ e.2.gone = false ∧ e.2.preempted = false) → Disabled s (.preempt [key]) "PREEMPT") ∧
    ((∀ e ∈ s.cohorts, e.1 ≠ key → unit e → e.2.gone = true ∨ e.2.preempted = true) →
      (s.cohortQuiet key c = false → s.dueIn [key] = none → Disabled s (.preempt [key]) "PREEMPT") ∧
      (∀ slot f, s.dueIn [key] = some (slot, f) → exec (.preempt [key]) s = .next (s.waveTrap slot f none)) ∧
      (s.cohortQuiet key c = true → s.dueIn [key] = none → ∃ t sv, exec (.preempt [key]) s = .next t ∧ t.cohorts.find key = some { c with preempted := true } ∧
        (∀ k, k ≠ key → t.cohorts.find k = s.cohorts.find k) ∧ t.launches = s.launches ∧
        (∀ k w, s.waves.find k = some w → t.waves.find k = if w.cohort = key then none else some w) ∧
        t.saved = s.saved ++ [sv] ∧ sv.cohort = key ∧ t.vmem = s.vmem ∧
        (∀ a, (∀ e ∈ s.parts, c.place ∈ e.2.cores → a < e.2.carea.1 ∨ e.2.carea.1 + e.2.carea.2 ≤ a) → Memory.byte t.gmem a = Memory.byte s.gmem a) ∧
        (t.subs = s.subs.map fun b => if b.cohort = key then { b with dormant := true, owed := b.owed ++
          (s.pushes.filter fun p => p.core == b.core && p.slot == b.slot && p.word == b.word).flatMap fun p => p.answers } else b) ∧
        (∀ p, p ∈ t.pushes ↔ p ∈ s.pushes ∧ ¬ (p.core = c.place ∧ c.winBase ≤ p.slot ∧ p.slot < c.winBase + c.wsize)) ∧
        (∀ i w, sv.waves.find i = some w → ∃ e ∈ s.waves, e.2.cohort = key ∧ e.2.widx = i ∧ w = e.2) ∧
        ∀ o x, (o, x) ∈ sv.window ↔ (c.winBase + o, x) ∈ s.vmem ∧ o < c.wsize ∧ s.vkeys.find ((c.winBase + o) / 64) = some (s.vkeyOf c.place)))) ∧
  (∀ p key c l sv k, key = cohortKey p.launch p.cohort → s.cohorts.find key = some c → FMap.risingFrom 0 s.cohorts = true →
    s.launches.find p.launch = some l → c.launch = p.launch → c.index = p.cohort → l.gang = false → l.ended = false →
    c.preempted = true → c.freed = false → s.saved.find? (fun v => v.cohort == key) = some sv → s.down = false →
    (∀ e ∈ s.cohorts, e.1 ≠ key → e.2.launch = c.launch → (l.persistent = true → e.2.preempted = false) ∧
      (l.clusterOf e.2.index = l.clusterOf c.index → e.2.preempted = false ∧ e.2.freed = true)) →
    s.fitsAt l p (sv.waves.map (·.1)) = true → c.wsize = l.window → FMap.risingFrom 0 s.cores = true → s.cores.find (64 * p.die + p.core) = some k →
    let held := s.subs.filter fun b => b.cohort == key
    (∀ e ∈ s.cores, e.2.subs.length ≤ 4096) → k.subs.length + held.length ≤ 4096 →
    (∀ b ∈ held, b.dormant = true ∧ c.winBase ≤ b.slot ∧ b.slot + 16 ≤ c.winBase + c.wsize) →
    c.nwaves = l.waves → FMap.risingFrom 0 sv.waves = true → (∀ e ∈ sv.waves, e.1 < c.nwaves) → FMap.risingFrom 0 sv.window = true →
    let base := vaultBase (64 * p.die + p.core) + p.wbase
    let mv := moved [((p.launch, l.clusterOf p.cohort), c.winBase, c.wsize, base)] p.die
    let lands (x : Load) : Load := moveLoad mv (fun i => (placeSlots p).getD i 0) sv.waves x
    let inSlot (o : Nat) (b : Subscription) : Prop := b.slot ≤ c.winBase + o ∧ c.winBase + o < b.slot + 16
    (s.entriesReach l.part mv sv = false → Disabled s (.restore [p]) "RESTORE") ∧
    (s.entriesReach l.part mv sv = true → (∀ x ∈ s.loads, lands x = x ∨ s.inPartition l.part (lands x).ea = true) →
    ∃ t d, exec (.restore [p]) s = .next t ∧ t.cohorts.find key = some d ∧ d = { c with die := p.die, core := p.core, wbase := p.wbase, preempted := false } ∧
      (∀ i, i ≠ key → t.cohorts.find i = s.cohorts.find i) ∧ (t.saved.map fun v => v.cohort) = (s.saved.map fun v => v.cohort).filter (fun j => j != key) ∧
      ((∀ b ∈ held, b.owed = []) → t.saved = s.saved.filter fun v => v.cohort != key) ∧ t.gmem = s.gmem ∧
      (∀ o x, sv.window.find o = some x → o < c.wsize → (∀ b ∈ held, ¬ inSlot o b) → t.vaultByte (base + o) = x) ∧
      (t.subs = s.subs.map fun b => if b.cohort = key
        then { b with core := 64 * p.die + p.core, slot := base + (b.slot - c.winBase), dormant := false, owed := [] } else b) ∧
      (∀ (b : Subscription) (old : Nat → Byte), held = [b] → (∀ o, o < 16 → sv.window.find (b.slot - c.winBase + o) = some (old o)) →
        let missed := (old 12).toNat + 256 * (old 13).toNat
        let val := if s.hasLink (8 * b.word) = true then s.gword ((s.gkeys.find (b.word / 8)).getD 0) b.word else BitVec.allOnes 64
        t.vaultBytes (base + (b.slot - c.winBase)) 16 = leBytes 8 val.toNat ++ leBytes 4 ((s.seqs.find b.word).getD 0).toNat ++
          leBytes 2 (if (old 14).getLsbD 0 = true then min (missed + 1) 0xFFFF else missed) ++ leBytes 2 11) ∧
      ∀ i w slot, sv.waves.find i = some w → (placeSlots p)[i]? = some slot → ∃ v, t.waves.find slot = some v ∧ v.v = w.v ∧
        v.p = w.p ∧ v.s = w.s ∧ v.tmem = w.tmem ∧ (v.fpstat, v.fpmode, v.warn, v.skipcnt, v.state) = (w.fpstat, w.fpmode, w.warn, w.skipcnt, w.state) ∧
        (∀ n x, v.x.find n = some x → x.valid = true → x.stale = true) ∧
        ∀ e r, w.run e = some r → ∃ q, v.run e = some q ∧ (q.pc, q.sub, q.priv, q.q, q.mask, q.key, q.flights) = (r.pc, r.sub, r.priv, r.q, r.mask, r.key, r.flights) ∧
          ((∀ j, r.wait ≠ some (.capture j)) → q.wait = r.wait))) ∧
  (∀ slot w, s.waves.find slot = some w →
    let put (v : Wave) : State := { s with waves := s.waves.put slot v }
    (w.state = .bound ∨ w.state = .running → exec (.debugHalt slot) s = .next (put { w with state := .halted, single := none })) ∧
    (w.state ≠ .bound → w.state ≠ .running → Disabled s (.debugHalt slot) "DEBUG_HALT") ∧
    (w.state = .halted → w.fatal = none → w.resumeAt = [] → exec (.debugResume slot) s = .next (put { w with state := .running, single := none })) ∧
    (∀ e pc sub r before later, w.state = .halted → w.fatal = none → w.resumeAt = before ++ (e, pc, sub) :: later → (∀ x ∈ later, x.1 ≠ e) → w.run e = some r →
      (∃ t v q, exec (.debugResume slot) s = .next t ∧ t.waves.find slot = some v ∧ v.state = .running ∧ v.resumeAt = [] ∧ v.run e = some q ∧ q.pc = pc ∧ q.sub = sub) ∧
      ∃ t v q, exec (.singleStep slot e) s = .next t ∧ t.waves.find slot = some v ∧ v.state = .halted ∧ v.single = some e ∧ v.run e = some q ∧ q.pc = pc ∧ q.sub = sub ∧
        v.resumeAt = w.resumeAt.filter fun x => x.1 ≠ e) ∧
    (w.state ≠ .halted ∨ w.fatal ≠ none → Disabled s (.debugResume slot) "DEBUG_RESUME" ∧ ∀ e, Disabled s (.singleStep slot e) "SINGLE_STEP") ∧
    (∀ e, w.state = .halted → w.fatal = none → (w.run e).isSome = true → (∀ x ∈ w.resumeAt, x.1 ≠ e) → exec (.singleStep slot e) s = .next (put { w with single := some e })) ∧
    (∀ item, w.state ≠ .halted → Disabled s (.debugStateWrite slot item) "DEBUG_STATE_WRITE") ∧
    (∀ c, w.state = .halted → s.cohorts.find w.cohort = some c →
      (∀ r l x, r < w.budget → l < 32 → ∃ t v, exec (.debugStateWrite slot (.lane r l x)) s = .next t ∧ t.waves.find slot = some v ∧
        ∀ n k, k < 32 → v.lane n k = if n = r ∧ k = l then x else w.lane n k) ∧
      (∀ r x, r < 48 → exec (.debugStateWrite slot (.uniform r x)) s = .next (put { w with s := w.s.put r x })) ∧
      (∀ e x r, w.run e = some r → x % 4 = 0 → x < 2 ^ 48 → ∃ t v, exec (.debugStateWrite slot (.pc e x)) s = .next t ∧ t.waves.find slot = some v ∧
        v.run e = some { r with pc := x, sub := none, passed := false }) ∧
      (∀ o x, o < c.wsize → exec (.debugStateWrite slot (.window o x)) s = .next (s.vaultWrite [(c.winBase + o, x)])) ∧
      (∀ n x, n < 16 → exec (.debugStateWrite slot (.entry n (some x))) s = .next (put { w with lattice := w.lattice.put n x })) ∧
      (∀ es, es.length ≤ 64 → exec (.debugStateWrite slot (.stores es)) s = .next (put { w with sb := es })) ∧
      (∀ x, exec (.debugStateWrite slot (.task x)) s = .next (put { w with task := x })) ∧
      ∃ sv, exec (.debugStateWrite slot .read) s = .next { s with debugReads := s.debugReads ++ [(slot, sv, c.barriers)] } ∧
        (∀ i x, sv.waves.find i = some x → ∃ e ∈ s.waves, e.2 = x ∧ x.cohort = w.cohort ∧ x.widx = i) ∧ (sv.waves.find w.widx).isSome = true))

/-- R11, R31, R312, R326, R328, R330, R331, R332, R333, R334, R336, R347: boot runs an image only if its signature and version pass; the firmware loads patches,
programs the routing table, creates partitions with fresh keys, channels and reports, and takes partitions down, whose keys no line then keeps; an error poisons its granule; a failed link leaves
every route; a copy of code is taken once no lane part that reached the host port before it is left (R202); the clock moves in steps of 50 MHz; a shutdown loses every launch and no step follows it. What a patch image and a new
firmware image are, what a report is made of and its signature, that nothing follows a shutdown, which pushes a failed link loses, that keys rise how
a copy of code makes room, when HDMBASE is set and that the counters of a new partition start at 0 are the model's (logs 55, 56, 57, 58, 59, 72, 74,
88, 98). -/
def Obligations.ModuleStepResults : Prop :=
  ∀ (s : State),
  (s.boot = .reset → exec .boot s = .next (if imageSigned s.flash.bytes s.flash.sig = true ∧ s.rollback ≤ s.flash.version
    then { s with boot := .running s.flash, hdmBase := Config.hdmBase s.flash.bytes } else { s with boot := .failed })) ∧
  (∀ v d sig, s.down = false → (s.boot = .failed → exec (.mailboxImageWrite v ⟨d, sig⟩) s = .next { s with flash := ⟨v, d, sig⟩ }) ∧
    (s.boot ≠ .failed → Disabled s (.mailboxImageWrite v ⟨d, sig⟩) "MAILBOX_IMAGE_WRITE")) ∧
  (∀ image, s.boot = .running image → s.down = false →
    (s.launches = [] → ∀ es bytes, es.length ≤ 64 → es ≠ [] → bytes ≠ [] → (∀ e ∈ es, e.pat.length = 4 ∧ e.msk.length = 4 ∧ 1 ≤ e.subst.length ∧ e.subst.length ≤ 8) →
      exec (.patchLoad es bytes) s = .next { s with patches := es.map fun e => ⟨e.pat, e.msk, e.subst⟩, patchHash := shakeHead bytes }) ∧
    (s.launches ≠ [] → (∀ es bytes, Disabled s (.patchLoad es bytes) "PATCH_LOAD") ∧ ∀ n x, Disabled s (.routingTableWrite n x) "ROUTING_TABLE_WRITE") ∧
    (s.launches = [] → ∀ n (x : BitVec 64), n < 256 → x.getLsbD 30 = false → ∃ y, exec (.routingTableWrite n x) s = .next { s with routes := s.routes.put n y } ∧
      ∀ b, b < 64 → y.getLsbD b = (x.getLsbD b && decide ((b < 24 ∨ b = 30 ∨ b = 31) ∧ b ∉ s.links))) ∧
    (∀ n p, s.specOk n p = true → p.queues = [] → ∃ t z, exec (.partitionCreate n p) s = .next t ∧ t.parts.find n = some z ∧ t.nextKey = s.nextKey + 2 ∧
      (∀ a ∈ [p.faults.2.2, p.migs.2.2], ∀ k, k < 8 → t.gbyte s.nextKey (a + k) = 0) ∧ z.faults = ⟨p.faults.1, p.faults.2.1, p.faults.2.2, 0, 0⟩ ∧
      z.migs = ⟨p.migs.1, p.migs.2.1, p.migs.2.2, 0, 0⟩ ∧ z.shares = p.shares ∧ (z.dkey, z.vkey) = (s.nextKey, s.nextKey + 1) ∧ z.cores = p.cores ∧ z.overflow = [] ∧ z.alloc = p.alloc ∧
      (∀ c ∈ p.cores, (t.cores.find c).map (fun k => (k.part, k.deque, k.jobs, k.mmas, k.subs)) = some (n, [], [], [], [])) ∧ ∀ m, m ≠ n → t.parts.find m = s.parts.find m) ∧
    (∀ n p, s.specOk n p = false → Disabled s (.partitionCreate n p) "PARTITION_CREATE") ∧
    (∀ ch a b, ch < 16 → s.channels.find ch = none → a ≠ b → (s.parts.find a).isSome = true → (s.parts.find b).isSome = true →
      exec (.channelCreate ch a b) s = .next { s with channels := s.channels.put ch ⟨a, b, s.nextKey⟩, nextKey := s.nextKey + 1 }) ∧
    (∀ nonce, nonce < 2 ^ 256 → (s.signed < 2 ^ 20 → ∃ r bytes, exec (.attestationRequest nonce) s = .next
        { s with signed := s.signed + 1, reports := s.reports ++ [r] } ∧ r = ⟨nonce, digest image.bytes, s.patchHash, 0x0003000000000001,
          s.parts.map fun p => (p.1, p.2.config), s.channels.map fun c => (c.1, c.2.p1, c.2.p2), identitySign s.signed bytes⟩) ∧
      (2 ^ 20 ≤ s.signed → Disabled s (.attestationRequest nonce) "ATTESTATION_REQUEST")) ∧
    (∀ n p, s.parts.find n = some p → (∀ e ∈ s.launches, e.2.part ≠ n) → (∀ e ∈ s.waves, slotCore e.1 ∉ p.cores) →
      let lost (key : Nat) : Prop := ∃ e ∈ s.channels, (e.2.p1 = n ∨ e.2.p2 = n) ∧ e.2.key = key
      let quiet (w : Wave) : Prop := (∀ a ∈ w.unperformed, ¬ lost a.mkey) ∧ ∀ b ∈ w.blocks, ¬ lost b.1.key
      ((∃ h ∈ s.hostq, h.key = p.dkey ∨ lost h.key) → Disabled s (.partitionTeardown n) "PARTITION_TEARDOWN") ∧ ((∀ h ∈ s.hostq, h.key ≠ p.dkey ∧ ¬ lost h.key) →
      (∀ e ∈ s.waves, quiet e.2) → (∀ v ∈ s.saved, ∀ e ∈ v.waves, quiet e.2) → (∀ e ∈ s.cores, ∀ j ∈ e.2.jobs, ∀ x ∈ j.pieces, ¬ lost x.t.key) →
      ∃ t, exec (.partitionTeardown n) s = .next t ∧ t.nextKey = s.nextKey + 1 ∧
      (∀ e ∈ t.arrivals, ∀ z ∈ e.2.entries, ∀ b ∈ z.2.action.packet, b.t.key = s.nextKey ∨ ¬ lost b.t.key) ∧ (∀ d ∈ t.tlb, ∀ e ∈ d.2, e.part ≠ n ∧ ¬ lost e.trans.key) ∧
      t.parts = s.parts.del n ∧ t.gmem = s.gmem ∧ t.vmem = s.vmem ∧ (∀ g x, t.gkeys.find g = some x → x ≠ p.dkey ∧ ¬ lost x) ∧
      (∀ g x, s.gkeys.find g = some x → x ≠ p.dkey → ¬ lost x → t.gkeys.find g = some x) ∧ (∀ e ∈ t.channels, e ∈ s.channels ∧ e.2.p1 ≠ n ∧ e.2.p2 ≠ n) ∧ ∀ e ∈ t.cores, e ∈ s.cores ∧ e.2.part ≠ n)) ∧
    (∀ mhz, 350 ≤ mhz → mhz ≤ 1050 → (mhz + 50 = s.mhz ∨ mhz = s.mhz + 50) → exec (.clockThrottle mhz) s = .next { s with mhz := mhz })) ∧
  (∀ site, s.siteOk site = true → exec (.eccCorrectable site) s = .next { s with corrected := s.corrected + 1 } ∧
    ∃ t, exec (.eccPoison site) s = .next t ∧ t.gmem = s.gmem ∧ t.vmem = s.vmem ∧ t.waves = s.waves ∧ match site with
      | .dram x => x ∈ t.poisonG ∧ ∀ y, y ∈ t.poisonG → y = x ∨ y ∈ s.poisonG
      | .vault x => x ∈ t.poisonV ∧ ∀ y, y ∈ t.poisonV → y = x ∨ y ∈ s.poisonV
      | .tile a x => (a, x) ∈ t.poisonT ∧ ∀ y, y ∈ t.poisonT → y = (a, x) ∨ y ∈ s.poisonT
      | .register a r l => (a, r, l) ∈ t.poisonR ∧ ∀ y, y ∈ t.poisonR → y = (a, r, l) ∨ y ∈ s.poisonR) ∧
  (∀ n, n < 16 → n ∉ s.links → exec (.flitRetransmit n) s = .next s ∧ ∃ t, exec (.linkFailure n) s = .next t ∧ t.links = s.links ++ [n] ∧
    (∀ c, c ∈ t.lost ↔ c ∈ s.lost ∨ ((s.routes.find c).isSome = true ∧ s.reachable c = true ∧ s.linked c = true ∧ t.linked c = false)) ∧
    (∀ c x, t.routes.find c = some x → x.getLsbD n = false) ∧ (∀ c x k, s.routes.find c = some x → k ≠ n → (t.routes.find c).map (BitVec.getLsbD · k) = some (x.getLsbD k)) ∧
    ∀ p, p ∈ t.pushes ↔ p ∈ s.pushes ∧ t.linked (p.home / 64) = true) ∧
  (∀ q n, q < 1024 → 1 ≤ n → n ≤ 64 → exec (.currentStepStall q n) s = .next { s with stalls := s.stalls.put q n }) ∧
  (∀ core h va l k tr, s.launches.find h = some l → s.cores.find core = some k → k.part = l.part → va % 4 = 0 → l.code ≤ va → va + 4 ≤ l.code + l.extent →
    s.walkNow (core / 64) l.part l.root va = .ok tr →
    let free := s.walkNowFree (core / 64) l.part l.root va && s.portFree (addrs (tr.pa va) 4)
    (free = false → Disabled s (.icacheFill core h va) "ICACHE_FILL") ∧
    (free = true → (s.icache.filter fun x => x.core == core).length < 65536 → ∃ t, exec (.icacheFill core h va) s = .next t ∧ { t with icache := [] } = { s with icache := [] } ∧
      (∀ x, x ∈ t.icache ↔ (x ∈ s.icache ∧ ¬ (x.core = core ∧ x.part = l.part ∧ x.root = l.root ∧ x.va = va)) ∨
        x = ⟨core, l.part, l.root, va, BitVec.ofNat 32 (leNat (s.readBytes tr.key (tr.pa va) 4))⟩))) ∧
  (s.down = false → ∃ t, exec .thermalShutdown s = .next t ∧ t.down = true ∧ t.launches = [] ∧ t.waves = [] ∧ t.gmem = s.gmem ∧ step t = .fault .shutDown)

/-! ## Memory, traps, encodings, and the step -/

/-- R2, R147, R195, R197, R199, R235: bytes that a home step or a bank step writes read back under the key that wrote them, and no other byte
changes but the rest of a line last written under another key; a subscribed word whose value changes advances its sequence by one and pushes its value to each
subscriber that is awake; one whose value does not change does neither. -/
def Obligations.WritesReadBackAndPush : Prop :=
  ∀ (s : State) (a : Nat) (bs : List Byte), 0 < bs.length → a % 64 + bs.length ≤ 64 →
  (∀ key, isHost a = false →
    let t := s.homeWrite key ((addrs a bs.length).zip bs)
    (∀ k, k < bs.length → t.gbyte key (a + k) = bs.getD k 0) ∧ (∀ b other, b / 64 ≠ a / 64 → t.gbyte other b = s.gbyte other b) ∧
    (s.gkeys.find (a / 64) = some key → ∀ b other, b < a ∨ a + bs.length ≤ b → t.gbyte other b = s.gbyte other b) ∧
    (t.waves, t.vmem, t.cohorts, t.launches, t.subs) = (s.waves, s.vmem, s.cohorts, s.launches, s.subs) ∧
    (bs.length = 8 → a % 8 = 0 → (∃ b ∈ s.subs, b.word = a / 8) →
      (s.gbytes key a 8 = bs → t.pushes = s.pushes ∧ t.seqs = s.seqs) ∧
      (s.gbytes key a 8 ≠ bs → let seq := (s.seqs.find (a / 8)).getD 0 + 1
        t.seqs.find (a / 8) = some seq ∧ (∀ w, w ≠ a / 8 → t.seqs.find w = s.seqs.find w) ∧
        ∀ b ∈ s.subs, b.word = a / 8 → b.dormant = false →
          ∃ answers, ⟨(homeOf a).getD 0, b.core, b.slot, a / 8, .value (BitVec.ofNat 64 (leNat bs)) seq false, answers, none, s.poisonedWord (a / 8)⟩ ∈ t.pushes))) ∧
  ((∀ k, k < bs.length → s.inWindow (a + k) = true) →
    let t := s.vaultWrite ((addrs a bs.length).zip bs)
    (∀ k, k < bs.length → t.vaultByte (a + k) = bs.getD k 0) ∧ (∀ b, b / 64 ≠ a / 64 → t.vaultByte b = s.vaultByte b) ∧
    (s.vkeys.find (a / 64) = some (s.vkeyOf (a / Config.vaultSpan)) → ∀ b, b < a ∨ a + bs.length ≤ b → t.vaultByte b = s.vaultByte b) ∧
    (t.waves, t.gmem, t.cohorts, t.launches) = (s.waves, s.gmem, s.cohorts, s.launches))

/-- R144, R151, R314: where some lane's access is refused by its register, its limit or its page, the lowest such lane's XLATE_PERM trap is taken;
where none is refused and every lane's walk is pending, the strand parks at its instruction with every page that a lane waits for and no lane has accessed anything.
In a protected launch the copies of a lane must be together and agree, else SHADOW_MISMATCH is taken at the lowest visible lane whose copies do not.
R22, R24, R40, R55, R56, R71, R82, R302, R313: an instruction that may issue is checked in the order of R82; the first condition met takes its trap,
and none has an effect of its own. Where a poisoned register and TNEXT's WINDOW rank is the model's (logs 35, 69). -/
def Obligations.TrapsAreTaken : Prop :=
  (∀ (s : State) (c : Ctx) (e : LExt) (x : BitVec 3) (k : BitVec 4) (a b : BitVec 7) (o : Sys2Proof.Ordering) (off : BitVec 16),
   let ls := lanesOf (c.todo e)
   let load := { Need.ofLane true e (nv a ++ nv b ++ nx x) [] with mem := true, warn := warnRead o false }
   let store := { Need.ofLane true e (nv a ++ nv b ++ nx x) [] with mem := true, warn := warnWrite o }
   ∀ q ∈ ([(load, 1, true, .gldB e x k a b o off), (load, 4, true, .gldW e x k a b o off), (store, 1, false, .gstB e x a b o),
       (store, 4, false, .gstW e x a b o)] : List (Need × Nat × Bool × Instr)),
     MayIssue s c q.1 → q.2.2.2.wf = true →
     let same (i j : Nat) : Prop := c.v b i = c.v b j ∧ if q.2.2.1 = true then eaOf (c.v a i) off = eaOf (c.v a j) off
       else (c.v a i).toNat % 256 ^ q.2.1 = (c.v a j).toNat % 256 ^ q.2.1
     let acc (l : Nat) : Xlate := s.xaccess c (c.w.xreg x.toNat) (c.v b l).toNat q.2.1 q.2.2.1 (!q.2.2.1)
     (∀ i, c.la.protect = true → i < 16 → ¬ PairIs (c.todo e) same i → (∀ j, j < i → PairIs (c.todo e) same j) →
       exec q.2.2.2 s = .next (s.takeTrap c .shadowMismatch (BitVec.ofNat 64 i) (c.active e))) ∧
     (Paired c (c.todo e) same →
      (q.2.2.1 = true → ∀ l ∈ ls, (s.vaultEA c.co c.la (eaOf (c.v a l) off) true).isSome = true ∧ (eaOf (c.v a l) off).toNat % 4 = 0) →
      (∀ l va, l ∈ ls → acc l = .perm va → (∀ j ∈ ls, j < l → ∀ v, acc j ≠ .perm v) →
        exec q.2.2.2 s = .next (s.takeTrap c .xlatePerm va (c.active e))) ∧
      (ls ≠ [] → c.globalsUndrained = false → s.relWait c o = false →
       ∀ pages : Nat → List Nat × DWord, (∀ l ∈ ls, acc l = .pending (pages l).1 (pages l).2) →
        let all := ls.flatMap fun l => (pages l).1.map fun g => (g, (pages l).2.toNat % 2 ^ 56)
        ∃ t, exec q.2.2.2 s = .next t ∧ t.outside = s.outside ∧ (∀ j, j ≠ c.slot → t.waves.find j = s.waves.find j) ∧
          t.waves.find c.slot = some { c.w.setRun c.entry { c.r with
            park := some ⟨c.todo e, c.active e, all, dva ((all.head?.map Prod.snd).getD 0), false, false, all, q.2.2.1, !q.2.2.1⟩ } with
              state := if c.w.state == .halted then .halted else .running }))) ∧
  (∀ (s : State) (c : Ctx) (l : LExt) (u : UExt) (d a b : BitVec 7) (q : BitVec 3) (x y : BitVec 6) (k : BitVec 4) (off : BitVec 20),
   s.down = false → s.ctx = some c → c.ready = true → s.quadBusy c.slot = false → c.w.due = none → acquiring c.r = false →
   ∀ p ∈ ([(c.active l, Need.ofLane true l (nv a ++ nv b) (nv d), .iadd l d a b),
       (c.r.mask, { Need.ofUni true u [] ((addrs 37 7).map RegName.s ++ ns 63 ++ dq q) with wide := true, mem := true, badWave := fun c => c.w.task.isSome }, .tnext u q),
       (c.r.mask, .bar true u [] (ns x), .barrive u x k),
       (c.r.mask, { Need.ofUni true u (ns y) [] with mem := true, badLaunch := fun la => !la.distrib }, .nextw u y off)] : List (Word × Need × Instr)),
     let mask := p.1
     let n := p.2.1
     let i := p.2.2
     let trap (cause : Cause) (addr : DWord) (m : Word) : Prop := exec i s = .next (s.takeTrap c cause addr m)
     let fits : Prop := ∀ r ∈ n.all, ∀ j, r = .v j → j < c.w.budget
     let closed : Prop := ∀ f ∈ c.r.flights, f.left ≠ 0 → ∀ r ∈ n.all, r ∉ f.dests
     let writable : Prop := (∀ v ∈ c.lv, (∀ r ∈ n.guard ++ n.reads, v.mayRead r = true) ∧ ∀ r ∈ n.writes, v.mayWrite r = true)
     (∀ f ∈ c.r.flights, f.left = 0 → f.state = .done) →
     (i.wf = false → trap .illegalOp 0 c.r.mask) ∧
     (i.wf = true → ¬ fits → trap .regBudget 0 mask) ∧
     (∀ f, i.wf = true → fits → c.r.flights.find? (fun f => f.left != 0 && n.all.any fun r => f.dests.contains r) = some f →
       trap .lookahead (BitVec.ofNat 64 f.pc) mask) ∧
     (i.wf = true → fits → closed → ¬ writable → trap .window 0 mask) ∧
     (i.wf = true → fits → closed → writable →
       (c.la.distrib = false → i = .nextw u y off → trap .illegalOp 0 mask) ∧
       (c.smask ≠ c.w.live ∨ (∃ v ∈ c.lv, v.role.isArm = true) →
         (i = .tnext u q → trap .partialMask 0 mask) ∧ (i = .barrive u x k → trap .barrierDiverged 0 mask)) ∧
       (c.smask = c.w.live → (∀ v ∈ c.lv, v.role.isArm = false) → c.w.task.isSome = true → i = .tnext u q → trap .illegalOp 0 mask) ∧
       (∀ r g, i = .iadd l d a b → s.poisonR = [g] → g = (c.slot, r, g.2.2) → mask.getLsbD g.2.2 = true → r = a.toNat ∨ r = b.toNat →
         trap .eccUncorrectable (BitVec.ofNat 64 r) mask)))

/-- R62 to R69, R77 to R83, R130: words that the manual works out from its encodings decode to the instructions they stand for; a reserved F value, an
odd pair register and a reserved field decode to none. -/
def Obligations.WordsDecode : Prop :=
  let u (x : Bool) : UExt := ⟨x, 0⟩
  let l (x : Bool) (la : BitVec 4) : LExt := ⟨x, la, false, 0, false⟩
  let o : Sys2Proof.Ordering := ⟨false, false, false, 0⟩
  (∀ p ∈ ([(0x41020800, 0x0000FFFB, Instr.iaddImm (l true 0) 1 2 0xFFFB), (0x47040C23, 0x20050000, .imad (l true 2) 2 3 4 5),
      (0x45020010, 0x30000000, .shlImm (l true 3) 1 0 2), (0x46061005, 0x00000188, .bfx (l true 0) 3 4 8 12), (0x0732602A, 0, .imulhiu (l false 0) 25 24 5),
      (0x0A066C01, 0, .cneImm (l false 0) 3 27 0), (0x402850A8, 0x0B800000, .iadd ⟨true, 0, true, 3, true⟩ 20 20 21),
      (0x51141033, 0x2B880000, .ffmaF32 ⟨true, 2, true, 3, true⟩ 10 4 6 8 0), (0x510C5826, 0x00000001, .fcmpF32 (l true 0) 6 22 4 1 0),
      (0x560C1C01, 0x30000141, .cvtSat (l true 3) 6 7 1 4 1), (0x580C1001, 0x00000021, .shflx (l true 0) 6 4 0 1 true false),
      (0x182A50B9, 0, .shflx (l false 0) 21 20 23 0 false false), (0x58280405, 0x00000003, .vote (l true 0) 20 1 3),
      (0x581030A6, 0x00000002, .gathg (l true 0) 8 12 20 2 false), (0x19140000, 0, .redadd (l false 0) 10 0 false),
      (0x19160006, 0, .scanx (l false 0) 11 0 false), (0x59180000, 0x09000000, .redadd ⟨true, 0, true, 1, false⟩ 12 0 false),
      (0x1A140800, 0, .confl (l false 0) 10 2 false), (0x1A281029, 0, .rebal (l false 0) 20 4 5),
      (0x5A28204A, 0x00110003, .mrgu (l true 0) 20 8 9 1 2 3), (0x5A0C1004, 0x00020000, .compact (l true 0) 6 4 2 false),
      (0x5C040404, 0x10000000, .vldW (l true 1) 2 1 o 0), (0x5D000424, 0x00000100, .vstW (l true 0) 1 4 o 0x100),
      (0x6024040C, 0x00000200, .gldW (l true 0) 1 2 1 1 o 0x200), (0x612060EC, 0x09000000, .gstW ⟨true, 0, true, 1, false⟩ 1 24 29 o),
      (0x23401030, 0, .subscr (l false 0) 2 4 6 o 0), (0x63401030, 0x000B0010, .subscr (l true 0) 2 4 6 ⟨false, false, true, 3⟩ 16),
      (0x24080800, 0, .trd (l false 0) 4 2 0 0 false)] : List (Nat × Nat × Instr)), decodeTableWord 64 (p.1 + 2 ^ 32 * p.2.1) = some p.2.2) ∧
  (∀ p ∈ ([(0xC9001100, 0x0002000C, Instr.split (u true) 1 4 8 12), (0xC9000003, 0x00000488, .seal (u true) 8 9 false), (0x89000002, 0, .endarm (u false)),
      (0xC9000004, 0x00000408, .join (u true) 8 8 false), (0xC8040007, 0x0FFFFFFF, .loopd (u true) 1 0xFFFFFFF), (0xC8001001, 0x00000005, .brq (u true) 1 5),
      (0xC8000000, 0x0FFFFFD6, .bra (u true) 0xFFFFFD6), (0xC4100000, 0x00020002, .sli (u true) 4 0x20002), (0xC1410008, 0x00000003, .sremuImm (u true) 16 16 3),
      (0xC3049000, 0x0FFFFFFF, .qeqImm (u true) 1 9 0xFFFFFFF), (0x85180000, 0, .sldk (u false) 6 0), (0xC51C0000, 0x00000008, .sldk (u true) 7 8),
      (0xC5515001, 0x08000000, .sldv (u true) 20 21 2 o 0), (0xC5015682, 0x08000400, .sstv (u true) 21 26 2 o 0x400), (0x8C0461C0, 0, .xlat (u false) 1 6 7),
      (0xCA080000, 0x00000001, .binit (u true) 2 1 0), (0xCA080001, 0x00000080, .bexpect (u true) 2 0 false 0x80), (0x8A002004, 0, .bsync (u false) 0 2),
      (0xD20C0002, 0x00000030, .csrr (u true) 3 0x30), (0xCB000003, 0x00500001, .fenceRel (u true) 5),
      (0xCB20A1C0, 0x04000008, .waita (u true) 8 10 7 1 o 8), (0x9100A005, 0, .nextw (u false) 10 0), (0xD0143000, 0x00000040, .rarm (u true) 5 3 64),
      (0xD0185002, 0x00000001, .rqry (u true) 6 5 true), (0x8D088004, 0, .stepchk (u false) 2 8), (0xCE000000, 0x00000241, .tcfg (u true) 0 0 false 0x241),
      (0x8E00A002, 0, .tld (u false) 0 10 0 0), (0x8E080004, 0, .tzero (u false) 2), (0x8F080043, 0, .mmaBf16 (u false) 2 0 1 false false),
      (0x8E00C083, 0, .tst (u false) 12 2 0 0)] : List (Nat × Nat × Instr)), decodeTableWord 64 (p.1 + 2 ^ 32 * p.2.1) = some p.2.2) ∧
  ∀ w ∈ ([0x10080C30, 0x07040C27, 0x19140001 + 0x00000008, 0xC8000000 + 2 ^ 32 * 0x10000000 + 0x40] : List Nat), decodeTableWord 64 w = none

/-- R62, R64, R69, R82, R83: decoding what the encoder gives for a well-formed instruction, with every operand at every value the encodings admit, gives that
instruction and leaves what follows it; and words that decode are the encoding of what they decode to. -/
def Obligations.DecodeAndEncodeAgree : Prop :=
  (∀ (i : Instr) (ws : List Word) (rest : List Byte), i.wf = true → encode i = some ws → decodeBytes (ws.flatMap bytesOfWord ++ rest) = .ok (i, rest)) ∧
  ∀ (i : Instr) (w ext : Word), decodeWords w ext = .ok i → i.wf = true ∧ encode i = some (if hasExt w then [w, ext] else [w])

/-- R33, R53, R62, R63, R82, R171, R183, R191, R202, R291, R332, R347: a step that issues takes the strand's next words, each the word at its home or the core's copy of
it, and runs exactly the instruction they decode to, or traps ILLEGAL_OP where they decode to none; it waits while its words' reads come behind parts at the host port (R202); a strand that is not its quadrant's turn does not
issue, unless it is the second of a pair (R291). A step of another kind runs exactly itself; each step lets time pass, one cycle at least (log 2). A program placed from outside runs from reset.
The agenda, the placement of a program, that a strand out of turn waits, and which of two strands is a
pair's second are the model's (logs 4, 6, 94, 112). -/
def Obligations.StepRunsTheDecodedInstruction : Prop :=
  (∀ (s : State) (slot entry : Nat) (rest : List Next), s.down = false → s.agenda = .issue slot entry :: rest →
    let v : State := { s.advance with agenda := rest }
    let ordered : Prop := ∀ x ∈ v.ahead slot entry, v.issues x = false
    (¬ ordered → v.mayPair slot entry = false → step s = .next { v with stall := true }) ∧
    (ordered ∨ v.mayPair slot entry = true → ∃ second : Bool, (second = true → v.mayPair slot entry = true) ∧ (second = false → ordered) ∧
      let u : State := { v with cur := some (slot, entry), rr := if second then s.rr else s.rr.put (slot / 8) slot }
      ∀ c w ext, u.ctxAt slot entry = some c → s.patches = [] → c.r.sub = none → c.r.pc < 2 ^ 48 →
      c.la.code ≤ c.r.pc → c.r.pc + 8 ≤ c.la.code + c.la.extent →
      let stands (va : Nat) (x : Word) : Prop := u.homeWord (slotCore slot) c.la va = x ∧
        ∀ l ∈ s.icache, l.core = slotCore slot → l.part = c.la.part → l.root = c.la.root → l.va = va → l.word = x
      (u.fetchFree c = false → step s = .next { u with stall := true, rr := s.rr }) ∧
      (u.fetchFree c = true → stands c.r.pc w → stands (c.r.pc + 4) ext →
      (∀ i, decodeWords w ext = .ok i → step s = turn v slot (!second && pairing i) (exec i u)) ∧
      (∀ e, decodeWords w ext = .error e → c.ready = true → u.quadBusy slot = false → c.w.due = none →
        (∀ f ∈ c.r.flights, f.left = 0 → f.state = .done) → step s = turn v slot false (.next (u.takeTrap c .illegalOp 0 c.r.mask)))))) ∧
  (∀ (s : State) (core va : Nat) (la : Launch), s.codeWord core la va = s.homeWord core la va ∨
    ∃ l ∈ s.icache, l.core = core ∧ l.part = la.part ∧ l.root = la.root ∧ l.va = va ∧ s.codeWord core la va = l.word) ∧
  (∀ (s : State) (i : Instr) (rest : List Next), s.down = false → s.agenda = .event i :: rest → step s = exec i { s.advance with agenda := rest }) ∧
  (∀ (s : State) (die : Nat) (x : DWord), s.clock[die]? = some x → ∃ n, 1 ≤ n ∧ s.advance.clock[die]? = some (x + BitVec.ofNat 64 n)) ∧
  ∀ (nbits w : Nat) (i : Instr), nbits ≤ 64 → decodeTableWord nbits w = some i →
    ∃ u c, step (State.reset.withFetchWord nbits w) = turn { u with cur := none, rr := [] } 0 (pairing i) (exec i u) ∧ u.ctx = some c ∧ c.r.pc = 0x10000 ∧ c.r.flights = [] ∧ u.down = false

/-- R2, R10, R136, R171: the model's memories stay in their canonical form and the module keeps its four dies through every step. -/
def Obligations.StepKeepsInv : Prop := ∀ s t : State, s.Inv → step s = .next t → t.Inv

/-- R327, R331, R333: right after reset the invariant holds, nothing is bound, no partition exists, the routing table is 0, PATCHHASH is that of the empty
image, and the first step boots: the image runs or only the mailbox is left. The chosen values of assumption log entry 3 are the model's. -/
def Obligations.ResetState : Prop :=
  State.reset.Inv ∧ State.reset.waves = [] ∧ State.reset.cohorts = [] ∧ State.reset.launches = [] ∧ State.reset.parts = [] ∧ State.reset.routes = [] ∧
  State.reset.patches = [] ∧ State.reset.patchHash = shakeHead [] ∧ State.reset.gmem = [] ∧ State.reset.vmem = [] ∧ State.reset.down = false ∧
  State.reset.boot = .reset ∧ ∃ t, exec .boot State.reset = .next t ∧ (t.boot = .running State.reset.flash ∨ t.boot = .failed) ∧ t.parts = []

/-! ## Drains -/

/-- R48, R49, R50, R150, R156, R160, R165, R193, R194, R195, R205, R207, R234, R237, R298, R313: an entry drains only when it is first in drain order, the reads that the core
issued before it have been made in the other vaults it writes, and, if it is a release, what happens before it has performed at its scope. A
store's bytes reach the vault, the last of two to one byte standing, and nothing else there changes; an atomic's lanes act one after another in
the order the entry has them, ascending, each finding what the lanes before it left; a compare that fails writes nothing (the model's reading, log 78);
the values found go to the destination, of a protected pair to both lanes. A global access moves to the post queue in lane order; a NEXTW's
slot is cleared as its request leaves, and a SUBSCR's as its lanes take directory entries and go to the post queue, or with REFUSED where they cannot; an
UNSUB that goes to no home is done at once. An atomic that meets a poisoned granule writes nothing, and its wave traps. That the place of a store in the
core's order is its drain, that both lanes of a pair take the values and that a uniform register takes four bytes zero-extended are the model's choices (logs 92, 12 and 100). -/
def Obligations.EntriesDrain : Prop :=
  ∀ (s : State) (slot id : Nat) (w : Wave) (e : SBEntry), s.waves.find slot = some w → w.sb.find? (fun x => x.id == id) = some e →
  let i : Instr := .storeBufferDrain slot id
  let order : Prop := FirstInOrder w e.key ∧ ∀ x ∈ w.sb, x.key = e.key → e.id ≤ x.id
  let reads : Prop := ∀ a ∈ e.vaultBytes, a / Config.vaultSpan ≠ slotCore slot → s.readsBefore (slotCore slot) (a / Config.vaultSpan) s.tick = false
  let released : Prop := e.marks.rel = true → (∀ ps, e.kind ≠ .global ps) →
    w.readsLeft (earlierThan e.key e.num e.covers e.jm) = false ∧ ∀ k ∈ w.beforeVault e, s.pendingAt e.marks.scope k = false
  let gone : Wave := { w with sb := w.sb.filter fun x => x.id != id }
  let u := s.modWave slot fun _ => gone
  let rel := s.releaseOf gone e.key e.marks (gone.beforeVault e)
  let elsewhere (t : State) : State := { t with waves := [], vmem := [], vkeys := [], syncs := [], poisonV := [], tags := [] }
  (¬ (order ∧ reads ∧ released) → Disabled s i "STORE_BUFFER_DRAIN") ∧
  (order → reads → released →
    (∀ width bs tag, e.kind = .vst width bs tag → 0 < width → ∃ t v, exec i s = .next t ∧ elsewhere t = elsewhere s ∧
      t.waves.find slot = some v ∧ (∀ k, k ≠ slot → t.waves.find k = s.waves.find k) ∧ { v with before := [] } = { gone with before := [] } ∧
      (∀ a, s.inWindow a = true → ∀ b, (bs.reverse.find? fun x => x.1 == a) = some b → t.vaultByte a = b.2) ∧
      (∀ a, (∀ x ∈ bs, x.1 ≠ a) → ((∀ x ∈ bs, x.1 / 64 ≠ a / 64) ∨ s.vkeys.find (a / 64) = some (s.vkeyOf (a / Config.vaultSpan))) →
        t.vaultByte a = s.vaultByte a) ∧
      (tag = none → t.tags = s.tags) ∧ (∀ k, tag = some k → k ≠ 0 ∨ s.tags.risingFrom 0 = true → ∀ x ∈ bs, t.tagOf x.1 = k)) ∧
    (∀ op w64 un ls dst uni, e.kind = .vatom op w64 un ls dst uni → (ls.map AtomLane.lane).Nodup → (uni = true → ls.length = 1) → dst + 1 < 128 → s.atomEcc w64 ls = none →
      let n := if w64 then 64 else 32
      let num := atomNum n un
      ∃ (at_ : Nat → State) (old : Nat → DWord), at_ 0 = u ∧ (∀ j l, ls[j]? = some l → old j = BitVec.ofNat 64 (leNat ((at_ j).vaultBytes l.addr (n / 8))) ∧
        at_ (j + 1) = if op = .cas ∧ num (old j) ≠ num l.cmp then at_ j
          else (at_ j).vaultWrite ((addrs l.addr (n / 8)).zip (leBytes (n / 8) (atomResult n un op (old j) l.opnd l.cmp).toNat)) rel) ∧
      let failed : Prop := op = .cas ∧ ∃ j l, ls[j]? = some l ∧ num (old j) ≠ num l.cmp
      let lead (l : Nat) : Nat := if ((s.cohorts.find w.cohort).any fun c => (s.launches.find c.launch).any fun x => x.protect) = true then l / 2 * 2 else l
      ∃ (t : State) (v : Wave) (ws : List Wr), exec i s = .next t ∧ { t with waves := [] } = { at_ ls.length with waves := [] } ∧
        t.waves.find slot = some v ∧ (∀ k, k ≠ slot → t.waves.find k = s.waves.find k) ∧
        { v with lattice := [], before := [], demoted := [] } = { gone with lattice := [], before := [], demoted := [] } ∧
        v.lattice.map (·.1) = w.lattice.map (·.1) ∧
        let arrives (f : Flight) : Flight := if f.state = .drain e.id then { f with state := .ready, writes := ws } else f
        (∀ k r, w.run k = some r → v.run k = some { r with flights := r.flights.map arrives }) ∧
        (∀ k, k ∈ w.demoted → k ∈ v.demoted) ∧ (¬ failed ∨ uni = true → v.demoted = w.demoted) ∧
        (failed → uni = false → ∀ x, w.runs.find? (fun r => r.2.key == e.key) = some x → x.1 ∈ v.demoted) ∧
        (uni = true → ws = [.s dst (old 0)]) ∧
        (uni = false → ws.length = n / 32 ∧ ∀ k, k < n / 32 → ∃ m x, ws[k]? = some (.v (dst + k) m x) ∧
          ∀ l, l < 32 → (m.getLsbD l = true ↔ ∃ a ∈ ls, a.lane = lead l) ∧ ∀ j a, ls[j]? = some a → a.lane = lead l → x.at l = (old j).extractLsb' (32 * k) 32)) ∧
    (∀ op w64 un ls dst uni ea k r f, e.kind = .vatom op w64 un ls dst uni → s.atomEcc w64 ls = some ea → w.due = none → w.alive = true →
      (w.runs.find? fun x => x.2.flights.any fun g => g.state == .drain e.id) = some (k, r) → (r.flights.find? fun g => g.state == .drain e.id) = some f →
      ∃ (t : State) (v : Wave) (d : FaultRec), exec i s = .next t ∧ { t with waves := [] } = { s with waves := [] } ∧ t.waves.find slot = some v ∧
        (∀ k, k ≠ slot → t.waves.find k = s.waves.find k) ∧ v.due = some d ∧ (d.cause, d.pc, d.addr) = (.eccUncorrectable, BitVec.ofNat 48 f.recPc, ea.zeroExtend 64) ∧
        { v with lattice := [], warn := 0, warnBy := [], due := none } = { gone with lattice := [], warn := 0, warnBy := [], due := none } ∧
        v.run k = some { r with flights := r.flights.map fun g => if g.state = .drain e.id then { g with state := .done } else g }) ∧
    (∀ ps, e.kind = .global ps → ∃ t v qs, exec i s = .next t ∧ { t with waves := [] } = { s with waves := [] } ∧ t.waves.find slot = some v ∧
      (∀ k, k ≠ slot → t.waves.find k = s.waves.find k) ∧ { v with before := [] } = { gone with pq := w.pq ++ qs, before := [] } ∧
      qs.map (fun p => { p with mates := [] }) = ps.map (fun p => { p with mates := [] })) ∧
    (∀ a c, e.kind = .nextw a → s.cohorts.find w.cohort = some c → exec i s = .next
      ((u.vaultWrite ((addrs (a + 8) 8).zip (List.replicate 8 0))).modLaunch c.launch fun l => { l with reqs := l.reqs ++ [(some slot, a)] })) ∧
    (∀ ls, e.kind = .subscr ls → ∃ at_ : Nat → State, at_ 0 = u ∧ exec i s = .next (at_ ls.length) ∧ ∀ j a p, ls[j]? = some (a, p) →
      let dir := (((at_ j).cores.find (slotCore slot)).map (·.subs)).getD []
      let refused : Prop := p.ord = .uo ∨ isHost p.pa = true ∨ 4096 ≤ dir.length
      (refused → at_ (j + 1) = ((at_ j).vaultWrite ((addrs (a + 8) 8).zip [0, 0, 0, 0, 0, 0, 4, 0])).acquired (.answer p.id)) ∧
      (¬ refused → at_ (j + 1) = (((at_ j).vaultWrite ((addrs (a + 8) 8).zip (List.replicate 8 0))).postPart slot p).modCore (slotCore slot) fun k =>
        if k.subs.contains (p.pa / 8, a) then k else { k with subs := k.subs ++ [(p.pa / 8, a)] })) ∧
    (∀ ls, e.kind = .unsub ls → ∃ at_ : Nat → State, at_ 0 = u ∧ exec i s = .next (at_ ls.length) ∧ ∀ j a p, ls[j]? = some (a, p) →
      at_ (j + 1) = if p.ord = .uo ∨ isHost p.pa = true
        then ((at_ j).vaultWrite [(a + 14, (at_ j).vaultByte (a + 14) &&& 0xFD)]).acquired (.answer p.id) else (at_ j).postPart slot p))
end

