-- ==== Sys2Proof/Laws/Dispatch.lean ====
section
/-! SUPPORT. The meaning of each instruction, and when it is well formed, one equation a constructor. -/

namespace Sys2Proof.Machine

theorem exec_iadd {e d a b s} : exec (.iadd e d a b) s = execIadd e d a b s := rfl
theorem exec_isub {e d a b s} : exec (.isub e d a b) s = execIsub e d a b s := rfl
theorem exec_imin {e d a b s} : exec (.imin e d a b) s = execImin e d a b s := rfl
theorem exec_imax {e d a b s} : exec (.imax e d a b) s = execImax e d a b s := rfl
theorem exec_iminu {e d a b s} : exec (.iminu e d a b) s = execIminu e d a b s := rfl
theorem exec_imaxu {e d a b s} : exec (.imaxu e d a b) s = execImaxu e d a b s := rfl
theorem exec_iabs {e d a s} : exec (.iabs e d a) s = execIabs e d a s := rfl
theorem exec_ineg {e d a s} : exec (.ineg e d a) s = execIneg e d a s := rfl
theorem exec_iaddImm {e d a imm s} : exec (.iaddImm e d a imm) s = execIaddImm e d a imm s := rfl
theorem exec_isubImm {e d a imm s} : exec (.isubImm e d a imm) s = execIsubImm e d a imm s := rfl
theorem exec_iminImm {e d a imm s} : exec (.iminImm e d a imm) s = execIminImm e d a imm s := rfl
theorem exec_imaxImm {e d a imm s} : exec (.imaxImm e d a imm) s = execImaxImm e d a imm s := rfl
theorem exec_iminuImm {e d a imm s} : exec (.iminuImm e d a imm) s = execIminuImm e d a imm s := rfl
theorem exec_imaxuImm {e d a imm s} : exec (.imaxuImm e d a imm) s = execImaxuImm e d a imm s := rfl
theorem exec_land {e d a b s} : exec (.land e d a b) s = execLand e d a b s := rfl
theorem exec_lor {e d a b s} : exec (.lor e d a b) s = execLor e d a b s := rfl
theorem exec_lxor {e d a b s} : exec (.lxor e d a b) s = execLxor e d a b s := rfl
theorem exec_landn {e d a b s} : exec (.landn e d a b) s = execLandn e d a b s := rfl
theorem exec_lorn {e d a b s} : exec (.lorn e d a b) s = execLorn e d a b s := rfl
theorem exec_lxnor {e d a b s} : exec (.lxnor e d a b) s = execLxnor e d a b s := rfl
theorem exec_lnot {e d a s} : exec (.lnot e d a) s = execLnot e d a s := rfl
theorem exec_mov {e d a s} : exec (.mov e d a) s = execMov e d a s := rfl
theorem exec_landImm {e d a imm s} : exec (.landImm e d a imm) s = execLandImm e d a imm s := rfl
theorem exec_lorImm {e d a imm s} : exec (.lorImm e d a imm) s = execLorImm e d a imm s := rfl
theorem exec_lxorImm {e d a imm s} : exec (.lxorImm e d a imm) s = execLxorImm e d a imm s := rfl
theorem exec_landnImm {e d a imm s} : exec (.landnImm e d a imm) s = execLandnImm e d a imm s := rfl
theorem exec_lornImm {e d a imm s} : exec (.lornImm e d a imm) s = execLornImm e d a imm s := rfl
theorem exec_lxnorImm {e d a imm s} : exec (.lxnorImm e d a imm) s = execLxnorImm e d a imm s := rfl
theorem exec_movhi {e d imm s} : exec (.movhi e d imm) s = execMovhi e d imm s := rfl
theorem exec_movi {e d imm s} : exec (.movi e d imm) s = execMovi e d imm s := rfl
theorem exec_shl {e d a b s} : exec (.shl e d a b) s = execShl e d a b s := rfl
theorem exec_shr {e d a b s} : exec (.shr e d a b) s = execShr e d a b s := rfl
theorem exec_sar {e d a b s} : exec (.sar e d a b) s = execSar e d a b s := rfl
theorem exec_rol {e d a b s} : exec (.rol e d a b) s = execRol e d a b s := rfl
theorem exec_ror {e d a b s} : exec (.ror e d a b) s = execRor e d a b s := rfl
theorem exec_fshl {e d a b c s} : exec (.fshl e d a b c) s = execFshl e d a b c s := rfl
theorem exec_fshr {e d a b c s} : exec (.fshr e d a b c) s = execFshr e d a b c s := rfl
theorem exec_shlImm {e d a n s} : exec (.shlImm e d a n) s = execShlImm e d a n s := rfl
theorem exec_shrImm {e d a n s} : exec (.shrImm e d a n) s = execShrImm e d a n s := rfl
theorem exec_sarImm {e d a n s} : exec (.sarImm e d a n) s = execSarImm e d a n s := rfl
theorem exec_rolImm {e d a n s} : exec (.rolImm e d a n) s = execRolImm e d a n s := rfl
theorem exec_rorImm {e d a n s} : exec (.rorImm e d a n) s = execRorImm e d a n s := rfl
theorem exec_fshlImm {e d a n c s} : exec (.fshlImm e d a n c) s = execFshlImm e d a n c s := rfl
theorem exec_fshrImm {e d a n c s} : exec (.fshrImm e d a n c) s = execFshrImm e d a n c s := rfl
theorem exec_clz {e d a s} : exec (.clz e d a) s = execClz e d a s := rfl
theorem exec_ctz {e d a s} : exec (.ctz e d a) s = execCtz e d a s := rfl
theorem exec_popc {e d a s} : exec (.popc e d a) s = execPopc e d a s := rfl
theorem exec_brev {e d a s} : exec (.brev e d a) s = execBrev e d a s := rfl
theorem exec_bswap {e d a s} : exec (.bswap e d a) s = execBswap e d a s := rfl
theorem exec_bfx {e d a pos len s} : exec (.bfx e d a pos len) s = execBfx e d a pos len s := rfl
theorem exec_bfxs {e d a pos len s} : exec (.bfxs e d a pos len) s = execBfxs e d a pos len s := rfl
theorem exec_bfi {e d a b pos len s} : exec (.bfi e d a b pos len) s = execBfi e d a b pos len s := rfl
theorem exec_imul {e d a b s} : exec (.imul e d a b) s = execImul e d a b s := rfl
theorem exec_imulhi {e d a b s} : exec (.imulhi e d a b) s = execImulhi e d a b s := rfl
theorem exec_imulhiu {e d a b s} : exec (.imulhiu e d a b) s = execImulhiu e d a b s := rfl
theorem exec_imad {e d a b c s} : exec (.imad e d a b c) s = execImad e d a b c s := rfl
theorem exec_imulw {e d a b s} : exec (.imulw e d a b) s = execImulw e d a b s := rfl
theorem exec_imulwu {e d a b s} : exec (.imulwu e d a b) s = execImulwu e d a b s := rfl
theorem exec_imadw {e d a b c s} : exec (.imadw e d a b c) s = execImadw e d a b c s := rfl
theorem exec_idiv {e d a b s} : exec (.idiv e d a b) s = execIdiv e d a b s := rfl
theorem exec_idivu {e d a b s} : exec (.idivu e d a b) s = execIdivu e d a b s := rfl
theorem exec_irem {e d a b s} : exec (.irem e d a b) s = execIrem e d a b s := rfl
theorem exec_iremu {e d a b s} : exec (.iremu e d a b) s = execIremu e d a b s := rfl
theorem exec_ceq {e d a b s} : exec (.ceq e d a b) s = execCeq e d a b s := rfl
theorem exec_cne {e d a b s} : exec (.cne e d a b) s = execCne e d a b s := rfl
theorem exec_clt {e d a b s} : exec (.clt e d a b) s = execClt e d a b s := rfl
theorem exec_cge {e d a b s} : exec (.cge e d a b) s = execCge e d a b s := rfl
theorem exec_cltu {e d a b s} : exec (.cltu e d a b) s = execCltu e d a b s := rfl
theorem exec_cgeu {e d a b s} : exec (.cgeu e d a b) s = execCgeu e d a b s := rfl
theorem exec_cle {e d a b s} : exec (.cle e d a b) s = execCle e d a b s := rfl
theorem exec_cgt {e d a b s} : exec (.cgt e d a b) s = execCgt e d a b s := rfl
theorem exec_ceqImm {e d a imm s} : exec (.ceqImm e d a imm) s = execCeqImm e d a imm s := rfl
theorem exec_cneImm {e d a imm s} : exec (.cneImm e d a imm) s = execCneImm e d a imm s := rfl
theorem exec_cltImm {e d a imm s} : exec (.cltImm e d a imm) s = execCltImm e d a imm s := rfl
theorem exec_cgeImm {e d a imm s} : exec (.cgeImm e d a imm) s = execCgeImm e d a imm s := rfl
theorem exec_cltuImm {e d a imm s} : exec (.cltuImm e d a imm) s = execCltuImm e d a imm s := rfl
theorem exec_cgeuImm {e d a imm s} : exec (.cgeuImm e d a imm) s = execCgeuImm e d a imm s := rfl
theorem exec_cleImm {e d a imm s} : exec (.cleImm e d a imm) s = execCleImm e d a imm s := rfl
theorem exec_cgtImm {e d a imm s} : exec (.cgtImm e d a imm) s = execCgtImm e d a imm s := rfl
theorem exec_sel {e d a b c s} : exec (.sel e d a b c) s = execSel e d a b c s := rfl
theorem exec_pand {e d a b s} : exec (.pand e d a b) s = execPand e d a b s := rfl
theorem exec_por {e d a b s} : exec (.por e d a b) s = execPor e d a b s := rfl
theorem exec_pxor {e d a b s} : exec (.pxor e d a b) s = execPxor e d a b s := rfl
theorem exec_pnot {e d a s} : exec (.pnot e d a) s = execPnot e d a s := rfl
theorem exec_p2v {e d s} : exec (.p2v e d) s = execP2v e d s := rfl
theorem exec_v2p {e a mask s} : exec (.v2p e a mask) s = execV2p e a mask s := rfl
theorem exec_pmov {e d a s} : exec (.pmov e d a) s = execPmov e d a s := rfl
theorem exec_iadd64 {e d a b s} : exec (.iadd64 e d a b) s = execIadd64 e d a b s := rfl
theorem exec_isub64 {e d a b s} : exec (.isub64 e d a b) s = execIsub64 e d a b s := rfl
theorem exec_shl64 {e d a b s} : exec (.shl64 e d a b) s = execShl64 e d a b s := rfl
theorem exec_shr64 {e d a b s} : exec (.shr64 e d a b) s = execShr64 e d a b s := rfl
theorem exec_sar64 {e d a b s} : exec (.sar64 e d a b) s = execSar64 e d a b s := rfl
theorem exec_icmp64 {e d a b cond s} : exec (.icmp64 e d a b cond) s = execIcmp64 e d a b cond s := rfl
theorem exec_mov64 {e d a s} : exec (.mov64 e d a) s = execMov64 e d a s := rfl
theorem exec_imul64 {e d a b s} : exec (.imul64 e d a b) s = execImul64 e d a b s := rfl
theorem exec_sxtb {e d a s} : exec (.sxtb e d a) s = execSxtb e d a s := rfl
theorem exec_sxth {e d a s} : exec (.sxth e d a) s = execSxth e d a s := rfl
theorem exec_zxtb {e d a s} : exec (.zxtb e d a) s = execZxtb e d a s := rfl
theorem exec_zxth {e d a s} : exec (.zxth e d a) s = execZxth e d a s := rfl
theorem exec_sxtw {e d a s} : exec (.sxtw e d a) s = execSxtw e d a s := rfl
theorem exec_zxtw {e d a s} : exec (.zxtw e d a) s = execZxtw e d a s := rfl
theorem exec_laneid {e d s} : exec (.laneid e d) s = execLaneid e d s := rfl
theorem exec_tid {e d s} : exec (.tid e d) s = execTid e d s := rfl
theorem exec_faddF64 {e d a b rm s} : exec (.faddF64 e d a b rm) s = execFaddF64 e d a b rm s := rfl
theorem exec_fsubF64 {e d a b rm s} : exec (.fsubF64 e d a b rm) s = execFsubF64 e d a b rm s := rfl
theorem exec_fmulF64 {e d a b rm s} : exec (.fmulF64 e d a b rm) s = execFmulF64 e d a b rm s := rfl
theorem exec_ffmaF64 {e d a b c rm s} : exec (.ffmaF64 e d a b c rm) s = execFfmaF64 e d a b c rm s := rfl
theorem exec_fminF64 {e d a b rm s} : exec (.fminF64 e d a b rm) s = execFminF64 e d a b rm s := rfl
theorem exec_fmaxF64 {e d a b rm s} : exec (.fmaxF64 e d a b rm) s = execFmaxF64 e d a b rm s := rfl
theorem exec_fcmpF64 {e d a b cond rm s} : exec (.fcmpF64 e d a b cond rm) s = execFcmpF64 e d a b cond rm s := rfl
theorem exec_fabsF64 {e d a rm s} : exec (.fabsF64 e d a rm) s = execFabsF64 e d a rm s := rfl
theorem exec_fnegF64 {e d a rm s} : exec (.fnegF64 e d a rm) s = execFnegF64 e d a rm s := rfl
theorem exec_ffloorF64 {e d a rm s} : exec (.ffloorF64 e d a rm) s = execFfloorF64 e d a rm s := rfl
theorem exec_fceilF64 {e d a rm s} : exec (.fceilF64 e d a rm) s = execFceilF64 e d a rm s := rfl
theorem exec_ftruncF64 {e d a rm s} : exec (.ftruncF64 e d a rm) s = execFtruncF64 e d a rm s := rfl
theorem exec_frintF64 {e d a rm s} : exec (.frintF64 e d a rm) s = execFrintF64 e d a rm s := rfl
theorem exec_fclassF64 {e d a rm s} : exec (.fclassF64 e d a rm) s = execFclassF64 e d a rm s := rfl
theorem exec_faddF32 {e d a b rm s} : exec (.faddF32 e d a b rm) s = execFaddF32 e d a b rm s := rfl
theorem exec_fsubF32 {e d a b rm s} : exec (.fsubF32 e d a b rm) s = execFsubF32 e d a b rm s := rfl
theorem exec_fmulF32 {e d a b rm s} : exec (.fmulF32 e d a b rm) s = execFmulF32 e d a b rm s := rfl
theorem exec_ffmaF32 {e d a b c rm s} : exec (.ffmaF32 e d a b c rm) s = execFfmaF32 e d a b c rm s := rfl
theorem exec_fminF32 {e d a b rm s} : exec (.fminF32 e d a b rm) s = execFminF32 e d a b rm s := rfl
theorem exec_fmaxF32 {e d a b rm s} : exec (.fmaxF32 e d a b rm) s = execFmaxF32 e d a b rm s := rfl
theorem exec_fcmpF32 {e d a b cond rm s} : exec (.fcmpF32 e d a b cond rm) s = execFcmpF32 e d a b cond rm s := rfl
theorem exec_fabsF32 {e d a rm s} : exec (.fabsF32 e d a rm) s = execFabsF32 e d a rm s := rfl
theorem exec_fnegF32 {e d a rm s} : exec (.fnegF32 e d a rm) s = execFnegF32 e d a rm s := rfl
theorem exec_ffloorF32 {e d a rm s} : exec (.ffloorF32 e d a rm) s = execFfloorF32 e d a rm s := rfl
theorem exec_fceilF32 {e d a rm s} : exec (.fceilF32 e d a rm) s = execFceilF32 e d a rm s := rfl
theorem exec_ftruncF32 {e d a rm s} : exec (.ftruncF32 e d a rm) s = execFtruncF32 e d a rm s := rfl
theorem exec_frintF32 {e d a rm s} : exec (.frintF32 e d a rm) s = execFrintF32 e d a rm s := rfl
theorem exec_fclassF32 {e d a rm s} : exec (.fclassF32 e d a rm) s = execFclassF32 e d a rm s := rfl
theorem exec_faddF16x2 {e d a b rm s} : exec (.faddF16x2 e d a b rm) s = execFaddF16x2 e d a b rm s := rfl
theorem exec_fsubF16x2 {e d a b rm s} : exec (.fsubF16x2 e d a b rm) s = execFsubF16x2 e d a b rm s := rfl
theorem exec_fmulF16x2 {e d a b rm s} : exec (.fmulF16x2 e d a b rm) s = execFmulF16x2 e d a b rm s := rfl
theorem exec_ffmaF16x2 {e d a b c rm s} : exec (.ffmaF16x2 e d a b c rm) s = execFfmaF16x2 e d a b c rm s := rfl
theorem exec_fminF16x2 {e d a b rm s} : exec (.fminF16x2 e d a b rm) s = execFminF16x2 e d a b rm s := rfl
theorem exec_fmaxF16x2 {e d a b rm s} : exec (.fmaxF16x2 e d a b rm) s = execFmaxF16x2 e d a b rm s := rfl
theorem exec_fcmpF16x2 {e d a b cond rm s} : exec (.fcmpF16x2 e d a b cond rm) s = execFcmpF16x2 e d a b cond rm s := rfl
theorem exec_fabsF16x2 {e d a rm s} : exec (.fabsF16x2 e d a rm) s = execFabsF16x2 e d a rm s := rfl
theorem exec_fnegF16x2 {e d a rm s} : exec (.fnegF16x2 e d a rm) s = execFnegF16x2 e d a rm s := rfl
theorem exec_ffloorF16x2 {e d a rm s} : exec (.ffloorF16x2 e d a rm) s = execFfloorF16x2 e d a rm s := rfl
theorem exec_fceilF16x2 {e d a rm s} : exec (.fceilF16x2 e d a rm) s = execFceilF16x2 e d a rm s := rfl
theorem exec_ftruncF16x2 {e d a rm s} : exec (.ftruncF16x2 e d a rm) s = execFtruncF16x2 e d a rm s := rfl
theorem exec_frintF16x2 {e d a rm s} : exec (.frintF16x2 e d a rm) s = execFrintF16x2 e d a rm s := rfl
theorem exec_fclassF16x2 {e d a rm s} : exec (.fclassF16x2 e d a rm) s = execFclassF16x2 e d a rm s := rfl
theorem exec_faddBf16x2 {e d a b rm s} : exec (.faddBf16x2 e d a b rm) s = execFaddBf16x2 e d a b rm s := rfl
theorem exec_fsubBf16x2 {e d a b rm s} : exec (.fsubBf16x2 e d a b rm) s = execFsubBf16x2 e d a b rm s := rfl
theorem exec_fmulBf16x2 {e d a b rm s} : exec (.fmulBf16x2 e d a b rm) s = execFmulBf16x2 e d a b rm s := rfl
theorem exec_ffmaBf16x2 {e d a b c rm s} : exec (.ffmaBf16x2 e d a b c rm) s = execFfmaBf16x2 e d a b c rm s := rfl
theorem exec_fminBf16x2 {e d a b rm s} : exec (.fminBf16x2 e d a b rm) s = execFminBf16x2 e d a b rm s := rfl
theorem exec_fmaxBf16x2 {e d a b rm s} : exec (.fmaxBf16x2 e d a b rm) s = execFmaxBf16x2 e d a b rm s := rfl
theorem exec_fcmpBf16x2 {e d a b cond rm s} : exec (.fcmpBf16x2 e d a b cond rm) s = execFcmpBf16x2 e d a b cond rm s := rfl
theorem exec_fabsBf16x2 {e d a rm s} : exec (.fabsBf16x2 e d a rm) s = execFabsBf16x2 e d a rm s := rfl
theorem exec_fnegBf16x2 {e d a rm s} : exec (.fnegBf16x2 e d a rm) s = execFnegBf16x2 e d a rm s := rfl
theorem exec_ffloorBf16x2 {e d a rm s} : exec (.ffloorBf16x2 e d a rm) s = execFfloorBf16x2 e d a rm s := rfl
theorem exec_fceilBf16x2 {e d a rm s} : exec (.fceilBf16x2 e d a rm) s = execFceilBf16x2 e d a rm s := rfl
theorem exec_ftruncBf16x2 {e d a rm s} : exec (.ftruncBf16x2 e d a rm) s = execFtruncBf16x2 e d a rm s := rfl
theorem exec_frintBf16x2 {e d a rm s} : exec (.frintBf16x2 e d a rm) s = execFrintBf16x2 e d a rm s := rfl
theorem exec_fclassBf16x2 {e d a rm s} : exec (.fclassBf16x2 e d a rm) s = execFclassBf16x2 e d a rm s := rfl
theorem exec_fdivF64 {e d a b rm s} : exec (.fdivF64 e d a b rm) s = execFdivF64 e d a b rm s := rfl
theorem exec_fdivF32 {e d a b rm s} : exec (.fdivF32 e d a b rm) s = execFdivF32 e d a b rm s := rfl
theorem exec_fsqrtF64 {e d a rm s} : exec (.fsqrtF64 e d a rm) s = execFsqrtF64 e d a rm s := rfl
theorem exec_fsqrtF32 {e d a rm s} : exec (.fsqrtF32 e d a rm) s = execFsqrtF32 e d a rm s := rfl
theorem exec_frcpF64 {e d a rm s} : exec (.frcpF64 e d a rm) s = execFrcpF64 e d a rm s := rfl
theorem exec_frcpF32 {e d a rm s} : exec (.frcpF32 e d a rm) s = execFrcpF32 e d a rm s := rfl
theorem exec_frsqF64 {e d a rm s} : exec (.frsqF64 e d a rm) s = execFrsqF64 e d a rm s := rfl
theorem exec_frsqF32 {e d a rm s} : exec (.frsqF32 e d a rm) s = execFrsqF32 e d a rm s := rfl
theorem exec_fexp2 {e d a s} : exec (.fexp2 e d a) s = execFexp2 e d a s := rfl
theorem exec_flog2 {e d a s} : exec (.flog2 e d a) s = execFlog2 e d a s := rfl
theorem exec_fsinpi {e d a s} : exec (.fsinpi e d a) s = execFsinpi e d a s := rfl
theorem exec_fcospi {e d a s} : exec (.fcospi e d a) s = execFcospi e d a s := rfl
theorem exec_ftanh {e d a s} : exec (.ftanh e d a) s = execFtanh e d a s := rfl
theorem exec_cvt {e d a src dst rm s} : exec (.cvt e d a src dst rm) s = execCvt e d a src dst rm s := rfl
theorem exec_cvtSat {e d a src dst rm s} : exec (.cvtSat e d a src dst rm) s = execCvtSat e d a src dst rm s := rfl
theorem exec_shfl {e d a b pick imm w64 s} : exec (.shfl e d a b pick imm w64) s = execShfl e d a b pick imm w64 s := rfl
theorem exec_shflx {e d a b pick imm w64 s} : exec (.shflx e d a b pick imm w64) s = execShflx e d a b pick imm w64 s := rfl
theorem exec_shflup {e d a b pick imm w64 s} : exec (.shflup e d a b pick imm w64) s = execShflup e d a b pick imm w64 s := rfl
theorem exec_shfldn {e d a b pick imm w64 s} : exec (.shfldn e d a b pick imm w64) s = execShfldn e d a b pick imm w64 s := rfl
theorem exec_bcast {e d a src w64 first s} : exec (.bcast e d a src w64 first) s = execBcast e d a src w64 first s := rfl
theorem exec_vote {e d a mode s} : exec (.vote e d a mode) s = execVote e d a mode s := rfl
theorem exec_gathg {e d a b w sg s} : exec (.gathg e d a b w sg) s = execGathg e d a b w sg s := rfl
theorem exec_redadd {e d a w64 s} : exec (.redadd e d a w64) s = execRedadd e d a w64 s := rfl
theorem exec_redmin {e d a w64 un s} : exec (.redmin e d a w64 un) s = execRedmin e d a w64 un s := rfl
theorem exec_redmax {e d a w64 un s} : exec (.redmax e d a w64 un) s = execRedmax e d a w64 un s := rfl
theorem exec_redaddF32 {e d a s} : exec (.redaddF32 e d a) s = execRedaddF32 e d a s := rfl
theorem exec_redaddF64 {e d a s} : exec (.redaddF64 e d a) s = execRedaddF64 e d a s := rfl
theorem exec_scan {e d a w64 s} : exec (.scan e d a w64) s = execScan e d a w64 s := rfl
theorem exec_scanx {e d a w64 s} : exec (.scanx e d a w64) s = execScanx e d a w64 s := rfl
theorem exec_scanF32 {e d a s} : exec (.scanF32 e d a) s = execScanF32 e d a s := rfl
theorem exec_confl {e d a w64 s} : exec (.confl e d a w64) s = execConfl e d a w64 s := rfl
theorem exec_rebal {e d a b s} : exec (.rebal e d a b) s = execRebal e d a b s := rfl
theorem exec_mrgu {e d a b px py pe s} : exec (.mrgu e d a b px py pe) s = execMrgu e d a b px py pe s := rfl
theorem exec_mrgi {e d a b px py pe s} : exec (.mrgi e d a b px py pe) s = execMrgi e d a b px py pe s := rfl
theorem exec_compact {e d a c w64 s} : exec (.compact e d a c w64) s = execCompact e d a c w64 s := rfl
theorem exec_expand {e d a c w64 s} : exec (.expand e d a c w64) s = execExpand e d a c w64 s := rfl
theorem exec_vldB {e d a o off s} : exec (.vldB e d a o off) s = execVldB e d a o off s := rfl
theorem exec_vldBs {e d a o off s} : exec (.vldBs e d a o off) s = execVldBs e d a o off s := rfl
theorem exec_vldH {e d a o off s} : exec (.vldH e d a o off) s = execVldH e d a o off s := rfl
theorem exec_vldHs {e d a o off s} : exec (.vldHs e d a o off) s = execVldHs e d a o off s := rfl
theorem exec_vldW {e d a o off s} : exec (.vldW e d a o off) s = execVldW e d a o off s := rfl
theorem exec_vldD {e d a o off s} : exec (.vldD e d a o off) s = execVldD e d a o off s := rfl
theorem exec_vldQ {e d a o off s} : exec (.vldQ e d a o off) s = execVldQ e d a o off s := rfl
theorem exec_vldl {e d a o off s} : exec (.vldl e d a o off) s = execVldl e d a o off s := rfl
theorem exec_vstB {e a b o off s} : exec (.vstB e a b o off) s = execVstB e a b o off s := rfl
theorem exec_vstH {e a b o off s} : exec (.vstH e a b o off) s = execVstH e a b o off s := rfl
theorem exec_vstW {e a b o off s} : exec (.vstW e a b o off) s = execVstW e a b o off s := rfl
theorem exec_vstD {e a b o off s} : exec (.vstD e a b o off) s = execVstD e a b o off s := rfl
theorem exec_vstQ {e a b o off s} : exec (.vstQ e a b o off) s = execVstQ e a b o off s := rfl
theorem exec_vatomAdd {e d a b o w64 un s} : exec (.vatomAdd e d a b o w64 un) s = execVatomAdd e d a b o w64 un s := rfl
theorem exec_vatomMin {e d a b o w64 un s} : exec (.vatomMin e d a b o w64 un) s = execVatomMin e d a b o w64 un s := rfl
theorem exec_vatomMax {e d a b o w64 un s} : exec (.vatomMax e d a b o w64 un) s = execVatomMax e d a b o w64 un s := rfl
theorem exec_vatomAnd {e d a b o w64 un s} : exec (.vatomAnd e d a b o w64 un) s = execVatomAnd e d a b o w64 un s := rfl
theorem exec_vatomOr {e d a b o w64 un s} : exec (.vatomOr e d a b o w64 un) s = execVatomOr e d a b o w64 un s := rfl
theorem exec_vatomXor {e d a b o w64 un s} : exec (.vatomXor e d a b o w64 un) s = execVatomXor e d a b o w64 un s := rfl
theorem exec_vatomXchg {e d a b o w64 un s} : exec (.vatomXchg e d a b o w64 un) s = execVatomXchg e d a b o w64 un s := rfl
theorem exec_vatomCas {e d a b o w64 un s} : exec (.vatomCas e d a b o w64 un) s = execVatomCas e d a b o w64 un s := rfl
theorem exec_slotrd {e d a o off s} : exec (.slotrd e d a o off) s = execSlotrd e d a o off s := rfl
theorem exec_gldB {e x k a b o off s} : exec (.gldB e x k a b o off) s = execGldB e x k a b o off s := rfl
theorem exec_gldBs {e x k a b o off s} : exec (.gldBs e x k a b o off) s = execGldBs e x k a b o off s := rfl
theorem exec_gldH {e x k a b o off s} : exec (.gldH e x k a b o off) s = execGldH e x k a b o off s := rfl
theorem exec_gldHs {e x k a b o off s} : exec (.gldHs e x k a b o off) s = execGldHs e x k a b o off s := rfl
theorem exec_gldW {e x k a b o off s} : exec (.gldW e x k a b o off) s = execGldW e x k a b o off s := rfl
theorem exec_gldD {e x k a b o off s} : exec (.gldD e x k a b o off) s = execGldD e x k a b o off s := rfl
theorem exec_gldQ {e x k a b o off s} : exec (.gldQ e x k a b o off) s = execGldQ e x k a b o off s := rfl
theorem exec_gstB {e x a b o s} : exec (.gstB e x a b o) s = execGstB e x a b o s := rfl
theorem exec_gstH {e x a b o s} : exec (.gstH e x a b o) s = execGstH e x a b o s := rfl
theorem exec_gstW {e x a b o s} : exec (.gstW e x a b o) s = execGstW e x a b o s := rfl
theorem exec_gstD {e x a b o s} : exec (.gstD e x a b o) s = execGstD e x a b o s := rfl
theorem exec_gstQ {e x a b o s} : exec (.gstQ e x a b o) s = execGstQ e x a b o s := rfl
theorem exec_gatomAdd {e x k a b o w64 un vo s} : exec (.gatomAdd e x k a b o w64 un vo) s = execGatomAdd e x k a b o w64 un vo s := rfl
theorem exec_gatomMin {e x k a b o w64 un vo s} : exec (.gatomMin e x k a b o w64 un vo) s = execGatomMin e x k a b o w64 un vo s := rfl
theorem exec_gatomMax {e x k a b o w64 un vo s} : exec (.gatomMax e x k a b o w64 un vo) s = execGatomMax e x k a b o w64 un vo s := rfl
theorem exec_gatomAnd {e x k a b o w64 un vo s} : exec (.gatomAnd e x k a b o w64 un vo) s = execGatomAnd e x k a b o w64 un vo s := rfl
theorem exec_gatomOr {e x k a b o w64 un vo s} : exec (.gatomOr e x k a b o w64 un vo) s = execGatomOr e x k a b o w64 un vo s := rfl
theorem exec_gatomXor {e x k a b o w64 un vo s} : exec (.gatomXor e x k a b o w64 un vo) s = execGatomXor e x k a b o w64 un vo s := rfl
theorem exec_gatomXchg {e x k a b o w64 un vo s} : exec (.gatomXchg e x k a b o w64 un vo) s = execGatomXchg e x k a b o w64 un vo s := rfl
theorem exec_gatomCas {e x k a b o w64 un vo s} : exec (.gatomCas e x k a b o w64 un vo) s = execGatomCas e x k a b o w64 un vo s := rfl
theorem exec_subscr {e x a b o off s} : exec (.subscr e x a b o off) s = execSubscr e x a b o off s := rfl
theorem exec_unsub {e x a b o off s} : exec (.unsub e x a b o off) s = execUnsub e x a b o off s := rfl
theorem exec_trd {e d t row part w64 s} : exec (.trd e d t row part w64) s = execTrd e d t row part w64 s := rfl
theorem exec_twr {e t b row part w64 s} : exec (.twr e t b row part w64) s = execTwr e t b row part w64 s := rfl
theorem exec_sadd {e d a b s} : exec (.sadd e d a b) s = execSadd e d a b s := rfl
theorem exec_ssub {e d a b s} : exec (.ssub e d a b) s = execSsub e d a b s := rfl
theorem exec_smul {e d a b s} : exec (.smul e d a b) s = execSmul e d a b s := rfl
theorem exec_smulhi {e d a b s} : exec (.smulhi e d a b) s = execSmulhi e d a b s := rfl
theorem exec_smulhiu {e d a b s} : exec (.smulhiu e d a b) s = execSmulhiu e d a b s := rfl
theorem exec_sdiv {e d a b s} : exec (.sdiv e d a b) s = execSdiv e d a b s := rfl
theorem exec_sdivu {e d a b s} : exec (.sdivu e d a b) s = execSdivu e d a b s := rfl
theorem exec_srem {e d a b s} : exec (.srem e d a b) s = execSrem e d a b s := rfl
theorem exec_sremu {e d a b s} : exec (.sremu e d a b) s = execSremu e d a b s := rfl
theorem exec_smin {e d a b s} : exec (.smin e d a b) s = execSmin e d a b s := rfl
theorem exec_smax {e d a b s} : exec (.smax e d a b) s = execSmax e d a b s := rfl
theorem exec_sminu {e d a b s} : exec (.sminu e d a b) s = execSminu e d a b s := rfl
theorem exec_smaxu {e d a b s} : exec (.smaxu e d a b) s = execSmaxu e d a b s := rfl
theorem exec_sand {e d a b s} : exec (.sand e d a b) s = execSand e d a b s := rfl
theorem exec_sor {e d a b s} : exec (.sor e d a b) s = execSor e d a b s := rfl
theorem exec_sxor {e d a b s} : exec (.sxor e d a b) s = execSxor e d a b s := rfl
theorem exec_sandn {e d a b s} : exec (.sandn e d a b) s = execSandn e d a b s := rfl
theorem exec_snot {e d a s} : exec (.snot e d a) s = execSnot e d a s := rfl
theorem exec_smov {e d a s} : exec (.smov e d a) s = execSmov e d a s := rfl
theorem exec_sshl {e d a b s} : exec (.sshl e d a b) s = execSshl e d a b s := rfl
theorem exec_sshr {e d a b s} : exec (.sshr e d a b) s = execSshr e d a b s := rfl
theorem exec_ssar {e d a b s} : exec (.ssar e d a b) s = execSsar e d a b s := rfl
theorem exec_sclz {e d a s} : exec (.sclz e d a) s = execSclz e d a s := rfl
theorem exec_sctz {e d a s} : exec (.sctz e d a) s = execSctz e d a s := rfl
theorem exec_spopc {e d a s} : exec (.spopc e d a) s = execSpopc e d a s := rfl
theorem exec_saddImm {e d a imm s} : exec (.saddImm e d a imm) s = execSaddImm e d a imm s := rfl
theorem exec_ssubImm {e d a imm s} : exec (.ssubImm e d a imm) s = execSsubImm e d a imm s := rfl
theorem exec_smulImm {e d a imm s} : exec (.smulImm e d a imm) s = execSmulImm e d a imm s := rfl
theorem exec_smulhiImm {e d a imm s} : exec (.smulhiImm e d a imm) s = execSmulhiImm e d a imm s := rfl
theorem exec_smulhiuImm {e d a imm s} : exec (.smulhiuImm e d a imm) s = execSmulhiuImm e d a imm s := rfl
theorem exec_sdivImm {e d a imm s} : exec (.sdivImm e d a imm) s = execSdivImm e d a imm s := rfl
theorem exec_sdivuImm {e d a imm s} : exec (.sdivuImm e d a imm) s = execSdivuImm e d a imm s := rfl
theorem exec_sremImm {e d a imm s} : exec (.sremImm e d a imm) s = execSremImm e d a imm s := rfl
theorem exec_sremuImm {e d a imm s} : exec (.sremuImm e d a imm) s = execSremuImm e d a imm s := rfl
theorem exec_sminImm {e d a imm s} : exec (.sminImm e d a imm) s = execSminImm e d a imm s := rfl
theorem exec_smaxImm {e d a imm s} : exec (.smaxImm e d a imm) s = execSmaxImm e d a imm s := rfl
theorem exec_sminuImm {e d a imm s} : exec (.sminuImm e d a imm) s = execSminuImm e d a imm s := rfl
theorem exec_smaxuImm {e d a imm s} : exec (.smaxuImm e d a imm) s = execSmaxuImm e d a imm s := rfl
theorem exec_sandImm {e d a imm s} : exec (.sandImm e d a imm) s = execSandImm e d a imm s := rfl
theorem exec_sorImm {e d a imm s} : exec (.sorImm e d a imm) s = execSorImm e d a imm s := rfl
theorem exec_sxorImm {e d a imm s} : exec (.sxorImm e d a imm) s = execSxorImm e d a imm s := rfl
theorem exec_sandnImm {e d a imm s} : exec (.sandnImm e d a imm) s = execSandnImm e d a imm s := rfl
theorem exec_smovImm {e d imm s} : exec (.smovImm e d imm) s = execSmovImm e d imm s := rfl
theorem exec_sshlImm {e d a imm s} : exec (.sshlImm e d a imm) s = execSshlImm e d a imm s := rfl
theorem exec_sshrImm {e d a imm s} : exec (.sshrImm e d a imm) s = execSshrImm e d a imm s := rfl
theorem exec_ssarImm {e d a imm s} : exec (.ssarImm e d a imm) s = execSsarImm e d a imm s := rfl
theorem exec_qeq {e d a b s} : exec (.qeq e d a b) s = execQeq e d a b s := rfl
theorem exec_qne {e d a b s} : exec (.qne e d a b) s = execQne e d a b s := rfl
theorem exec_qlt {e d a b s} : exec (.qlt e d a b) s = execQlt e d a b s := rfl
theorem exec_qge {e d a b s} : exec (.qge e d a b) s = execQge e d a b s := rfl
theorem exec_qltu {e d a b s} : exec (.qltu e d a b) s = execQltu e d a b s := rfl
theorem exec_qgeu {e d a b s} : exec (.qgeu e d a b) s = execQgeu e d a b s := rfl
theorem exec_qle {e d a b s} : exec (.qle e d a b) s = execQle e d a b s := rfl
theorem exec_qgt {e d a b s} : exec (.qgt e d a b) s = execQgt e d a b s := rfl
theorem exec_qeqImm {e d a imm s} : exec (.qeqImm e d a imm) s = execQeqImm e d a imm s := rfl
theorem exec_qneImm {e d a imm s} : exec (.qneImm e d a imm) s = execQneImm e d a imm s := rfl
theorem exec_qltImm {e d a imm s} : exec (.qltImm e d a imm) s = execQltImm e d a imm s := rfl
theorem exec_qgeImm {e d a imm s} : exec (.qgeImm e d a imm) s = execQgeImm e d a imm s := rfl
theorem exec_qltuImm {e d a imm s} : exec (.qltuImm e d a imm) s = execQltuImm e d a imm s := rfl
theorem exec_qgeuImm {e d a imm s} : exec (.qgeuImm e d a imm) s = execQgeuImm e d a imm s := rfl
theorem exec_qleImm {e d a imm s} : exec (.qleImm e d a imm) s = execQleImm e d a imm s := rfl
theorem exec_qgtImm {e d a imm s} : exec (.qgtImm e d a imm) s = execQgtImm e d a imm s := rfl
theorem exec_sli {e d imm s} : exec (.sli e d imm) s = execSli e d imm s := rfl
theorem exec_slis {e d imm s} : exec (.slis e d imm) s = execSlis e d imm s := rfl
theorem exec_s2v {e a v w64 s} : exec (.s2v e a v w64) s = execS2v e a v w64 s := rfl
theorem exec_v2s {e d v w64 src first s} : exec (.v2s e d v w64 src first) s = execV2s e d v w64 src first s := rfl
theorem exec_qopAnd {e d a b s} : exec (.qopAnd e d a b) s = execQopAnd e d a b s := rfl
theorem exec_qopOr {e d a b s} : exec (.qopOr e d a b) s = execQopOr e d a b s := rfl
theorem exec_qopXor {e d a b s} : exec (.qopXor e d a b) s = execQopXor e d a b s := rfl
theorem exec_qopAndn {e d a b s} : exec (.qopAndn e d a b) s = execQopAndn e d a b s := rfl
theorem exec_qopNot {e d a b s} : exec (.qopNot e d a b) s = execQopNot e d a b s := rfl
theorem exec_qopMov {e d a b s} : exec (.qopMov e d a b) s = execQopMov e d a b s := rfl
theorem exec_p2s {e d a s} : exec (.p2s e d a) s = execP2s e d a s := rfl
theorem exec_s2p {e d a s} : exec (.s2p e d a) s = execS2p e d a s := rfl
theorem exec_actmask {e d s} : exec (.actmask e d) s = execActmask e d s := rfl
theorem exec_sldk {e d off s} : exec (.sldk e d off) s = execSldk e d off s := rfl
theorem exec_sldv {e d a w o off s} : exec (.sldv e d a w o off) s = execSldv e d a w o off s := rfl
theorem exec_sstv {e a b w o off s} : exec (.sstv e a b w o off) s = execSstv e a b w o off s := rfl
theorem exec_satomvAdd {e d a b w o un s} : exec (.satomvAdd e d a b w o un) s = execSatomvAdd e d a b w o un s := rfl
theorem exec_satomvMin {e d a b w o un s} : exec (.satomvMin e d a b w o un) s = execSatomvMin e d a b w o un s := rfl
theorem exec_satomvMax {e d a b w o un s} : exec (.satomvMax e d a b w o un) s = execSatomvMax e d a b w o un s := rfl
theorem exec_satomvAnd {e d a b w o un s} : exec (.satomvAnd e d a b w o un) s = execSatomvAnd e d a b w o un s := rfl
theorem exec_satomvOr {e d a b w o un s} : exec (.satomvOr e d a b w o un) s = execSatomvOr e d a b w o un s := rfl
theorem exec_satomvXor {e d a b w o un s} : exec (.satomvXor e d a b w o un) s = execSatomvXor e d a b w o un s := rfl
theorem exec_satomvXchg {e d a b w o un s} : exec (.satomvXchg e d a b w o un) s = execSatomvXchg e d a b w o un s := rfl
theorem exec_scasv {e d a b w o s} : exec (.scasv e d a b w o) s = execScasv e d a b w o s := rfl
theorem exec_bra {e imm s} : exec (.bra e imm) s = execBra e imm s := rfl
theorem exec_brq {e a imm s} : exec (.brq e a imm) s = execBrq e a imm s := rfl
theorem exec_brnq {e a imm s} : exec (.brnq e a imm) s = execBrnq e a imm s := rfl
theorem exec_call {e q neg imm s} : exec (.call e q neg imm) s = execCall e q neg imm s := rfl
theorem exec_callr {e a q neg s} : exec (.callr e a q neg) s = execCallr e a q neg s := rfl
theorem exec_ret {e a s} : exec (.ret e a) s = execRet e a s := rfl
theorem exec_endStrand {e s} : exec (.endStrand e) s = execEndStrand e s := rfl
theorem exec_loopd {e d imm s} : exec (.loopd e d imm) s = execLoopd e d imm s := rfl
theorem exec_split {e p b els cont s} : exec (.split e p b els cont) s = execSplit e p b els cont s := rfl
theorem exec_calli {e d p neg b cont s} : exec (.calli e d p neg b cont) s = execCalli e d p neg b cont s := rfl
theorem exec_endarm {e s} : exec (.endarm e) s = execEndarm e s := rfl
theorem exec_seal {e lo hi pred s} : exec (.seal e lo hi pred) s = execSeal e lo hi pred s := rfl
theorem exec_join {e lo hi pred s} : exec (.join e lo hi pred) s = execJoin e lo hi pred s := rfl
theorem exec_joinmem {e s} : exec (.joinmem e) s = execJoinmem e s := rfl
theorem exec_binit {e k waves engines s} : exec (.binit e k waves engines) s = execBinit e k waves engines s := rfl
theorem exec_bexpect {e k a r n s} : exec (.bexpect e k a r n) s = execBexpect e k a r n s := rfl
theorem exec_barrive {e d k s} : exec (.barrive e d k) s = execBarrive e d k s := rfl
theorem exec_bwait {e q k b s} : exec (.bwait e q k b) s = execBwait e q k b s := rfl
theorem exec_bsync {e q k s} : exec (.bsync e q k) s = execBsync e q k s := rfl
theorem exec_gbar {e q g s} : exec (.gbar e q g) s = execGbar e q g s := rfl
theorem exec_cbar {e q s} : exec (.cbar e q) s = execCbar e q s := rfl
theorem exec_bstat {e d k pick s} : exec (.bstat e d k pick) s = execBstat e d k pick s := rfl
theorem exec_waita {e d a b cond o off s} : exec (.waita e d a b cond o off) s = execWaita e d a b cond o off s := rfl
theorem exec_sleep {e a r n s} : exec (.sleep e a r n) s = execSleep e a r n s := rfl
theorem exec_yieldS {e s} : exec (.yieldS e) s = execYieldS e s := rfl
theorem exec_fenceAcq {e scope s} : exec (.fenceAcq e scope) s = execFenceAcq e scope s := rfl
theorem exec_fenceRel {e scope s} : exec (.fenceRel e scope) s = execFenceRel e scope s := rfl
theorem exec_fenceFull {e scope s} : exec (.fenceFull e scope) s = execFenceFull e scope s := rfl
theorem exec_fenceEng {e scope s} : exec (.fenceEng e scope) s = execFenceEng e scope s := rfl
theorem exec_xlat {e x a b s} : exec (.xlat e x a b) s = execXlat e x a b s := rfl
theorem exec_xdrop {e x s} : exec (.xdrop e x) s = execXdrop e x s := rfl
theorem exec_copy {e a off s} : exec (.copy e a off) s = execCopy e a off s := rfl
theorem exec_copyc {e a off s} : exec (.copyc e a off) s = execCopyc e a off s := rfl
theorem exec_copyl {e a off s} : exec (.copyl e a off) s = execCopyl e a off s := rfl
theorem exec_tstg {e a t off s} : exec (.tstg e a t off) s = execTstg e a t off s := rfl
theorem exec_stepchk {e q a s} : exec (.stepchk e q a) s = execStepchk e q a s := rfl
theorem exec_steprec {e q a s} : exec (.steprec e q a) s = execSteprec e q a s := rfl
theorem exec_tcfg {e t a r shape s} : exec (.tcfg e t a r shape) s = execTcfg e t a r shape s := rfl
theorem exec_tlay {e t layout s} : exec (.tlay e t layout) s = execTlay e t layout s := rfl
theorem exec_tld {e t a off stride s} : exec (.tld e t a off stride) s = execTld e t a off stride s := rfl
theorem exec_tst {e a t off stride s} : exec (.tst e a t off stride) s = execTst e a t off stride s := rfl
theorem exec_tzero {e t s} : exec (.tzero e t) s = execTzero e t s := rfl
theorem exec_tmov {e t src s} : exec (.tmov e t src) s = execTmov e t src s := rfl
theorem exec_mmaF64 {e c a b part tb s} : exec (.mmaF64 e c a b part tb) s = execMmaF64 e c a b part tb s := rfl
theorem exec_mmaF32 {e c a b part tb s} : exec (.mmaF32 e c a b part tb) s = execMmaF32 e c a b part tb s := rfl
theorem exec_mmaF16 {e c a b part tb s} : exec (.mmaF16 e c a b part tb) s = execMmaF16 e c a b part tb s := rfl
theorem exec_mmaBf16 {e c a b part tb s} : exec (.mmaBf16 e c a b part tb) s = execMmaBf16 e c a b part tb s := rfl
theorem exec_mmaE4m3 {e c a b part tb s} : exec (.mmaE4m3 e c a b part tb) s = execMmaE4m3 e c a b part tb s := rfl
theorem exec_mmaE5m2 {e c a b part tb s} : exec (.mmaE5m2 e c a b part tb) s = execMmaE5m2 e c a b part tb s := rfl
theorem exec_mmaDs8 {e c a b part tb s} : exec (.mmaDs8 e c a b part tb) s = execMmaDs8 e c a b part tb s := rfl
theorem exec_mmaI8 {e c a b part tb s} : exec (.mmaI8 e c a b part tb) s = execMmaI8 e c a b part tb s := rfl
theorem exec_scacc {e c a b q neg ra rb s} : exec (.scacc e c a b q neg ra rb) s = execScacc e c a b q neg ra rb s := rfl
theorem exec_quant {e c a b fmt col r s} : exec (.quant e c a b fmt col r) s = execQuant e c a b fmt col r s := rfl
theorem exec_rarm {e d a off s} : exec (.rarm e d a off) s = execRarm e d a off s := rfl
theorem exec_rdisarm {e d a s} : exec (.rdisarm e d a) s = execRdisarm e d a s := rfl
theorem exec_rqry {e d a pick s} : exec (.rqry e d a pick) s = execRqry e d a pick s := rfl
theorem exec_fork {e q a s} : exec (.fork e q a) s = execFork e q a s := rfl
theorem exec_tnext {e q s} : exec (.tnext e q) s = execTnext e q s := rfl
theorem exec_tsig {e a s} : exec (.tsig e a) s = execTsig e a s := rfl
theorem exec_tdone {e s} : exec (.tdone e) s = execTdone e s := rfl
theorem exec_tpost {e a b s} : exec (.tpost e a b) s = execTpost e a b s := rfl
theorem exec_nextw {e a off s} : exec (.nextw e a off) s = execNextw e a off s := rfl
theorem exec_trap {e code s} : exec (.trap e code) s = execTrap e code s := rfl
theorem exec_bkpt {e s} : exec (.bkpt e) s = execBkpt e s := rfl
theorem exec_csrr {e d csr s} : exec (.csrr e d csr) s = execCsrr e d csr s := rfl
theorem exec_csrw {e a csr s} : exec (.csrw e a csr) s = execCsrw e a csr s := rfl
theorem exec_nop {e s} : exec (.nop e) s = execNop e s := rfl
theorem exec_resultWrite {slot entry flight s} : exec (.resultWrite slot entry flight) s = execResultWrite slot entry flight s := rfl
theorem exec_serialisedStrandStart {slot entry s} : exec (.serialisedStrandStart slot entry) s = execSerialisedStrandStart slot entry s := rfl
theorem exec_storeBufferDrain {slot id s} : exec (.storeBufferDrain slot id) s = execStoreBufferDrain slot id s := rfl
theorem exec_joinmemComplete {slot entry s} : exec (.joinmemComplete slot entry) s = execJoinmemComplete slot entry s := rfl
theorem exec_fenceComplete {slot entry s} : exec (.fenceComplete slot entry) s = execFenceComplete slot entry s := rfl
theorem exec_endComplete {slot entry s} : exec (.endComplete slot entry) s = execEndComplete slot entry s := rfl
theorem exec_remoteVaultRead {slot entry flight access s} : exec (.remoteVaultRead slot entry flight access) s = execRemoteVaultRead slot entry flight access s := rfl
theorem exec_postQueueSend {slot part s} : exec (.postQueueSend slot part) s = execPostQueueSend slot part s := rfl
theorem exec_homePerform {slot part byte s} : exec (.homePerform slot part byte) s = execHomePerform slot part byte s := rfl
theorem exec_subscribeRequest {slot part s} : exec (.subscribeRequest slot part) s = execSubscribeRequest slot part s := rfl
theorem exec_unsubscribeRequest {slot part s} : exec (.unsubscribeRequest slot part) s = execUnsubscribeRequest slot part s := rfl
theorem exec_pushDelivery {home core s} : exec (.pushDelivery home core) s = execPushDelivery home core s := rfl
theorem exec_refusalDelivery {home core s} : exec (.refusalDelivery home core) s = execRefusalDelivery home core s := rfl
theorem exec_unsubAckDelivery {home core s} : exec (.unsubAckDelivery home core) s = execUnsubAckDelivery home core s := rfl
theorem exec_gldLanding {load s} : exec (.gldLanding load) s = execGldLanding load s := rfl
theorem exec_gatomLanding {load s} : exec (.gatomLanding load) s = execGatomLanding load s := rfl
theorem exec_waitaWake {slot entry s} : exec (.waitaWake slot entry) s = execWaitaWake slot entry s := rfl
theorem exec_sleepExpire {slot entry s} : exec (.sleepExpire slot entry) s = execSleepExpire slot entry s := rfl
theorem exec_pageWalkComplete {slot entry run s} : exec (.pageWalkComplete slot entry run) s = execPageWalkComplete slot entry run s := rfl
theorem exec_faultResume {slot entry s} : exec (.faultResume slot entry) s = execFaultResume slot entry s := rfl
theorem exec_shootdown {die root va size s} : exec (.shootdown die root va size) s = execShootdown die root va size s := rfl
theorem exec_ownershipStep {pte frame size host s} : exec (.ownershipStep pte frame size host) s = execOwnershipStep pte frame size host s := rfl
theorem exec_jobAccept {core job s} : exec (.jobAccept core job) s = execJobAccept core job s := rfl
theorem exec_tstgCapture {core job s} : exec (.tstgCapture core job) s = execTstgCapture core job s := rfl
theorem exec_copyPiece {core job piece s} : exec (.copyPiece core job piece) s = execCopyPiece core job piece s := rfl
theorem exec_jobCompletion {core job s} : exec (.jobCompletion core job) s = execJobCompletion core job s := rfl
theorem exec_jobResume {core job s} : exec (.jobResume core job) s = execJobResume core job s := rfl
theorem exec_mmaStart {core s} : exec (.mmaStart core) s = execMmaStart core s := rfl
theorem exec_mmaComplete {core s} : exec (.mmaComplete core) s = execMmaComplete core s := rfl
theorem exec_regionCount {e s} : exec (.regionCount e) s = execRegionCount e s := rfl
theorem exec_regionArrive {die entry s} : exec (.regionArrive die entry) s = execRegionArrive die entry s := rfl
theorem exec_regionRelease {die entry s} : exec (.regionRelease die entry) s = execRegionRelease die entry s := rfl
theorem exec_regionTask {die entry s} : exec (.regionTask die entry) s = execRegionTask die entry s := rfl
theorem exec_regionFlag {die entry s} : exec (.regionFlag die entry) s = execRegionFlag die entry s := rfl
theorem exec_regionLaunch {die entry s} : exec (.regionLaunch die entry) s = execRegionLaunch die entry s := rfl
theorem exec_distributorGrant {launch request s} : exec (.distributorGrant launch request) s = execDistributorGrant launch request s := rfl
theorem exec_nextwAnswer {launch answer s} : exec (.nextwAnswer launch answer) s = execNextwAnswer launch answer s := rfl
theorem exec_overflowMove {part core s} : exec (.overflowMove part core) s = execOverflowMove part core s := rfl
theorem exec_hostPortPerform {slot part byte s} : exec (.hostPortPerform slot part byte) s = execHostPortPerform slot part byte s := rfl
theorem exec_hostPortAck {slot part s} : exec (.hostPortAck slot part) s = execHostPortAck slot part s := rfl
theorem exec_hostRead {addr count s} : exec (.hostRead addr count) s = execHostRead addr count s := rfl
theorem exec_hostWrite {addr data s} : exec (.hostWrite addr data) s = execHostWrite addr data s := rfl
theorem exec_packetAccept {part queue launch s} : exec (.packetAccept part queue launch) s = execPacketAccept part queue launch s := rfl
theorem exec_cohortBind {launch places s} : exec (.cohortBind launch places) s = execCohortBind launch places s := rfl
theorem exec_waveRetire {slot s} : exec (.waveRetire slot) s = execWaveRetire slot s := rfl
theorem exec_cohortRetire {cohort s} : exec (.cohortRetire cohort) s = execCohortRetire cohort s := rfl
theorem exec_waveKill {v s} : exec (.waveKill v) s = execWaveKill v s := rfl
theorem exec_gangPrepare {part queue o places s} : exec (.gangPrepare part queue o places) s = execGangPrepare part queue o places s := rfl
theorem exec_gangAck {gang chip s} : exec (.gangAck gang chip) s = execGangAck gang chip s := rfl
theorem exec_gangNack {gang n s} : exec (.gangNack gang n) s = execGangNack gang n s := rfl
theorem exec_prepareDeadline {gang s} : exec (.prepareDeadline gang) s = execPrepareDeadline gang s := rfl
theorem exec_gangCancel {launch s} : exec (.gangCancel launch) s = execGangCancel launch s := rfl
theorem exec_gangStart {launch s} : exec (.gangStart launch) s = execGangStart launch s := rfl
theorem exec_gangStartAck {gang chip s} : exec (.gangStartAck gang chip) s = execGangStartAck gang chip s := rfl
theorem exec_startDeadline {gang s} : exec (.startDeadline gang) s = execStartDeadline gang s := rfl
theorem exec_gangAbort {launch s} : exec (.gangAbort launch) s = execGangAbort launch s := rfl
theorem exec_watchdog {launch cycles s} : exec (.watchdog launch cycles) s = execWatchdog launch cycles s := rfl
theorem exec_preempt {cohorts s} : exec (.preempt cohorts) s = execPreempt cohorts s := rfl
theorem exec_restore {places s} : exec (.restore places) s = execRestore places s := rfl
theorem exec_debugHalt {slot s} : exec (.debugHalt slot) s = execDebugHalt slot s := rfl
theorem exec_debugResume {slot s} : exec (.debugResume slot) s = execDebugResume slot s := rfl
theorem exec_singleStep {slot entry s} : exec (.singleStep slot entry) s = execSingleStep slot entry s := rfl
theorem exec_eccCorrectable {site s} : exec (.eccCorrectable site) s = execEccCorrectable site s := rfl
theorem exec_eccPoison {site s} : exec (.eccPoison site) s = execEccPoison site s := rfl
theorem exec_flitRetransmit {link s} : exec (.flitRetransmit link) s = execFlitRetransmit link s := rfl
theorem exec_linkFailure {link s} : exec (.linkFailure link) s = execLinkFailure link s := rfl
theorem exec_clockThrottle {mhz s} : exec (.clockThrottle mhz) s = execClockThrottle mhz s := rfl
theorem exec_currentStepStall {quadrant cycles s} : exec (.currentStepStall quadrant cycles) s = execCurrentStepStall quadrant cycles s := rfl
theorem exec_thermalShutdown {s} : exec .thermalShutdown s = execThermalShutdown s := rfl
theorem exec_boot {s} : exec .boot s = execBoot s := rfl
theorem exec_patchLoad {entries image s} : exec (.patchLoad entries image) s = execPatchLoad entries image s := rfl
theorem exec_icacheFill {core launch va s} : exec (.icacheFill core launch va) s = execIcacheFill core launch va s := rfl
theorem exec_routingTableWrite {chip value s} : exec (.routingTableWrite chip value) s = execRoutingTableWrite chip value s := rfl
theorem exec_partitionCreate {part spec s} : exec (.partitionCreate part spec) s = execPartitionCreate part spec s := rfl
theorem exec_attestationRequest {nonce s} : exec (.attestationRequest nonce) s = execAttestationRequest nonce s := rfl
theorem exec_partitionTeardown {part s} : exec (.partitionTeardown part) s = execPartitionTeardown part s := rfl
theorem exec_channelCreate {channel part1 part2 s} : exec (.channelCreate channel part1 part2) s = execChannelCreate channel part1 part2 s := rfl
theorem exec_debugStateWrite {slot item s} : exec (.debugStateWrite slot item) s = execDebugStateWrite slot item s := rfl
theorem exec_mailboxImageWrite {version image s} : exec (.mailboxImageWrite version image) s = execMailboxImageWrite version image s := rfl
theorem wf_iadd {e d a b} : (Instr.iadd e d a b).wf = (e.wf) := rfl
theorem wf_isub {e d a b} : (Instr.isub e d a b).wf = (e.wf) := rfl
theorem wf_imin {e d a b} : (Instr.imin e d a b).wf = (e.wf) := rfl
theorem wf_imax {e d a b} : (Instr.imax e d a b).wf = (e.wf) := rfl
theorem wf_iminu {e d a b} : (Instr.iminu e d a b).wf = (e.wf) := rfl
theorem wf_imaxu {e d a b} : (Instr.imaxu e d a b).wf = (e.wf) := rfl
theorem wf_iabs {e d a} : (Instr.iabs e d a).wf = (e.wf) := rfl
theorem wf_ineg {e d a} : (Instr.ineg e d a).wf = (e.wf) := rfl
theorem wf_iaddImm {e d a imm} : (Instr.iaddImm e d a imm).wf = (e.wf && (absent e.x (imm == 0))) := rfl
theorem wf_isubImm {e d a imm} : (Instr.isubImm e d a imm).wf = (e.wf && (absent e.x (imm == 0))) := rfl
theorem wf_iminImm {e d a imm} : (Instr.iminImm e d a imm).wf = (e.wf && (absent e.x (imm == 0))) := rfl
theorem wf_imaxImm {e d a imm} : (Instr.imaxImm e d a imm).wf = (e.wf && (absent e.x (imm == 0))) := rfl
theorem wf_iminuImm {e d a imm} : (Instr.iminuImm e d a imm).wf = (e.wf && (absent e.x (imm == 0))) := rfl
theorem wf_imaxuImm {e d a imm} : (Instr.imaxuImm e d a imm).wf = (e.wf && (absent e.x (imm == 0))) := rfl
theorem wf_land {e d a b} : (Instr.land e d a b).wf = (e.wf) := rfl
theorem wf_lor {e d a b} : (Instr.lor e d a b).wf = (e.wf) := rfl
theorem wf_lxor {e d a b} : (Instr.lxor e d a b).wf = (e.wf) := rfl
theorem wf_landn {e d a b} : (Instr.landn e d a b).wf = (e.wf) := rfl
theorem wf_lorn {e d a b} : (Instr.lorn e d a b).wf = (e.wf) := rfl
theorem wf_lxnor {e d a b} : (Instr.lxnor e d a b).wf = (e.wf) := rfl
theorem wf_lnot {e d a} : (Instr.lnot e d a).wf = (e.wf) := rfl
theorem wf_mov {e d a} : (Instr.mov e d a).wf = (e.wf) := rfl
theorem wf_landImm {e d a imm} : (Instr.landImm e d a imm).wf = (e.wf && (absent e.x (imm == 0))) := rfl
theorem wf_lorImm {e d a imm} : (Instr.lorImm e d a imm).wf = (e.wf && (absent e.x (imm == 0))) := rfl
theorem wf_lxorImm {e d a imm} : (Instr.lxorImm e d a imm).wf = (e.wf && (absent e.x (imm == 0))) := rfl
theorem wf_landnImm {e d a imm} : (Instr.landnImm e d a imm).wf = (e.wf && (absent e.x (imm == 0))) := rfl
theorem wf_lornImm {e d a imm} : (Instr.lornImm e d a imm).wf = (e.wf && (absent e.x (imm == 0))) := rfl
theorem wf_lxnorImm {e d a imm} : (Instr.lxnorImm e d a imm).wf = (e.wf && (absent e.x (imm == 0))) := rfl
theorem wf_movhi {e d imm} : (Instr.movhi e d imm).wf = (e.wf && (absent e.x (imm == 0))) := rfl
theorem wf_movi {e d imm} : (Instr.movi e d imm).wf = (e.wf && (absent e.x (imm == 0))) := rfl
theorem wf_shl {e d a b} : (Instr.shl e d a b).wf = (e.wf) := rfl
theorem wf_shr {e d a b} : (Instr.shr e d a b).wf = (e.wf) := rfl
theorem wf_sar {e d a b} : (Instr.sar e d a b).wf = (e.wf) := rfl
theorem wf_rol {e d a b} : (Instr.rol e d a b).wf = (e.wf) := rfl
theorem wf_ror {e d a b} : (Instr.ror e d a b).wf = (e.wf) := rfl
theorem wf_fshl {e d a b c} : (Instr.fshl e d a b c).wf = (e.wf && (absent e.x (c == 0))) := rfl
theorem wf_fshr {e d a b c} : (Instr.fshr e d a b c).wf = (e.wf && (absent e.x (c == 0))) := rfl
theorem wf_shlImm {e d a n} : (Instr.shlImm e d a n).wf = (e.wf) := rfl
theorem wf_shrImm {e d a n} : (Instr.shrImm e d a n).wf = (e.wf) := rfl
theorem wf_sarImm {e d a n} : (Instr.sarImm e d a n).wf = (e.wf) := rfl
theorem wf_rolImm {e d a n} : (Instr.rolImm e d a n).wf = (e.wf) := rfl
theorem wf_rorImm {e d a n} : (Instr.rorImm e d a n).wf = (e.wf) := rfl
theorem wf_fshlImm {e d a n c} : (Instr.fshlImm e d a n c).wf = (e.wf && (absent e.x (c == 0))) := rfl
theorem wf_fshrImm {e d a n c} : (Instr.fshrImm e d a n c).wf = (e.wf && (absent e.x (c == 0))) := rfl
theorem wf_clz {e d a} : (Instr.clz e d a).wf = (e.wf) := rfl
theorem wf_ctz {e d a} : (Instr.ctz e d a).wf = (e.wf) := rfl
theorem wf_popc {e d a} : (Instr.popc e d a).wf = (e.wf) := rfl
theorem wf_brev {e d a} : (Instr.brev e d a).wf = (e.wf) := rfl
theorem wf_bswap {e d a} : (Instr.bswap e d a).wf = (e.wf) := rfl
theorem wf_bfx {e d a pos len} : (Instr.bfx e d a pos len).wf = (e.wf && (absent e.x (pos == 0 && len == 0))) := rfl
theorem wf_bfxs {e d a pos len} : (Instr.bfxs e d a pos len).wf = (e.wf && (absent e.x (pos == 0 && len == 0))) := rfl
theorem wf_bfi {e d a b pos len} : (Instr.bfi e d a b pos len).wf = (e.wf && (absent e.x (pos == 0 && len == 0))) := rfl
theorem wf_imul {e d a b} : (Instr.imul e d a b).wf = (e.wf) := rfl
theorem wf_imulhi {e d a b} : (Instr.imulhi e d a b).wf = (e.wf) := rfl
theorem wf_imulhiu {e d a b} : (Instr.imulhiu e d a b).wf = (e.wf) := rfl
theorem wf_imad {e d a b c} : (Instr.imad e d a b c).wf = (e.wf && (absent e.x (c == 0))) := rfl
theorem wf_imulw {e d a b} : (Instr.imulw e d a b).wf = (e.wf && even d) := rfl
theorem wf_imulwu {e d a b} : (Instr.imulwu e d a b).wf = (e.wf && even d) := rfl
theorem wf_imadw {e d a b c} : (Instr.imadw e d a b c).wf = (e.wf && (absent e.x (c == 0)) && even d && even c) := rfl
theorem wf_idiv {e d a b} : (Instr.idiv e d a b).wf = (e.wf) := rfl
theorem wf_idivu {e d a b} : (Instr.idivu e d a b).wf = (e.wf) := rfl
theorem wf_irem {e d a b} : (Instr.irem e d a b).wf = (e.wf) := rfl
theorem wf_iremu {e d a b} : (Instr.iremu e d a b).wf = (e.wf) := rfl
theorem wf_ceq {e d a b} : (Instr.ceq e d a b).wf = (e.wf) := rfl
theorem wf_cne {e d a b} : (Instr.cne e d a b).wf = (e.wf) := rfl
theorem wf_clt {e d a b} : (Instr.clt e d a b).wf = (e.wf) := rfl
theorem wf_cge {e d a b} : (Instr.cge e d a b).wf = (e.wf) := rfl
theorem wf_cltu {e d a b} : (Instr.cltu e d a b).wf = (e.wf) := rfl
theorem wf_cgeu {e d a b} : (Instr.cgeu e d a b).wf = (e.wf) := rfl
theorem wf_cle {e d a b} : (Instr.cle e d a b).wf = (e.wf) := rfl
theorem wf_cgt {e d a b} : (Instr.cgt e d a b).wf = (e.wf) := rfl
theorem wf_ceqImm {e d a imm} : (Instr.ceqImm e d a imm).wf = (e.wf && (absent e.x (imm == 0))) := rfl
theorem wf_cneImm {e d a imm} : (Instr.cneImm e d a imm).wf = (e.wf && (absent e.x (imm == 0))) := rfl
theorem wf_cltImm {e d a imm} : (Instr.cltImm e d a imm).wf = (e.wf && (absent e.x (imm == 0))) := rfl
theorem wf_cgeImm {e d a imm} : (Instr.cgeImm e d a imm).wf = (e.wf && (absent e.x (imm == 0))) := rfl
theorem wf_cltuImm {e d a imm} : (Instr.cltuImm e d a imm).wf = (e.wf && (absent e.x (imm == 0))) := rfl
theorem wf_cgeuImm {e d a imm} : (Instr.cgeuImm e d a imm).wf = (e.wf && (absent e.x (imm == 0))) := rfl
theorem wf_cleImm {e d a imm} : (Instr.cleImm e d a imm).wf = (e.wf && (absent e.x (imm == 0))) := rfl
theorem wf_cgtImm {e d a imm} : (Instr.cgtImm e d a imm).wf = (e.wf && (absent e.x (imm == 0))) := rfl
theorem wf_sel {e d a b c} : (Instr.sel e d a b c).wf = (e.wf && (absent e.x (c == 0))) := rfl
theorem wf_pand {e d a b} : (Instr.pand e d a b).wf = (e.wf) := rfl
theorem wf_por {e d a b} : (Instr.por e d a b).wf = (e.wf) := rfl
theorem wf_pxor {e d a b} : (Instr.pxor e d a b).wf = (e.wf) := rfl
theorem wf_pnot {e d a} : (Instr.pnot e d a).wf = (e.wf) := rfl
theorem wf_p2v {e d} : (Instr.p2v e d).wf = (e.wf) := rfl
theorem wf_v2p {e a mask} : (Instr.v2p e a mask).wf = (e.wf && (absent e.x (mask == 0))) := rfl
theorem wf_pmov {e d a} : (Instr.pmov e d a).wf = (e.wf) := rfl
theorem wf_iadd64 {e d a b} : (Instr.iadd64 e d a b).wf = (e.wf && even d && even a && even b) := rfl
theorem wf_isub64 {e d a b} : (Instr.isub64 e d a b).wf = (e.wf && even d && even a && even b) := rfl
theorem wf_shl64 {e d a b} : (Instr.shl64 e d a b).wf = (e.wf && even d && even a) := rfl
theorem wf_shr64 {e d a b} : (Instr.shr64 e d a b).wf = (e.wf && even d && even a) := rfl
theorem wf_sar64 {e d a b} : (Instr.sar64 e d a b).wf = (e.wf && even d && even a) := rfl
theorem wf_icmp64 {e d a b cond} : (Instr.icmp64 e d a b cond).wf = (e.wf && (absent e.x (cond == 0)) && even a && even b) := rfl
theorem wf_mov64 {e d a} : (Instr.mov64 e d a).wf = (e.wf && even d && even a) := rfl
theorem wf_imul64 {e d a b} : (Instr.imul64 e d a b).wf = (e.wf && even d && even a && even b) := rfl
theorem wf_sxtb {e d a} : (Instr.sxtb e d a).wf = (e.wf) := rfl
theorem wf_sxth {e d a} : (Instr.sxth e d a).wf = (e.wf) := rfl
theorem wf_zxtb {e d a} : (Instr.zxtb e d a).wf = (e.wf) := rfl
theorem wf_zxth {e d a} : (Instr.zxth e d a).wf = (e.wf) := rfl
theorem wf_sxtw {e d a} : (Instr.sxtw e d a).wf = (e.wf && even d) := rfl
theorem wf_zxtw {e d a} : (Instr.zxtw e d a).wf = (e.wf && even d) := rfl
theorem wf_laneid {e d} : (Instr.laneid e d).wf = (e.wf) := rfl
theorem wf_tid {e d} : (Instr.tid e d).wf = (e.wf) := rfl
theorem wf_faddF64 {e d a b rm} : (Instr.faddF64 e d a b rm).wf = (e.wf && (absent e.x (rm == 0)) && even d && even a && even b) := rfl
theorem wf_fsubF64 {e d a b rm} : (Instr.fsubF64 e d a b rm).wf = (e.wf && (absent e.x (rm == 0)) && even d && even a && even b) := rfl
theorem wf_fmulF64 {e d a b rm} : (Instr.fmulF64 e d a b rm).wf = (e.wf && (absent e.x (rm == 0)) && even d && even a && even b) := rfl
theorem wf_ffmaF64 {e d a b c rm} : (Instr.ffmaF64 e d a b c rm).wf = (e.wf && (absent e.x (c == 0 && rm == 0)) && even d && even a && even b && even c) := rfl
theorem wf_fminF64 {e d a b rm} : (Instr.fminF64 e d a b rm).wf = (e.wf && (absent e.x (rm == 0)) && even d && even a && even b) := rfl
theorem wf_fmaxF64 {e d a b rm} : (Instr.fmaxF64 e d a b rm).wf = (e.wf && (absent e.x (rm == 0)) && even d && even a && even b) := rfl
theorem wf_fcmpF64 {e d a b cond rm} : (Instr.fcmpF64 e d a b cond rm).wf = (e.wf && (absent e.x (cond == 0 && rm == 0)) && even a && even b) := rfl
theorem wf_fabsF64 {e d a rm} : (Instr.fabsF64 e d a rm).wf = (e.wf && (absent e.x (rm == 0)) && even d && even a) := rfl
theorem wf_fnegF64 {e d a rm} : (Instr.fnegF64 e d a rm).wf = (e.wf && e.x && even d && even a) := rfl
theorem wf_ffloorF64 {e d a rm} : (Instr.ffloorF64 e d a rm).wf = (e.wf && e.x && even d && even a) := rfl
theorem wf_fceilF64 {e d a rm} : (Instr.fceilF64 e d a rm).wf = (e.wf && e.x && even d && even a) := rfl
theorem wf_ftruncF64 {e d a rm} : (Instr.ftruncF64 e d a rm).wf = (e.wf && e.x && even d && even a) := rfl
theorem wf_frintF64 {e d a rm} : (Instr.frintF64 e d a rm).wf = (e.wf && e.x && even d && even a) := rfl
theorem wf_fclassF64 {e d a rm} : (Instr.fclassF64 e d a rm).wf = (e.wf && e.x && even a) := rfl
theorem wf_faddF32 {e d a b rm} : (Instr.faddF32 e d a b rm).wf = (e.wf && (absent e.x (rm == 0))) := rfl
theorem wf_fsubF32 {e d a b rm} : (Instr.fsubF32 e d a b rm).wf = (e.wf && (absent e.x (rm == 0))) := rfl
theorem wf_fmulF32 {e d a b rm} : (Instr.fmulF32 e d a b rm).wf = (e.wf && (absent e.x (rm == 0))) := rfl
theorem wf_ffmaF32 {e d a b c rm} : (Instr.ffmaF32 e d a b c rm).wf = (e.wf && (absent e.x (c == 0 && rm == 0))) := rfl
theorem wf_fminF32 {e d a b rm} : (Instr.fminF32 e d a b rm).wf = (e.wf && (absent e.x (rm == 0))) := rfl
theorem wf_fmaxF32 {e d a b rm} : (Instr.fmaxF32 e d a b rm).wf = (e.wf && (absent e.x (rm == 0))) := rfl
theorem wf_fcmpF32 {e d a b cond rm} : (Instr.fcmpF32 e d a b cond rm).wf = (e.wf && (absent e.x (cond == 0 && rm == 0))) := rfl
theorem wf_fabsF32 {e d a rm} : (Instr.fabsF32 e d a rm).wf = (e.wf && (absent e.x (rm == 0))) := rfl
theorem wf_fnegF32 {e d a rm} : (Instr.fnegF32 e d a rm).wf = (e.wf && e.x) := rfl
theorem wf_ffloorF32 {e d a rm} : (Instr.ffloorF32 e d a rm).wf = (e.wf && e.x) := rfl
theorem wf_fceilF32 {e d a rm} : (Instr.fceilF32 e d a rm).wf = (e.wf && e.x) := rfl
theorem wf_ftruncF32 {e d a rm} : (Instr.ftruncF32 e d a rm).wf = (e.wf && e.x) := rfl
theorem wf_frintF32 {e d a rm} : (Instr.frintF32 e d a rm).wf = (e.wf && e.x) := rfl
theorem wf_fclassF32 {e d a rm} : (Instr.fclassF32 e d a rm).wf = (e.wf && e.x) := rfl
theorem wf_faddF16x2 {e d a b rm} : (Instr.faddF16x2 e d a b rm).wf = (e.wf && (absent e.x (rm == 0))) := rfl
theorem wf_fsubF16x2 {e d a b rm} : (Instr.fsubF16x2 e d a b rm).wf = (e.wf && (absent e.x (rm == 0))) := rfl
theorem wf_fmulF16x2 {e d a b rm} : (Instr.fmulF16x2 e d a b rm).wf = (e.wf && (absent e.x (rm == 0))) := rfl
theorem wf_ffmaF16x2 {e d a b c rm} : (Instr.ffmaF16x2 e d a b c rm).wf = (e.wf && (absent e.x (c == 0 && rm == 0))) := rfl
theorem wf_fminF16x2 {e d a b rm} : (Instr.fminF16x2 e d a b rm).wf = (e.wf && (absent e.x (rm == 0))) := rfl
theorem wf_fmaxF16x2 {e d a b rm} : (Instr.fmaxF16x2 e d a b rm).wf = (e.wf && (absent e.x (rm == 0))) := rfl
theorem wf_fcmpF16x2 {e d a b cond rm} : (Instr.fcmpF16x2 e d a b cond rm).wf = (e.wf && (absent e.x (cond == 0 && rm == 0)) && evenP d) := rfl
theorem wf_fabsF16x2 {e d a rm} : (Instr.fabsF16x2 e d a rm).wf = (e.wf && (absent e.x (rm == 0))) := rfl
theorem wf_fnegF16x2 {e d a rm} : (Instr.fnegF16x2 e d a rm).wf = (e.wf && e.x) := rfl
theorem wf_ffloorF16x2 {e d a rm} : (Instr.ffloorF16x2 e d a rm).wf = (e.wf && e.x) := rfl
theorem wf_fceilF16x2 {e d a rm} : (Instr.fceilF16x2 e d a rm).wf = (e.wf && e.x) := rfl
theorem wf_ftruncF16x2 {e d a rm} : (Instr.ftruncF16x2 e d a rm).wf = (e.wf && e.x) := rfl
theorem wf_frintF16x2 {e d a rm} : (Instr.frintF16x2 e d a rm).wf = (e.wf && e.x) := rfl
theorem wf_fclassF16x2 {e d a rm} : (Instr.fclassF16x2 e d a rm).wf = (e.wf && e.x) := rfl
theorem wf_faddBf16x2 {e d a b rm} : (Instr.faddBf16x2 e d a b rm).wf = (e.wf && (absent e.x (rm == 0))) := rfl
theorem wf_fsubBf16x2 {e d a b rm} : (Instr.fsubBf16x2 e d a b rm).wf = (e.wf && (absent e.x (rm == 0))) := rfl
theorem wf_fmulBf16x2 {e d a b rm} : (Instr.fmulBf16x2 e d a b rm).wf = (e.wf && (absent e.x (rm == 0))) := rfl
theorem wf_ffmaBf16x2 {e d a b c rm} : (Instr.ffmaBf16x2 e d a b c rm).wf = (e.wf && (absent e.x (c == 0 && rm == 0))) := rfl
theorem wf_fminBf16x2 {e d a b rm} : (Instr.fminBf16x2 e d a b rm).wf = (e.wf && (absent e.x (rm == 0))) := rfl
theorem wf_fmaxBf16x2 {e d a b rm} : (Instr.fmaxBf16x2 e d a b rm).wf = (e.wf && (absent e.x (rm == 0))) := rfl
theorem wf_fcmpBf16x2 {e d a b cond rm} : (Instr.fcmpBf16x2 e d a b cond rm).wf = (e.wf && (absent e.x (cond == 0 && rm == 0)) && evenP d) := rfl
theorem wf_fabsBf16x2 {e d a rm} : (Instr.fabsBf16x2 e d a rm).wf = (e.wf && (absent e.x (rm == 0))) := rfl
theorem wf_fnegBf16x2 {e d a rm} : (Instr.fnegBf16x2 e d a rm).wf = (e.wf && e.x) := rfl
theorem wf_ffloorBf16x2 {e d a rm} : (Instr.ffloorBf16x2 e d a rm).wf = (e.wf && e.x) := rfl
theorem wf_fceilBf16x2 {e d a rm} : (Instr.fceilBf16x2 e d a rm).wf = (e.wf && e.x) := rfl
theorem wf_ftruncBf16x2 {e d a rm} : (Instr.ftruncBf16x2 e d a rm).wf = (e.wf && e.x) := rfl
theorem wf_frintBf16x2 {e d a rm} : (Instr.frintBf16x2 e d a rm).wf = (e.wf && e.x) := rfl
theorem wf_fclassBf16x2 {e d a rm} : (Instr.fclassBf16x2 e d a rm).wf = (e.wf && e.x) := rfl
theorem wf_fdivF64 {e d a b rm} : (Instr.fdivF64 e d a b rm).wf = (e.wf && (absent e.x (rm == 0)) && even d && even a && even b) := rfl
theorem wf_fdivF32 {e d a b rm} : (Instr.fdivF32 e d a b rm).wf = (e.wf && (absent e.x (rm == 0))) := rfl
theorem wf_fsqrtF64 {e d a rm} : (Instr.fsqrtF64 e d a rm).wf = (e.wf && (absent e.x (rm == 0)) && even d && even a) := rfl
theorem wf_fsqrtF32 {e d a rm} : (Instr.fsqrtF32 e d a rm).wf = (e.wf && (absent e.x (rm == 0))) := rfl
theorem wf_frcpF64 {e d a rm} : (Instr.frcpF64 e d a rm).wf = (e.wf && (absent e.x (rm == 0)) && even d && even a) := rfl
theorem wf_frcpF32 {e d a rm} : (Instr.frcpF32 e d a rm).wf = (e.wf && (absent e.x (rm == 0))) := rfl
theorem wf_frsqF64 {e d a rm} : (Instr.frsqF64 e d a rm).wf = (e.wf && (absent e.x (rm == 0)) && even d && even a) := rfl
theorem wf_frsqF32 {e d a rm} : (Instr.frsqF32 e d a rm).wf = (e.wf && (absent e.x (rm == 0))) := rfl
theorem wf_fexp2 {e d a} : (Instr.fexp2 e d a).wf = (e.wf) := rfl
theorem wf_flog2 {e d a} : (Instr.flog2 e d a).wf = (e.wf) := rfl
theorem wf_fsinpi {e d a} : (Instr.fsinpi e d a).wf = (e.wf) := rfl
theorem wf_fcospi {e d a} : (Instr.fcospi e d a).wf = (e.wf) := rfl
theorem wf_ftanh {e d a} : (Instr.ftanh e d a).wf = (e.wf) := rfl
theorem wf_cvt {e d a src dst rm} : (Instr.cvt e d a src dst rm).wf = (e.wf && (absent e.x (src == 0 && dst == 0 && rm == 0)) && decide (src.toNat < 13) && decide (dst.toNat < 13) && (!wide src || even a) && (!wide dst || even d)) := rfl
theorem wf_cvtSat {e d a src dst rm} : (Instr.cvtSat e d a src dst rm).wf = (e.wf && (absent e.x (src == 0 && dst == 0 && rm == 0)) && decide (src.toNat < 13) && decide (dst.toNat < 13) && (!wide src || even a) && (!wide dst || even d)) := rfl
theorem wf_shfl {e d a b pick i w64} : (Instr.shfl e d a b pick i w64).wf = (e.wf && (absent e.x (pick == 0 && !i && !w64)) && (i || pick == 0) && (!i || b == 0) && (!w64 || (even d && even a))) := rfl
theorem wf_shflx {e d a b pick i w64} : (Instr.shflx e d a b pick i w64).wf = (e.wf && (absent e.x (pick == 0 && !i && !w64)) && (i || pick == 0) && (!i || b == 0) && (!w64 || (even d && even a))) := rfl
theorem wf_shflup {e d a b pick i w64} : (Instr.shflup e d a b pick i w64).wf = (e.wf && (absent e.x (pick == 0 && !i && !w64)) && (i || pick == 0) && (!i || b == 0) && (!w64 || (even d && even a))) := rfl
theorem wf_shfldn {e d a b pick i w64} : (Instr.shfldn e d a b pick i w64).wf = (e.wf && (absent e.x (pick == 0 && !i && !w64)) && (i || pick == 0) && (!i || b == 0) && (!w64 || (even d && even a))) := rfl
theorem wf_bcast {e d a src w64 first} : (Instr.bcast e d a src w64 first).wf = (e.wf && (absent e.x (src == 0 && !w64 && !first)) && (!first || src == 0) && (!w64 || (even d && even a))) := rfl
theorem wf_vote {e d a mode} : (Instr.vote e d a mode).wf = (e.wf && (absent e.x (mode == 0)) && (mode == 3 || d.toNat < 8)) := rfl
theorem wf_gathg {e d a b w sg} : (Instr.gathg e d a b w sg).wf = (e.wf && (absent e.x (w == 0 && !sg)) && quad a && (!sg || w.toNat < 2) && (w != 3 || even d)) := rfl
theorem wf_redadd {e d a w64} : (Instr.redadd e d a w64).wf = (e.wf && absent e.x (!w64) && (!w64 || (even d && even a))) := rfl
theorem wf_redmin {e d a w64 un} : (Instr.redmin e d a w64 un).wf = (e.wf && absent e.x (!w64 && !un) && (!w64 || (even d && even a))) := rfl
theorem wf_redmax {e d a w64 un} : (Instr.redmax e d a w64 un).wf = (e.wf && absent e.x (!w64 && !un) && (!w64 || (even d && even a))) := rfl
theorem wf_redaddF32 {e d a} : (Instr.redaddF32 e d a).wf = (e.wf) := rfl
theorem wf_redaddF64 {e d a} : (Instr.redaddF64 e d a).wf = (e.wf && even d && even a) := rfl
theorem wf_scan {e d a w64} : (Instr.scan e d a w64).wf = (e.wf && absent e.x (!w64) && (!w64 || (even d && even a))) := rfl
theorem wf_scanx {e d a w64} : (Instr.scanx e d a w64).wf = (e.wf && absent e.x (!w64) && (!w64 || (even d && even a))) := rfl
theorem wf_scanF32 {e d a} : (Instr.scanF32 e d a).wf = (e.wf) := rfl
theorem wf_confl {e d a w64} : (Instr.confl e d a w64).wf = (e.wf && absent e.x (!w64) && (!w64 || even a)) := rfl
theorem wf_rebal {e d a b} : (Instr.rebal e d a b).wf = (e.wf && even d) := rfl
theorem wf_mrgu {e d a b px py pe} : (Instr.mrgu e d a b px py pe).wf = (e.wf && (absent e.x (px == 0 && py == 0 && pe == 0)) && even d) := rfl
theorem wf_mrgi {e d a b px py pe} : (Instr.mrgi e d a b px py pe).wf = (e.wf && (absent e.x (px == 0 && py == 0 && pe == 0)) && even d) := rfl
theorem wf_compact {e d a c w64} : (Instr.compact e d a c w64).wf = (e.wf && (absent e.x (c == 0 && !w64)) && (!w64 || (even d && even a))) := rfl
theorem wf_expand {e d a c w64} : (Instr.expand e d a c w64).wf = (e.wf && (absent e.x (c == 0 && !w64)) && (!w64 || (even d && even a))) := rfl
theorem wf_vldB {e d a o off} : (Instr.vldB e d a o off).wf = (e.wf && (absent e.x (o == ⟨false, false, false, 0⟩ && off == 0)) && o.wf) := rfl
theorem wf_vldBs {e d a o off} : (Instr.vldBs e d a o off).wf = (e.wf && (absent e.x (o == ⟨false, false, false, 0⟩ && off == 0)) && o.wf) := rfl
theorem wf_vldH {e d a o off} : (Instr.vldH e d a o off).wf = (e.wf && (absent e.x (o == ⟨false, false, false, 0⟩ && off == 0)) && o.wf) := rfl
theorem wf_vldHs {e d a o off} : (Instr.vldHs e d a o off).wf = (e.wf && (absent e.x (o == ⟨false, false, false, 0⟩ && off == 0)) && o.wf) := rfl
theorem wf_vldW {e d a o off} : (Instr.vldW e d a o off).wf = (e.wf && (absent e.x (o == ⟨false, false, false, 0⟩ && off == 0)) && o.wf) := rfl
theorem wf_vldD {e d a o off} : (Instr.vldD e d a o off).wf = (e.wf && (absent e.x (o == ⟨false, false, false, 0⟩ && off == 0)) && o.wf && even d) := rfl
theorem wf_vldQ {e d a o off} : (Instr.vldQ e d a o off).wf = (e.wf && (absent e.x (o == ⟨false, false, false, 0⟩ && off == 0)) && o.wf && quad d) := rfl
theorem wf_vldl {e d a o off} : (Instr.vldl e d a o off).wf = (e.wf && (absent e.x (o == ⟨false, false, false, 0⟩ && off == 0)) && o.wf && quad d) := rfl
theorem wf_vstB {e a b o off} : (Instr.vstB e a b o off).wf = (e.wf && (absent e.x (o == ⟨false, false, false, 0⟩ && off == 0)) && o.wf) := rfl
theorem wf_vstH {e a b o off} : (Instr.vstH e a b o off).wf = (e.wf && (absent e.x (o == ⟨false, false, false, 0⟩ && off == 0)) && o.wf) := rfl
theorem wf_vstW {e a b o off} : (Instr.vstW e a b o off).wf = (e.wf && (absent e.x (o == ⟨false, false, false, 0⟩ && off == 0)) && o.wf) := rfl
theorem wf_vstD {e a b o off} : (Instr.vstD e a b o off).wf = (e.wf && (absent e.x (o == ⟨false, false, false, 0⟩ && off == 0)) && o.wf && even b) := rfl
theorem wf_vstQ {e a b o off} : (Instr.vstQ e a b o off).wf = (e.wf && (absent e.x (o == ⟨false, false, false, 0⟩ && off == 0)) && o.wf && quad b) := rfl
theorem wf_vatomAdd {e d a b o w64 un} : (Instr.vatomAdd e d a b o w64 un).wf = (e.wf && (absent e.x (o == ⟨false, false, false, 0⟩ && !w64 && !un)) && o.wf && (!w64 || even d) && (!w64 || even b) && !un) := rfl
theorem wf_vatomMin {e d a b o w64 un} : (Instr.vatomMin e d a b o w64 un).wf = (e.wf && (absent e.x (o == ⟨false, false, false, 0⟩ && !w64 && !un)) && o.wf && (!w64 || even d) && (!w64 || even b)) := rfl
theorem wf_vatomMax {e d a b o w64 un} : (Instr.vatomMax e d a b o w64 un).wf = (e.wf && (absent e.x (o == ⟨false, false, false, 0⟩ && !w64 && !un)) && o.wf && (!w64 || even d) && (!w64 || even b)) := rfl
theorem wf_vatomAnd {e d a b o w64 un} : (Instr.vatomAnd e d a b o w64 un).wf = (e.wf && (absent e.x (o == ⟨false, false, false, 0⟩ && !w64 && !un)) && o.wf && (!w64 || even d) && (!w64 || even b) && !un) := rfl
theorem wf_vatomOr {e d a b o w64 un} : (Instr.vatomOr e d a b o w64 un).wf = (e.wf && (absent e.x (o == ⟨false, false, false, 0⟩ && !w64 && !un)) && o.wf && (!w64 || even d) && (!w64 || even b) && !un) := rfl
theorem wf_vatomXor {e d a b o w64 un} : (Instr.vatomXor e d a b o w64 un).wf = (e.wf && (absent e.x (o == ⟨false, false, false, 0⟩ && !w64 && !un)) && o.wf && (!w64 || even d) && (!w64 || even b) && !un) := rfl
theorem wf_vatomXchg {e d a b o w64 un} : (Instr.vatomXchg e d a b o w64 un).wf = (e.wf && (absent e.x (o == ⟨false, false, false, 0⟩ && !w64 && !un)) && o.wf && (!w64 || even d) && (!w64 || even b) && !un) := rfl
theorem wf_vatomCas {e d a b o w64 un} : (Instr.vatomCas e d a b o w64 un).wf = (e.wf && (absent e.x (o == ⟨false, false, false, 0⟩ && !w64 && !un)) && o.wf && (!w64 || even d) && (if w64 then quad b else even b) && !un) := rfl
theorem wf_slotrd {e d a o off} : (Instr.slotrd e d a o off).wf = (e.wf && (absent e.x (o == ⟨false, false, false, 0⟩ && off == 0)) && o.wf && quad d) := rfl
theorem wf_gldB {e x k a b o off} : (Instr.gldB e x k a b o off).wf = (e.wf && (absent e.x (o == ⟨false, false, false, 0⟩ && off == 0)) && o.wf) := rfl
theorem wf_gldBs {e x k a b o off} : (Instr.gldBs e x k a b o off).wf = (e.wf && (absent e.x (o == ⟨false, false, false, 0⟩ && off == 0)) && o.wf) := rfl
theorem wf_gldH {e x k a b o off} : (Instr.gldH e x k a b o off).wf = (e.wf && (absent e.x (o == ⟨false, false, false, 0⟩ && off == 0)) && o.wf) := rfl
theorem wf_gldHs {e x k a b o off} : (Instr.gldHs e x k a b o off).wf = (e.wf && (absent e.x (o == ⟨false, false, false, 0⟩ && off == 0)) && o.wf) := rfl
theorem wf_gldW {e x k a b o off} : (Instr.gldW e x k a b o off).wf = (e.wf && (absent e.x (o == ⟨false, false, false, 0⟩ && off == 0)) && o.wf) := rfl
theorem wf_gldD {e x k a b o off} : (Instr.gldD e x k a b o off).wf = (e.wf && (absent e.x (o == ⟨false, false, false, 0⟩ && off == 0)) && o.wf) := rfl
theorem wf_gldQ {e x k a b o off} : (Instr.gldQ e x k a b o off).wf = (e.wf && (absent e.x (o == ⟨false, false, false, 0⟩ && off == 0)) && o.wf) := rfl
theorem wf_gstB {e x a b o} : (Instr.gstB e x a b o).wf = (e.wf && (absent e.x (o == ⟨false, false, false, 0⟩)) && o.wf) := rfl
theorem wf_gstH {e x a b o} : (Instr.gstH e x a b o).wf = (e.wf && (absent e.x (o == ⟨false, false, false, 0⟩)) && o.wf) := rfl
theorem wf_gstW {e x a b o} : (Instr.gstW e x a b o).wf = (e.wf && (absent e.x (o == ⟨false, false, false, 0⟩)) && o.wf) := rfl
theorem wf_gstD {e x a b o} : (Instr.gstD e x a b o).wf = (e.wf && (absent e.x (o == ⟨false, false, false, 0⟩)) && o.wf && even a) := rfl
theorem wf_gstQ {e x a b o} : (Instr.gstQ e x a b o).wf = (e.wf && (absent e.x (o == ⟨false, false, false, 0⟩)) && o.wf && quad a) := rfl
theorem wf_gatomAdd {e x k a b o w64 un vo} : (Instr.gatomAdd e x k a b o w64 un vo).wf = (e.wf && (absent e.x (o == ⟨false, false, false, 0⟩ && !w64 && !un && vo == 0)) && o.wf && (!w64 || even vo) && !un) := rfl
theorem wf_gatomMin {e x k a b o w64 un vo} : (Instr.gatomMin e x k a b o w64 un vo).wf = (e.wf && (absent e.x (o == ⟨false, false, false, 0⟩ && !w64 && !un && vo == 0)) && o.wf && (!w64 || even vo)) := rfl
theorem wf_gatomMax {e x k a b o w64 un vo} : (Instr.gatomMax e x k a b o w64 un vo).wf = (e.wf && (absent e.x (o == ⟨false, false, false, 0⟩ && !w64 && !un && vo == 0)) && o.wf && (!w64 || even vo)) := rfl
theorem wf_gatomAnd {e x k a b o w64 un vo} : (Instr.gatomAnd e x k a b o w64 un vo).wf = (e.wf && (absent e.x (o == ⟨false, false, false, 0⟩ && !w64 && !un && vo == 0)) && o.wf && (!w64 || even vo) && !un) := rfl
theorem wf_gatomOr {e x k a b o w64 un vo} : (Instr.gatomOr e x k a b o w64 un vo).wf = (e.wf && (absent e.x (o == ⟨false, false, false, 0⟩ && !w64 && !un && vo == 0)) && o.wf && (!w64 || even vo) && !un) := rfl
theorem wf_gatomXor {e x k a b o w64 un vo} : (Instr.gatomXor e x k a b o w64 un vo).wf = (e.wf && (absent e.x (o == ⟨false, false, false, 0⟩ && !w64 && !un && vo == 0)) && o.wf && (!w64 || even vo) && !un) := rfl
theorem wf_gatomXchg {e x k a b o w64 un vo} : (Instr.gatomXchg e x k a b o w64 un vo).wf = (e.wf && (absent e.x (o == ⟨false, false, false, 0⟩ && !w64 && !un && vo == 0)) && o.wf && (!w64 || even vo) && !un) := rfl
theorem wf_gatomCas {e x k a b o w64 un vo} : (Instr.gatomCas e x k a b o w64 un vo).wf = (e.wf && (absent e.x (o == ⟨false, false, false, 0⟩ && !w64 && !un && vo == 0)) && o.wf && (if w64 then quad vo else even vo) && !un) := rfl
theorem wf_subscr {e x a b o off} : (Instr.subscr e x a b o off).wf = (e.wf && (absent e.x (o == ⟨false, false, false, 0⟩ && off == 0)) && o.wf) := rfl
theorem wf_unsub {e x a b o off} : (Instr.unsub e x a b o off).wf = (e.wf && (absent e.x (o == ⟨false, false, false, 0⟩ && off == 0)) && o.wf) := rfl
theorem wf_trd {e d t row part w64} : (Instr.trd e d t row part w64).wf = (e.wf && (absent e.x (row == 0 && part == 0 && !w64)) && (!w64 || (even d && part.toNat < 2))) := rfl
theorem wf_twr {e t b row part w64} : (Instr.twr e t b row part w64).wf = (e.wf && (absent e.x (row == 0 && part == 0 && !w64)) && (!w64 || (even b && part.toNat < 2))) := rfl
theorem wf_sadd {e d a b} : (Instr.sadd e d a b).wf = (e.wf) := rfl
theorem wf_ssub {e d a b} : (Instr.ssub e d a b).wf = (e.wf) := rfl
theorem wf_smul {e d a b} : (Instr.smul e d a b).wf = (e.wf) := rfl
theorem wf_smulhi {e d a b} : (Instr.smulhi e d a b).wf = (e.wf) := rfl
theorem wf_smulhiu {e d a b} : (Instr.smulhiu e d a b).wf = (e.wf) := rfl
theorem wf_sdiv {e d a b} : (Instr.sdiv e d a b).wf = (e.wf) := rfl
theorem wf_sdivu {e d a b} : (Instr.sdivu e d a b).wf = (e.wf) := rfl
theorem wf_srem {e d a b} : (Instr.srem e d a b).wf = (e.wf) := rfl
theorem wf_sremu {e d a b} : (Instr.sremu e d a b).wf = (e.wf) := rfl
theorem wf_smin {e d a b} : (Instr.smin e d a b).wf = (e.wf) := rfl
theorem wf_smax {e d a b} : (Instr.smax e d a b).wf = (e.wf) := rfl
theorem wf_sminu {e d a b} : (Instr.sminu e d a b).wf = (e.wf) := rfl
theorem wf_smaxu {e d a b} : (Instr.smaxu e d a b).wf = (e.wf) := rfl
theorem wf_sand {e d a b} : (Instr.sand e d a b).wf = (e.wf) := rfl
theorem wf_sor {e d a b} : (Instr.sor e d a b).wf = (e.wf) := rfl
theorem wf_sxor {e d a b} : (Instr.sxor e d a b).wf = (e.wf) := rfl
theorem wf_sandn {e d a b} : (Instr.sandn e d a b).wf = (e.wf) := rfl
theorem wf_snot {e d a} : (Instr.snot e d a).wf = (e.wf) := rfl
theorem wf_smov {e d a} : (Instr.smov e d a).wf = (e.wf) := rfl
theorem wf_sshl {e d a b} : (Instr.sshl e d a b).wf = (e.wf) := rfl
theorem wf_sshr {e d a b} : (Instr.sshr e d a b).wf = (e.wf) := rfl
theorem wf_ssar {e d a b} : (Instr.ssar e d a b).wf = (e.wf) := rfl
theorem wf_sclz {e d a} : (Instr.sclz e d a).wf = (e.wf) := rfl
theorem wf_sctz {e d a} : (Instr.sctz e d a).wf = (e.wf) := rfl
theorem wf_spopc {e d a} : (Instr.spopc e d a).wf = (e.wf) := rfl
theorem wf_saddImm {e d a imm} : (Instr.saddImm e d a imm).wf = (e.wf && (absent e.x (imm == 0))) := rfl
theorem wf_ssubImm {e d a imm} : (Instr.ssubImm e d a imm).wf = (e.wf && (absent e.x (imm == 0))) := rfl
theorem wf_smulImm {e d a imm} : (Instr.smulImm e d a imm).wf = (e.wf && (absent e.x (imm == 0))) := rfl
theorem wf_smulhiImm {e d a imm} : (Instr.smulhiImm e d a imm).wf = (e.wf && (absent e.x (imm == 0))) := rfl
theorem wf_smulhiuImm {e d a imm} : (Instr.smulhiuImm e d a imm).wf = (e.wf && (absent e.x (imm == 0))) := rfl
theorem wf_sdivImm {e d a imm} : (Instr.sdivImm e d a imm).wf = (e.wf && (absent e.x (imm == 0))) := rfl
theorem wf_sdivuImm {e d a imm} : (Instr.sdivuImm e d a imm).wf = (e.wf && (absent e.x (imm == 0))) := rfl
theorem wf_sremImm {e d a imm} : (Instr.sremImm e d a imm).wf = (e.wf && (absent e.x (imm == 0))) := rfl
theorem wf_sremuImm {e d a imm} : (Instr.sremuImm e d a imm).wf = (e.wf && (absent e.x (imm == 0))) := rfl
theorem wf_sminImm {e d a imm} : (Instr.sminImm e d a imm).wf = (e.wf && (absent e.x (imm == 0))) := rfl
theorem wf_smaxImm {e d a imm} : (Instr.smaxImm e d a imm).wf = (e.wf && (absent e.x (imm == 0))) := rfl
theorem wf_sminuImm {e d a imm} : (Instr.sminuImm e d a imm).wf = (e.wf && (absent e.x (imm == 0))) := rfl
theorem wf_smaxuImm {e d a imm} : (Instr.smaxuImm e d a imm).wf = (e.wf && (absent e.x (imm == 0))) := rfl
theorem wf_sandImm {e d a imm} : (Instr.sandImm e d a imm).wf = (e.wf && (absent e.x (imm == 0))) := rfl
theorem wf_sorImm {e d a imm} : (Instr.sorImm e d a imm).wf = (e.wf && (absent e.x (imm == 0))) := rfl
theorem wf_sxorImm {e d a imm} : (Instr.sxorImm e d a imm).wf = (e.wf && (absent e.x (imm == 0))) := rfl
theorem wf_sandnImm {e d a imm} : (Instr.sandnImm e d a imm).wf = (e.wf && (absent e.x (imm == 0))) := rfl
theorem wf_smovImm {e d imm} : (Instr.smovImm e d imm).wf = (e.wf && (absent e.x (imm == 0))) := rfl
theorem wf_sshlImm {e d a imm} : (Instr.sshlImm e d a imm).wf = (e.wf && (absent e.x (imm == 0))) := rfl
theorem wf_sshrImm {e d a imm} : (Instr.sshrImm e d a imm).wf = (e.wf && (absent e.x (imm == 0))) := rfl
theorem wf_ssarImm {e d a imm} : (Instr.ssarImm e d a imm).wf = (e.wf && (absent e.x (imm == 0))) := rfl
theorem wf_qeq {e d a b} : (Instr.qeq e d a b).wf = (e.wf) := rfl
theorem wf_qne {e d a b} : (Instr.qne e d a b).wf = (e.wf) := rfl
theorem wf_qlt {e d a b} : (Instr.qlt e d a b).wf = (e.wf) := rfl
theorem wf_qge {e d a b} : (Instr.qge e d a b).wf = (e.wf) := rfl
theorem wf_qltu {e d a b} : (Instr.qltu e d a b).wf = (e.wf) := rfl
theorem wf_qgeu {e d a b} : (Instr.qgeu e d a b).wf = (e.wf) := rfl
theorem wf_qle {e d a b} : (Instr.qle e d a b).wf = (e.wf) := rfl
theorem wf_qgt {e d a b} : (Instr.qgt e d a b).wf = (e.wf) := rfl
theorem wf_qeqImm {e d a imm} : (Instr.qeqImm e d a imm).wf = (e.wf && (absent e.x (imm == 0))) := rfl
theorem wf_qneImm {e d a imm} : (Instr.qneImm e d a imm).wf = (e.wf && (absent e.x (imm == 0))) := rfl
theorem wf_qltImm {e d a imm} : (Instr.qltImm e d a imm).wf = (e.wf && (absent e.x (imm == 0))) := rfl
theorem wf_qgeImm {e d a imm} : (Instr.qgeImm e d a imm).wf = (e.wf && (absent e.x (imm == 0))) := rfl
theorem wf_qltuImm {e d a imm} : (Instr.qltuImm e d a imm).wf = (e.wf && (absent e.x (imm == 0))) := rfl
theorem wf_qgeuImm {e d a imm} : (Instr.qgeuImm e d a imm).wf = (e.wf && (absent e.x (imm == 0))) := rfl
theorem wf_qleImm {e d a imm} : (Instr.qleImm e d a imm).wf = (e.wf && (absent e.x (imm == 0))) := rfl
theorem wf_qgtImm {e d a imm} : (Instr.qgtImm e d a imm).wf = (e.wf && (absent e.x (imm == 0))) := rfl
theorem wf_sli {e d imm} : (Instr.sli e d imm).wf = (e.wf && (absent e.x (imm == 0))) := rfl
theorem wf_slis {e d imm} : (Instr.slis e d imm).wf = (e.wf && (absent e.x (imm == 0))) := rfl
theorem wf_s2v {e a v w64} : (Instr.s2v e a v w64).wf = (e.wf && (absent e.x (v == 0 && !w64)) && (!w64 || even v)) := rfl
theorem wf_v2s {e d v w64 src first} : (Instr.v2s e d v w64 src first).wf = (e.wf && (absent e.x (v == 0 && !w64 && src == 0 && !first)) && (!w64 || even v) && (!first || src == 0)) := rfl
theorem wf_qopAnd {e d a b} : (Instr.qopAnd e d a b).wf = (e.wf) := rfl
theorem wf_qopOr {e d a b} : (Instr.qopOr e d a b).wf = (e.wf && e.x) := rfl
theorem wf_qopXor {e d a b} : (Instr.qopXor e d a b).wf = (e.wf && e.x) := rfl
theorem wf_qopAndn {e d a b} : (Instr.qopAndn e d a b).wf = (e.wf && e.x) := rfl
theorem wf_qopNot {e d a b} : (Instr.qopNot e d a b).wf = (e.wf && e.x) := rfl
theorem wf_qopMov {e d a b} : (Instr.qopMov e d a b).wf = (e.wf && e.x) := rfl
theorem wf_p2s {e d a} : (Instr.p2s e d a).wf = (e.wf) := rfl
theorem wf_s2p {e d a} : (Instr.s2p e d a).wf = (e.wf) := rfl
theorem wf_actmask {e d} : (Instr.actmask e d).wf = (e.wf) := rfl
theorem wf_sldk {e d off} : (Instr.sldk e d off).wf = (e.wf && (absent e.x (off == 0))) := rfl
theorem wf_sldv {e d a w o off} : (Instr.sldv e d a w o off).wf = (e.wf && (absent e.x (w == 0 && o == ⟨false, false, false, 0⟩ && off == 0)) && o.wf) := rfl
theorem wf_sstv {e a b w o off} : (Instr.sstv e a b w o off).wf = (e.wf && (absent e.x (w == 0 && o == ⟨false, false, false, 0⟩ && off == 0)) && o.wf) := rfl
theorem wf_satomvAdd {e d a b w o un} : (Instr.satomvAdd e d a b w o un).wf = (e.wf && (absent e.x (w == 0 && o == ⟨false, false, false, 0⟩ && !un)) && o.wf && decide (2 ≤ w.toNat) && !un) := rfl
theorem wf_satomvMin {e d a b w o un} : (Instr.satomvMin e d a b w o un).wf = (e.wf && e.x && o.wf && decide (2 ≤ w.toNat)) := rfl
theorem wf_satomvMax {e d a b w o un} : (Instr.satomvMax e d a b w o un).wf = (e.wf && e.x && o.wf && decide (2 ≤ w.toNat)) := rfl
theorem wf_satomvAnd {e d a b w o un} : (Instr.satomvAnd e d a b w o un).wf = (e.wf && e.x && o.wf && decide (2 ≤ w.toNat) && !un) := rfl
theorem wf_satomvOr {e d a b w o un} : (Instr.satomvOr e d a b w o un).wf = (e.wf && e.x && o.wf && decide (2 ≤ w.toNat) && !un) := rfl
theorem wf_satomvXor {e d a b w o un} : (Instr.satomvXor e d a b w o un).wf = (e.wf && e.x && o.wf && decide (2 ≤ w.toNat) && !un) := rfl
theorem wf_satomvXchg {e d a b w o un} : (Instr.satomvXchg e d a b w o un).wf = (e.wf && e.x && o.wf && decide (2 ≤ w.toNat) && !un) := rfl
theorem wf_scasv {e d a b w o} : (Instr.scasv e d a b w o).wf = (e.wf && (absent e.x (w == 0 && o == ⟨false, false, false, 0⟩)) && o.wf && decide (2 ≤ w.toNat) && (b != 63)) := rfl
theorem wf_bra {e imm} : (Instr.bra e imm).wf = (e.wf && (absent e.x (imm == 0))) := rfl
theorem wf_brq {e a imm} : (Instr.brq e a imm).wf = (e.wf && (absent e.x (imm == 0))) := rfl
theorem wf_brnq {e a imm} : (Instr.brnq e a imm).wf = (e.wf && (absent e.x (imm == 0))) := rfl
theorem wf_call {e q neg imm} : (Instr.call e q neg imm).wf = (e.wf && (absent e.x (imm == 0))) := rfl
theorem wf_callr {e a q neg} : (Instr.callr e a q neg).wf = (e.wf) := rfl
theorem wf_ret {e a} : (Instr.ret e a).wf = (e.wf) := rfl
theorem wf_endStrand {e} : (Instr.endStrand e).wf = (e.wf) := rfl
theorem wf_loopd {e d imm} : (Instr.loopd e d imm).wf = (e.wf && (absent e.x (imm == 0))) := rfl
theorem wf_split {e p b els cont} : (Instr.split e p b els cont).wf = (e.wf && (absent e.x (els == 0 && cont == 0))) := rfl
theorem wf_calli {e d p neg b cont} : (Instr.calli e d p neg b cont).wf = (e.wf && (absent e.x (cont == 0))) := rfl
theorem wf_endarm {e} : (Instr.endarm e).wf = (e.wf) := rfl
theorem wf_seal {e lo hi pred} : (Instr.seal e lo hi pred).wf = (e.wf && (absent e.x (lo == 0 && hi == 0 && !pred)) && decide (lo.toNat ≤ hi.toNat) && (!pred || hi.toNat < 8)) := rfl
theorem wf_join {e lo hi pred} : (Instr.join e lo hi pred).wf = (e.wf && (absent e.x (lo == 0 && hi == 0 && !pred)) && decide (lo.toNat ≤ hi.toNat) && (!pred || hi.toNat < 8)) := rfl
theorem wf_joinmem {e} : (Instr.joinmem e).wf = (e.wf) := rfl
theorem wf_binit {e k waves engines} : (Instr.binit e k waves engines).wf = (e.wf && (absent e.x (waves == 0 && engines == 0)) && decide (waves.toNat ≤ 16) && (waves != 0 || engines != 0)) := rfl
theorem wf_bexpect {e k a r n} : (Instr.bexpect e k a r n).wf = (e.wf && (absent e.x (!r && n == 0)) && (!r || n == 0) && (r || a == 0)) := rfl
theorem wf_barrive {e d k} : (Instr.barrive e d k).wf = (e.wf) := rfl
theorem wf_bwait {e q k b} : (Instr.bwait e q k b).wf = (e.wf) := rfl
theorem wf_bsync {e q k} : (Instr.bsync e q k).wf = (e.wf) := rfl
theorem wf_gbar {e q g} : (Instr.gbar e q g).wf = (e.wf) := rfl
theorem wf_cbar {e q} : (Instr.cbar e q).wf = (e.wf) := rfl
theorem wf_bstat {e d k pick} : (Instr.bstat e d k pick).wf = (e.wf && absent e.x (!pick)) := rfl
theorem wf_waita {e d a b cond o off} : (Instr.waita e d a b cond o off).wf = (e.wf && (absent e.x (cond == 0 && o == ⟨false, false, false, 0⟩ && off == 0)) && o.wf) := rfl
theorem wf_sleep {e a r n} : (Instr.sleep e a r n).wf = (e.wf && (absent e.x (!r && n == 0)) && (!r || n == 0) && (r || a == 0)) := rfl
theorem wf_yieldS {e} : (Instr.yieldS e).wf = (e.wf) := rfl
theorem wf_fenceAcq {e scope} : (Instr.fenceAcq e scope).wf = (e.wf && (absent e.x (scope == 0))) := rfl
theorem wf_fenceRel {e scope} : (Instr.fenceRel e scope).wf = (e.wf && e.x) := rfl
theorem wf_fenceFull {e scope} : (Instr.fenceFull e scope).wf = (e.wf && e.x) := rfl
theorem wf_fenceEng {e scope} : (Instr.fenceEng e scope).wf = (e.wf && e.x) := rfl
theorem wf_xlat {e x a b} : (Instr.xlat e x a b).wf = (e.wf) := rfl
theorem wf_xdrop {e x} : (Instr.xdrop e x).wf = (e.wf) := rfl
theorem wf_copy {e a off} : (Instr.copy e a off).wf = (e.wf && (absent e.x (off == 0))) := rfl
theorem wf_copyc {e a off} : (Instr.copyc e a off).wf = (e.wf && (absent e.x (off == 0))) := rfl
theorem wf_copyl {e a off} : (Instr.copyl e a off).wf = (e.wf && (absent e.x (off == 0))) := rfl
theorem wf_tstg {e a t off} : (Instr.tstg e a t off).wf = (e.wf && (absent e.x (off == 0))) := rfl
theorem wf_stepchk {e q a} : (Instr.stepchk e q a).wf = (e.wf) := rfl
theorem wf_steprec {e q a} : (Instr.steprec e q a).wf = (e.wf) := rfl
theorem wf_tcfg {e t a r shape} : (Instr.tcfg e t a r shape).wf = (e.wf && (absent e.x (!r && shape == 0)) && (r || a == 0) && (!r || shape == 0) && (r || shapeOk shape)) := rfl
theorem wf_tlay {e t layout} : (Instr.tlay e t layout).wf = (e.wf && (absent e.x (layout == 0))) := rfl
theorem wf_tld {e t a off stride} : (Instr.tld e t a off stride).wf = (e.wf && (absent e.x (off == 0 && stride == 0))) := rfl
theorem wf_tst {e a t off stride} : (Instr.tst e a t off stride).wf = (e.wf && (absent e.x (off == 0 && stride == 0))) := rfl
theorem wf_tzero {e t} : (Instr.tzero e t).wf = (e.wf) := rfl
theorem wf_tmov {e t src} : (Instr.tmov e t src).wf = (e.wf) := rfl
theorem wf_mmaF64 {e c a b part tb} : (Instr.mmaF64 e c a b part tb).wf = (e.wf && absent e.x (!part && !tb) && !part) := rfl
theorem wf_mmaF32 {e c a b part tb} : (Instr.mmaF32 e c a b part tb).wf = (e.wf && absent e.x (!part && !tb) && !part) := rfl
theorem wf_mmaF16 {e c a b part tb} : (Instr.mmaF16 e c a b part tb).wf = (e.wf && absent e.x (!part && !tb) && !part) := rfl
theorem wf_mmaBf16 {e c a b part tb} : (Instr.mmaBf16 e c a b part tb).wf = (e.wf && absent e.x (!part && !tb) && !part) := rfl
theorem wf_mmaE4m3 {e c a b part tb} : (Instr.mmaE4m3 e c a b part tb).wf = (e.wf && absent e.x (!part && !tb)) := rfl
theorem wf_mmaE5m2 {e c a b part tb} : (Instr.mmaE5m2 e c a b part tb).wf = (e.wf && absent e.x (!part && !tb)) := rfl
theorem wf_mmaDs8 {e c a b part tb} : (Instr.mmaDs8 e c a b part tb).wf = (e.wf && absent e.x (!part && !tb)) := rfl
theorem wf_mmaI8 {e c a b part tb} : (Instr.mmaI8 e c a b part tb).wf = (e.wf && absent e.x (!part && !tb) && !part) := rfl
theorem wf_scacc {e c a b q neg ra rb} : (Instr.scacc e c a b q neg ra rb).wf = (e.wf && (absent e.x (q == 0 && !neg && ra == 0 && rb == 0))) := rfl
theorem wf_quant {e c a b fmt col r} : (Instr.quant e c a b fmt col r).wf = (e.wf && (absent e.x (fmt == 0 && !col && r == 0)) && decide (4 ≤ fmt.toNat) && decide (fmt.toNat ≤ 6)) := rfl
theorem wf_rarm {e d a off} : (Instr.rarm e d a off).wf = (e.wf && (absent e.x (off == 0))) := rfl
theorem wf_rdisarm {e d a} : (Instr.rdisarm e d a).wf = (e.wf) := rfl
theorem wf_rqry {e d a pick} : (Instr.rqry e d a pick).wf = (e.wf && absent e.x (!pick)) := rfl
theorem wf_fork {e q a} : (Instr.fork e q a).wf = (e.wf) := rfl
theorem wf_tnext {e q} : (Instr.tnext e q).wf = (e.wf) := rfl
theorem wf_tsig {e a} : (Instr.tsig e a).wf = (e.wf) := rfl
theorem wf_tdone {e} : (Instr.tdone e).wf = (e.wf) := rfl
theorem wf_tpost {e a b} : (Instr.tpost e a b).wf = (e.wf) := rfl
theorem wf_nextw {e a off} : (Instr.nextw e a off).wf = (e.wf && (absent e.x (off == 0))) := rfl
theorem wf_trap {e code} : (Instr.trap e code).wf = (e.wf && (absent e.x (code == 0))) := rfl
theorem wf_bkpt {e} : (Instr.bkpt e).wf = (e.wf) := rfl
theorem wf_csrr {e d csr} : (Instr.csrr e d csr).wf = (e.wf && (absent e.x (csr == 0)) && csrExists csr) := rfl
theorem wf_csrw {e a csr} : (Instr.csrw e a csr).wf = (e.wf && (absent e.x (csr == 0)) && csrExists csr) := rfl
theorem wf_nop {e} : (Instr.nop e).wf = (e.wf) := rfl

end Sys2Proof.Machine
end

