-- ==== Sys2Proof/Laws/Maps.lean ====
section
/-! SUPPORT. The laws of finite maps, of memories in canonical form, of lanes and of masks. -/

namespace Sys2Proof

/-! ## Finite maps -/

section
variable {α β : Type}

@[simp] theorem FMap.find_nil (n : Nat) : FMap.find ([] : FMap α) n = none := rfl

@[simp] theorem FMap.find_put_same (m : FMap α) (n : Nat) (b : α) : (m.put n b).find n = some b := by
  induction m with
  | nil => simp [FMap.put, FMap.find]
  | cons x t ih =>
    obtain ⟨k, a⟩ := x
    simp only [FMap.put]
    split
    · simp [FMap.find]
    · split
      · simp [FMap.find]
      · rename_i h
        simp [FMap.find, Ne.symm h, ih]

theorem FMap.find_put_ne (m : FMap α) {n k : Nat} (b : α) (h : k ≠ n) : (m.put n b).find k = m.find k := by
  induction m with
  | nil => simp [FMap.put, FMap.find, Ne.symm h]
  | cons x t ih =>
    obtain ⟨j, a⟩ := x
    simp only [FMap.put]
    split
    · simp [FMap.find, Ne.symm h]
    · split
      · rename_i e
        subst e
        simp [FMap.find, Ne.symm h]
      · simp [FMap.find, ih]

theorem FMap.find_put (m : FMap α) (n k : Nat) (b : α) : (m.put n b).find k = if k = n then some b else m.find k := by
  split
  · rename_i h; subst h; simp
  · rename_i h; exact FMap.find_put_ne m b h

theorem FMap.find_del_ne (m : FMap α) {n k : Nat} (h : k ≠ n) : (m.del n).find k = m.find k := by
  induction m with
  | nil => rfl
  | cons x t ih =>
    obtain ⟨j, a⟩ := x
    simp only [FMap.del]
    split
    · rename_i e
      subst e
      simp [FMap.find, Ne.symm h]
    · simp [FMap.find, ih]

theorem FMap.find_change (m : FMap α) (n k : Nat) (f : α → α) :
    (m.change n f).find k = if k = n then (m.find k).map f else m.find k := by
  unfold FMap.change
  split
  · rename_i a h
    rw [FMap.find_put]
    split
    · rename_i e; subst e; simp [h]
    · rfl
  · rename_i h
    split
    · rename_i e; subst e; simp [h]
    · rfl

@[simp] theorem FMap.find_change_same (m : FMap α) (n : Nat) (f : α → α) : (m.change n f).find n = (m.find n).map f := by
  simp [FMap.find_change]

theorem FMap.find_change_ne (m : FMap α) {n k : Nat} (f : α → α) (h : k ≠ n) : (m.change n f).find k = m.find k := by
  simp [FMap.find_change, h]

@[simp] theorem FMap.find_mapv (m : FMap α) (f : Nat → α → β) (k : Nat) : (m.mapv f).find k = (m.find k).map (f k) := by
  induction m with
  | nil => rfl
  | cons x t ih =>
    obtain ⟨j, a⟩ := x
    have ih' : FMap.find (List.map (fun e => (e.1, f e.1 e.2)) t) k = Option.map (f k) (FMap.find t k) := ih
    simp only [FMap.mapv, List.map_cons, FMap.find]
    split
    · rename_i h; subst h; rfl
    · exact ih'

/-! ## The canonical form -/

theorem FMap.risingFrom_mono : ∀ (m : FMap α) (lo hi : Nat), lo ≤ hi → m.risingFrom hi = true → m.risingFrom lo = true
  | [], _, _, _, _ => rfl
  | (k, _) :: _, lo, hi, h, r => by
    simp only [FMap.risingFrom, Bool.and_eq_true, decide_eq_true_eq] at *
    exact ⟨by omega, r.2⟩

theorem FMap.risingFrom_put : ∀ (m : FMap α) (lo n : Nat) (b : α), lo ≤ n → m.risingFrom lo = true → (m.put n b).risingFrom lo = true
  | [], lo, n, b, h, _ => by simp [FMap.put, FMap.risingFrom, h]
  | (k, a) :: t, lo, n, b, h, r => by
    simp only [FMap.risingFrom, Bool.and_eq_true, decide_eq_true_eq] at r
    simp only [FMap.put]
    split
    · simp only [FMap.risingFrom, Bool.and_eq_true, decide_eq_true_eq]
      exact ⟨h, by omega, r.2⟩
    · split
      · rename_i e
        subst e
        simp only [FMap.risingFrom, Bool.and_eq_true, decide_eq_true_eq]
        exact ⟨h, r.2⟩
      · simp only [FMap.risingFrom, Bool.and_eq_true, decide_eq_true_eq]
        exact ⟨r.1, FMap.risingFrom_put t (k + 1) n b (by omega) r.2⟩

theorem FMap.risingFrom_del : ∀ (m : FMap α) (lo n : Nat), m.risingFrom lo = true → (m.del n).risingFrom lo = true
  | [], _, _, _ => rfl
  | (k, a) :: t, lo, n, r => by
    simp only [FMap.risingFrom, Bool.and_eq_true, decide_eq_true_eq] at r
    simp only [FMap.del]
    split
    · exact FMap.risingFrom_mono t lo (k + 1) (by omega) r.2
    · simp only [FMap.risingFrom, Bool.and_eq_true, decide_eq_true_eq]
      exact ⟨r.1, FMap.risingFrom_del t (k + 1) n r.2⟩

theorem FMap.risingFrom_keep (f : Nat → α → Bool) : ∀ (m : FMap α) (lo : Nat), m.risingFrom lo = true → (m.keep f).risingFrom lo = true
  | [], _, _ => rfl
  | (k, a) :: t, lo, r => by
    simp only [FMap.risingFrom, Bool.and_eq_true, decide_eq_true_eq] at r
    have ih : FMap.risingFrom (k + 1) (List.filter (fun e => f e.1 e.2) t) = true := FMap.risingFrom_keep f t (k + 1) r.2
    simp only [FMap.keep, List.filter_cons]
    split
    · simp only [FMap.risingFrom, Bool.and_eq_true, decide_eq_true_eq]
      exact ⟨r.1, ih⟩
    · exact FMap.risingFrom_mono _ lo (k + 1) (by omega) ih

end

namespace Machine

/-! ## Memories -/

theorem Memory.set_wf {m : Memory} (a : Nat) (b : Byte) (h : Memory.wf m = true) : Memory.wf (Memory.set m a b) = true :=
  FMap.risingFrom_put m 0 a b (Nat.zero_le a) h

theorem Memory.unset_wf {m : Memory} (a : Nat) (h : Memory.wf m = true) : Memory.wf (Memory.unset m a) = true :=
  FMap.risingFrom_del m 0 a h

theorem Memory.clear_wf {m : Memory} (lo hi : Nat) (h : Memory.wf m = true) : Memory.wf (Memory.clear m lo hi) = true :=
  FMap.risingFrom_keep _ m 0 h

theorem Memory.setAll_wf : ∀ (bs : List (Nat × Byte)) {m : Memory}, Memory.wf m = true → Memory.wf (Memory.setAll m bs) = true
  | [], _, h => h
  | (a, b) :: t, _, h => Memory.setAll_wf t (Memory.set_wf a b h)

theorem Memory.unsetAll_wf : ∀ (as : List Nat) {m : Memory}, Memory.wf m = true → Memory.wf (Memory.unsetAll m as) = true
  | [], _, h => h
  | a :: t, _, h => Memory.unsetAll_wf t (Memory.unset_wf a h)

@[simp] theorem Memory.byte_set_same (m : Memory) (a : Nat) (b : Byte) : Memory.byte (Memory.set m a b) a = some b :=
  FMap.find_put_same m a b

theorem Memory.byte_set_ne (m : Memory) {a k : Nat} (b : Byte) (h : k ≠ a) : Memory.byte (Memory.set m a b) k = Memory.byte m k :=
  FMap.find_put_ne m b h

/-- A byte outside the addresses written is unchanged. -/
theorem Memory.byte_setAll_ne : ∀ (bs : List (Nat × Byte)) (m : Memory) (k : Nat), (∀ x ∈ bs, x.1 ≠ k) →
    Memory.byte (Memory.setAll m bs) k = Memory.byte m k
  | [], _, _, _ => rfl
  | (a, b) :: t, m, k, h => by
    have h1 : k ≠ a := fun e => h (a, b) (by simp) e.symm
    rw [Memory.setAll, Memory.byte_setAll_ne t _ k (fun x hx => h x (by simp [hx])), Memory.byte_set_ne m b h1]

end Machine

/-! ## Addresses, lanes and masks -/

theorem mem_addrs : ∀ (n a k : Nat), k ∈ addrs a n ↔ a ≤ k ∧ k < a + n
  | 0, a, k => by simp [addrs]
  | n + 1, a, k => by
    rw [addrs, List.mem_cons, mem_addrs n (a + 1) k]; omega

@[simp] theorem addrs_length : ∀ (n a : Nat), (addrs a n).length = n
  | 0, _ => rfl
  | n + 1, a => by simp [addrs, addrs_length n]

theorem lanes_get : ∀ l, l < 32 → lanes.getD l 0 = l := by decide

theorem mem_lanes : ∀ l, l < 32 → l ∈ lanes := by decide

theorem lanes_lt : ∀ l ∈ lanes, l < 32 := by decide

theorem mem_lanesOf {m : Word} {l : Nat} : l ∈ lanesOf m ↔ l < 32 ∧ m.getLsbD l = true := by
  unfold lanesOf
  rw [List.mem_filter]
  exact ⟨fun h => ⟨lanes_lt l h.1, h.2⟩, fun h => ⟨mem_lanes l h.1, h.2⟩⟩

theorem getD_map_lanes (f : Nat → Word) (l : Nat) (h : l < 32) : (lanes.map f).getD l 0 = f l := by
  have e : lanes[l]? = some l := by
    revert l; decide
  simp [List.getD, List.getElem?_map, e]

@[simp] theorem LaneVec.at_gen (f : Nat → Word) (l : Nat) (h : l < 32) : (LaneVec.gen f).at l = f l := getD_map_lanes f l h

theorem LaneVec.at_merge (m : Word) (old new : LaneVec) (l : Nat) (h : l < 32) :
    (LaneVec.merge m old new).at l = if m.getLsbD l then new.at l else old.at l := getD_map_lanes _ l h

/-- `addNew` keeps what a list holds and adds what it did not. -/
@[simp] theorem mem_addNew {α : Type} [BEq α] [LawfulBEq α] (x : α) (bs : List α) : ∀ l, x ∈ addNew l bs ↔ x ∈ l ∨ x ∈ bs := by
  unfold addNew
  induction bs with
  | nil => simp
  | cons b bs ih =>
    intro l
    rw [List.foldl_cons, ih, List.mem_cons]
    by_cases h : l.contains b
    · rw [if_pos h]
      have : b ∈ l := by simpa using h
      exact ⟨fun h => h.imp_right .inr, fun h => h.elim .inl fun h => h.elim (fun e => .inl (e ▸ this)) .inr⟩
    · rw [if_neg h, List.mem_append, List.mem_singleton, or_assoc]

/-- A bit of a mask built from a list of bits, lowest first. -/
theorem foldr_mask (f : Nat → Bool) : ∀ (xs : List Nat) (k : Nat), k < 32 →
    BitVec.getLsbD (xs.foldr (fun l (m : BitVec 32) => (m <<< 1) ||| (if f l then 1 else 0)) 0) k = (xs[k]?.elim false f)
  | [], k, _ => by simp
  | x :: t, 0, _ => by
    rw [List.foldr_cons, BitVec.getLsbD_or, BitVec.getLsbD_shiftLeft]
    cases h : f x <;> simp [h]
  | x :: t, k + 1, hk => by
    rw [List.foldr_cons, BitVec.getLsbD_or, BitVec.getLsbD_shiftLeft, List.getElem?_cons_succ, ← foldr_mask f t k (by omega)]
    cases h : f x <;> simp [hk]

theorem maskOf_getLsbD (f : Nat → Bool) (l : Nat) (h : l < 32) : (maskOf f).getLsbD l = f l := by
  have e : lanes[l]? = some l := by revert l; decide
  unfold maskOf
  rw [foldr_mask f lanes l h, e]
  rfl

end Sys2Proof
end

