-- ==== Sys2Proof/Laws/State.lean ====
section
/-! SUPPORT. What each update of the state leaves of each field. -/

namespace Sys2Proof.Machine

/-! ## `State.modWave` -/

@[simp] theorem State.modWave_agenda (s : State) (k : Nat) (f : Wave → Wave) : (s.modWave k f).agenda = s.agenda := rfl
@[simp] theorem State.modWave_cur (s : State) (k : Nat) (f : Wave → Wave) : (s.modWave k f).cur = s.cur := rfl
@[simp] theorem State.modWave_stall (s : State) (k : Nat) (f : Wave → Wave) : (s.modWave k f).stall = s.stall := rfl
@[simp] theorem State.modWave_tick (s : State) (k : Nat) (f : Wave → Wave) : (s.modWave k f).tick = s.tick := rfl
@[simp] theorem State.modWave_clock (s : State) (k : Nat) (f : Wave → Wave) : (s.modWave k f).clock = s.clock := rfl
@[simp] theorem State.modWave_gmem (s : State) (k : Nat) (f : Wave → Wave) : (s.modWave k f).gmem = s.gmem := rfl
@[simp] theorem State.modWave_vmem (s : State) (k : Nat) (f : Wave → Wave) : (s.modWave k f).vmem = s.vmem := rfl
@[simp] theorem State.modWave_tags (s : State) (k : Nat) (f : Wave → Wave) : (s.modWave k f).tags = s.tags := rfl
@[simp] theorem State.modWave_gkeys (s : State) (k : Nat) (f : Wave → Wave) : (s.modWave k f).gkeys = s.gkeys := rfl
@[simp] theorem State.modWave_vkeys (s : State) (k : Nat) (f : Wave → Wave) : (s.modWave k f).vkeys = s.vkeys := rfl
@[simp] theorem State.modWave_nextKey (s : State) (k : Nat) (f : Wave → Wave) : (s.modWave k f).nextKey = s.nextKey := rfl
@[simp] theorem State.modWave_poisonG (s : State) (k : Nat) (f : Wave → Wave) : (s.modWave k f).poisonG = s.poisonG := rfl
@[simp] theorem State.modWave_poisonV (s : State) (k : Nat) (f : Wave → Wave) : (s.modWave k f).poisonV = s.poisonV := rfl
@[simp] theorem State.modWave_poisonT (s : State) (k : Nat) (f : Wave → Wave) : (s.modWave k f).poisonT = s.poisonT := rfl
@[simp] theorem State.modWave_poisonR (s : State) (k : Nat) (f : Wave → Wave) : (s.modWave k f).poisonR = s.poisonR := rfl
@[simp] theorem State.modWave_corrected (s : State) (k : Nat) (f : Wave → Wave) : (s.modWave k f).corrected = s.corrected := rfl
@[simp] theorem State.modWave_seqs (s : State) (k : Nat) (f : Wave → Wave) : (s.modWave k f).seqs = s.seqs := rfl
@[simp] theorem State.modWave_subs (s : State) (k : Nat) (f : Wave → Wave) : (s.modWave k f).subs = s.subs := rfl
@[simp] theorem State.modWave_pushes (s : State) (k : Nat) (f : Wave → Wave) : (s.modWave k f).pushes = s.pushes := rfl
@[simp] theorem State.modWave_loads (s : State) (k : Nat) (f : Wave → Wave) : (s.modWave k f).loads = s.loads := rfl
@[simp] theorem State.modWave_tlb (s : State) (k : Nat) (f : Wave → Wave) : (s.modWave k f).tlb = s.tlb := rfl
@[simp] theorem State.modWave_icache (s : State) (k : Nat) (f : Wave → Wave) : (s.modWave k f).icache = s.icache := rfl
@[simp] theorem State.modWave_arrivals (s : State) (k : Nat) (f : Wave → Wave) : (s.modWave k f).arrivals = s.arrivals := rfl
@[simp] theorem State.modWave_cores (s : State) (k : Nat) (f : Wave → Wave) : (s.modWave k f).cores = s.cores := rfl
@[simp] theorem State.modWave_cohorts (s : State) (k : Nat) (f : Wave → Wave) : (s.modWave k f).cohorts = s.cohorts := rfl
@[simp] theorem State.modWave_launches (s : State) (k : Nat) (f : Wave → Wave) : (s.modWave k f).launches = s.launches := rfl
@[simp] theorem State.modWave_saved (s : State) (k : Nat) (f : Wave → Wave) : (s.modWave k f).saved = s.saved := rfl
@[simp] theorem State.modWave_parts (s : State) (k : Nat) (f : Wave → Wave) : (s.modWave k f).parts = s.parts := rfl
@[simp] theorem State.modWave_channels (s : State) (k : Nat) (f : Wave → Wave) : (s.modWave k f).channels = s.channels := rfl
@[simp] theorem State.modWave_syncs (s : State) (k : Nat) (f : Wave → Wave) : (s.modWave k f).syncs = s.syncs := rfl
@[simp] theorem State.modWave_nextPart (s : State) (k : Nat) (f : Wave → Wave) : (s.modWave k f).nextPart = s.nextPart := rfl
@[simp] theorem State.modWave_roots (s : State) (k : Nat) (f : Wave → Wave) : (s.modWave k f).roots = s.roots := rfl
@[simp] theorem State.modWave_routes (s : State) (k : Nat) (f : Wave → Wave) : (s.modWave k f).routes = s.routes := rfl
@[simp] theorem State.modWave_patches (s : State) (k : Nat) (f : Wave → Wave) : (s.modWave k f).patches = s.patches := rfl
@[simp] theorem State.modWave_patchHash (s : State) (k : Nat) (f : Wave → Wave) : (s.modWave k f).patchHash = s.patchHash := rfl
@[simp] theorem State.modWave_fwFaults (s : State) (k : Nat) (f : Wave → Wave) : (s.modWave k f).fwFaults = s.fwFaults := rfl
@[simp] theorem State.modWave_hostq (s : State) (k : Nat) (f : Wave → Wave) : (s.modWave k f).hostq = s.hostq := rfl
@[simp] theorem State.modWave_hostReplies (s : State) (k : Nat) (f : Wave → Wave) : (s.modWave k f).hostReplies = s.hostReplies := rfl
@[simp] theorem State.modWave_hdmBase (s : State) (k : Nat) (f : Wave → Wave) : (s.modWave k f).hdmBase = s.hdmBase := rfl
@[simp] theorem State.modWave_devPages (s : State) (k : Nat) (f : Wave → Wave) : (s.modWave k f).devPages = s.devPages := rfl
@[simp] theorem State.modWave_gangs (s : State) (k : Nat) (f : Wave → Wave) : (s.modWave k f).gangs = s.gangs := rfl
@[simp] theorem State.modWave_boot (s : State) (k : Nat) (f : Wave → Wave) : (s.modWave k f).boot = s.boot := rfl
@[simp] theorem State.modWave_flash (s : State) (k : Nat) (f : Wave → Wave) : (s.modWave k f).flash = s.flash := rfl
@[simp] theorem State.modWave_rollback (s : State) (k : Nat) (f : Wave → Wave) : (s.modWave k f).rollback = s.rollback := rfl
@[simp] theorem State.modWave_reports (s : State) (k : Nat) (f : Wave → Wave) : (s.modWave k f).reports = s.reports := rfl
@[simp] theorem State.modWave_signed (s : State) (k : Nat) (f : Wave → Wave) : (s.modWave k f).signed = s.signed := rfl
@[simp] theorem State.modWave_mhz (s : State) (k : Nat) (f : Wave → Wave) : (s.modWave k f).mhz = s.mhz := rfl
@[simp] theorem State.modWave_stalls (s : State) (k : Nat) (f : Wave → Wave) : (s.modWave k f).stalls = s.stalls := rfl
@[simp] theorem State.modWave_links (s : State) (k : Nat) (f : Wave → Wave) : (s.modWave k f).links = s.links := rfl
@[simp] theorem State.modWave_lost (s : State) (k : Nat) (f : Wave → Wave) : (s.modWave k f).lost = s.lost := rfl
@[simp] theorem State.modWave_down (s : State) (k : Nat) (f : Wave → Wave) : (s.modWave k f).down = s.down := rfl
@[simp] theorem State.modWave_debugReads (s : State) (k : Nat) (f : Wave → Wave) : (s.modWave k f).debugReads = s.debugReads := rfl
@[simp] theorem State.modWave_uses (s : State) (k : Nat) (f : Wave → Wave) : (s.modWave k f).uses = s.uses := rfl
@[simp] theorem State.modWave_rr (s : State) (k : Nat) (f : Wave → Wave) : (s.modWave k f).rr = s.rr := rfl
@[simp] theorem State.modWave_pairs (s : State) (k : Nat) (f : Wave → Wave) : (s.modWave k f).pairs = s.pairs := rfl

/-! ## `State.modCohort` -/

@[simp] theorem State.modCohort_agenda (s : State) (k : Nat) (f : Cohort → Cohort) : (s.modCohort k f).agenda = s.agenda := rfl
@[simp] theorem State.modCohort_cur (s : State) (k : Nat) (f : Cohort → Cohort) : (s.modCohort k f).cur = s.cur := rfl
@[simp] theorem State.modCohort_stall (s : State) (k : Nat) (f : Cohort → Cohort) : (s.modCohort k f).stall = s.stall := rfl
@[simp] theorem State.modCohort_tick (s : State) (k : Nat) (f : Cohort → Cohort) : (s.modCohort k f).tick = s.tick := rfl
@[simp] theorem State.modCohort_clock (s : State) (k : Nat) (f : Cohort → Cohort) : (s.modCohort k f).clock = s.clock := rfl
@[simp] theorem State.modCohort_gmem (s : State) (k : Nat) (f : Cohort → Cohort) : (s.modCohort k f).gmem = s.gmem := rfl
@[simp] theorem State.modCohort_vmem (s : State) (k : Nat) (f : Cohort → Cohort) : (s.modCohort k f).vmem = s.vmem := rfl
@[simp] theorem State.modCohort_tags (s : State) (k : Nat) (f : Cohort → Cohort) : (s.modCohort k f).tags = s.tags := rfl
@[simp] theorem State.modCohort_gkeys (s : State) (k : Nat) (f : Cohort → Cohort) : (s.modCohort k f).gkeys = s.gkeys := rfl
@[simp] theorem State.modCohort_vkeys (s : State) (k : Nat) (f : Cohort → Cohort) : (s.modCohort k f).vkeys = s.vkeys := rfl
@[simp] theorem State.modCohort_nextKey (s : State) (k : Nat) (f : Cohort → Cohort) : (s.modCohort k f).nextKey = s.nextKey := rfl
@[simp] theorem State.modCohort_poisonG (s : State) (k : Nat) (f : Cohort → Cohort) : (s.modCohort k f).poisonG = s.poisonG := rfl
@[simp] theorem State.modCohort_poisonV (s : State) (k : Nat) (f : Cohort → Cohort) : (s.modCohort k f).poisonV = s.poisonV := rfl
@[simp] theorem State.modCohort_poisonT (s : State) (k : Nat) (f : Cohort → Cohort) : (s.modCohort k f).poisonT = s.poisonT := rfl
@[simp] theorem State.modCohort_poisonR (s : State) (k : Nat) (f : Cohort → Cohort) : (s.modCohort k f).poisonR = s.poisonR := rfl
@[simp] theorem State.modCohort_corrected (s : State) (k : Nat) (f : Cohort → Cohort) : (s.modCohort k f).corrected = s.corrected := rfl
@[simp] theorem State.modCohort_seqs (s : State) (k : Nat) (f : Cohort → Cohort) : (s.modCohort k f).seqs = s.seqs := rfl
@[simp] theorem State.modCohort_subs (s : State) (k : Nat) (f : Cohort → Cohort) : (s.modCohort k f).subs = s.subs := rfl
@[simp] theorem State.modCohort_pushes (s : State) (k : Nat) (f : Cohort → Cohort) : (s.modCohort k f).pushes = s.pushes := rfl
@[simp] theorem State.modCohort_loads (s : State) (k : Nat) (f : Cohort → Cohort) : (s.modCohort k f).loads = s.loads := rfl
@[simp] theorem State.modCohort_tlb (s : State) (k : Nat) (f : Cohort → Cohort) : (s.modCohort k f).tlb = s.tlb := rfl
@[simp] theorem State.modCohort_icache (s : State) (k : Nat) (f : Cohort → Cohort) : (s.modCohort k f).icache = s.icache := rfl
@[simp] theorem State.modCohort_arrivals (s : State) (k : Nat) (f : Cohort → Cohort) : (s.modCohort k f).arrivals = s.arrivals := rfl
@[simp] theorem State.modCohort_cores (s : State) (k : Nat) (f : Cohort → Cohort) : (s.modCohort k f).cores = s.cores := rfl
@[simp] theorem State.modCohort_waves (s : State) (k : Nat) (f : Cohort → Cohort) : (s.modCohort k f).waves = s.waves := rfl
@[simp] theorem State.modCohort_launches (s : State) (k : Nat) (f : Cohort → Cohort) : (s.modCohort k f).launches = s.launches := rfl
@[simp] theorem State.modCohort_saved (s : State) (k : Nat) (f : Cohort → Cohort) : (s.modCohort k f).saved = s.saved := rfl
@[simp] theorem State.modCohort_parts (s : State) (k : Nat) (f : Cohort → Cohort) : (s.modCohort k f).parts = s.parts := rfl
@[simp] theorem State.modCohort_channels (s : State) (k : Nat) (f : Cohort → Cohort) : (s.modCohort k f).channels = s.channels := rfl
@[simp] theorem State.modCohort_syncs (s : State) (k : Nat) (f : Cohort → Cohort) : (s.modCohort k f).syncs = s.syncs := rfl
@[simp] theorem State.modCohort_nextPart (s : State) (k : Nat) (f : Cohort → Cohort) : (s.modCohort k f).nextPart = s.nextPart := rfl
@[simp] theorem State.modCohort_roots (s : State) (k : Nat) (f : Cohort → Cohort) : (s.modCohort k f).roots = s.roots := rfl
@[simp] theorem State.modCohort_routes (s : State) (k : Nat) (f : Cohort → Cohort) : (s.modCohort k f).routes = s.routes := rfl
@[simp] theorem State.modCohort_patches (s : State) (k : Nat) (f : Cohort → Cohort) : (s.modCohort k f).patches = s.patches := rfl
@[simp] theorem State.modCohort_patchHash (s : State) (k : Nat) (f : Cohort → Cohort) : (s.modCohort k f).patchHash = s.patchHash := rfl
@[simp] theorem State.modCohort_fwFaults (s : State) (k : Nat) (f : Cohort → Cohort) : (s.modCohort k f).fwFaults = s.fwFaults := rfl
@[simp] theorem State.modCohort_hostq (s : State) (k : Nat) (f : Cohort → Cohort) : (s.modCohort k f).hostq = s.hostq := rfl
@[simp] theorem State.modCohort_hostReplies (s : State) (k : Nat) (f : Cohort → Cohort) : (s.modCohort k f).hostReplies = s.hostReplies := rfl
@[simp] theorem State.modCohort_hdmBase (s : State) (k : Nat) (f : Cohort → Cohort) : (s.modCohort k f).hdmBase = s.hdmBase := rfl
@[simp] theorem State.modCohort_devPages (s : State) (k : Nat) (f : Cohort → Cohort) : (s.modCohort k f).devPages = s.devPages := rfl
@[simp] theorem State.modCohort_gangs (s : State) (k : Nat) (f : Cohort → Cohort) : (s.modCohort k f).gangs = s.gangs := rfl
@[simp] theorem State.modCohort_boot (s : State) (k : Nat) (f : Cohort → Cohort) : (s.modCohort k f).boot = s.boot := rfl
@[simp] theorem State.modCohort_flash (s : State) (k : Nat) (f : Cohort → Cohort) : (s.modCohort k f).flash = s.flash := rfl
@[simp] theorem State.modCohort_rollback (s : State) (k : Nat) (f : Cohort → Cohort) : (s.modCohort k f).rollback = s.rollback := rfl
@[simp] theorem State.modCohort_reports (s : State) (k : Nat) (f : Cohort → Cohort) : (s.modCohort k f).reports = s.reports := rfl
@[simp] theorem State.modCohort_signed (s : State) (k : Nat) (f : Cohort → Cohort) : (s.modCohort k f).signed = s.signed := rfl
@[simp] theorem State.modCohort_mhz (s : State) (k : Nat) (f : Cohort → Cohort) : (s.modCohort k f).mhz = s.mhz := rfl
@[simp] theorem State.modCohort_stalls (s : State) (k : Nat) (f : Cohort → Cohort) : (s.modCohort k f).stalls = s.stalls := rfl
@[simp] theorem State.modCohort_links (s : State) (k : Nat) (f : Cohort → Cohort) : (s.modCohort k f).links = s.links := rfl
@[simp] theorem State.modCohort_lost (s : State) (k : Nat) (f : Cohort → Cohort) : (s.modCohort k f).lost = s.lost := rfl
@[simp] theorem State.modCohort_down (s : State) (k : Nat) (f : Cohort → Cohort) : (s.modCohort k f).down = s.down := rfl
@[simp] theorem State.modCohort_debugReads (s : State) (k : Nat) (f : Cohort → Cohort) : (s.modCohort k f).debugReads = s.debugReads := rfl
@[simp] theorem State.modCohort_uses (s : State) (k : Nat) (f : Cohort → Cohort) : (s.modCohort k f).uses = s.uses := rfl
@[simp] theorem State.modCohort_rr (s : State) (k : Nat) (f : Cohort → Cohort) : (s.modCohort k f).rr = s.rr := rfl
@[simp] theorem State.modCohort_pairs (s : State) (k : Nat) (f : Cohort → Cohort) : (s.modCohort k f).pairs = s.pairs := rfl

/-! ## `State.modLaunch` -/

@[simp] theorem State.modLaunch_agenda (s : State) (k : Nat) (f : Launch → Launch) : (s.modLaunch k f).agenda = s.agenda := rfl
@[simp] theorem State.modLaunch_cur (s : State) (k : Nat) (f : Launch → Launch) : (s.modLaunch k f).cur = s.cur := rfl
@[simp] theorem State.modLaunch_stall (s : State) (k : Nat) (f : Launch → Launch) : (s.modLaunch k f).stall = s.stall := rfl
@[simp] theorem State.modLaunch_tick (s : State) (k : Nat) (f : Launch → Launch) : (s.modLaunch k f).tick = s.tick := rfl
@[simp] theorem State.modLaunch_clock (s : State) (k : Nat) (f : Launch → Launch) : (s.modLaunch k f).clock = s.clock := rfl
@[simp] theorem State.modLaunch_gmem (s : State) (k : Nat) (f : Launch → Launch) : (s.modLaunch k f).gmem = s.gmem := rfl
@[simp] theorem State.modLaunch_vmem (s : State) (k : Nat) (f : Launch → Launch) : (s.modLaunch k f).vmem = s.vmem := rfl
@[simp] theorem State.modLaunch_tags (s : State) (k : Nat) (f : Launch → Launch) : (s.modLaunch k f).tags = s.tags := rfl
@[simp] theorem State.modLaunch_gkeys (s : State) (k : Nat) (f : Launch → Launch) : (s.modLaunch k f).gkeys = s.gkeys := rfl
@[simp] theorem State.modLaunch_vkeys (s : State) (k : Nat) (f : Launch → Launch) : (s.modLaunch k f).vkeys = s.vkeys := rfl
@[simp] theorem State.modLaunch_nextKey (s : State) (k : Nat) (f : Launch → Launch) : (s.modLaunch k f).nextKey = s.nextKey := rfl
@[simp] theorem State.modLaunch_poisonG (s : State) (k : Nat) (f : Launch → Launch) : (s.modLaunch k f).poisonG = s.poisonG := rfl
@[simp] theorem State.modLaunch_poisonV (s : State) (k : Nat) (f : Launch → Launch) : (s.modLaunch k f).poisonV = s.poisonV := rfl
@[simp] theorem State.modLaunch_poisonT (s : State) (k : Nat) (f : Launch → Launch) : (s.modLaunch k f).poisonT = s.poisonT := rfl
@[simp] theorem State.modLaunch_poisonR (s : State) (k : Nat) (f : Launch → Launch) : (s.modLaunch k f).poisonR = s.poisonR := rfl
@[simp] theorem State.modLaunch_corrected (s : State) (k : Nat) (f : Launch → Launch) : (s.modLaunch k f).corrected = s.corrected := rfl
@[simp] theorem State.modLaunch_seqs (s : State) (k : Nat) (f : Launch → Launch) : (s.modLaunch k f).seqs = s.seqs := rfl
@[simp] theorem State.modLaunch_subs (s : State) (k : Nat) (f : Launch → Launch) : (s.modLaunch k f).subs = s.subs := rfl
@[simp] theorem State.modLaunch_pushes (s : State) (k : Nat) (f : Launch → Launch) : (s.modLaunch k f).pushes = s.pushes := rfl
@[simp] theorem State.modLaunch_loads (s : State) (k : Nat) (f : Launch → Launch) : (s.modLaunch k f).loads = s.loads := rfl
@[simp] theorem State.modLaunch_tlb (s : State) (k : Nat) (f : Launch → Launch) : (s.modLaunch k f).tlb = s.tlb := rfl
@[simp] theorem State.modLaunch_icache (s : State) (k : Nat) (f : Launch → Launch) : (s.modLaunch k f).icache = s.icache := rfl
@[simp] theorem State.modLaunch_arrivals (s : State) (k : Nat) (f : Launch → Launch) : (s.modLaunch k f).arrivals = s.arrivals := rfl
@[simp] theorem State.modLaunch_cores (s : State) (k : Nat) (f : Launch → Launch) : (s.modLaunch k f).cores = s.cores := rfl
@[simp] theorem State.modLaunch_waves (s : State) (k : Nat) (f : Launch → Launch) : (s.modLaunch k f).waves = s.waves := rfl
@[simp] theorem State.modLaunch_cohorts (s : State) (k : Nat) (f : Launch → Launch) : (s.modLaunch k f).cohorts = s.cohorts := rfl
@[simp] theorem State.modLaunch_saved (s : State) (k : Nat) (f : Launch → Launch) : (s.modLaunch k f).saved = s.saved := rfl
@[simp] theorem State.modLaunch_parts (s : State) (k : Nat) (f : Launch → Launch) : (s.modLaunch k f).parts = s.parts := rfl
@[simp] theorem State.modLaunch_channels (s : State) (k : Nat) (f : Launch → Launch) : (s.modLaunch k f).channels = s.channels := rfl
@[simp] theorem State.modLaunch_syncs (s : State) (k : Nat) (f : Launch → Launch) : (s.modLaunch k f).syncs = s.syncs := rfl
@[simp] theorem State.modLaunch_nextPart (s : State) (k : Nat) (f : Launch → Launch) : (s.modLaunch k f).nextPart = s.nextPart := rfl
@[simp] theorem State.modLaunch_roots (s : State) (k : Nat) (f : Launch → Launch) : (s.modLaunch k f).roots = s.roots := rfl
@[simp] theorem State.modLaunch_routes (s : State) (k : Nat) (f : Launch → Launch) : (s.modLaunch k f).routes = s.routes := rfl
@[simp] theorem State.modLaunch_patches (s : State) (k : Nat) (f : Launch → Launch) : (s.modLaunch k f).patches = s.patches := rfl
@[simp] theorem State.modLaunch_patchHash (s : State) (k : Nat) (f : Launch → Launch) : (s.modLaunch k f).patchHash = s.patchHash := rfl
@[simp] theorem State.modLaunch_fwFaults (s : State) (k : Nat) (f : Launch → Launch) : (s.modLaunch k f).fwFaults = s.fwFaults := rfl
@[simp] theorem State.modLaunch_hostq (s : State) (k : Nat) (f : Launch → Launch) : (s.modLaunch k f).hostq = s.hostq := rfl
@[simp] theorem State.modLaunch_hostReplies (s : State) (k : Nat) (f : Launch → Launch) : (s.modLaunch k f).hostReplies = s.hostReplies := rfl
@[simp] theorem State.modLaunch_hdmBase (s : State) (k : Nat) (f : Launch → Launch) : (s.modLaunch k f).hdmBase = s.hdmBase := rfl
@[simp] theorem State.modLaunch_devPages (s : State) (k : Nat) (f : Launch → Launch) : (s.modLaunch k f).devPages = s.devPages := rfl
@[simp] theorem State.modLaunch_gangs (s : State) (k : Nat) (f : Launch → Launch) : (s.modLaunch k f).gangs = s.gangs := rfl
@[simp] theorem State.modLaunch_boot (s : State) (k : Nat) (f : Launch → Launch) : (s.modLaunch k f).boot = s.boot := rfl
@[simp] theorem State.modLaunch_flash (s : State) (k : Nat) (f : Launch → Launch) : (s.modLaunch k f).flash = s.flash := rfl
@[simp] theorem State.modLaunch_rollback (s : State) (k : Nat) (f : Launch → Launch) : (s.modLaunch k f).rollback = s.rollback := rfl
@[simp] theorem State.modLaunch_reports (s : State) (k : Nat) (f : Launch → Launch) : (s.modLaunch k f).reports = s.reports := rfl
@[simp] theorem State.modLaunch_signed (s : State) (k : Nat) (f : Launch → Launch) : (s.modLaunch k f).signed = s.signed := rfl
@[simp] theorem State.modLaunch_mhz (s : State) (k : Nat) (f : Launch → Launch) : (s.modLaunch k f).mhz = s.mhz := rfl
@[simp] theorem State.modLaunch_stalls (s : State) (k : Nat) (f : Launch → Launch) : (s.modLaunch k f).stalls = s.stalls := rfl
@[simp] theorem State.modLaunch_links (s : State) (k : Nat) (f : Launch → Launch) : (s.modLaunch k f).links = s.links := rfl
@[simp] theorem State.modLaunch_lost (s : State) (k : Nat) (f : Launch → Launch) : (s.modLaunch k f).lost = s.lost := rfl
@[simp] theorem State.modLaunch_down (s : State) (k : Nat) (f : Launch → Launch) : (s.modLaunch k f).down = s.down := rfl
@[simp] theorem State.modLaunch_debugReads (s : State) (k : Nat) (f : Launch → Launch) : (s.modLaunch k f).debugReads = s.debugReads := rfl
@[simp] theorem State.modLaunch_uses (s : State) (k : Nat) (f : Launch → Launch) : (s.modLaunch k f).uses = s.uses := rfl
@[simp] theorem State.modLaunch_rr (s : State) (k : Nat) (f : Launch → Launch) : (s.modLaunch k f).rr = s.rr := rfl
@[simp] theorem State.modLaunch_pairs (s : State) (k : Nat) (f : Launch → Launch) : (s.modLaunch k f).pairs = s.pairs := rfl

/-! ## `State.modCore` -/

@[simp] theorem State.modCore_agenda (s : State) (k : Nat) (f : Core → Core) : (s.modCore k f).agenda = s.agenda := rfl
@[simp] theorem State.modCore_cur (s : State) (k : Nat) (f : Core → Core) : (s.modCore k f).cur = s.cur := rfl
@[simp] theorem State.modCore_stall (s : State) (k : Nat) (f : Core → Core) : (s.modCore k f).stall = s.stall := rfl
@[simp] theorem State.modCore_tick (s : State) (k : Nat) (f : Core → Core) : (s.modCore k f).tick = s.tick := rfl
@[simp] theorem State.modCore_clock (s : State) (k : Nat) (f : Core → Core) : (s.modCore k f).clock = s.clock := rfl
@[simp] theorem State.modCore_gmem (s : State) (k : Nat) (f : Core → Core) : (s.modCore k f).gmem = s.gmem := rfl
@[simp] theorem State.modCore_vmem (s : State) (k : Nat) (f : Core → Core) : (s.modCore k f).vmem = s.vmem := rfl
@[simp] theorem State.modCore_tags (s : State) (k : Nat) (f : Core → Core) : (s.modCore k f).tags = s.tags := rfl
@[simp] theorem State.modCore_gkeys (s : State) (k : Nat) (f : Core → Core) : (s.modCore k f).gkeys = s.gkeys := rfl
@[simp] theorem State.modCore_vkeys (s : State) (k : Nat) (f : Core → Core) : (s.modCore k f).vkeys = s.vkeys := rfl
@[simp] theorem State.modCore_nextKey (s : State) (k : Nat) (f : Core → Core) : (s.modCore k f).nextKey = s.nextKey := rfl
@[simp] theorem State.modCore_poisonG (s : State) (k : Nat) (f : Core → Core) : (s.modCore k f).poisonG = s.poisonG := rfl
@[simp] theorem State.modCore_poisonV (s : State) (k : Nat) (f : Core → Core) : (s.modCore k f).poisonV = s.poisonV := rfl
@[simp] theorem State.modCore_poisonT (s : State) (k : Nat) (f : Core → Core) : (s.modCore k f).poisonT = s.poisonT := rfl
@[simp] theorem State.modCore_poisonR (s : State) (k : Nat) (f : Core → Core) : (s.modCore k f).poisonR = s.poisonR := rfl
@[simp] theorem State.modCore_corrected (s : State) (k : Nat) (f : Core → Core) : (s.modCore k f).corrected = s.corrected := rfl
@[simp] theorem State.modCore_seqs (s : State) (k : Nat) (f : Core → Core) : (s.modCore k f).seqs = s.seqs := rfl
@[simp] theorem State.modCore_subs (s : State) (k : Nat) (f : Core → Core) : (s.modCore k f).subs = s.subs := rfl
@[simp] theorem State.modCore_pushes (s : State) (k : Nat) (f : Core → Core) : (s.modCore k f).pushes = s.pushes := rfl
@[simp] theorem State.modCore_loads (s : State) (k : Nat) (f : Core → Core) : (s.modCore k f).loads = s.loads := rfl
@[simp] theorem State.modCore_tlb (s : State) (k : Nat) (f : Core → Core) : (s.modCore k f).tlb = s.tlb := rfl
@[simp] theorem State.modCore_icache (s : State) (k : Nat) (f : Core → Core) : (s.modCore k f).icache = s.icache := rfl
@[simp] theorem State.modCore_arrivals (s : State) (k : Nat) (f : Core → Core) : (s.modCore k f).arrivals = s.arrivals := rfl
@[simp] theorem State.modCore_waves (s : State) (k : Nat) (f : Core → Core) : (s.modCore k f).waves = s.waves := rfl
@[simp] theorem State.modCore_cohorts (s : State) (k : Nat) (f : Core → Core) : (s.modCore k f).cohorts = s.cohorts := rfl
@[simp] theorem State.modCore_launches (s : State) (k : Nat) (f : Core → Core) : (s.modCore k f).launches = s.launches := rfl
@[simp] theorem State.modCore_saved (s : State) (k : Nat) (f : Core → Core) : (s.modCore k f).saved = s.saved := rfl
@[simp] theorem State.modCore_parts (s : State) (k : Nat) (f : Core → Core) : (s.modCore k f).parts = s.parts := rfl
@[simp] theorem State.modCore_channels (s : State) (k : Nat) (f : Core → Core) : (s.modCore k f).channels = s.channels := rfl
@[simp] theorem State.modCore_syncs (s : State) (k : Nat) (f : Core → Core) : (s.modCore k f).syncs = s.syncs := rfl
@[simp] theorem State.modCore_nextPart (s : State) (k : Nat) (f : Core → Core) : (s.modCore k f).nextPart = s.nextPart := rfl
@[simp] theorem State.modCore_roots (s : State) (k : Nat) (f : Core → Core) : (s.modCore k f).roots = s.roots := rfl
@[simp] theorem State.modCore_routes (s : State) (k : Nat) (f : Core → Core) : (s.modCore k f).routes = s.routes := rfl
@[simp] theorem State.modCore_patches (s : State) (k : Nat) (f : Core → Core) : (s.modCore k f).patches = s.patches := rfl
@[simp] theorem State.modCore_patchHash (s : State) (k : Nat) (f : Core → Core) : (s.modCore k f).patchHash = s.patchHash := rfl
@[simp] theorem State.modCore_fwFaults (s : State) (k : Nat) (f : Core → Core) : (s.modCore k f).fwFaults = s.fwFaults := rfl
@[simp] theorem State.modCore_hostq (s : State) (k : Nat) (f : Core → Core) : (s.modCore k f).hostq = s.hostq := rfl
@[simp] theorem State.modCore_hostReplies (s : State) (k : Nat) (f : Core → Core) : (s.modCore k f).hostReplies = s.hostReplies := rfl
@[simp] theorem State.modCore_hdmBase (s : State) (k : Nat) (f : Core → Core) : (s.modCore k f).hdmBase = s.hdmBase := rfl
@[simp] theorem State.modCore_devPages (s : State) (k : Nat) (f : Core → Core) : (s.modCore k f).devPages = s.devPages := rfl
@[simp] theorem State.modCore_gangs (s : State) (k : Nat) (f : Core → Core) : (s.modCore k f).gangs = s.gangs := rfl
@[simp] theorem State.modCore_boot (s : State) (k : Nat) (f : Core → Core) : (s.modCore k f).boot = s.boot := rfl
@[simp] theorem State.modCore_flash (s : State) (k : Nat) (f : Core → Core) : (s.modCore k f).flash = s.flash := rfl
@[simp] theorem State.modCore_rollback (s : State) (k : Nat) (f : Core → Core) : (s.modCore k f).rollback = s.rollback := rfl
@[simp] theorem State.modCore_reports (s : State) (k : Nat) (f : Core → Core) : (s.modCore k f).reports = s.reports := rfl
@[simp] theorem State.modCore_signed (s : State) (k : Nat) (f : Core → Core) : (s.modCore k f).signed = s.signed := rfl
@[simp] theorem State.modCore_mhz (s : State) (k : Nat) (f : Core → Core) : (s.modCore k f).mhz = s.mhz := rfl
@[simp] theorem State.modCore_stalls (s : State) (k : Nat) (f : Core → Core) : (s.modCore k f).stalls = s.stalls := rfl
@[simp] theorem State.modCore_links (s : State) (k : Nat) (f : Core → Core) : (s.modCore k f).links = s.links := rfl
@[simp] theorem State.modCore_lost (s : State) (k : Nat) (f : Core → Core) : (s.modCore k f).lost = s.lost := rfl
@[simp] theorem State.modCore_down (s : State) (k : Nat) (f : Core → Core) : (s.modCore k f).down = s.down := rfl
@[simp] theorem State.modCore_debugReads (s : State) (k : Nat) (f : Core → Core) : (s.modCore k f).debugReads = s.debugReads := rfl
@[simp] theorem State.modCore_uses (s : State) (k : Nat) (f : Core → Core) : (s.modCore k f).uses = s.uses := rfl
@[simp] theorem State.modCore_rr (s : State) (k : Nat) (f : Core → Core) : (s.modCore k f).rr = s.rr := rfl
@[simp] theorem State.modCore_pairs (s : State) (k : Nat) (f : Core → Core) : (s.modCore k f).pairs = s.pairs := rfl

/-! ## `State.modPart` -/

@[simp] theorem State.modPart_agenda (s : State) (k : Nat) (f : Partition → Partition) : (s.modPart k f).agenda = s.agenda := rfl
@[simp] theorem State.modPart_cur (s : State) (k : Nat) (f : Partition → Partition) : (s.modPart k f).cur = s.cur := rfl
@[simp] theorem State.modPart_stall (s : State) (k : Nat) (f : Partition → Partition) : (s.modPart k f).stall = s.stall := rfl
@[simp] theorem State.modPart_tick (s : State) (k : Nat) (f : Partition → Partition) : (s.modPart k f).tick = s.tick := rfl
@[simp] theorem State.modPart_clock (s : State) (k : Nat) (f : Partition → Partition) : (s.modPart k f).clock = s.clock := rfl
@[simp] theorem State.modPart_gmem (s : State) (k : Nat) (f : Partition → Partition) : (s.modPart k f).gmem = s.gmem := rfl
@[simp] theorem State.modPart_vmem (s : State) (k : Nat) (f : Partition → Partition) : (s.modPart k f).vmem = s.vmem := rfl
@[simp] theorem State.modPart_tags (s : State) (k : Nat) (f : Partition → Partition) : (s.modPart k f).tags = s.tags := rfl
@[simp] theorem State.modPart_gkeys (s : State) (k : Nat) (f : Partition → Partition) : (s.modPart k f).gkeys = s.gkeys := rfl
@[simp] theorem State.modPart_vkeys (s : State) (k : Nat) (f : Partition → Partition) : (s.modPart k f).vkeys = s.vkeys := rfl
@[simp] theorem State.modPart_nextKey (s : State) (k : Nat) (f : Partition → Partition) : (s.modPart k f).nextKey = s.nextKey := rfl
@[simp] theorem State.modPart_poisonG (s : State) (k : Nat) (f : Partition → Partition) : (s.modPart k f).poisonG = s.poisonG := rfl
@[simp] theorem State.modPart_poisonV (s : State) (k : Nat) (f : Partition → Partition) : (s.modPart k f).poisonV = s.poisonV := rfl
@[simp] theorem State.modPart_poisonT (s : State) (k : Nat) (f : Partition → Partition) : (s.modPart k f).poisonT = s.poisonT := rfl
@[simp] theorem State.modPart_poisonR (s : State) (k : Nat) (f : Partition → Partition) : (s.modPart k f).poisonR = s.poisonR := rfl
@[simp] theorem State.modPart_corrected (s : State) (k : Nat) (f : Partition → Partition) : (s.modPart k f).corrected = s.corrected := rfl
@[simp] theorem State.modPart_seqs (s : State) (k : Nat) (f : Partition → Partition) : (s.modPart k f).seqs = s.seqs := rfl
@[simp] theorem State.modPart_subs (s : State) (k : Nat) (f : Partition → Partition) : (s.modPart k f).subs = s.subs := rfl
@[simp] theorem State.modPart_pushes (s : State) (k : Nat) (f : Partition → Partition) : (s.modPart k f).pushes = s.pushes := rfl
@[simp] theorem State.modPart_loads (s : State) (k : Nat) (f : Partition → Partition) : (s.modPart k f).loads = s.loads := rfl
@[simp] theorem State.modPart_tlb (s : State) (k : Nat) (f : Partition → Partition) : (s.modPart k f).tlb = s.tlb := rfl
@[simp] theorem State.modPart_icache (s : State) (k : Nat) (f : Partition → Partition) : (s.modPart k f).icache = s.icache := rfl
@[simp] theorem State.modPart_arrivals (s : State) (k : Nat) (f : Partition → Partition) : (s.modPart k f).arrivals = s.arrivals := rfl
@[simp] theorem State.modPart_cores (s : State) (k : Nat) (f : Partition → Partition) : (s.modPart k f).cores = s.cores := rfl
@[simp] theorem State.modPart_waves (s : State) (k : Nat) (f : Partition → Partition) : (s.modPart k f).waves = s.waves := rfl
@[simp] theorem State.modPart_cohorts (s : State) (k : Nat) (f : Partition → Partition) : (s.modPart k f).cohorts = s.cohorts := rfl
@[simp] theorem State.modPart_launches (s : State) (k : Nat) (f : Partition → Partition) : (s.modPart k f).launches = s.launches := rfl
@[simp] theorem State.modPart_saved (s : State) (k : Nat) (f : Partition → Partition) : (s.modPart k f).saved = s.saved := rfl
@[simp] theorem State.modPart_channels (s : State) (k : Nat) (f : Partition → Partition) : (s.modPart k f).channels = s.channels := rfl
@[simp] theorem State.modPart_syncs (s : State) (k : Nat) (f : Partition → Partition) : (s.modPart k f).syncs = s.syncs := rfl
@[simp] theorem State.modPart_nextPart (s : State) (k : Nat) (f : Partition → Partition) : (s.modPart k f).nextPart = s.nextPart := rfl
@[simp] theorem State.modPart_roots (s : State) (k : Nat) (f : Partition → Partition) : (s.modPart k f).roots = s.roots := rfl
@[simp] theorem State.modPart_routes (s : State) (k : Nat) (f : Partition → Partition) : (s.modPart k f).routes = s.routes := rfl
@[simp] theorem State.modPart_patches (s : State) (k : Nat) (f : Partition → Partition) : (s.modPart k f).patches = s.patches := rfl
@[simp] theorem State.modPart_patchHash (s : State) (k : Nat) (f : Partition → Partition) : (s.modPart k f).patchHash = s.patchHash := rfl
@[simp] theorem State.modPart_fwFaults (s : State) (k : Nat) (f : Partition → Partition) : (s.modPart k f).fwFaults = s.fwFaults := rfl
@[simp] theorem State.modPart_hostq (s : State) (k : Nat) (f : Partition → Partition) : (s.modPart k f).hostq = s.hostq := rfl
@[simp] theorem State.modPart_hostReplies (s : State) (k : Nat) (f : Partition → Partition) : (s.modPart k f).hostReplies = s.hostReplies := rfl
@[simp] theorem State.modPart_hdmBase (s : State) (k : Nat) (f : Partition → Partition) : (s.modPart k f).hdmBase = s.hdmBase := rfl
@[simp] theorem State.modPart_devPages (s : State) (k : Nat) (f : Partition → Partition) : (s.modPart k f).devPages = s.devPages := rfl
@[simp] theorem State.modPart_gangs (s : State) (k : Nat) (f : Partition → Partition) : (s.modPart k f).gangs = s.gangs := rfl
@[simp] theorem State.modPart_boot (s : State) (k : Nat) (f : Partition → Partition) : (s.modPart k f).boot = s.boot := rfl
@[simp] theorem State.modPart_flash (s : State) (k : Nat) (f : Partition → Partition) : (s.modPart k f).flash = s.flash := rfl
@[simp] theorem State.modPart_rollback (s : State) (k : Nat) (f : Partition → Partition) : (s.modPart k f).rollback = s.rollback := rfl
@[simp] theorem State.modPart_reports (s : State) (k : Nat) (f : Partition → Partition) : (s.modPart k f).reports = s.reports := rfl
@[simp] theorem State.modPart_signed (s : State) (k : Nat) (f : Partition → Partition) : (s.modPart k f).signed = s.signed := rfl
@[simp] theorem State.modPart_mhz (s : State) (k : Nat) (f : Partition → Partition) : (s.modPart k f).mhz = s.mhz := rfl
@[simp] theorem State.modPart_stalls (s : State) (k : Nat) (f : Partition → Partition) : (s.modPart k f).stalls = s.stalls := rfl
@[simp] theorem State.modPart_links (s : State) (k : Nat) (f : Partition → Partition) : (s.modPart k f).links = s.links := rfl
@[simp] theorem State.modPart_lost (s : State) (k : Nat) (f : Partition → Partition) : (s.modPart k f).lost = s.lost := rfl
@[simp] theorem State.modPart_down (s : State) (k : Nat) (f : Partition → Partition) : (s.modPart k f).down = s.down := rfl
@[simp] theorem State.modPart_debugReads (s : State) (k : Nat) (f : Partition → Partition) : (s.modPart k f).debugReads = s.debugReads := rfl
@[simp] theorem State.modPart_uses (s : State) (k : Nat) (f : Partition → Partition) : (s.modPart k f).uses = s.uses := rfl
@[simp] theorem State.modPart_rr (s : State) (k : Nat) (f : Partition → Partition) : (s.modPart k f).rr = s.rr := rfl
@[simp] theorem State.modPart_pairs (s : State) (k : Nat) (f : Partition → Partition) : (s.modPart k f).pairs = s.pairs := rfl

/-! ## `State.commitTo` -/

@[simp] theorem State.commitTo_agenda (s : State) (c : Ctx) (n : Need) (pc : Nat × Option (Nat × Nat)) (fs : List Flight) : (s.commitTo c n pc fs).agenda = s.agenda := rfl
@[simp] theorem State.commitTo_cur (s : State) (c : Ctx) (n : Need) (pc : Nat × Option (Nat × Nat)) (fs : List Flight) : (s.commitTo c n pc fs).cur = s.cur := rfl
@[simp] theorem State.commitTo_stall (s : State) (c : Ctx) (n : Need) (pc : Nat × Option (Nat × Nat)) (fs : List Flight) : (s.commitTo c n pc fs).stall = s.stall := rfl
@[simp] theorem State.commitTo_tick (s : State) (c : Ctx) (n : Need) (pc : Nat × Option (Nat × Nat)) (fs : List Flight) : (s.commitTo c n pc fs).tick = s.tick := rfl
@[simp] theorem State.commitTo_clock (s : State) (c : Ctx) (n : Need) (pc : Nat × Option (Nat × Nat)) (fs : List Flight) : (s.commitTo c n pc fs).clock = s.clock := rfl
@[simp] theorem State.commitTo_gmem (s : State) (c : Ctx) (n : Need) (pc : Nat × Option (Nat × Nat)) (fs : List Flight) : (s.commitTo c n pc fs).gmem = s.gmem := rfl
@[simp] theorem State.commitTo_vmem (s : State) (c : Ctx) (n : Need) (pc : Nat × Option (Nat × Nat)) (fs : List Flight) : (s.commitTo c n pc fs).vmem = s.vmem := rfl
@[simp] theorem State.commitTo_tags (s : State) (c : Ctx) (n : Need) (pc : Nat × Option (Nat × Nat)) (fs : List Flight) : (s.commitTo c n pc fs).tags = s.tags := rfl
@[simp] theorem State.commitTo_gkeys (s : State) (c : Ctx) (n : Need) (pc : Nat × Option (Nat × Nat)) (fs : List Flight) : (s.commitTo c n pc fs).gkeys = s.gkeys := rfl
@[simp] theorem State.commitTo_vkeys (s : State) (c : Ctx) (n : Need) (pc : Nat × Option (Nat × Nat)) (fs : List Flight) : (s.commitTo c n pc fs).vkeys = s.vkeys := rfl
@[simp] theorem State.commitTo_nextKey (s : State) (c : Ctx) (n : Need) (pc : Nat × Option (Nat × Nat)) (fs : List Flight) : (s.commitTo c n pc fs).nextKey = s.nextKey := rfl
@[simp] theorem State.commitTo_poisonG (s : State) (c : Ctx) (n : Need) (pc : Nat × Option (Nat × Nat)) (fs : List Flight) : (s.commitTo c n pc fs).poisonG = s.poisonG := rfl
@[simp] theorem State.commitTo_poisonV (s : State) (c : Ctx) (n : Need) (pc : Nat × Option (Nat × Nat)) (fs : List Flight) : (s.commitTo c n pc fs).poisonV = s.poisonV := rfl
@[simp] theorem State.commitTo_poisonT (s : State) (c : Ctx) (n : Need) (pc : Nat × Option (Nat × Nat)) (fs : List Flight) : (s.commitTo c n pc fs).poisonT = s.poisonT := rfl
@[simp] theorem State.commitTo_poisonR (s : State) (c : Ctx) (n : Need) (pc : Nat × Option (Nat × Nat)) (fs : List Flight) : (s.commitTo c n pc fs).poisonR = s.poisonR := rfl
@[simp] theorem State.commitTo_corrected (s : State) (c : Ctx) (n : Need) (pc : Nat × Option (Nat × Nat)) (fs : List Flight) : (s.commitTo c n pc fs).corrected = s.corrected := rfl
@[simp] theorem State.commitTo_seqs (s : State) (c : Ctx) (n : Need) (pc : Nat × Option (Nat × Nat)) (fs : List Flight) : (s.commitTo c n pc fs).seqs = s.seqs := rfl
@[simp] theorem State.commitTo_subs (s : State) (c : Ctx) (n : Need) (pc : Nat × Option (Nat × Nat)) (fs : List Flight) : (s.commitTo c n pc fs).subs = s.subs := rfl
@[simp] theorem State.commitTo_pushes (s : State) (c : Ctx) (n : Need) (pc : Nat × Option (Nat × Nat)) (fs : List Flight) : (s.commitTo c n pc fs).pushes = s.pushes := rfl
@[simp] theorem State.commitTo_loads (s : State) (c : Ctx) (n : Need) (pc : Nat × Option (Nat × Nat)) (fs : List Flight) : (s.commitTo c n pc fs).loads = s.loads := rfl
@[simp] theorem State.commitTo_tlb (s : State) (c : Ctx) (n : Need) (pc : Nat × Option (Nat × Nat)) (fs : List Flight) : (s.commitTo c n pc fs).tlb = s.tlb := rfl
@[simp] theorem State.commitTo_icache (s : State) (c : Ctx) (n : Need) (pc : Nat × Option (Nat × Nat)) (fs : List Flight) : (s.commitTo c n pc fs).icache = s.icache := rfl
@[simp] theorem State.commitTo_arrivals (s : State) (c : Ctx) (n : Need) (pc : Nat × Option (Nat × Nat)) (fs : List Flight) : (s.commitTo c n pc fs).arrivals = s.arrivals := rfl
@[simp] theorem State.commitTo_cores (s : State) (c : Ctx) (n : Need) (pc : Nat × Option (Nat × Nat)) (fs : List Flight) : (s.commitTo c n pc fs).cores = s.cores := rfl
@[simp] theorem State.commitTo_cohorts (s : State) (c : Ctx) (n : Need) (pc : Nat × Option (Nat × Nat)) (fs : List Flight) : (s.commitTo c n pc fs).cohorts = s.cohorts := rfl
@[simp] theorem State.commitTo_launches (s : State) (c : Ctx) (n : Need) (pc : Nat × Option (Nat × Nat)) (fs : List Flight) : (s.commitTo c n pc fs).launches = s.launches := rfl
@[simp] theorem State.commitTo_saved (s : State) (c : Ctx) (n : Need) (pc : Nat × Option (Nat × Nat)) (fs : List Flight) : (s.commitTo c n pc fs).saved = s.saved := rfl
@[simp] theorem State.commitTo_parts (s : State) (c : Ctx) (n : Need) (pc : Nat × Option (Nat × Nat)) (fs : List Flight) : (s.commitTo c n pc fs).parts = s.parts := rfl
@[simp] theorem State.commitTo_channels (s : State) (c : Ctx) (n : Need) (pc : Nat × Option (Nat × Nat)) (fs : List Flight) : (s.commitTo c n pc fs).channels = s.channels := rfl
@[simp] theorem State.commitTo_syncs (s : State) (c : Ctx) (n : Need) (pc : Nat × Option (Nat × Nat)) (fs : List Flight) : (s.commitTo c n pc fs).syncs = s.syncs := rfl
@[simp] theorem State.commitTo_nextPart (s : State) (c : Ctx) (n : Need) (pc : Nat × Option (Nat × Nat)) (fs : List Flight) : (s.commitTo c n pc fs).nextPart = s.nextPart := rfl
@[simp] theorem State.commitTo_roots (s : State) (c : Ctx) (n : Need) (pc : Nat × Option (Nat × Nat)) (fs : List Flight) : (s.commitTo c n pc fs).roots = s.roots := rfl
@[simp] theorem State.commitTo_routes (s : State) (c : Ctx) (n : Need) (pc : Nat × Option (Nat × Nat)) (fs : List Flight) : (s.commitTo c n pc fs).routes = s.routes := rfl
@[simp] theorem State.commitTo_patches (s : State) (c : Ctx) (n : Need) (pc : Nat × Option (Nat × Nat)) (fs : List Flight) : (s.commitTo c n pc fs).patches = s.patches := rfl
@[simp] theorem State.commitTo_patchHash (s : State) (c : Ctx) (n : Need) (pc : Nat × Option (Nat × Nat)) (fs : List Flight) : (s.commitTo c n pc fs).patchHash = s.patchHash := rfl
@[simp] theorem State.commitTo_fwFaults (s : State) (c : Ctx) (n : Need) (pc : Nat × Option (Nat × Nat)) (fs : List Flight) : (s.commitTo c n pc fs).fwFaults = s.fwFaults := rfl
@[simp] theorem State.commitTo_hostq (s : State) (c : Ctx) (n : Need) (pc : Nat × Option (Nat × Nat)) (fs : List Flight) : (s.commitTo c n pc fs).hostq = s.hostq := rfl
@[simp] theorem State.commitTo_hostReplies (s : State) (c : Ctx) (n : Need) (pc : Nat × Option (Nat × Nat)) (fs : List Flight) : (s.commitTo c n pc fs).hostReplies = s.hostReplies := rfl
@[simp] theorem State.commitTo_hdmBase (s : State) (c : Ctx) (n : Need) (pc : Nat × Option (Nat × Nat)) (fs : List Flight) : (s.commitTo c n pc fs).hdmBase = s.hdmBase := rfl
@[simp] theorem State.commitTo_devPages (s : State) (c : Ctx) (n : Need) (pc : Nat × Option (Nat × Nat)) (fs : List Flight) : (s.commitTo c n pc fs).devPages = s.devPages := rfl
@[simp] theorem State.commitTo_gangs (s : State) (c : Ctx) (n : Need) (pc : Nat × Option (Nat × Nat)) (fs : List Flight) : (s.commitTo c n pc fs).gangs = s.gangs := rfl
@[simp] theorem State.commitTo_boot (s : State) (c : Ctx) (n : Need) (pc : Nat × Option (Nat × Nat)) (fs : List Flight) : (s.commitTo c n pc fs).boot = s.boot := rfl
@[simp] theorem State.commitTo_flash (s : State) (c : Ctx) (n : Need) (pc : Nat × Option (Nat × Nat)) (fs : List Flight) : (s.commitTo c n pc fs).flash = s.flash := rfl
@[simp] theorem State.commitTo_rollback (s : State) (c : Ctx) (n : Need) (pc : Nat × Option (Nat × Nat)) (fs : List Flight) : (s.commitTo c n pc fs).rollback = s.rollback := rfl
@[simp] theorem State.commitTo_reports (s : State) (c : Ctx) (n : Need) (pc : Nat × Option (Nat × Nat)) (fs : List Flight) : (s.commitTo c n pc fs).reports = s.reports := rfl
@[simp] theorem State.commitTo_signed (s : State) (c : Ctx) (n : Need) (pc : Nat × Option (Nat × Nat)) (fs : List Flight) : (s.commitTo c n pc fs).signed = s.signed := rfl
@[simp] theorem State.commitTo_mhz (s : State) (c : Ctx) (n : Need) (pc : Nat × Option (Nat × Nat)) (fs : List Flight) : (s.commitTo c n pc fs).mhz = s.mhz := rfl
@[simp] theorem State.commitTo_stalls (s : State) (c : Ctx) (n : Need) (pc : Nat × Option (Nat × Nat)) (fs : List Flight) : (s.commitTo c n pc fs).stalls = s.stalls := rfl
@[simp] theorem State.commitTo_links (s : State) (c : Ctx) (n : Need) (pc : Nat × Option (Nat × Nat)) (fs : List Flight) : (s.commitTo c n pc fs).links = s.links := rfl
@[simp] theorem State.commitTo_lost (s : State) (c : Ctx) (n : Need) (pc : Nat × Option (Nat × Nat)) (fs : List Flight) : (s.commitTo c n pc fs).lost = s.lost := rfl
@[simp] theorem State.commitTo_down (s : State) (c : Ctx) (n : Need) (pc : Nat × Option (Nat × Nat)) (fs : List Flight) : (s.commitTo c n pc fs).down = s.down := rfl
@[simp] theorem State.commitTo_debugReads (s : State) (c : Ctx) (n : Need) (pc : Nat × Option (Nat × Nat)) (fs : List Flight) : (s.commitTo c n pc fs).debugReads = s.debugReads := rfl
@[simp] theorem State.commitTo_uses (s : State) (c : Ctx) (n : Need) (pc : Nat × Option (Nat × Nat)) (fs : List Flight) : (s.commitTo c n pc fs).uses = s.uses := rfl
@[simp] theorem State.commitTo_rr (s : State) (c : Ctx) (n : Need) (pc : Nat × Option (Nat × Nat)) (fs : List Flight) : (s.commitTo c n pc fs).rr = s.rr := rfl
@[simp] theorem State.commitTo_pairs (s : State) (c : Ctx) (n : Need) (pc : Nat × Option (Nat × Nat)) (fs : List Flight) : (s.commitTo c n pc fs).pairs = s.pairs := rfl

/-! ## `State.commit` -/

@[simp] theorem State.commit_agenda (s : State) (c : Ctx) (n : Need) (fs : List Flight) : (s.commit c n fs).agenda = s.agenda := rfl
@[simp] theorem State.commit_cur (s : State) (c : Ctx) (n : Need) (fs : List Flight) : (s.commit c n fs).cur = s.cur := rfl
@[simp] theorem State.commit_stall (s : State) (c : Ctx) (n : Need) (fs : List Flight) : (s.commit c n fs).stall = s.stall := rfl
@[simp] theorem State.commit_tick (s : State) (c : Ctx) (n : Need) (fs : List Flight) : (s.commit c n fs).tick = s.tick := rfl
@[simp] theorem State.commit_clock (s : State) (c : Ctx) (n : Need) (fs : List Flight) : (s.commit c n fs).clock = s.clock := rfl
@[simp] theorem State.commit_gmem (s : State) (c : Ctx) (n : Need) (fs : List Flight) : (s.commit c n fs).gmem = s.gmem := rfl
@[simp] theorem State.commit_vmem (s : State) (c : Ctx) (n : Need) (fs : List Flight) : (s.commit c n fs).vmem = s.vmem := rfl
@[simp] theorem State.commit_tags (s : State) (c : Ctx) (n : Need) (fs : List Flight) : (s.commit c n fs).tags = s.tags := rfl
@[simp] theorem State.commit_gkeys (s : State) (c : Ctx) (n : Need) (fs : List Flight) : (s.commit c n fs).gkeys = s.gkeys := rfl
@[simp] theorem State.commit_vkeys (s : State) (c : Ctx) (n : Need) (fs : List Flight) : (s.commit c n fs).vkeys = s.vkeys := rfl
@[simp] theorem State.commit_nextKey (s : State) (c : Ctx) (n : Need) (fs : List Flight) : (s.commit c n fs).nextKey = s.nextKey := rfl
@[simp] theorem State.commit_poisonG (s : State) (c : Ctx) (n : Need) (fs : List Flight) : (s.commit c n fs).poisonG = s.poisonG := rfl
@[simp] theorem State.commit_poisonV (s : State) (c : Ctx) (n : Need) (fs : List Flight) : (s.commit c n fs).poisonV = s.poisonV := rfl
@[simp] theorem State.commit_poisonT (s : State) (c : Ctx) (n : Need) (fs : List Flight) : (s.commit c n fs).poisonT = s.poisonT := rfl
@[simp] theorem State.commit_poisonR (s : State) (c : Ctx) (n : Need) (fs : List Flight) : (s.commit c n fs).poisonR = s.poisonR := rfl
@[simp] theorem State.commit_corrected (s : State) (c : Ctx) (n : Need) (fs : List Flight) : (s.commit c n fs).corrected = s.corrected := rfl
@[simp] theorem State.commit_seqs (s : State) (c : Ctx) (n : Need) (fs : List Flight) : (s.commit c n fs).seqs = s.seqs := rfl
@[simp] theorem State.commit_subs (s : State) (c : Ctx) (n : Need) (fs : List Flight) : (s.commit c n fs).subs = s.subs := rfl
@[simp] theorem State.commit_pushes (s : State) (c : Ctx) (n : Need) (fs : List Flight) : (s.commit c n fs).pushes = s.pushes := rfl
@[simp] theorem State.commit_loads (s : State) (c : Ctx) (n : Need) (fs : List Flight) : (s.commit c n fs).loads = s.loads := rfl
@[simp] theorem State.commit_tlb (s : State) (c : Ctx) (n : Need) (fs : List Flight) : (s.commit c n fs).tlb = s.tlb := rfl
@[simp] theorem State.commit_icache (s : State) (c : Ctx) (n : Need) (fs : List Flight) : (s.commit c n fs).icache = s.icache := rfl
@[simp] theorem State.commit_arrivals (s : State) (c : Ctx) (n : Need) (fs : List Flight) : (s.commit c n fs).arrivals = s.arrivals := rfl
@[simp] theorem State.commit_cores (s : State) (c : Ctx) (n : Need) (fs : List Flight) : (s.commit c n fs).cores = s.cores := rfl
@[simp] theorem State.commit_cohorts (s : State) (c : Ctx) (n : Need) (fs : List Flight) : (s.commit c n fs).cohorts = s.cohorts := rfl
@[simp] theorem State.commit_launches (s : State) (c : Ctx) (n : Need) (fs : List Flight) : (s.commit c n fs).launches = s.launches := rfl
@[simp] theorem State.commit_saved (s : State) (c : Ctx) (n : Need) (fs : List Flight) : (s.commit c n fs).saved = s.saved := rfl
@[simp] theorem State.commit_parts (s : State) (c : Ctx) (n : Need) (fs : List Flight) : (s.commit c n fs).parts = s.parts := rfl
@[simp] theorem State.commit_channels (s : State) (c : Ctx) (n : Need) (fs : List Flight) : (s.commit c n fs).channels = s.channels := rfl
@[simp] theorem State.commit_syncs (s : State) (c : Ctx) (n : Need) (fs : List Flight) : (s.commit c n fs).syncs = s.syncs := rfl
@[simp] theorem State.commit_nextPart (s : State) (c : Ctx) (n : Need) (fs : List Flight) : (s.commit c n fs).nextPart = s.nextPart := rfl
@[simp] theorem State.commit_roots (s : State) (c : Ctx) (n : Need) (fs : List Flight) : (s.commit c n fs).roots = s.roots := rfl
@[simp] theorem State.commit_routes (s : State) (c : Ctx) (n : Need) (fs : List Flight) : (s.commit c n fs).routes = s.routes := rfl
@[simp] theorem State.commit_patches (s : State) (c : Ctx) (n : Need) (fs : List Flight) : (s.commit c n fs).patches = s.patches := rfl
@[simp] theorem State.commit_patchHash (s : State) (c : Ctx) (n : Need) (fs : List Flight) : (s.commit c n fs).patchHash = s.patchHash := rfl
@[simp] theorem State.commit_fwFaults (s : State) (c : Ctx) (n : Need) (fs : List Flight) : (s.commit c n fs).fwFaults = s.fwFaults := rfl
@[simp] theorem State.commit_hostq (s : State) (c : Ctx) (n : Need) (fs : List Flight) : (s.commit c n fs).hostq = s.hostq := rfl
@[simp] theorem State.commit_hostReplies (s : State) (c : Ctx) (n : Need) (fs : List Flight) : (s.commit c n fs).hostReplies = s.hostReplies := rfl
@[simp] theorem State.commit_hdmBase (s : State) (c : Ctx) (n : Need) (fs : List Flight) : (s.commit c n fs).hdmBase = s.hdmBase := rfl
@[simp] theorem State.commit_devPages (s : State) (c : Ctx) (n : Need) (fs : List Flight) : (s.commit c n fs).devPages = s.devPages := rfl
@[simp] theorem State.commit_gangs (s : State) (c : Ctx) (n : Need) (fs : List Flight) : (s.commit c n fs).gangs = s.gangs := rfl
@[simp] theorem State.commit_boot (s : State) (c : Ctx) (n : Need) (fs : List Flight) : (s.commit c n fs).boot = s.boot := rfl
@[simp] theorem State.commit_flash (s : State) (c : Ctx) (n : Need) (fs : List Flight) : (s.commit c n fs).flash = s.flash := rfl
@[simp] theorem State.commit_rollback (s : State) (c : Ctx) (n : Need) (fs : List Flight) : (s.commit c n fs).rollback = s.rollback := rfl
@[simp] theorem State.commit_reports (s : State) (c : Ctx) (n : Need) (fs : List Flight) : (s.commit c n fs).reports = s.reports := rfl
@[simp] theorem State.commit_signed (s : State) (c : Ctx) (n : Need) (fs : List Flight) : (s.commit c n fs).signed = s.signed := rfl
@[simp] theorem State.commit_mhz (s : State) (c : Ctx) (n : Need) (fs : List Flight) : (s.commit c n fs).mhz = s.mhz := rfl
@[simp] theorem State.commit_stalls (s : State) (c : Ctx) (n : Need) (fs : List Flight) : (s.commit c n fs).stalls = s.stalls := rfl
@[simp] theorem State.commit_links (s : State) (c : Ctx) (n : Need) (fs : List Flight) : (s.commit c n fs).links = s.links := rfl
@[simp] theorem State.commit_lost (s : State) (c : Ctx) (n : Need) (fs : List Flight) : (s.commit c n fs).lost = s.lost := rfl
@[simp] theorem State.commit_down (s : State) (c : Ctx) (n : Need) (fs : List Flight) : (s.commit c n fs).down = s.down := rfl
@[simp] theorem State.commit_debugReads (s : State) (c : Ctx) (n : Need) (fs : List Flight) : (s.commit c n fs).debugReads = s.debugReads := rfl
@[simp] theorem State.commit_uses (s : State) (c : Ctx) (n : Need) (fs : List Flight) : (s.commit c n fs).uses = s.uses := rfl
@[simp] theorem State.commit_rr (s : State) (c : Ctx) (n : Need) (fs : List Flight) : (s.commit c n fs).rr = s.rr := rfl
@[simp] theorem State.commit_pairs (s : State) (c : Ctx) (n : Need) (fs : List Flight) : (s.commit c n fs).pairs = s.pairs := rfl

@[simp] theorem State.modWave_waves (s : State) (k : Nat) (f : Wave → Wave) : (s.modWave k f).waves = s.waves.change k f := rfl
@[simp] theorem State.modCohort_cohorts (s : State) (k : Nat) (f : Cohort → Cohort) : (s.modCohort k f).cohorts = s.cohorts.change k f := rfl
@[simp] theorem State.modLaunch_launches (s : State) (k : Nat) (f : Launch → Launch) : (s.modLaunch k f).launches = s.launches.change k f := rfl
@[simp] theorem State.modCore_cores (s : State) (k : Nat) (f : Core → Core) : (s.modCore k f).cores = s.cores.change k f := rfl
@[simp] theorem State.modPart_parts (s : State) (k : Nat) (f : Partition → Partition) : (s.modPart k f).parts = s.parts.change k f := rfl

/-! ## `State.advance` -/

@[simp] theorem State.advance_agenda (s : State) : s.advance.agenda = s.agenda := rfl
@[simp] theorem State.advance_gmem (s : State) : s.advance.gmem = s.gmem := rfl
@[simp] theorem State.advance_vmem (s : State) : s.advance.vmem = s.vmem := rfl
@[simp] theorem State.advance_tags (s : State) : s.advance.tags = s.tags := rfl
@[simp] theorem State.advance_gkeys (s : State) : s.advance.gkeys = s.gkeys := rfl
@[simp] theorem State.advance_vkeys (s : State) : s.advance.vkeys = s.vkeys := rfl
@[simp] theorem State.advance_nextKey (s : State) : s.advance.nextKey = s.nextKey := rfl
@[simp] theorem State.advance_poisonG (s : State) : s.advance.poisonG = s.poisonG := rfl
@[simp] theorem State.advance_poisonV (s : State) : s.advance.poisonV = s.poisonV := rfl
@[simp] theorem State.advance_poisonT (s : State) : s.advance.poisonT = s.poisonT := rfl
@[simp] theorem State.advance_poisonR (s : State) : s.advance.poisonR = s.poisonR := rfl
@[simp] theorem State.advance_corrected (s : State) : s.advance.corrected = s.corrected := rfl
@[simp] theorem State.advance_seqs (s : State) : s.advance.seqs = s.seqs := rfl
@[simp] theorem State.advance_subs (s : State) : s.advance.subs = s.subs := rfl
@[simp] theorem State.advance_pushes (s : State) : s.advance.pushes = s.pushes := rfl
@[simp] theorem State.advance_loads (s : State) : s.advance.loads = s.loads := rfl
@[simp] theorem State.advance_tlb (s : State) : s.advance.tlb = s.tlb := rfl
@[simp] theorem State.advance_icache (s : State) : s.advance.icache = s.icache := rfl
@[simp] theorem State.advance_arrivals (s : State) : s.advance.arrivals = s.arrivals := rfl
@[simp] theorem State.advance_cores (s : State) : s.advance.cores = s.cores := rfl
@[simp] theorem State.advance_cohorts (s : State) : s.advance.cohorts = s.cohorts := rfl
@[simp] theorem State.advance_launches (s : State) : s.advance.launches = s.launches := rfl
@[simp] theorem State.advance_saved (s : State) : s.advance.saved = s.saved := rfl
@[simp] theorem State.advance_parts (s : State) : s.advance.parts = s.parts := rfl
@[simp] theorem State.advance_channels (s : State) : s.advance.channels = s.channels := rfl
@[simp] theorem State.advance_syncs (s : State) : s.advance.syncs = s.syncs := rfl
@[simp] theorem State.advance_nextPart (s : State) : s.advance.nextPart = s.nextPart := rfl
@[simp] theorem State.advance_roots (s : State) : s.advance.roots = s.roots := rfl
@[simp] theorem State.advance_routes (s : State) : s.advance.routes = s.routes := rfl
@[simp] theorem State.advance_patches (s : State) : s.advance.patches = s.patches := rfl
@[simp] theorem State.advance_patchHash (s : State) : s.advance.patchHash = s.patchHash := rfl
@[simp] theorem State.advance_fwFaults (s : State) : s.advance.fwFaults = s.fwFaults := rfl
@[simp] theorem State.advance_hostq (s : State) : s.advance.hostq = s.hostq := rfl
@[simp] theorem State.advance_hostReplies (s : State) : s.advance.hostReplies = s.hostReplies := rfl
@[simp] theorem State.advance_hdmBase (s : State) : s.advance.hdmBase = s.hdmBase := rfl
@[simp] theorem State.advance_devPages (s : State) : s.advance.devPages = s.devPages := rfl
@[simp] theorem State.advance_gangs (s : State) : s.advance.gangs = s.gangs := rfl
@[simp] theorem State.advance_boot (s : State) : s.advance.boot = s.boot := rfl
@[simp] theorem State.advance_flash (s : State) : s.advance.flash = s.flash := rfl
@[simp] theorem State.advance_rollback (s : State) : s.advance.rollback = s.rollback := rfl
@[simp] theorem State.advance_reports (s : State) : s.advance.reports = s.reports := rfl
@[simp] theorem State.advance_signed (s : State) : s.advance.signed = s.signed := rfl
@[simp] theorem State.advance_mhz (s : State) : s.advance.mhz = s.mhz := rfl
@[simp] theorem State.advance_links (s : State) : s.advance.links = s.links := rfl
@[simp] theorem State.advance_lost (s : State) : s.advance.lost = s.lost := rfl
@[simp] theorem State.advance_down (s : State) : s.advance.down = s.down := rfl
@[simp] theorem State.advance_debugReads (s : State) : s.advance.debugReads = s.debugReads := rfl
@[simp] theorem State.advance_uses (s : State) : s.advance.uses = s.uses := rfl
@[simp] theorem State.advance_rr (s : State) : s.advance.rr = s.rr := rfl
@[simp] theorem State.advance_pairs (s : State) : s.advance.pairs = s.pairs := rfl

end Sys2Proof.Machine
end

