-- ==== Sys2Proof/Laws/Issue.lean ====
section
/-! SUPPORT. The gate opens where an instruction may issue, and what an issue comes to. -/

namespace Sys2Proof.Machine

/-! ## The gate -/

theorem Ctx.runs_of_ready {c : Ctx} (h : c.ready = true) : c.runs = true := by
  simp only [Ctx.ready, Bool.and_eq_true] at h
  exact h.1.1.1

theorem State.gate_go {s : State} {c : Ctx} {n : Need} (h : MayIssue s c n) : s.gate n = .go c := by
  have h1 : c.r.flights.any (holdsBack c.r n) = false := by
    rw [List.any_eq_false]; intro f hf; simp [h.inOrder f hf]
  have h2 : (n.drains && c.r.flights.any fun f => f.state != .done) = false := by
    cases e : n.drains
    · rfl
    · rw [Bool.true_and, List.any_eq_false]; intro f hf; simp [h.landed e f hf]
  have h3 : (n.mem && acquiring c.r) = false := by
    cases e : n.mem
    · rfl
    · simp [h.acquired e]
  have h4 : n.all.any (overBudget c.w) = false := by
    rw [List.any_eq_false]; intro r hr; simp [h.budget r hr]
  have h5 : (if n.drains then none else offended c.r n) = none := by
    cases e : n.drains
    · simpa using h.distance e
    · rfl
  have h6 : n.all.any (undeclared c.w) = false := by
    rw [List.any_eq_false]; intro r hr; simp [h.tiles r hr]
  have h7 : (n.wide && partialStrand c) = false := by
    cases e : n.wide
    · rfl
    · simp [h.whole e]
  have h8 : (n.barrier && partialStrand c) = false := by
    cases e : n.barrier
    · rfl
    · simp [(h.met e).1]
  have h9 : (n.barrier && c.w.depth != 0) = false := by
    cases e : n.barrier
    · rfl
    · simp [(h.met e).2]
  simp [State.gate, h.selected, h.ready, Ctx.runs_of_ready h.ready, h.free, h.quadrant, h.untrapped, h1, h2, h3, h4, h5, h6, h7, h8, h9, h.word, h.windows, h.launch,
    h.mode, h.clean]

/-- WARN bits and the latency class do not bear on the gate. -/
theorem State.gate_same (s : State) (n : Need) (w : BitVec 8) (b : Bool) : s.gate { n with warn := w, later := b } = s.gate n := rfl

theorem MayIssue.same {s : State} {c : Ctx} {n : Need} (h : MayIssue s c n) (w : BitVec 8) (b : Bool) :
    MayIssue s c { n with warn := w, later := b } :=
  ⟨h.1, h.2, h.3, h.4, h.5, h.6, h.7, h.8, h.9, h.10, h.11, h.12, h.13, h.14, h.15, h.16, h.17, h.18, h.19⟩

theorem State.issue_go {s : State} {c : Ctx} {n : Need} (act : Ctx → Out) (h : MayIssue s c n) : s.issue n act = act c := by
  simp [State.issue, h.running, State.gate_go h]

theorem go_of_if {b : Bool} {x y : Gate} {c : Ctx} (h : (if b then x else y) = .go c) (hx : x ≠ .go c) : b = false ∧ y = .go c := by
  cases b
  · exact ⟨rfl, h⟩
  · exact absurd h hx

/-- What the gate lets go may issue. -/
theorem MayIssue.of_gate {s : State} {c : Ctx} {n : Need} (hd : s.down = false) (h : s.gate n = .go c) : MayIssue s c n := by
  unfold State.gate at h
  cases hc : s.ctx with
  | none => simp [hc] at h
  | some d =>
    rw [hc] at h
    obtain ⟨h1, h⟩ := go_of_if h (by simp)
    cases h2 : d.w.due with
    | some f => rw [h2] at h; cases h
    | none =>
      rw [h2] at h
      obtain ⟨h0, h⟩ := go_of_if h (by simp)
      obtain ⟨h3, h⟩ := go_of_if h (by simp)
      obtain ⟨h4, h⟩ := go_of_if h (by simp)
      obtain ⟨h5, h⟩ := go_of_if h (by simp)
      obtain ⟨h6, h⟩ := go_of_if h (by simp)
      obtain ⟨h7, h⟩ := go_of_if h (by simp)
      generalize h8 : (if n.drains then none else offended d.r n) = o at h
      cases o with
      | some f => cases h
      | none =>
        obtain ⟨h9, h⟩ := go_of_if h (by simp)
        obtain ⟨h10, h⟩ := go_of_if h (by simp)
        obtain ⟨hf, h⟩ := go_of_if h (by simp)
        obtain ⟨h11, h⟩ := go_of_if h (by simp)
        obtain ⟨h12, h⟩ := go_of_if h (by simp)
        obtain ⟨h13, h⟩ := go_of_if h (by simp)
        obtain ⟨h14, h⟩ := go_of_if h (by simp)
        cases h15 : poisoned s d n with
        | some k => rw [h15] at h; cases h
        | none =>
          rw [h15] at h
          obtain ⟨h16, h⟩ := go_of_if h (by simp)
          cases h
          rw [Bool.or_eq_false_iff] at h1
          rw [List.any_eq_false] at h3 h7 h14
          refine ⟨hd, hc, by simpa using h0, h1.2, h2, fun f hf => by simpa using h3 f hf, fun e f hf => ?_, fun e => by simpa [e] using h5,
            by simpa using h6, fun r hr => by simpa using h7 r hr, fun e => by simpa [e] using h8, h9, h10, hf, fun e => by simpa [e] using h11,
            fun e => ⟨by simpa [e] using h12, by simpa [e] using h16⟩, h13, fun r hr => by simpa using h14 r hr, h15⟩
          rw [e, Bool.true_and, List.any_eq_false] at h4
          simpa using h4 f hf

/-! ## Where an instruction finds itself -/

/-- What finding a strand says. -/
structure Stands (s : State) (c : Ctx) : Prop where
  wave : s.waves.find c.slot = some c.w
  run : c.w.run c.entry = some c.r
  cohort : s.cohorts.find c.w.cohort = some c.co
  launch : s.launches.find c.co.launch = some c.la
  levels : c.lv = c.w.levelsOf c.r

theorem State.ctxAt_stands {s : State} {slot entry : Nat} {c : Ctx} (h : s.ctxAt slot entry = some c) :
    c.slot = slot ∧ c.entry = entry ∧ Stands s c := by
  unfold State.ctxAt at h
  split at h
  · cases h
  · rename_i w hw
    split at h
    · cases h
    · rename_i r hr
      split at h
      · cases h
      · rename_i co hco
        split at h
        · cases h
        · rename_i la hla
          cases h
          exact ⟨rfl, rfl, hw, hr, hco, hla, rfl⟩

theorem State.ctx_stands {s : State} {c : Ctx} (h : s.ctx = some c) : Stands s c := by
  unfold State.ctx at h
  split at h
  · exact (State.ctxAt_stands h).2.2
  · cases h

/-! ## A strand in its wave -/

theorem Wave.run_setRun {w : Wave} {e : Nat} {r₀ : Run} (r : Run) (h : w.run e = some r₀) : (w.setRun e r).run e = some r := by
  unfold Wave.run at h
  unfold Wave.run Wave.setRun
  cases hw : w.lattice.find e with
  | none => simp [hw] at h
  | some x => simp [hw]

theorem Wave.lattice_setRun {w : Wave} (e : Nat) (r : Run) {k : Nat} (h : k ≠ e) : (w.setRun e r).lattice.find k = w.lattice.find k := by
  simp [Wave.setRun, FMap.find_change, h]

theorem Wave.frames_setRun {w : Wave} (e : Nat) (r : Run) :
    ((w.setRun e r).lattice.find e).map Entry.frames = (w.lattice.find e).map Entry.frames := by
  simp only [Wave.setRun, FMap.find_change_same, Option.map_map]
  rfl

/-! ## Register writes -/

/-- The write is to a register that `ws` names. -/
def Wr.within (ws : List RegName) : Wr → Prop
  | .v k _ _ => RegName.v k ∈ ws
  | .p k _ _ => k = 0 ∨ RegName.p k ∈ ws
  | .s k _ => RegName.s k ∈ ws
  | .q k _ => k = 0 ∨ RegName.q k ∈ ws
  | .x k _ => RegName.x k ∈ ws
  | .t k bs => RegName.t k ∈ ws ∧ ∀ b ∈ bs, b.1 < 16384
  | .fp _ => True
  | .skip _ => False

/-- The flags that writes add to FPSTAT. -/
def fpOf : List Wr → BitVec 6
  | [] => 0
  | .fp f :: t => f ||| fpOf t
  | _ :: t => fpOf t

theorem Untouched.refl (w : Wave) (r : Run) (ws : List RegName) : Untouched w r w r ws :=
  ⟨fun _ _ _ _ => rfl, fun _ _ => rfl, fun _ _ => rfl, fun _ _ => rfl, fun _ _ => rfl, fun _ _ _ _ => rfl⟩

theorem Untouched.trans {a b d : Wave} {p q r : Run} {ws : List RegName} (h : Untouched a p b q ws) (k : Untouched b q d r ws) :
    Untouched a p d r ws :=
  ⟨fun x l i n => (k.lane x l i n).trans (h.lane x l i n), fun x n => (k.pred x n).trans (h.pred x n),
   fun x n => (k.uni x n).trans (h.uni x n), fun x n => (k.upred x n).trans (h.upred x n),
   fun x n => (k.xlat x n).trans (h.xlat x n), fun t o i n => (k.tile t o i n).trans (h.tile t o i n)⟩

theorem Wave.vec_at (w : Wave) (n l : Nat) (h : l < 32) : (w.vec n).at l = w.lane n l := LaneVec.at_gen _ l h

theorem getLsbD_setBit {n : Nat} (v : BitVec n) (i k : Nat) (b : Bool) (h : k ≠ i) : (setBit v i b).getLsbD k = v.getLsbD k := by
  unfold setBit
  cases b
  · simp only [Bool.false_eq_true, if_false, BitVec.getLsbD_and, BitVec.getLsbD_not, BitVec.getLsbD_twoPow]
    by_cases hk : k < n
    · simp [hk, Ne.symm h]
    · simp [hk, BitVec.getLsbD_of_ge v k (by omega)]
  · simp only [if_true, BitVec.getLsbD_or, BitVec.getLsbD_twoPow]
    simp [Ne.symm h]

theorem getLsbD_setBit_same {n : Nat} (v : BitVec n) (i : Nat) (b : Bool) (h : i < n) : (setBit v i b).getLsbD i = b := by
  unfold setBit
  cases b <;> simp [h]

theorem tileAddr_inj {t u o p : Nat} (ho : o < 16384) (hp : p < 16384) (h : tileAddr t o = tileAddr u p) : t = u ∧ o = p := by
  unfold tileAddr at h; omega

theorem applyWr_untouched {ws : List RegName} (w : Wave) (r : Run) (x : Wr) (h : x.within ws) :
    Untouched w r (applyWr w r x).1 (applyWr w r x).2 ws := by
  cases x with
  | v n m x =>
    refine ⟨fun k l hl hk => ?_, fun _ _ => rfl, fun _ _ => rfl, fun _ _ => rfl, fun _ _ => rfl, fun _ _ _ _ => rfl⟩
    have hne : k ≠ n := fun e => hk (e ▸ h)
    simp only [applyWr, Wave.lane]
    rw [FMap.find_put_ne _ _ hne]
  | p n m x =>
    simp only [applyWr]
    split
    · exact Untouched.refl w r ws
    · rename_i hn
      refine ⟨fun _ _ _ _ => rfl, fun k hk => ?_, fun _ _ => rfl, fun _ _ => rfl, fun _ _ => rfl, fun _ _ _ _ => rfl⟩
      have hne : k ≠ n := fun e => hk (e ▸ h.resolve_left hn)
      simp only [Wave.pred]
      rw [FMap.find_put_ne _ _ hne]
  | s n x =>
    refine ⟨fun _ _ _ _ => ?_, fun _ _ => ?_, fun k hk => ?_, fun _ _ => ?_, fun _ _ => ?_, fun _ _ _ _ => ?_⟩ <;>
      simp only [applyWr]
    case refine_3 =>
      have hne : k ≠ n := fun e => hk (e ▸ h)
      by_cases hn : n < 48
      · simp only [hn, if_true, sreg, FMap.find_put_ne _ _ hne]
      · simp only [hn, if_false, sreg, FMap.find_put_ne _ _ hne]
    all_goals (split <;> rfl)
  | q n b =>
    simp only [applyWr]
    split
    · exact Untouched.refl w r ws
    · rename_i hn
      refine ⟨fun _ _ _ _ => rfl, fun _ _ => rfl, fun _ _ => rfl, fun k hk => ?_, fun _ _ => rfl, fun _ _ _ _ => rfl⟩
      have hne : k ≠ n := fun e => hk (e ▸ h.resolve_left hn)
      simp only [Run.qreg, getLsbD_setBit _ _ _ _ hne]
  | x n x =>
    refine ⟨fun _ _ _ _ => rfl, fun _ _ => rfl, fun _ _ => rfl, fun _ _ => rfl, fun k hk => ?_, fun _ _ _ _ => rfl⟩
    have hne : k ≠ n := fun e => hk (e ▸ h)
    simp only [applyWr, Wave.xreg]
    rw [FMap.find_put_ne _ _ hne]
  | t t bs =>
    refine ⟨fun _ _ _ _ => rfl, fun _ _ => rfl, fun _ _ => rfl, fun _ _ => rfl, fun _ _ => rfl, fun u o ho hu => ?_⟩
    simp only [applyWr]
    apply Memory.byte_setAll_ne
    intro y hy e
    obtain ⟨b, hb, rfl⟩ := List.mem_map.mp hy
    exact hu ((tileAddr_inj (h.2 b hb) ho e).1 ▸ h.1)
  | fp f => exact ⟨fun _ _ _ _ => rfl, fun _ _ => rfl, fun _ _ => rfl, fun _ _ => rfl, fun _ _ => rfl, fun _ _ _ _ => rfl⟩
  | skip n => exact h.elim

theorem applyWrs_untouched {ws : List RegName} : ∀ (xs : List Wr) (w : Wave) (r : Run), (∀ x ∈ xs, x.within ws) →
    Untouched w r (applyWrs w r xs).1 (applyWrs w r xs).2 ws
  | [], w, r, _ => Untouched.refl w r ws
  | x :: t, w, r, h =>
    (applyWr_untouched w r x (h x (by simp))).trans (applyWrs_untouched t _ _ fun y hy => h y (by simp [hy]))

/-- A lane register after a write of lane registers: in the lanes of the mask that live, the new value (R15, R106). -/
theorem lane_wr (w : Wave) (r : Run) (n : Nat) (m : Word) (x : LaneVec) (k l : Nat) (hl : l < 32) :
    (applyWr w r (.v n m x)).1.lane k l = if k = n ∧ (m &&& w.live).getLsbD l then x.at l else w.lane k l := by
  by_cases hk : k = n
  · subst hk
    simp only [applyWr, Wave.lane, FMap.find_put_same, LaneVec.at_merge _ _ _ _ hl, true_and]
    split
    · rfl
    · exact Wave.vec_at w k l hl
  · simp only [applyWr, Wave.lane, FMap.find_put_ne _ _ hk, hk, false_and, if_false]

/-- A lane predicate after a write of lane predicates; p0 discards (R69). -/
theorem pred_wr (w : Wave) (r : Run) (n : Nat) (m x : Word) (k l : Nat) (hl : l < 32) :
    ((applyWr w r (.p n m x)).1.pred k).getLsbD l =
      if k = n ∧ n ≠ 0 ∧ (m &&& w.live).getLsbD l then x.getLsbD l else (w.pred k).getLsbD l := by
  by_cases hn : n = 0
  · simp [applyWr, hn]
  · by_cases hk : k = n
    · subst hk
      have e : (applyWr w r (.p k m x)).1.pred k = (w.pred k &&& ~~~(m &&& w.live)) ||| (x &&& (m &&& w.live)) := by
        simp only [applyWr, hn, if_false, Wave.pred, FMap.find_put_same]
      rw [e]
      simp only [BitVec.getLsbD_or, BitVec.getLsbD_and, BitVec.getLsbD_not, hl, decide_true, Bool.true_and, true_and, ne_eq, hn,
        not_false_eq_true]
      cases m.getLsbD l <;> cases w.live.getLsbD l <;> simp
    · have e : (applyWr w r (.p n m x)).1.pred k = w.pred k := by
        simp only [applyWr, hn, if_false, Wave.pred]
        rw [FMap.find_put_ne _ _ hk]
      rw [e]
      simp [hk]

/-- What a register write leaves of the rest of its wave and strand. -/
structure Keeps (w₀ : Wave) (r₀ : Run) (w : Wave) (r : Run) (fp : BitVec 6) : Prop where
  wave : w.outside = w₀.outside
  run : r.outside = r₀.outside
  lattice : w.lattice = w₀.lattice
  live : w.live = w₀.live
  warn : w.warn = w₀.warn
  fpstat : w.fpstat = w₀.fpstat ||| fp
  pc : (r.pc, r.sub) = (r₀.pc, r₀.sub)
  flights : r.flights = r₀.flights
  dead : DeadKept w₀ w

theorem applyWr_keeps {ws : List RegName} (w : Wave) (r : Run) (x : Wr) (h : x.within ws) :
    Keeps w r (applyWr w r x).1 (applyWr w r x).2 (fpOf [x]) := by
  have z : w.fpstat = w.fpstat ||| 0#6 := by simp
  have dk : DeadKept w w := fun _ _ _ => ⟨fun _ => rfl, fun _ => rfl⟩
  cases x with
  | v n m x =>
    refine ⟨rfl, rfl, rfl, rfl, rfl, z, rfl, rfl, fun l hl hd => ⟨fun k => ?_, fun _ => rfl⟩⟩
    rw [lane_wr _ _ _ _ _ _ _ hl]
    simp [hd]
  | p n m x =>
    have d : DeadKept w (applyWr w r (.p n m x)).1 := fun l hl hd => ⟨fun k => by
        simp only [applyWr]; split <;> rfl, fun k => by rw [pred_wr _ _ _ _ _ _ _ hl]; simp [hd]⟩
    revert d
    simp only [applyWr]
    split <;> exact fun d => ⟨rfl, rfl, rfl, rfl, rfl, z, rfl, rfl, d⟩
  | s n x =>
    simp only [applyWr]
    split <;> exact ⟨rfl, rfl, rfl, rfl, rfl, z, rfl, rfl, fun _ _ _ => ⟨fun _ => rfl, fun _ => rfl⟩⟩
  | q n b =>
    simp only [applyWr]
    split <;> exact ⟨rfl, rfl, rfl, rfl, rfl, z, rfl, rfl, dk⟩
  | x n x => exact ⟨rfl, rfl, rfl, rfl, rfl, z, rfl, rfl, fun _ _ _ => ⟨fun _ => rfl, fun _ => rfl⟩⟩
  | t t bs => exact ⟨rfl, rfl, rfl, rfl, rfl, z, rfl, rfl, fun _ _ _ => ⟨fun _ => rfl, fun _ => rfl⟩⟩
  | fp f => exact ⟨rfl, rfl, rfl, rfl, rfl, by simp [applyWr, fpOf], rfl, rfl, fun _ _ _ => ⟨fun _ => rfl, fun _ => rfl⟩⟩
  | skip n => exact h.elim

theorem fpOf_cons (x : Wr) (t : List Wr) : fpOf (x :: t) = fpOf [x] ||| fpOf t := by
  cases x <;> simp [fpOf]

theorem applyWrs_keeps {ws : List RegName} : ∀ (xs : List Wr) (w : Wave) (r : Run), (∀ x ∈ xs, x.within ws) →
    Keeps w r (applyWrs w r xs).1 (applyWrs w r xs).2 (fpOf xs)
  | [], w, r, _ => ⟨rfl, rfl, rfl, rfl, rfl, by simp [applyWrs, fpOf], rfl, rfl, fun _ _ _ => ⟨fun _ => rfl, fun _ => rfl⟩⟩
  | x :: t, w, r, h => by
    have a := applyWr_keeps w r x (h x (by simp))
    have b := applyWrs_keeps t (applyWr w r x).1 (applyWr w r x).2 fun y hy => h y (by simp [hy])
    refine ⟨b.wave.trans a.wave, b.run.trans a.run, b.lattice.trans a.lattice, b.live.trans a.live, b.warn.trans a.warn, ?_,
      b.pc.trans a.pc, b.flights.trans a.flights, fun l hl hd => ?_⟩
    · rw [applyWrs, b.fpstat, a.fpstat, fpOf_cons x t, BitVec.or_assoc]
    · have e : (applyWr w r x).1.live.getLsbD l = false := by rw [a.live]; exact hd
      exact ⟨fun k => ((b.dead l hl e).1 k).trans ((a.dead l hl hd).1 k), fun k => ((b.dead l hl e).2 k).trans ((a.dead l hl hd).2 k)⟩

theorem applyWrs_issued : ∀ (xs : List Wr) (w : Wave) (r : Run), (applyWrs w r xs).1.issued = w.issued
  | [], _, _ => rfl
  | x :: t, w, r => by
    rw [applyWrs, applyWrs_issued t]
    cases x <;> simp only [applyWr] <;> (try split) <;> rfl

/-- Two waves and strands with the same registers. -/
structure SameRegs (w₀ : Wave) (r₀ : Run) (w : Wave) (r : Run) : Prop where
  v : w.v = w₀.v
  p : w.p = w₀.p
  s : w.s = w₀.s
  x : w.x = w₀.x
  t : w.tmem = w₀.tmem
  live : w.live = w₀.live
  priv : r.priv = r₀.priv
  q : r.q = r₀.q

theorem SameRegs.refl (w : Wave) (r : Run) : SameRegs w r w r := ⟨rfl, rfl, rfl, rfl, rfl, rfl, rfl, rfl⟩

theorem SameRegs.untouched {w₀ : Wave} {r₀ : Run} {w : Wave} {r : Run} (h : SameRegs w₀ r₀ w r) (ws : List RegName) :
    Untouched w₀ r₀ w r ws :=
  ⟨fun k l _ _ => by simp only [Wave.lane, h.v], fun k _ => by simp only [Wave.pred, h.p],
   fun k _ => by simp only [sreg, h.s, h.priv], fun k _ => by simp only [Run.qreg, h.q],
   fun k _ => by simp only [Wave.xreg, h.x], fun t o _ _ => by rw [h.t]⟩

theorem applyWr_same {w₀ w : Wave} {r₀ r : Run} (h : SameRegs w₀ r₀ w r) (x : Wr) :
    SameRegs (applyWr w₀ r₀ x).1 (applyWr w₀ r₀ x).2 (applyWr w r x).1 (applyWr w r x).2 := by
  obtain ⟨hv, hp, hs, hx, ht, hl, hr, hq⟩ := h
  cases x with
  | v n m x =>
    refine ⟨?_, hp, hs, hx, ht, hl, hr, hq⟩
    have e : w.vec n = w₀.vec n := by
      unfold Wave.vec
      congr 1
      funext l
      simp only [Wave.lane, hv]
    simp only [applyWr, hv, hl, e]
  | p n m x =>
    simp only [applyWr]
    split
    · exact ⟨hv, hp, hs, hx, ht, hl, hr, hq⟩
    · refine ⟨hv, ?_, hs, hx, ht, hl, hr, hq⟩
      simp only [Wave.pred, hp, hl]
  | s n x =>
    simp only [applyWr]
    split
    · exact ⟨hv, hp, by simp only [hs], hx, ht, hl, hr, hq⟩
    · exact ⟨hv, hp, hs, hx, ht, hl, by simp only [hr], hq⟩
  | q n b =>
    simp only [applyWr]
    split
    · exact ⟨hv, hp, hs, hx, ht, hl, hr, hq⟩
    · exact ⟨hv, hp, hs, hx, ht, hl, hr, by simp only [hq]⟩
  | x n x => exact ⟨hv, hp, hs, by simp only [applyWr, hx], ht, hl, hr, hq⟩
  | t t bs => exact ⟨hv, hp, hs, hx, by simp only [applyWr, ht], hl, hr, hq⟩
  | fp f => exact ⟨hv, hp, hs, hx, ht, hl, hr, hq⟩
  | skip n => exact ⟨hv, hp, hs, hx, ht, hl, hr, hq⟩

theorem applyWrs_same : ∀ (xs : List Wr) {w₀ w : Wave} {r₀ r : Run}, SameRegs w₀ r₀ w r →
    SameRegs (applyWrs w₀ r₀ xs).1 (applyWrs w₀ r₀ xs).2 (applyWrs w r xs).1 (applyWrs w r xs).2
  | [], _, _, _, _, h => h
  | x :: t, _, _, _, _, h => applyWrs_same t (applyWr_same h x)

/-! ## What an issue leaves -/

/-- The strand that an issue leaves at `pc`. -/
def Ctx.next (c : Ctx) (n : Need) (pc : Nat × Option (Nat × Nat)) (fs : List Flight) : Run :=
  { c.r with flights := (if n.drains then [] else c.r.count.flights) ++ fs, fromPc := c.r.pc, lastPc := c.r.recPc, pc := pc.1, sub := pc.2, park := none,
             lastSub := c.r.sub, passed := false }

theorem State.commitTo_wave (s : State) (c : Ctx) (n : Need) (pc : Nat × Option (Nat × Nat)) (fs : List Flight) :
    ∃ w, (s.commitTo c n pc fs).waves.find c.slot = some w ∧ w.lattice = (c.w.setRun c.entry (c.next n pc fs)).lattice ∧
      w.outside = c.w.outside ∧ SameRegs c.w c.r w (c.next n pc fs) ∧ w.warn = c.w.warn ||| n.warnBits ∧ w.fpstat = c.w.fpstat ∧
      w.issued = c.w.issued + 1 :=
  ⟨_, FMap.find_put_same _ _ _, rfl, rfl, ⟨rfl, rfl, rfl, rfl, rfl, rfl, rfl, rfl⟩, rfl, rfl, rfl⟩

/-- The strand and its wave after `commitTo` and register writes. -/
theorem State.commitTo_writes {s : State} {c : Ctx} (n : Need) (pc : Nat × Option (Nat × Nat)) (fs : List Flight) (xs : List Wr)
    {ws : List RegName} (h : Stands s c) (hw : ∀ x ∈ xs, x.within ws) :
    ∃ w r, let t := (s.commitTo c n pc fs).writeRegs c.slot c.entry xs
      t.outside = s.outside ∧ (∀ k, k ≠ c.slot → t.waves.find k = s.waves.find k) ∧ t.waves.find c.slot = some w ∧
      w.run c.entry = some r ∧ (∀ k, k ≠ c.entry → w.lattice.find k = c.w.lattice.find k) ∧
      (w.lattice.find c.entry).map Entry.frames = (c.w.lattice.find c.entry).map Entry.frames ∧
      (r.pc, r.sub) = pc ∧ SameRegs (applyWrs c.w c.r xs).1 (applyWrs c.w c.r xs).2 w r ∧ Untouched c.w c.r w r ws ∧ DeadKept c.w w ∧
      w.outside = c.w.outside ∧ r.outside = c.r.outside ∧ w.warn = c.w.warn ||| n.warnBits ∧ w.fpstat = c.w.fpstat ||| fpOf xs ∧
      r.flights = (if n.drains then [] else c.r.count.flights) ++ fs ∧ w.issued = c.w.issued + 1 := by
  obtain ⟨v, hv, hl, ho, hs, hwarn, hfp, hi⟩ := s.commitTo_wave c n pc fs
  have hrun : v.run c.entry = some (c.next n pc fs) := by
    have := Wave.run_setRun (c.next n pc fs) h.run
    unfold Wave.run at this ⊢
    rw [hl]; exact this
  have k := applyWrs_keeps xs v (c.next n pc fs) hw
  have u := applyWrs_untouched xs v (c.next n pc fs) hw
  have sm := applyWrs_same xs hs
  have hrun' : (applyWrs v (c.next n pc fs) xs).1.run c.entry = some (c.next n pc fs) := by
    unfold Wave.run; rw [k.lattice]; exact hrun
  have eq : (s.commitTo c n pc fs).writeRegs c.slot c.entry xs =
      { s.commitTo c n pc fs with
        waves := (s.commitTo c n pc fs).waves.put c.slot
          ((applyWrs v (c.next n pc fs) xs).1.setRun c.entry (applyWrs v (c.next n pc fs) xs).2),
        poisonR := if s.poisonR.isEmpty then [] else s.poisonR.filter fun g => !(xs.any fun a => (a.lanes c.slot).contains g),
        poisonT := if s.poisonT.isEmpty then [] else s.poisonT.filter fun g => !(g.1 == c.slot && xs.any fun a => a.granules.contains g.2) } := by
    unfold State.writeRegs
    rw [hv]
    simp only [hrun]
    rfl
  refine ⟨(applyWrs v (c.next n pc fs) xs).1.setRun c.entry (applyWrs v (c.next n pc fs) xs).2, (applyWrs v (c.next n pc fs) xs).2, ?_⟩
  rw [eq]
  refine ⟨rfl, fun j hj => ?_, FMap.find_put_same _ _ _, Wave.run_setRun _ hrun', fun j hj => ?_, ?_, k.pc, ?_, ?_, ?_, ?_, ?_, ?_, ?_, ?_, ?_⟩
  · have e1 : ∀ (w : Wave), FMap.find ((s.commitTo c n pc fs).waves.put c.slot w) j = s.waves.find j := fun w => by
      rw [FMap.find_put_ne _ _ hj]; exact FMap.find_put_ne _ _ hj
    exact e1 _
  · rw [Wave.lattice_setRun _ _ hj, k.lattice, hl, Wave.lattice_setRun _ _ hj]
  · rw [Wave.frames_setRun, k.lattice, hl, Wave.frames_setRun]
  · exact ⟨sm.v, sm.p, sm.s, sm.x, sm.t, sm.live, sm.priv, sm.q⟩
  · have a := (hs.untouched ws).trans u
    exact ⟨a.lane, a.pred, a.uni, a.upred, a.xlat, a.tile⟩
  · intro l hl hd
    have e : v.live.getLsbD l = false := by rw [hs.live]; exact hd
    refine ⟨fun j => ?_, fun j => ?_⟩
    · have := (k.dead l hl e).1 j
      have b : v.lane j l = c.w.lane j l := by simp only [Wave.lane, hs.v]
      exact this.trans b
    · have := (k.dead l hl e).2 j
      have b : v.pred j = c.w.pred j := by simp only [Wave.pred, hs.p]
      rw [b] at this
      exact this
  · exact k.wave.trans ho
  · exact k.run.trans rfl
  · exact k.warn.trans hwarn
  · exact k.fpstat.trans (by rw [hfp])
  · exact k.flights
  · exact (applyWrs_issued xs v (c.next n pc fs)).trans hi

end Sys2Proof.Machine
end

