-- ==== Sys2Proof/Laws/Results.lean ====
section
/-! SUPPORT. What an instruction of each latency class comes to when it may issue, and what its writes leave in the registers. -/

namespace Sys2Proof.Machine

/-! ## Class A, and results that come later -/

/-- An instruction that writes at issue. -/
theorem State.done_did {s : State} {c : Ctx} {n : Need} {xs : List Wr} (h : s.ctx = some c) (hw : ∀ x ∈ xs, x.within n.writes) :
    ∃ w r, Did s (s.done c n xs) c n n.writes [] (fpOf xs) w r ∧ SameRegs (applyWrs c.w c.r xs).1 (applyWrs c.w c.r xs).2 w r := by
  obtain ⟨w, r, h1, h2, h3, h4, h5, h6, h7, h8, h9, h10, h11, h12, h13, h14, h15, -⟩ :=
    State.commitTo_writes n (s.after c.r n.x) [] xs (State.ctx_stands h) hw
  exact ⟨w, r, ⟨h1, h2, h3, h4, h5, h6, h7, h9, h10, h11, h12, h13, h14, h15⟩, h8⟩

/-- An instruction whose results come later. -/
theorem State.commit_did {s : State} {c : Ctx} (n : Need) (fs : List Flight) (h : s.ctx = some c) :
    ∃ w r, Did s (s.commit c n fs) c n [] fs 0 w r ∧ SameRegs c.w c.r w r := by
  have st := State.ctx_stands h
  obtain ⟨w, e1, e2, e3, e4, e5, e6, -⟩ := s.commitTo_wave c n (s.after c.r n.x) fs
  have hr : w.run c.entry = some (c.next n (s.after c.r n.x) fs) := by
    have := Wave.run_setRun (c.next n (s.after c.r n.x) fs) st.run
    unfold Wave.run at this ⊢
    rw [e2]; exact this
  refine ⟨w, _, ⟨rfl, fun k hk => FMap.find_put_ne _ _ hk, e1, hr, fun k hk => ?_, ?_, rfl, e4.untouched _, ?_, e3, rfl, e5, ?_, rfl⟩, e4⟩
  · rw [e2, Wave.lattice_setRun _ _ hk]
  · rw [e2, Wave.frames_setRun]
  · intro l _ _
    exact ⟨fun k => by simp only [Wave.lane, e4.v], fun k => by simp only [Wave.pred, e4.p]⟩
  · simp [e6]

theorem execA_did {s : State} {c : Ctx} {n : Need} {f : Ctx → List Wr} (h : MayIssue s c n) (hw : ∀ x ∈ f c, x.within n.writes) :
    ∃ t w r, execA s n f = .next t ∧ Did s t c n n.writes [] (fpOf (f c)) w r ∧
      SameRegs (applyWrs c.w c.r (f c)).1 (applyWrs c.w c.r (f c)).2 w r := by
  obtain ⟨w, r, hd, hs⟩ := State.done_did (n := n) h.selected hw
  exact ⟨_, w, r, State.issue_go _ h, hd, hs⟩

/-- A class A instruction whose writes set no flag. -/
theorem didNow_of_execA {s : State} {c : Ctx} {i : Instr} {n : Need} {f : Ctx → List Wr} {P : State → Wave → Run → Prop}
    (e : exec i s = execA s n f) (h : MayIssue s c n) (hw : ∀ x ∈ f c, x.within n.writes) (hz : fpOf (f c) = 0)
    (hp : ∀ t w r, SameRegs (applyWrs c.w c.r (f c)).1 (applyWrs c.w c.r (f c)).2 w r → P t w r) : DidNow s c i n P := by
  obtain ⟨t, w, r, h1, h2, h3⟩ := execA_did h hw
  exact ⟨t, w, r, e.trans h1, hz ▸ h2, hp t w r h3⟩

theorem didLater_of_execB {s : State} {c : Ctx} {i : Instr} {n : Need} {f : Ctx → List Wr} {xs : List Wr} (e : exec i s = execB s n f)
    (h : MayIssue s c n) (hf : f c = xs) : DidLater s c i { n with later := true } .ready false xs := by
  obtain ⟨w, r, hd, -⟩ := State.commit_did { n with later := true } [Need.flight { n with later := true } c .ready (f c)] h.selected
  exact ⟨_, w, r, e.trans (State.issue_go _ (h.same n.warn true)), hf ▸ hd⟩

/-! ## Active lanes -/

/-- Active lanes live (R7, R15). -/
theorem Ctx.active_live (c : Ctx) (e : LExt) : c.active e &&& c.w.live = c.active e := by
  unfold Ctx.active
  ext i hi
  simp only [BitVec.getElem_and]
  cases c.w.live[i] <;> simp

theorem Ctx.smask_live (c : Ctx) : c.smask &&& c.w.live = c.smask := by
  unfold Ctx.smask
  rw [BitVec.and_assoc, BitVec.and_self]

/-! ## What the writes leave -/

theorem pairOf_words (x : DWord) : pairOf (loWord x) (hiWord x) = x := by
  unfold pairOf loWord hiWord
  ext i hi
  simp only [BitVec.getElem_append, BitVec.getElem_extractLsb']
  split
  · simp [BitVec.getLsbD, BitVec.getElem_eq_testBit_toNat]
  · rename_i h
    have : 32 + (i - 32) = i := by omega
    simp [this, BitVec.getLsbD, BitVec.getElem_eq_testBit_toNat]

theorem SameRegs.lanesAre {c : Ctx} {w : Wave} {r : Run} {d : BitVec 7} {m : Word} {f : Nat → Word} (hm : m &&& c.w.live = m)
    (h : SameRegs (applyWrs c.w c.r (wrV d m f)).1 (applyWrs c.w c.r (wrV d m f)).2 w r) : LanesAre c w d.toNat m f := by
  intro l hl
  have e : w.lane d.toNat l = (applyWr c.w c.r (.v d.toNat m (LaneVec.gen f))).1.lane d.toNat l := by
    simp only [Wave.lane, h.v]; rfl
  rw [e, lane_wr _ _ _ _ _ _ _ hl, hm, LaneVec.at_gen _ _ hl]
  simp

theorem SameRegs.pairsAre {c : Ctx} {w : Wave} {r : Run} {d : BitVec 7} {m : Word} {f : Nat → DWord} (hm : m &&& c.w.live = m)
    (h : SameRegs (applyWrs c.w c.r (wrPair d m f)).1 (applyWrs c.w c.r (wrPair d m f)).2 w r) : PairsAre c w d.toNat m f := by
  intro l hl
  have live1 : ∀ (x : LaneVec), (applyWr c.w c.r (.v d.toNat m x)).1.live = c.w.live := fun _ => rfl
  have e : ∀ k, w.lane k l = (applyWr (applyWr c.w c.r (.v d.toNat m (LaneVec.gen fun l => loWord (f l)))).1 c.r
      (.v (d.toNat + 1) m (LaneVec.gen fun l => hiWord (f l)))).1.lane k l := fun k => by
    simp only [Wave.lane, h.v]; rfl
  unfold Wave.pair
  rw [e, e, lane_wr _ _ _ _ _ _ _ hl, lane_wr _ _ _ _ _ _ _ hl, lane_wr _ _ _ _ _ _ _ hl, lane_wr _ _ _ _ _ _ _ hl, live1, hm,
    LaneVec.at_gen _ _ hl, LaneVec.at_gen _ _ hl]
  by_cases hb : m.getLsbD l = true
  · simp [hb, pairOf_words]
  · simp [hb]

theorem SameRegs.predIs {c : Ctx} {w : Wave} {r : Run} {d : BitVec 3} {m : Word} {f : Nat → Bool} (hm : m &&& c.w.live = m)
    (h : SameRegs (applyWrs c.w c.r (wrP d m f)).1 (applyWrs c.w c.r (wrP d m f)).2 w r) : PredIs c w d m f := by
  intro l hl
  have e : w.pred d.toNat = (applyWr c.w c.r (.p d.toNat m (maskOf f))).1.pred d.toNat := by
    simp only [Wave.pred, h.p]; rfl
  have z : d.toNat ≠ 0 ↔ d ≠ 0 := by
    constructor
    · intro h e; exact h (by rw [e]; rfl)
    · intro h e; exact h (BitVec.eq_of_toNat_eq e)
  rw [e, pred_wr _ _ _ _ _ _ _ hl, hm, maskOf_getLsbD _ _ hl]
  simp [z]

theorem sreg_wrS {w : Wave} {r : Run} (n : Nat) (x : DWord) : sreg (applyWr w r (.s n x)).1 (applyWr w r (.s n x)).2 n = x := by
  simp only [applyWr]
  by_cases hn : n < 48
  · simp [hn, sreg]
  · simp [hn, sreg]

theorem SameRegs.uni {w₀ w : Wave} {r₀ r : Run} (h : SameRegs w₀ r₀ w r) (k : Nat) : sreg w r k = sreg w₀ r₀ k := by
  simp only [sreg, h.s, h.priv]

theorem SameRegs.sIs {c : Ctx} {w : Wave} {r : Run} {d : BitVec 6} {x : DWord}
    (h : SameRegs (applyWrs c.w c.r (wrS d x)).1 (applyWrs c.w c.r (wrS d x)).2 w r) : sreg w r d.toNat = x :=
  (h.uni d.toNat).trans (sreg_wrS d.toNat x)

theorem SameRegs.qIs {c : Ctx} {w : Wave} {r : Run} {d : BitVec 3} {b : Bool}
    (h : SameRegs (applyWrs c.w c.r (wrQ d b)).1 (applyWrs c.w c.r (wrQ d b)).2 w r) : r.qreg d.toNat = (d == 0 || b) := by
  have e : r.qreg d.toNat = (applyWr c.w c.r (.q d.toNat b)).2.qreg d.toNat := by
    simp only [Run.qreg, h.q]; rfl
  rw [e]
  by_cases hd : d = 0
  · subst hd; simp [Run.qreg]
  · have z : d.toNat ≠ 0 := fun e => hd (BitVec.eq_of_toNat_eq e)
    simp only [applyWr, z, if_false, Run.qreg]
    rw [getLsbD_setBit_same _ _ _ d.isLt]
    have a : (d.toNat == 0) = false := by simpa using z
    have g : (d == 0) = false := beq_eq_false_iff_ne.mpr hd
    rw [a, g]

/-! ## Which writes lie within which names -/

theorem within_wrV (d : BitVec 7) (m : Word) (f : Nat → Word) : ∀ x ∈ wrV d m f, x.within (nv d) := by
  simp [wrV, nv, Wr.within]

theorem within_wrPair (d : BitVec 7) (m : Word) (f : Nat → DWord) : ∀ x ∈ wrPair d m f, x.within (nvs d 2) := by
  simp [wrPair, nvs, Wr.within, addrs]

theorem within_wrP (d : BitVec 3) (m : Word) (f : Nat → Bool) : ∀ x ∈ wrP d m f, x.within (dp d) := by
  simp only [wrP, dp, List.mem_singleton, forall_eq, Wr.within]
  by_cases h : d = 0
  · left; rw [h]; rfl
  · right; rw [if_neg h]; simp

theorem within_wrS (d : BitVec 6) (x : DWord) : ∀ y ∈ wrS d x, y.within (ns d) := by
  simp [wrS, ns, Wr.within]

theorem within_wrQ (d : BitVec 3) (b : Bool) : ∀ y ∈ wrQ d b, y.within (dq d) := by
  simp only [wrQ, dq, List.mem_singleton, forall_eq, Wr.within]
  by_cases h : d = 0
  · left; rw [h]; rfl
  · right; rw [if_neg h]; simp

end Sys2Proof.Machine
end

