-- ==== Sys2Proof/Laws/Global.lean ====
section
/-! SUPPORT. What an issue that also changes its wave comes to, and what a global instruction comes to when its lanes are translated. -/

namespace Sys2Proof.Machine

/-! ## An issue and a change of its wave -/

/-- A change of the issuing wave after an issue: the strand goes from `r` to `r'` and no register changes. -/
theorem Issued.modWave {pc : Nat × Option (Nat × Nat)} {g : State → State} {u u' : Wave → Wave} {h h' : Run → Run} {s t : State} {c : Ctx} {n : Need} {ws : List RegName}
    {fs : List Flight} {fp : BitVec 6} {w : Wave} {r : Run} (d : Issued pc g u h s t c n ws fs fp w r) (f : Wave → Wave) {w' : Wave} (e : f w = w')
    (r' : Run) (run : w'.run c.entry = some r') (strands : ∀ k, k ≠ c.entry → w'.lattice.find k = w.lattice.find k)
    (frames : (w'.lattice.find c.entry).map Entry.frames = (w.lattice.find c.entry).map Entry.frames) (regs : SameRegs w r w' r')
    (wave : w'.outside = (u' c.w).outside) (keep : r'.outside = (h' c.r).outside) (warn : w'.warn = w.warn)
    (fpstat : w'.fpstat = w.fpstat) (at_ : (r'.pc, r'.sub) = (r.pc, r.sub)) (flights : r'.flights = r.flights) :
    Issued pc g u' h' s (t.modWave c.slot f) c n ws fs fp w' r' where
  elsewhere := d.elsewhere
  others k hk := by
    show (t.waves.change c.slot f).find k = _
    rw [FMap.find_change_ne _ _ hk]; exact d.others k hk
  wave := by
    show (t.waves.change c.slot f).find c.slot = _
    rw [FMap.find_change_same, d.wave, Option.map_some, e]
  run := run
  strands k hk := (strands k hk).trans (d.strands k hk)
  frames := frames.trans d.frames
  pc := at_.trans d.pc
  regs := d.regs.trans (regs.untouched ws)
  dead l hl hd := ⟨fun k => by simp only [Wave.lane, regs.v]; exact (d.dead l hl hd).1 k,
    fun k => by simp only [Wave.pred, regs.p]; exact (d.dead l hl hd).2 k⟩
  keptWave := wave
  keptRun := keep
  warn := warn.trans d.warn
  fpstat := fpstat.trans d.fpstat
  flights := flights.trans d.flights

/-- The same for a change that leaves the strand alone. -/
theorem Issued.modWave_same {pc : Nat × Option (Nat × Nat)} {g : State → State} {u u' : Wave → Wave} {h : Run → Run} {s t : State} {c : Ctx} {n : Need} {ws : List RegName}
    {fs : List Flight} {fp : BitVec 6} {w : Wave} {r : Run} (d : Issued pc g u h s t c n ws fs fp w r) (f : Wave → Wave)
    {w' : Wave} (e : f w = w') (lattice : w'.lattice = w.lattice) (regs : SameRegs w r w' r)
    (wave : w'.outside = (u' c.w).outside) (warn : w'.warn = w.warn) (fpstat : w'.fpstat = w.fpstat) :
    Issued pc g u' h s (t.modWave c.slot f) c n ws fs fp w' r :=
  d.modWave f e r (by unfold Wave.run; rw [lattice]; exact d.run) (fun k _ => by rw [lattice]) (by rw [lattice]) regs wave d.keptRun warn fpstat rfl rfl

/-- A change of the strand alone that leaves its registers, PC and results in flight. -/
theorem Issued.setRun {pc : Nat × Option (Nat × Nat)} {g : State → State} {u : Wave → Wave} {h h' : Run → Run} {s t : State} {c : Ctx} {n : Need} {ws : List RegName}
    {fs : List Flight} {fp : BitVec 6} {w : Wave} {r : Run} (d : Issued pc g u h s t c n ws fs fp w r) (f : Run → Run)
    (keep : (f r).outside = (h' c.r).outside) (priv : (f r).priv = r.priv) (q : (f r).q = r.q) (at_ : ((f r).pc, (f r).sub) = (r.pc, r.sub))
    (flights : (f r).flights = r.flights) :
    Issued pc g u h' s (t.modWave c.slot fun w => match w.run c.entry with | some r => w.setRun c.entry (f r) | none => w) c n ws fs fp
      (w.setRun c.entry (f r)) (f r) := by
  have e : (fun w : Wave => match w.run c.entry with | some r => w.setRun c.entry (f r) | none => w) w = w.setRun c.entry (f r) := by
    simp only [d.run]
  exact d.modWave _ e (f r) (Wave.run_setRun _ d.run) (fun k hk => Wave.lattice_setRun _ _ hk) (Wave.frames_setRun _ _)
    ⟨rfl, rfl, rfl, rfl, rfl, rfl, priv, q⟩ d.keptWave keep rfl rfl at_ flights

/-- A change outside the waves. -/
theorem Issued.beside {pc : Nat × Option (Nat × Nat)} {g g' : State → State} {u : Wave → Wave} {h : Run → Run} {s t t' : State} {c : Ctx} {n : Need} {ws : List RegName}
    {fs : List Flight} {fp : BitVec 6} {w : Wave} {r : Run} (d : Issued pc g u h s t c n ws fs fp w r) (hw : t'.waves = t.waves)
    (ho : t'.outside = (g' s).outside) : Issued pc g' u h s t' c n ws fs fp w r :=
  { d with elsewhere := ho, others := fun k hk => by rw [hw]; exact d.others k hk, wave := by rw [hw]; exact d.wave }

/-- A wait that begins with the issue. -/
theorem State.waitFor_did {s : State} {c : Ctx} {n : Need} (fs : List Flight) (x : Wait) (h : s.ctx = some c) :
    ∃ w r, DidWith id id (fun r => { r with wait := some x }) s ((s.commit c n fs).waitFor c x) c n [] fs 0 w r := by
  obtain ⟨w, r, d, -⟩ := State.commit_did n fs h
  have k : ({ r with wait := some x } : Run).outside = ({ c.r with wait := some x } : Run).outside := by
    have := d.keptRun
    simp only [Run.outside, id] at this ⊢
    injection this
    simp_all
  exact ⟨_, _, d.setRun (fun r => { r with wait := some x }) k rfl rfl rfl rfl⟩

/-! ## Global instructions -/

theorem alignGlobal_none {ls : List Nat} {ea : Nat → Word} {land : Nat} {x : XReg} {off : Nat → Nat} {width : Nat}
    (h : ∀ l ∈ ls, (ea l).toNat % land = 0 ∧ (x.va (off l)).toNat % width = 0) : alignGlobal ls ea land x off width = none := by
  unfold alignGlobal
  rw [List.find?_eq_none.mpr (fun l hl => by simp [h l hl]), Option.map_none]

theorem vaultCheck_none {ls : List Nat} {ea : Nat → Word} {target : Word → Option Nat} {k : Nat}
    (h : ∀ l ∈ ls, (target (ea l)).isSome = true ∧ (ea l).toNat % k = 0) : vaultCheck ls ea target k = none := by
  unfold vaultCheck
  rw [List.find?_eq_none.mpr (fun l hl => by have := (h l hl).1; simp [Option.isSome_iff_ne_none.mp this])]
  simp only
  rw [List.find?_eq_none.mpr (fun l hl => by simp [(h l hl).2])]

/-- The translated access of a lane. -/
def GOp.acc (g : GOp) (s : State) (c : Ctx) (l : Nat) : GAcc :=
  ⟨l, g.off c l, s.xaccess c (c.w.xreg g.x.toNat) (g.off c l) g.width g.rd g.wr⟩

/-- A global instruction all of whose lanes are translated, in a launch that is not protected, acts for all of them. -/
theorem GOp.run_ready {g : GOp} {e : LExt} {s : State} {c : Ctx} {ps : Nat → List Piece} (h : MayIssue s c g.n) (hp : c.la.protect = false)
    (hk : c.r.park = none) (hs : (c.w.xreg g.x.toNat).stale = false)
    (hv : ∀ f, g.ea = some f → ∀ l ∈ lanesOf (c.active e),
      (if g.own then ownEA c.co (f c l) else s.vaultEA c.co c.la (f c l) true).isSome = true ∧ (f c l).toNat % g.land = 0)
    (hn : g.ea = none → g.own = false) (hl : g.ea = none → g.land = 1)
    (ha : ∀ l ∈ lanesOf (c.active e), ((c.w.xreg g.x.toNat).va (g.off c l)).toNat % g.align = 0)
    (hx : ∀ l ∈ lanesOf (c.active e), ∃ va, s.xaccess c (c.w.xreg g.x.toNat) (g.off c l) g.width g.rd g.wr = .ok va (ps l))
    (hh : g.host = true ∨ ∀ l ∈ lanesOf (c.active e), ∀ p ∈ ps l, isHost p.pa = false) (ho : g.hold s c = false)
    (ht : g.entry = true → lanesOf (c.active e) ≠ [] → c.w.canTake c.r.key = true) :
    g.run e s = .next (g.after (if (lanesOf (c.active e)).isEmpty then s.commit c g.n []
      else g.act ((s.commit c g.n []).putX c.slot g.x.toNat (c.w.xreg g.x.toNat)) c ((lanesOf (c.active e)).map (g.acc s c))) c) := by
  unfold GOp.run
  rw [State.issue_go _ h]
  have e1 : c.todo e = c.active e := by unfold Ctx.todo; rw [hk]
  have e2 : ∀ m f, c.shadow m f = none := fun m f => by unfold Ctx.shadow; rw [hp]; rfl
  have e3 : (s.gaccs c (c.w.xreg g.x.toNat) (lanesOf (c.active e)) (g.off c) g.width g.rd g.wr).map (fun a => if g.host then a else a.deviceOnly) =
      (lanesOf (c.active e)).map (g.acc s c) := by
    unfold State.gaccs
    rw [List.map_map]
    apply List.map_congr_left
    intro l hl
    rcases hh with hh | hh
    · simp [hh, GOp.acc]
    · obtain ⟨va, hva⟩ := hx l hl
      have : (ps l).any (fun p => isHost p.pa) = false := by
        rw [List.any_eq_false]; intro p hp; simp [hh l hl p hp]
      simp only [Function.comp, GOp.acc, GAcc.deviceOnly, hva, this]
      split <;> rfl
  have e4 : permOf ((lanesOf (c.active e)).map (g.acc s c)) = none := by
    unfold permOf
    rw [List.findSome?_eq_none_iff]
    intro a ha
    obtain ⟨l, hl, rfl⟩ := List.mem_map.mp ha
    obtain ⟨va, hva⟩ := hx l hl
    simp [GOp.acc, hva]
  have rdy : ∀ a ∈ (lanesOf (c.active e)).map (g.acc s c), a.ready = true := by
    intro a ha
    obtain ⟨l, hl, rfl⟩ := List.mem_map.mp ha
    obtain ⟨va, hva⟩ := hx l hl
    simp [GAcc.ready, GOp.acc, hva]
  have e5 : ((lanesOf (c.active e)).map (g.acc s c)).filter (fun a => a.ready && c.lead a.lane == a.lane) =
      (lanesOf (c.active e)).map (g.acc s c) := by
    rw [List.filter_eq_self]
    intro a ha
    rw [rdy a ha]
    simp [Ctx.lead, hp]
  have e6 : ((lanesOf (c.active e)).map (g.acc s c)).filter (fun a => !a.ready) = [] := by
    rw [List.filter_eq_nil_iff]
    intro a ha
    simp [rdy a ha]
  have e8 : (g.hold s c || (g.entry && !(lanesOf (c.active e)).isEmpty && !c.w.canTake c.r.key)) = false := by
    rw [ho, Bool.false_or]
    cases h5 : g.entry
    · rfl
    · cases h6 : lanesOf (c.active e) with
      | nil => rfl
      | cons l t => simp [ht h5 (by simp [h6])]
  have e7 : s.freshX c (c.w.xreg g.x.toNat) = c.w.xreg g.x.toNat := by unfold State.freshX; rw [hs]; rfl
  simp only [e1, e2]
  cases he : g.ea with
  | none =>
    rw [vaultCheck_none (fun l _ => by simp [hn he]), alignGlobal_none (fun l hl' => ⟨by simp [hl he], ha l hl'⟩)]
    simp only [e3, e4, e5, e6, e7, List.isEmpty_nil, List.isEmpty_map, e8, if_true, Bool.false_eq_true, if_false]
  | some f =>
    have h0 := fun l hl => hv f he l hl
    have h1 : vaultCheck (lanesOf (c.active e)) (f c) (fun x => if g.own then ownEA c.co x else if (some f).isSome then s.vaultEA c.co c.la x true
        else some 0) 1 = none := vaultCheck_none (fun l hl => ⟨by simpa using (h0 l hl).1, Nat.mod_one _⟩)
    simp only at h1 ⊢
    rw [h1, alignGlobal_none (fun l hl' => ⟨(h0 l hl').2, ha l hl'⟩)]
    simp only [e3, e4, e5, e6, e7, List.isEmpty_nil, List.isEmpty_map, e8, if_true, Bool.false_eq_true, if_false]

/-- Putting back the same translation register. -/
theorem State.putX_did {pc : Nat × Option (Nat × Nat)} {g : State → State} {u : Wave → Wave} {h : Run → Run} {s t : State} {c : Ctx} {n : Need} {ws : List RegName}
    {fs : List Flight} {fp : BitVec 6} {w : Wave} {r : Run} (d : Issued pc g u h s t c n ws fs fp w r) (k : Nat) :
    Issued pc g u h s (t.putX c.slot k (w.xreg k)) c n ws fs fp w r := by
  exact d.modWave_same _ (by simp) rfl (SameRegs.refl w r) d.keptWave rfl rfl

/-- The parts of a translated access are one for each page it touches. -/
theorem GAcc.parts_asks (c : Ctx) (a : GAcc) (id : Nat) (kind : PartKind) (data : List Byte) (m : Marks) (load : Option Nat) {va : DWord}
    {ps : List Piece} (h : a.x = .ok va ps) :
    (a.parts c id kind data m load).map Part.asks = asked a.lane kind m ps data ∧ Fresh c (a.parts c id kind data m load) := by
  unfold GAcc.parts; rw [h]; simp only
  have : ∀ (ps : List Piece) (r0 : List Part) (k : Nat), Fresh c r0 →
    let r := (ps.foldl (fun (r : List Part × Nat) p =>
      let q : Part :=
        { id := id + r.1.length, key := c.r.key, num := c.w.issued, covers := c.r.covers, jm := c.r.jm, lane := a.lane, kind := kind,
          pa := p.pa, va := va56 va + r.2, width := p.len, data := (data.drop r.2).take p.len, ord := p.t.ord, marks := m, mkey := p.t.key,
          load := load.map fun k => (k, r.2), sent := false, sentAt := 0, mates := [], rem := addrs 0 p.len, unacked := false }
      (r.1 ++ [q], r.2 + p.len)) (r0, k)).1
    r.map Part.asks = r0.map Part.asks ++ asked a.lane kind m ps (data.drop k) ∧ Fresh c r := by
    intro ps; induction ps with
    | nil => intro r0 k h; simp [asked, h]
    | cons p t ih =>
      intro r0 k h0
      simp only [List.foldl_cons]
      have h1 := ih (r0 ++ [{ id := id + r0.length, key := c.r.key, num := c.w.issued, covers := c.r.covers, jm := c.r.jm, lane := a.lane, kind := kind, pa := p.pa, va := va56 va + k, width := p.len, data := (data.drop k).take p.len, ord := p.t.ord, marks := m, mkey := p.t.key, load := load.map fun x => (x, k), sent := false, sentAt := 0, mates := [], rem := addrs 0 p.len, unacked := false }]) (k + p.len) (by
        intro q hq
        rcases List.mem_append.1 hq with hq | hq
        · exact h0 q hq
        · rw [List.mem_singleton.1 hq]; exact ⟨rfl, rfl, rfl, rfl, rfl⟩)
      refine ⟨?_, h1.2⟩
      rw [h1.1, List.map_append, List.append_assoc]
      simp [asked, Part.asks, List.drop_drop]
  have := this ps [] 0 (by intro _ h; cases h)
  simpa using this

/-- The parts of several lanes, lane after lane. -/
theorem State.gparts_asks (s : State) (c : Ctx) (ls : List Nat) (acc : Nat → GAcc) (hl : ∀ l, (acc l).lane = l) (ps : Nat → List Piece)
    (hx : ∀ l ∈ ls, ∃ va, (acc l).x = .ok va (ps l)) (kind : GAcc → PartKind) (data : GAcc → List Byte) (m : Marks) (f : GAcc → Nat → Nat → List Part)
    (hf : ∀ a i k, ∃ ld, f a i k = a.parts c i (kind a) (data a) m ld) (k : Nat) :
    (s.gparts (ls.map acc) f k).map Part.asks = ls.flatMap (fun l => asked l (kind (acc l)) m (ps l) (data (acc l))) ∧ Fresh c (s.gparts (ls.map acc) f k) := by
  unfold State.gparts
  suffices ∀ (n : Nat), ((List.zipIdx (ls.map acc) n).map fun x => f x.1 (s.nextPart + 2 * x.2) (k + x.2)).flatten.map Part.asks =
      ls.flatMap (fun l => asked l (kind (acc l)) m (ps l) (data (acc l))) ∧
      Fresh c ((List.zipIdx (ls.map acc) n).map fun x => f x.1 (s.nextPart + 2 * x.2) (k + x.2)).flatten from this 0
  induction ls with
  | nil => intro n; simp [Fresh]
  | cons l t ih =>
    intro n
    have h1 := ih (fun l hl => hx l (List.mem_cons_of_mem _ hl)) (n+1)
    obtain ⟨va, hva⟩ := hx l List.mem_cons_self
    obtain ⟨ld, hld⟩ := hf (acc l) (s.nextPart + 2 * n) (k + n)
    have h2 := GAcc.parts_asks c (acc l) (s.nextPart + 2 * n) (kind (acc l)) (data (acc l)) m ld hva
    simp only [List.map_cons, List.zipIdx_cons, List.flatten_cons, List.map_append, List.flatMap_cons, hld, h2.1, hl, h1.1, true_and]
    intro p hp
    rcases List.mem_append.1 hp with hp | hp
    · exact h2.2 p hp
    · exact h1.2 p hp

/-- The loads of several lanes. -/
theorem mkLoads_brings (s : State) (c : Ctx) (mask : Word) (ls : List Nat) (acc : Nat → GAcc) (hl : ∀ l, (acc l).lane = l) (ps : Nat → List Piece)
    (hx : ∀ l ∈ ls, ∃ va, (acc l).x = .ok va (ps l)) (ea : Nat → Word) (land width : Nat) (sx atomic acq : Bool) (k : Nat) :
    (mkLoads s c mask (ls.map acc) ea land width sx atomic acq k).map Load.brings =
      ls.map fun l => ((s.vaultEA c.co c.la (ea l) true).getD 0, land, width, sx, atomic, k, (ps l).length) := by
  unfold mkLoads
  rw [List.map_map]
  generalize s.freshLoad = z
  generalize hf : (Load.brings ∘ fun x : GAcc × Nat => _) = f
  have hb : ∀ l n, l ∈ ls → f (acc l, n) = ((s.vaultEA c.co c.la (ea l) true).getD 0, land, width, sx, atomic, k, (ps l).length) := by
    intro l n h
    obtain ⟨va, hva⟩ := hx l h
    subst hf
    simp [Load.brings, hl, hva]
  clear hf
  suffices ∀ n, (List.zipIdx (ls.map acc) n).map f = _ from this 0
  induction ls with
  | nil => intro n; rfl
  | cons l t ih =>
    intro n
    simp only [List.map_cons, List.zipIdx_cons, hb l n List.mem_cons_self,
      ih (fun l hl => hx l (List.mem_cons_of_mem _ hl)) (fun l n h => hb l n (List.mem_cons_of_mem _ h)) (n + 1)]

/-- What a strand's acquire marks wait for is added to it. -/
theorem State.addAcqs_did {pc : Nat × Option (Nat × Nat)} {g : State → State} {u : Wave → Wave} {h : Run → Run} {s t : State} {c : Ctx} {n : Need} {ws : List RegName}
    {fs : List Flight} {fp : BitVec 6} {w : Wave} {r : Run} (d : Issued pc g u h s t c n ws fs fp w r) (hh : r.outside = c.r.outside) (as : List Acq) :
    ∃ w' r', Issued pc g u (fun r => { r with acqs := r.acqs ++ as }) s (t.addAcqs c as) c n ws fs fp w' r' := by
  have k : ({ r with acqs := r.acqs ++ as } : Run).outside = ({ c.r with acqs := c.r.acqs ++ as } : Run).outside := by
      simp only [Run.outside] at hh ⊢
      injection hh
      simp_all
  unfold State.addAcqs
  split
  · rename_i h0
    have : as = [] := by simpa using h0
    subst this
    refine ⟨w, r, { d with keptRun := ?_ }⟩
    simpa using k
  · exact ⟨_, _, d.setRun (fun r => { r with acqs := r.acqs ++ as }) k rfl rfl rfl rfl⟩

end Sys2Proof.Machine
end

