-- ==== Sys2Proof/Machine/Image.lean ====
section
/-! DEFINITION. The module image, the loader's refusals (R335, R345, R346), and what the driver copies into a launch packet. None of it is state of
the module. -/

namespace Sys2Proof.Machine

/-! ## The module image (R345) -/

/-- An entry of the section table. -/
structure ImageSection where
  name   : List Byte
  kind   : Nat
  align  : Nat
  offset : Nat
  size   : Nat
deriving DecidableEq, Repr

/-- An entry of the kernel table. -/
structure ImageKernel where
  name   : List Byte
  start  : Nat
  extent : Nat
  entry  : Nat
  regs   : Nat
  tiles  : Nat
  clsz   : Nat
  kind   : Nat
  lanes  : Nat
  gslots : Nat
  vault  : Nat
deriving DecidableEq, Repr

/-- A module image: its header, its section table and its kernel table. -/
structure ModuleImage where
  magic    : Nat
  major    : Nat
  minor    : Nat
  sectOff  : Nat
  kernOff  : Nat
  name     : List Byte
  sections : List ImageSection
  kernels  : List ImageKernel
deriving DecidableEq, Repr

/-- Bytes `at_` to `at_ + n - 1` of a file. -/
def fileBytes (bs : List Byte) (at_ n : Nat) : List Byte := (bs.drop at_).take n

/-- The 48-byte section entry at an offset. -/
def sectionAt (bs : List Byte) (o : Nat) : ImageSection :=
  { name := fileBytes bs o 24, kind := field bs (o + 24) 1, align := field bs (o + 25) 1, offset := field bs (o + 32) 8, size := field bs (o + 40) 8 }

/-- The 64-byte kernel entry at an offset. -/
def kernelAt (bs : List Byte) (o : Nat) : ImageKernel :=
  { name := fileBytes bs o 24, start := field bs (o + 24) 8, extent := field bs (o + 32) 4, entry := field bs (o + 36) 4, regs := field bs (o + 40) 1,
    tiles := field bs (o + 41) 1, clsz := field bs (o + 42) 1, kind := field bs (o + 43) 1, lanes := field bs (o + 44) 2, gslots := field bs (o + 46) 1,
    vault := field bs (o + 48) 4 }

/-- The tables of a file lie inside it. -/
def tablesInside (bs : List Byte) : Bool :=
  decide (64 ≤ bs.length) && decide (field bs 16 8 + 48 * field bs 8 4 ≤ bs.length) && decide (field bs 24 8 + 64 * field bs 12 4 ≤ bs.length)

/-- The image in a file whose tables lie inside it. -/
def imageOf (bs : List Byte) : ModuleImage :=
  { magic := field bs 0 4, major := field bs 4 2, minor := field bs 6 2, sectOff := field bs 16 8, kernOff := field bs 24 8, name := fileBytes bs 32 32,
    sections := (List.range (field bs 8 4)).map fun k => sectionAt bs (field bs 16 8 + 48 * k),
    kernels := (List.range (field bs 12 4)).map fun k => kernelAt bs (field bs 24 8 + 64 * k) }

/-! ## The loader (R335, R346) -/

/-- Why the loader refuses an image (R346). -/
inductive LoadRefusal where
  | version | magic | reserved | outside | range
deriving DecidableEq, Repr

/-- The version of an image suits this part (R335). -/
def versionOk (major minor : Nat) : Bool :=
  major == Config.isaver.toNat / 2 ^ 48 && decide (minor ≤ Config.isaver.toNat % 2 ^ 48 / 2 ^ 32)

/-- A reserved byte of the tables is not zero (R345). -/
def reservedBad (bs : List Byte) (m : ModuleImage) : Bool :=
  ((List.range m.sections.length).any fun k => field bs (m.sectOff + 48 * k + 26) 6 != 0) ||
  (List.range m.kernels.length).any fun k => field bs (m.kernOff + 64 * k + 47) 1 != 0 || field bs (m.kernOff + 64 * k + 52) 12 != 0

/-- A section, or the extent of a kernel, lies outside a file of `n` bytes. -/
def ModuleImage.outside (m : ModuleImage) (n : Nat) : Bool :=
  (m.sections.any fun x => decide (n < x.offset + x.size)) ||
  m.kernels.any fun k => match m.sections with
    | t :: _ => decide (n < t.offset + k.start + k.extent)
    | [] => true

/-- The fields of a kernel lie in the ranges of their directives (R343). -/
def ImageKernel.inRange (k : ImageKernel) : Bool :=
  decide (2 ≤ k.regs) && decide (k.regs ≤ 16) && decide (k.tiles ≤ 8) && decide (1 ≤ k.clsz) && decide (k.clsz ≤ 16) && decide (k.kind < 4) &&
  decide (1 ≤ k.lanes) && decide (k.lanes ≤ 512) && decide (k.gslots ≤ 4) && decide (k.vault ≤ 0x5C0000)

/-- Every reason for which the loader refuses a file; it accepts a file without one (R346). -/
def loadRefusals (bs : List Byte) : List LoadRefusal :=
  let m := imageOf bs
  if !tablesInside bs then [.outside] else
  (if versionOk m.major m.minor then [] else [.version]) ++
  (if m.magic = 0x4C4D4E46 then [] else [.magic]) ++
  (if reservedBad bs m then [.reserved] else []) ++
  (if m.outside bs.length then [.outside] else []) ++
  (if m.kernels.all ImageKernel.inRange then [] else [.range])

/-- The image the loader accepts. -/
def loadImage (bs : List Byte) : Option ModuleImage := if loadRefusals bs = [] then some (imageOf bs) else none

/-- The fields that the driver copies from a kernel into a launch packet: bytes 26 to 31 and 36 to 39. `own` holds the distributor, gang, SERIAL and DEBUG
bits that the driver sets itself (R286, R346). -/
def ImageKernel.intoPacket (k : ImageKernel) (own : BitVec 4) (packet : List Byte) : List Byte :=
  packet.take 26 ++ leBytes 1 (own.toNat * 4 + k.kind % 4) ++ leBytes 1 k.regs ++ leBytes 1 k.tiles ++ leBytes 1 k.clsz ++ leBytes 2 k.lanes ++
  fileBytes packet 32 4 ++ leBytes 4 k.vault ++ packet.drop 40

end Sys2Proof.Machine
end

