-- ==== Sys2Proof/Machine/Assembler.lean ====
section
/-! DEFINITION. What the assembler computes, emits and refuses (R107, R338 to R344): expressions, the fields they fill, data, code words and the blocks of a
module. The module is given as data; how its text is cut into lines and tokens is the reader's of the source. -/

namespace Sys2Proof.Machine

/-! ## Expressions, data and code words (R338, R341 to R344) -/

/-- A name that an expression uses: an `.equ` constant, a CSR name or a label (R338, R342). -/
abbrev AsmName := List Byte

/-- Expressions (R342). Literals and names stand for their values. -/
inductive AsmExpr where
  | lit (n : Int)
  | name (x : AsmName)
  | neg (a : AsmExpr)
  | not (a : AsmExpr)
  | mul (a b : AsmExpr)
  | div (a b : AsmExpr)
  | mod (a b : AsmExpr)
  | add (a b : AsmExpr)
  | sub (a b : AsmExpr)
  | shl (a b : AsmExpr)
  | shr (a b : AsmExpr)
  | and (a b : AsmExpr)
  | xor (a b : AsmExpr)
  | or (a b : AsmExpr)
deriving DecidableEq, Repr

/-- The value of an expression over unbounded integers; none where the assembler refuses it: an unknown name, a division by zero, a negative shift count
(R342). -/
def AsmExpr.eval (env : List (AsmName × Int)) : AsmExpr → Option Int
  | .lit n => some n
  | .name x => (env.find? fun e => e.1 == x).map (·.2)
  | .neg a => (a.eval env).map fun x => -x
  | .not a => (a.eval env).map fun x => -x - 1
  | .mul a b => do some ((← a.eval env) * (← b.eval env))
  | .div a b => do
    let y ← b.eval env
    if y = 0 then none else some ((← a.eval env).tdiv y)
  | .mod a b => do
    let y ← b.eval env
    if y = 0 then none else some ((← a.eval env).tmod y)
  | .add a b => do some ((← a.eval env) + (← b.eval env))
  | .sub a b => do some ((← a.eval env) - (← b.eval env))
  | .shl a b => do
    let y ← b.eval env
    if y < 0 then none else some ((← a.eval env) * 2 ^ y.toNat)
  | .shr a b => do
    let y ← b.eval env
    if y < 0 then none else some ((← a.eval env).fdiv (2 ^ y.toNat))
  | .and a b => do some (Int.land (← a.eval env) (← b.eval env))
  | .xor a b => do some (Int.xor (← a.eval env) (← b.eval env))
  | .or a b => do some (Int.lor (← a.eval env) (← b.eval env))

/-- A name is defined twice, and so refused (R338). -/
def definedTwice (names : List AsmName) : Bool := decide (¬ names.Nodup)

/-- The bytes of one value of `.byte`, `.half`, `.word` and `.dword`, `n` bytes wide: from the signed minimum to the unsigned maximum, not wrapped
(R342, R343). -/
def dataBytes (n : Nat) (v : Int) : Option (List Byte) :=
  if -(2 ^ (8 * n - 1)) ≤ v ∧ v < 2 ^ (8 * n) then some (leBytes n (v.emod (2 ^ (8 * n))).toNat) else none

/-- The words the assembler emits for an instruction word and an extension word: the latter exactly when it is not 0 (R64, R341). -/
def emitted (w ext : Word) : List Word := if ext = 0 then [w &&& ~~~(0x40000000#32)] else [w ||| 0x40000000#32, ext]

/-- The words the assembler emits for an instruction. -/
def assembled (i : Instr) : Option (List Word) := i.toRaw.map fun r => emitted r.words.1 r.words.2

/-- The NOP word that `.align` pads code with (R343). -/
def nopWord : Word := 0x92000004

/-- The bytes from an offset to the next multiple of `a`: what `.align a` fills with NOP words in code and with zero bytes in data (R343). -/
def alignGap (a off : Nat) : Nat := (a - off % a) % a

/-- The header word of a function with `.budget n, wa` (R344). -/
def headerWord (n wa : Nat) : Option Word :=
  if 16 ≤ n ∧ n ≤ 128 ∧ n % 8 = 0 ∧ wa < 2 ^ 16 then some (BitVec.ofNat 32 (wa * 2 ^ 16 + n / 8)) else none

/-- What was written last before a `.func` (R344); padding of `.align` is disregarded. -/
inductive BeforeFunc where
  | instr (i : Instr)
  /-- A word of `.word` or `.dword`. -/
  | raw
  /-- The `.endfn` of another function. -/
  | endfn
deriving Repr

/-- The assembler accepts a `.func` there (R344). -/
def BeforeFunc.allows : BeforeFunc → Bool
  | .instr (.bra _ _) | .instr (.ret _ _) | .instr (.endStrand _) | .instr (.endarm _) | .endfn => true
  | .instr _ | .raw => false

/-! ## The fields that expressions and labels fill (R107, R339, R342) -/

/-- A field that a written operand fills with a value. -/
inductive AsmField where
  | imm16s | imm16z | amount | bitPos | bitLen | mask | pick | row | part
  | imm28s | imm28z | target | elseTarget | contTarget | offset | argOffset | lane | count | waves | engines | sel | code | csr
  | rows | rowBytes | layout | rowA | rowB | rowQ
deriving DecidableEq, Repr

/-- Where a field lies, and which values it holds. -/
structure FieldPlace where
  /-- In the extension word. -/
  ext    : Bool := true
  lo     : Nat := 0
  width  : Nat
  signed : Bool := false
  /-- The bytes one step of the field counts. -/
  unit   : Nat := 1
  /-- Counted from the address of the instruction word (R75). -/
  rel    : Bool := false
deriving DecidableEq, Repr

/-- The places of the fields (R75, R107, R113, R114, R153, R163, R164, R169, R170, R178, R217, R257, R259, R271, R272). -/
def AsmField.place : AsmField → FieldPlace
  | .imm16s => ⟨true, 0, 16, true, 1, false⟩
  | .imm16z | .code => ⟨true, 0, 16, false, 1, false⟩
  | .amount => ⟨false, 3, 5, false, 1, false⟩
  | .bitPos | .pick | .waves => ⟨true, 0, 5, false, 1, false⟩
  | .bitLen => ⟨true, 5, 6, false, 1, false⟩
  | .mask => ⟨true, 1, 7, false, 2, false⟩
  | .row => ⟨true, 0, 6, false, 1, false⟩
  | .part => ⟨true, 6, 2, false, 1, false⟩
  | .imm28s => ⟨true, 0, 28, true, 1, false⟩
  | .imm28z => ⟨true, 0, 28, false, 1, false⟩
  | .target => ⟨true, 0, 28, true, 4, true⟩
  | .elseTarget => ⟨true, 14, 14, true, 4, true⟩
  | .contTarget => ⟨true, 0, 14, true, 4, true⟩
  | .offset => ⟨true, 0, 20, true, 1, false⟩
  | .argOffset | .csr => ⟨true, 0, 12, false, 1, false⟩
  | .lane => ⟨true, 15, 5, false, 1, false⟩
  | .count => ⟨true, 0, 27, false, 1, false⟩
  | .engines => ⟨true, 5, 10, false, 1, false⟩
  | .sel => ⟨true, 0, 1, false, 1, false⟩
  | .rows => ⟨true, 2, 7, false, 1, false⟩
  | .rowBytes => ⟨true, 9, 5, false, 16, false⟩
  | .layout => ⟨true, 0, 4, false, 1, false⟩
  | .rowA => ⟨true, 4, 6, false, 1, false⟩
  | .rowB => ⟨true, 10, 6, false, 1, false⟩
  | .rowQ => ⟨true, 5, 6, false, 1, false⟩

/-- The fields that the operands of a lane instruction fill, by OP and F. -/
def laneFields (op f : Nat) : List AsmField :=
  match op with
  | 0x01 | 0x0A | 0x1C | 0x1D | 0x1F | 0x20 | 0x23 => [.imm16s]
  | 0x03 => if f = 7 then [.imm16s] else [.imm16z]
  | 0x05 => [.amount]
  | 0x06 => if 5 ≤ f then [.bitPos, .bitLen] else []
  | 0x0B => if f = 6 then [.mask] else []
  | 0x18 => if f ≤ 4 then [.pick] else []
  | 0x24 => [.row, .part]
  | _ => []

/-- The fields that the operands of a uniform instruction fill, by OP and F. -/
def uniFields (op f : Nat) : List AsmField :=
  match op, f with
  | 0x01, _ | 0x03, _ | 0x04, 0 => [.imm28s]
  | 0x04, 1 => [.imm28z]
  | 0x04, 3 => [.lane]
  | 0x05, 0 => [.argOffset]
  | 0x05, 1 | 0x05, 2 | 0x0B, 0 | 0x0D, 0 | 0x0D, 1 | 0x0D, 2 | 0x0D, 3 | 0x0E, 2 | 0x0E, 3 | 0x10, 0 | 0x11, 5 => [.offset]
  | 0x08, 0 | 0x08, 1 | 0x08, 2 | 0x08, 3 | 0x08, 7 => [.target]
  | 0x09, 0 => [.elseTarget, .contTarget]
  | 0x09, 1 => [.contTarget]
  | 0x0A, 0 => [.waves, .engines]
  | 0x0A, 1 | 0x0B, 1 => [.count]
  | 0x0A, 7 | 0x10, 2 => [.sel]
  | 0x0E, 0 => [.rows, .rowBytes]
  | 0x0E, 1 => [.layout]
  | 0x0F, 8 => [.rowA, .rowB]
  | 0x0F, 9 => [.rowQ]
  | 0x12, 0 => [.code]
  | 0x12, 2 | 0x12, 3 => [.csr]
  | _, _ => []

/-- The fields that the operands of an instruction fill. -/
def fieldsOf (w : Word) : List AsmField :=
  if w.getLsbD 31 then uniFields (w.extractLsb' 24 6).toNat (w.extractLsb' 0 6).toNat else laneFields (w.extractLsb' 24 6).toNat (w.extractLsb' 0 3).toNat

/-- The bits of a field for a value, `pc` being the offset of the instruction word; none where the value does not fit. It is never wrapped (R107, R342). -/
def AsmField.bits (f : AsmField) (pc : Nat) (v : Int) : Option Word :=
  let p := f.place
  let d := if p.rel then v - pc else v
  let n := d.fdiv p.unit
  let low : Int := if p.signed then -(2 ^ (p.width - 1)) else 0
  let high : Int := if p.signed then 2 ^ (p.width - 1) else 2 ^ p.width
  if d.emod p.unit = 0 ∧ low ≤ n ∧ n < high then some (BitVec.ofNat 32 ((n.emod (2 ^ p.width)).toNat * 2 ^ p.lo)) else none

/-- Writes a value into its field of an instruction word and an extension word whose field is 0; refused where the instruction has no such field. -/
def putField (env : List (AsmName × Int)) (pc : Nat) (ws : Word × Word) (fe : AsmField × AsmExpr) : Option (Word × Word) := do
  if (fieldsOf ws.1).contains fe.1 then
    let b ← fe.1.bits pc (← fe.2.eval env)
    some (if fe.1.place.ext then (ws.1, ws.2 ||| b) else (ws.1 ||| b, ws.2))
  else none

/-- The words of an instruction whose named fields stand at 0 in `i` and take the values of expressions. -/
def writtenWords (env : List (AsmName × Int)) (pc : Nat) (i : Instr) (fs : List (AsmField × AsmExpr)) : Option (List Word) := do
  let ws ← fs.foldlM (putField env pc) (← i.toRaw).words
  some (emitted ws.1 ws.2)

/-! ## Data (R343) -/

/-- A number of `.f32` or `.f64`: (−1)^neg × m × 10^e, an infinity or a NaN. -/
inductive AsmFloat where
  | nan
  | inf (neg : Bool)
  | dec (neg : Bool) (m : Nat) (e : Int)
deriving DecidableEq, Repr

/-- The bit pattern of a number: rounded RNE, with the canonical NaN (R88, R343). A quotient is taken to more bits than either format keeps, and what is left
below them is its sticky bit. -/
def AsmFloat.pattern (f : Fmt) : AsmFloat → Nat
  | .nan => f.nan
  | .inf neg => f.inf neg
  | .dec neg m (.ofNat e) => (f.round .ne false neg (m * 10 ^ e) 0).1
  | .dec neg m (.negSucc e) =>
    let sh := 4 * (e + 1) + 64
    (f.round .ne false neg (m * 2 ^ sh / 10 ^ (e + 1)) (-sh) (m * 2 ^ sh % 10 ^ (e + 1) != 0)).1

/-- A line of a data section. -/
inductive DataItem where
  | label (x : AsmName)
  | align (n : Nat)
  /-- `.byte`, `.half`, `.word` and `.dword`, by their bytes per value. -/
  | ints (bytes : Nat) (vs : List AsmExpr)
  /-- `.f32`, or `.f64` where `wide`. -/
  | floats (wide : Bool) (vs : List AsmFloat)
deriving DecidableEq, Repr

/-- `.align` takes a power of two from 1 to 4,096 (R343). -/
def alignOk (n : Nat) : Bool := (List.range 13).any fun k => n == 2 ^ k

/-- A directive of integers exists for that many bytes. -/
def intDirective (n : Nat) : Bool := n == 1 || n == 2 || n == 4 || n == 8

/-- The bytes a line takes at an offset of its section. -/
def DataItem.size (off : Nat) : DataItem → Nat
  | .label _ => 0
  | .align n => alignGap n off
  | .ints n vs => n * vs.length
  | .floats wide vs => (if wide then 8 else 4) * vs.length

/-- The bytes of a line at an offset of its section; none where the assembler refuses it. -/
def DataItem.bytes (env : List (AsmName × Int)) (off : Nat) : DataItem → Option (List Byte)
  | .label _ => some []
  | .align n => if alignOk n then some (List.replicate (alignGap n off) 0) else none
  | .ints n vs => if intDirective n then (vs.mapM fun (v : AsmExpr) => do dataBytes n (← v.eval env)).map List.flatten else none
  | .floats wide vs => some (vs.flatMap fun v => if wide then leBytes 8 (v.pattern fmt64) else leBytes 4 (v.pattern fmt32))

/-- The labels of a data section: each is its byte offset within the section (R342). -/
def dataLabels : Nat → List DataItem → List (AsmName × Int)
  | _, [] => []
  | off, .label x :: ds => (x, (off : Int)) :: dataLabels off ds
  | off, d :: ds => dataLabels (off + d.size off) ds

/-- The bytes of a data section. -/
def sectionBytes (env : List (AsmName × Int)) : Nat → List DataItem → Option (List Byte)
  | _, [] => some []
  | off, d :: ds => do some ((← d.bytes env off) ++ (← sectionBytes env (off + d.size off) ds))

/-! ## Kernels (R338, R342 to R344) -/

/-- A line of a `.kernel` block after its directives. -/
inductive AsmItem where
  | label (x : AsmName)
  /-- An instruction, with the fields that expressions fill standing at 0. -/
  | instr (i : Instr) (fields : List (AsmField × AsmExpr))
  | align (n : Nat)
  /-- A data directive: `.word` and `.dword` emit raw words, the others are refused. -/
  | data (d : DataItem)
  /-- `.func` with its `.budget`. -/
  | func (x : AsmName) (budget wa : Nat)
  | endfn
deriving DecidableEq, Repr

/-- How far the assembler has come in a kernel. -/
structure AsmAt where
  /-- Byte offset in `.text`. -/
  off    : Nat
  words  : List Word := []
  labels : List (AsmName × Int) := []
  /-- Labels that name the next instruction word (R338). -/
  ahead  : List AsmName := []
  /-- The largest `.align` so far. -/
  align  : Nat := 1
  /-- What was written last, NOP padding apart (R344). -/
  last   : Option BeforeFunc := none
  inFunc : Bool := false
  /-- Offset in `.text` of the first word written. -/
  entry  : Option Nat := none
deriving Repr

/-- Labels that wait for their word name the one that comes now. -/
def AsmAt.settle (a : AsmAt) : AsmAt := { a with labels := a.labels ++ a.ahead.map fun x => (x, (a.off : Int)), ahead := [] }

/-- Emits instruction words. -/
def AsmAt.emit (a : AsmAt) (ws : List Word) : AsmAt :=
  let b := if ws.isEmpty then a else a.settle
  { b with off := a.off + 4 * ws.length, words := a.words ++ ws }

/-- Emits words that count as written (R344). The first of them is the kernel's ENTRY, also after the NOP words of an `.align` (R345, log 121). -/
def AsmAt.write (a : AsmAt) (ws : List Word) (what : BeforeFunc) : AsmAt :=
  { a.emit ws with last := some what, entry := if a.entry.isNone then some a.off else a.entry }

/-- The group slot an instruction names (R179, R343). -/
def groupSlot : Instr → Option Nat
  | .gbar _ _ g => some g.toNat
  | _ => none

/-- The first register of a range an instruction names is not above the last (R339). -/
def rangeOk : Instr → Bool
  | .seal _ lo hi _ | .join _ lo hi _ => decide (lo.toNat ≤ hi.toNat)
  | _ => true

/-- An instruction is in ISA M.m: every one of this version's is in each minor of major 3, since a later minor changes none of them (R83, R343). -/
def inVersion (major : Nat) (i : Instr) : Bool := major == Config.isaver.toNat / 2 ^ 48 && i.toRaw.isSome

/-- The raw words of a value of `.word` and `.dword`: one or two, the low half first. -/
def rawWords (bytes : Nat) (v : Int) : Option (List Word) := do
  let bs ← dataBytes bytes v
  some ((List.range (bytes / 4)).map fun k => BitVec.ofNat 32 (field bs (4 * k) 4))

/-- One line of a kernel with `groups` slots in ISA major `major`; none where the assembler refuses it. -/
def AsmAt.line (env : List (AsmName × Int)) (major groups : Nat) (a : AsmAt) : AsmItem → Option AsmAt
  | .label x => some { a with ahead := a.ahead ++ [x] }
  | .instr i fs => do
    if inVersion major i && rangeOk i && (groupSlot i).all (· < groups) then some (a.write (← writtenWords env a.off i fs) (.instr i)) else none
  | .align n => if alignOk n then some { a.emit (List.replicate (alignGap n a.off / 4) nopWord) with align := max n a.align } else none
  | .data (.ints n vs) => do
    if n == 4 || n == 8 then
      let ws ← vs.mapM fun (v : AsmExpr) => do rawWords n (← v.eval env)
      some (a.write ws.flatten .raw)
    else none
  | .data _ => none
  | .func x n wa => do
    if !a.inFunc && a.last.any BeforeFunc.allows then
      let h ← headerWord n wa
      some { a with off := a.off + 4, words := a.words ++ [h], inFunc := true, labels := a.labels ++ [(x, (a.off : Int) + 4)] }
    else none
  | .endfn => if a.inFunc then some { a with inFunc := false, last := some .endfn } else none

/-- A `.kernel` block: its directives with their defaults, its `.equ` lines, whose expressions may use its code labels (R338, R342), and its other
lines (R343). The directives' numbers are finished numbers: R343 does not say that they may be expressions (log 120). -/
structure AsmKernel where
  name       : AsmName
  regs       : Option Nat := none
  tiles      : Nat := 0
  vault      : Nat := 0
  cohort     : Nat := 32
  cluster    : Nat := 1
  group      : Nat := 0
  persistent : Bool := false
  protectedK : Bool := false
  equs       : List (AsmName × AsmExpr) := []
  items      : List AsmItem
deriving DecidableEq, Repr

/-- A kernel's words, its entry of the kernel table, and the largest `.align` in it. -/
structure AsmCode where
  words : List Word
  entry : ImageKernel
  align : Nat
deriving DecidableEq, Repr

/-- Assembles a kernel whose extent starts at an offset of `.text` (R343, R345). ENTRY of a kernel without a written word is 0 (log 121). `env` holds the names of the
module and `labels` the kernel's own, which must come out as they were assumed, since the words' counts depend on the values (R341); other kernels' labels are
in neither, so that their use is refused (R338, R342). -/
def AsmKernel.assemble (k : AsmKernel) (env labels : List (AsmName × Int)) (major start : Nat) : Option AsmCode := do
  let regs ← k.regs
  let a := (← k.items.foldlM (AsmAt.line (labels ++ env) major k.group) { off := start }).settle
  let r : ImageKernel :=
    { name := k.name, start := start, extent := a.off - start, entry := a.entry.getD start - start, regs := regs / 8, tiles := k.tiles, clsz := k.cluster,
      kind := (if k.persistent then 1 else 0) + (if k.protectedK then 2 else 0), lanes := k.cohort, gslots := k.group, vault := k.vault }
  if regs % 8 = 0 && !a.inFunc && decide (a.labels = labels) && !definedTwice ((labels ++ env).map (·.1)) && r.inRange then some ⟨a.words, r, a.align⟩ else none

/-! ## Modules -/

/-- A module's source. A section that is opened again goes on, so `sections` holds each once. -/
structure AsmModule where
  /-- `.module`, which names the image. -/
  name     : AsmName
  /-- `.isa M.m`, without which a source is refused. -/
  isa      : Option (Nat × Nat)
  equs     : List (AsmName × AsmExpr)
  sections : List (AsmName × List DataItem)
  kernels  : List AsmKernel
deriving DecidableEq, Repr

/-- A name of ASCII characters. -/
def asmName (x : String) : AsmName := x.toList.map fun c => BitVec.ofNat 8 c.toNat

/-- The predefined CSR names (R171, R339). A name of four CSRs has the value of the first (log 115). -/
def csrNames : List (AsmName × Int) :=
  [(asmName "ISAVER", 0x000), (asmName "PATCHHASH", 0x001), (asmName "WAVEID", 0x010), (asmName "COHORTID", 0x011), (asmName "CLUSTERID", 0x012),
   (asmName "CLMEMB", 0x013), (asmName "GRIDDIM", 0x014), (asmName "PARTID", 0x015),
   (asmName "GSLOTS", 0x016), (asmName "GRANKS", 0x01A), (asmName "WARN", 0x020),
   (asmName "FPSTAT", 0x021), (asmName "FPMODE", 0x022), (asmName "CLOCK", 0x030), (asmName "SKIPCNT", 0x031), (asmName "SPLITSER", 0x032), (asmName "MMATOL", 0x040)]

/-- Adds the `.equ` names whose expressions have a value, as often as `n`; each expression also sees the labels beside it. -/
def resolve : Nat → List (AsmName × AsmExpr × List (AsmName × Int)) → List (AsmName × Int) → List (AsmName × Int)
  | 0, _, env => env
  | n + 1, es, env => resolve n es (es.foldl (fun v e =>
      if v.any fun x => x.1 == e.1 then v else
      match e.2.1.eval (e.2.2 ++ v) with
      | some k => v ++ [(e.1, k)]
      | none => v) env)

/-- The `.equ` lines of a module; one in a kernel sees that kernel's code labels (R338, R342). -/
def AsmModule.allEqus (m : AsmModule) (labels : List (List (AsmName × Int))) : List (AsmName × AsmExpr × List (AsmName × Int)) :=
  (m.equs.map fun e => (e.1, e.2, [])) ++ (m.kernels.zip labels).flatMap fun k => k.1.equs.map fun e => (e.1, e.2, k.2)

/-- The names visible throughout a module (R338), given the code labels of its kernels; none where one, a kernel or a section is defined twice or
an `.equ` has no value. Kernel names and section names are each held against their own kind alone (log 119). -/
def AsmModule.env (m : AsmModule) (labels : List (List (AsmName × Int))) : Option (List (AsmName × Int)) :=
  let base := csrNames ++ m.sections.flatMap fun x => dataLabels 0 x.2
  let equs := m.allEqus labels
  let env := resolve equs.length equs base
  let twice := definedTwice (base.map (·.1) ++ equs.map (·.1)) || definedTwice (m.kernels.map (·.name)) || definedTwice (m.sections.map (·.1))
  if !twice && equs.all fun e => env.any fun x => x.1 == e.1 then some env else none

/-- Assembles kernels one after another from an offset of `.text`, each with its own labels. -/
def assembleKernels (env : List (AsmName × Int)) (major : Nat) : Nat → List (AsmKernel × List (AsmName × Int)) → Option (List AsmCode)
  | _, [] => some []
  | start, (k, labels) :: ks => do
    let r ← k.assemble env labels major start
    some (r :: (← assembleKernels env major (start + 4 * r.words.length) ks))

/-- The bytes of a section, with its name, its KIND and its largest `.align`. -/
structure AsmSection where
  name  : AsmName
  kind  : Nat
  align : Nat
  bytes : List Byte
deriving DecidableEq, Repr

/-- The largest `.align` of a data section. -/
def dataAlign (ds : List DataItem) : Nat :=
  ds.foldl (fun a d => match d with
    | .align n => max n a
    | _ => a) 1

/-- The kernels and the sections of a module, the code section first, with the labels of each kernel in order; none where the assembler refuses the
source. -/
def AsmModule.assemble (m : AsmModule) (labels : List (List (AsmName × Int))) : Option (List AsmCode × List AsmSection) := do
  let (major, minor) ← m.isa
  let env ← m.env labels
  if labels.length = m.kernels.length ∧ major < 2 ^ 16 ∧ minor < 2 ^ 16 then
    let ks ← assembleKernels env major 0 (m.kernels.zip labels)
    let text : AsmSection :=
      ⟨asmName ".text", 0, ks.foldl (fun a k => max k.align a) 1, ks.flatMap fun k => k.words.flatMap bytesOfWord⟩
    some (ks, text :: (← m.sections.mapM fun x => do some ⟨x.1, 1, dataAlign x.2, ← sectionBytes env 0 x.2⟩))
  else none

/-! ## The module image (R345) -/

/-- A name padded with zero bytes; none where it is longer than its field. -/
def padName (n : Nat) (x : AsmName) : Option (List Byte) := if x.length ≤ n then some (x ++ List.replicate (n - x.length) 0) else none

/-- Gives sections their places in the file from an offset on, each at a multiple of its ALIGN (log 116). -/
def placeSections : Nat → List AsmSection → List (Nat × AsmSection)
  | _, [] => []
  | off, x :: xs => (off + alignGap x.align off, x) :: placeSections (off + alignGap x.align off + x.bytes.length) xs

/-- The bytes from an offset on of sections that have their places. -/
def placedBytes : Nat → List (Nat × AsmSection) → List Byte
  | _, [] => []
  | off, (at_, x) :: xs => List.replicate (at_ - off) 0 ++ x.bytes ++ placedBytes (at_ + x.bytes.length) xs

/-- A section's entry of the section table. -/
def sectionEntry (at_ : Nat) (x : AsmSection) : Option (List Byte) := do
  some ((← padName 24 x.name) ++ leBytes 1 x.kind ++ leBytes 1 x.align.log2 ++ List.replicate 6 0 ++ leBytes 8 at_ ++ leBytes 8 x.bytes.length)

/-- A kernel's entry of the kernel table; none where EXTENT or ENTRY does not fit (R342). -/
def kernelEntry (k : ImageKernel) : Option (List Byte) := do
  guard (k.extent < 2 ^ 32 ∧ k.entry < 2 ^ 32)
  some ((← padName 24 k.name) ++ leBytes 8 k.start ++ leBytes 4 k.extent ++ leBytes 4 k.entry ++ leBytes 1 k.regs ++ leBytes 1 k.tiles ++
    leBytes 1 k.clsz ++ leBytes 1 k.kind ++ leBytes 2 k.lanes ++ leBytes 1 k.gslots ++ [0] ++ leBytes 4 k.vault ++ List.replicate 12 0)

/-- The image of a module: the header, the section table, the kernel table and the sections in order (R345, log 116). -/
def AsmModule.image (m : AsmModule) (labels : List (List (AsmName × Int))) : Option (List Byte) := do
  let (major, minor) ← m.isa
  let (ks, sections) ← m.assemble labels
  let kernOff := 64 + 48 * sections.length
  let first := kernOff + 64 * ks.length
  let placed := placeSections first sections
  let header := leBytes 4 0x4C4D4E46 ++ leBytes 2 major ++ leBytes 2 minor ++ leBytes 4 sections.length ++ leBytes 4 ks.length ++ leBytes 8 64 ++
    leBytes 8 kernOff ++ (← padName 32 m.name)
  some (header ++ (← placed.mapM fun x => sectionEntry x.1 x.2).flatten ++ (← ks.mapM fun k => kernelEntry k.entry).flatten ++ placedBytes first placed)

end Sys2Proof.Machine
end

