-- ==== Sys2Proof/Tests/Slice0.lean ====
section
/-! SUPPORT. Tests of the model, each one step or one instruction on a small state: ill-formed terms are refused, words written out from the
manual's encodings decode, and concrete states and operands meet the hypotheses of each statement, clause by clause. -/

set_option Elab.async false

namespace Sys2Proof.Tests
open Machine

/-! ## A small state -/

/-- Lane values by lane number. -/
def lv (f : Nat → Nat) : LaneVec := LaneVec.gen fun l => BitVec.ofNat 32 (f l)

/-- The page of data of `State.bare`. -/
def dataPage : Trans := ⟨0x20000, 0x10000, 0x210000, .rc, true, true, false, 1⟩

/-- A wave that has issued nothing, with some values in its registers. -/
def demoWave : Wave :=
  { bareLaunch.wave 0 0 0 0xFF with
    v := [(1, lv (16 * ·)), (2, lv id), (3, lv (2 ^ 32 - 1 - ·)), (4, lv fun _ => 2 ^ 31), (6, lv fun l => if l = 0 then 0xC0800000 else 16 * l),
      (7, lv fun _ => 0xFFF0), (8, lv fun _ => 0x10008)],
    p := [(1, 0xAAAAAAAA)],
    s := [(1, 0x100), (2, 0x20000), (3, 1), (4, 0xFFFFFFFFFFFFFFFF), (5, 0x10008), (6, 0xF)],
    x := [(1, ⟨true, 0x20000, 0x10000, some dataPage, false⟩)], shape := [(3, 0x500), (4, 0x880), (5, 0x900), (6, 0x900), (7, 0x412)], layout := [(7, 0xF)] }

/-- Code words at their home: no extension word follows them; the word at 0x10004 is a function header (R174). VA 0x50000 has an entry of 0. -/
def withCode : State :=
  ([(0x200000, 0), (0x200004, 0x00020002), (0x200008, 0), (0x20000C, 0), (0x20FFFC, 0), (0x110028, 0), (0x11002C, 0)] : List (Nat × Nat)).foldl
    (fun s x => s.gputs 1 (placeWord x.1 x.2)) State.reset.bare
where
  placeWord (pa w : Nat) : List (Nat × Byte) := (addrs pa 4).zip (leBytes 4 w)

/-- One wave of one launch on core 0, its root strand about to issue. -/
def demo : State :=
  { State.reset.bare with gmem := withCode.gmem, gkeys := withCode.gkeys, cur := some (0, 0), waves := [(0, demoWave)], cores := [(0, ⟨0, [], [], [], []⟩), (1, ⟨0, [], [], [], []⟩)], tlb := [(0, [⟨0, 0x100000, ⟨0x10000, 0x10000, 0x200000, .so, true, true, false, 1⟩⟩, ⟨0, 0x100000, dataPage⟩])] }

/-- The strand that issues. -/
def strandOf (s : State) : Ctx :=
  match s.ctx with
  | some c => c
  | none => ⟨0, 0, demoWave, ⟨.root, none, 0, 0, 0, 0, [], 0, [], [], none, 0, 0, 0, 0, [], none, none, false, none, [], none, false⟩, bareCohort, bareLaunch, []⟩

abbrev c0 : Ctx := strandOf demo

/-- The vault address of an EA of the strand. -/
def vaOf (ea : Word) (write : Bool := false) : Nat := (demo.vaultEA c0.co c0.la ea write).getD 0

/-- The EA is one the strand may use, and aligned. -/
def eaOk (ea : Word) (write : Bool) (align : Nat) : Bool := (demo.vaultEA c0.co c0.la ea write).isSome && ea.toNat % align == 0

/-- The bytes are clean, of the own vault, and in no undrained entry of the strand. -/
def own (ea : Word) (width : Nat) : Bool :=
  !atomicBusy (c0.w.visible c0.r.key c0.w.issued) (vaOf ea) width && !demo.poisonedV (vaOf ea) width && vaOf ea / Config.vaultSpan == slotCore c0.slot

/-- The strand may issue what has these needs, decided. -/
def opens (s : State) (c : Ctx) (n : Need) : Bool := !s.down && decide (s.gate n = .go c)

theorem mayIssue {s : State} {c : Ctx} {n : Need} (h : opens s c n = true) : MayIssue s c n := by
  simp only [opens, Bool.and_eq_true, Bool.not_eq_true', decide_eq_true_eq] at h
  exact MayIssue.of_gate h.1 h.2

/-- Each of these instructions may issue and is well formed, decided. -/
def ready (s : State) (c : Ctx) (xs : List (Need × Instr)) : Bool := xs.all fun x => opens s c x.1 && x.2.wf

/-- The strand may issue the instruction and its words are well formed. -/
abbrev Issues (s : State) (c : Ctx) (x : Need × Instr) : Prop := MayIssue s c x.1 ∧ x.2.wf = true

theorem issues {s : State} {c : Ctx} {xs : List (Need × Instr)} (h : ready s c xs = true) : ∀ x ∈ xs, Issues s c x := fun x hx => by
  have := List.all_eq_true.1 h x hx
  rw [Bool.and_eq_true] at this
  exact ⟨mayIssue this.1, this.2⟩

/-- The outcome of an access of the strand through x1 at an offset. -/
def access (off width : Nat) (rd wr : Bool) : Xlate := demo.xaccess c0 (c0.w.xreg 1) off width rd wr

/-- The pieces of an access that is translated. -/
def piecesOf : Xlate → List Piece
  | .ok _ ps => ps
  | _ => []

/-- The access is translated. -/
def Xlate.isOk : Xlate → Bool
  | .ok _ _ => true
  | _ => false

theorem ok_of {x : Xlate} (h : Xlate.isOk x = true) : ∃ va, x = .ok va (piecesOf x) := by
  cases x <;> simp_all [Xlate.isOk, piecesOf]

/-- The small state with bytes in the vault of core 0. -/
def withVault (at_ : Nat) (bs : List Byte) : State := demo.vaultWrite ((addrs at_ bs.length).zip bs)

/-- Little-endian bytes of the fields of a descriptor, given as (width, value). -/
def fields (fs : List (Nat × Nat)) : List Byte := fs.flatMap fun f => leBytes f.1 f.2

/-- A result that is on its way. -/
def flightOf (st : FlightState) : Flight := { pc := 0x10000, recPc := 0x10000, left := 0, dests := [], state := st, writes := [], num := 0, acq := false }

/-- The small state with results in flight in its root strand. -/
def withFlights (fs : List Flight) : State := { demo with waves := [(0, { demoWave with lattice := [(0, ⟨[], some { c0.r with flights := fs }⟩)] })] }

theorem issues1 {s : State} {c : Ctx} {x : Need × Instr} (h : ready s c [x] = true) : Issues s c x := issues h x (List.mem_singleton.2 rfl)

theorem issuesAt {xs : List State} {c : Ctx} {x : Need × Instr} (h : xs.all (fun s => ready s c [x]) = true) : ∀ s ∈ xs, Issues s c x :=
  fun s hs => issues1 (List.all_eq_true.1 h s hs)

abbrev l0 : LExt := ⟨false, 0, false, 0, false⟩
/-- The guard p7 admits no lane. -/
abbrev lNone : LExt := ⟨true, 0, true, 7, false⟩
abbrev l1 : LExt := ⟨true, 15, true, 1, true⟩
abbrev u0 : UExt := ⟨false, 0⟩
abbrev u1 : UExt := ⟨true, 0⟩
abbrev o0 : Sys2Proof.Ordering := ⟨false, false, false, 0⟩

/-! ## Witnesses: lane arithmetic -/

theorem witness_TwoRegisterWordResults : ∀ x ∈ ([(.ofLane true l1 (nv 127 ++ nv 2) (nv 0), .iadd l1 0 127 2),
    (.ofLane true l0 (nv 1 ++ nv 1) (nv 1), .sar l0 1 1 1)] : List (Need × Instr)), Issues demo c0 x := issues (by decide +kernel)

theorem witness_OneRegisterFieldAndMoveResults : ∀ x ∈ ([(.ofLane true l1 (nv 1) (nv 127), .landImm l1 127 1 0xFFFF),
    (.ofLane true l0 (nv 3) (nv 3), .clz l0 3 3), (.ofLane true l1 (nv 1) (nv 127), .shlImm l1 127 1 31),
    (.ofLane true l1 (nv 1 ++ nv 2 ++ nv 3) (nv 1), .fshl l1 1 1 2 3), (.ofLane true l1 (nv 1 ++ nv 3) (nv 1), .fshrImm l1 1 1 31 3),
    ({ Need.ofLane true l1 (nv 1) (nv 2) with warn := 0x10 }, .bfx l1 2 1 31 32), ({ Need.ofLane true l1 (nv 1) (nv 2) with warn := 0 }, .bfxs l1 2 1 0 32),
    ({ Need.ofLane true l1 (nv 1 ++ nv 2) (nv 2) with warn := 0 }, .bfi l1 2 1 2 31 1), (.ofLane true l1 (nv 5) (nv 5), .movhi l1 5 0xFFFF),
    (.ofLane true l1 [] (nv 5), .movi l1 5 0x8000), (.ofLane true l1 (nv 1 ++ nv 2 ++ np 7) (nv 5), .sel l1 5 1 2 7),
    (.ofLane true l0 ((addrs 1 7).map RegName.p) (nv 5), .p2v l0 5), (.ofLane true l0 [] (nv 5), .laneid l0 5),
    (.ofLane true l1 [] (nv 127), .tid l1 127)] : List (Need × Instr)), Issues demo c0 x := issues (by decide +kernel)

theorem witness_LanePredicateResults : ∀ x ∈ ([(.ofLane true l1 (nv 1 ++ nv 3) (dp 7), .clt l1 7 1 3), (.ofLane true l0 (nv 1 ++ nv 3) (dp 0), .ceq l0 0 1 3),
    (.ofLane true l1 (nv 3) (dp 1), .cgtImm l1 1 3 0x8000), (.ofLane true l1 (nvs 126 2 ++ nvs 2 2) (dp 7), .icmp64 l1 7 126 2 7),
    (.ofLane true l1 (np 1 ++ np 7) (dp 1), .pxor l1 1 1 7), (.ofLane true l1 (np 1 ++ np 1) (dp 2), .pnot l1 2 1),
    (.ofLane true l1 (nv 3) (((addrs 1 7).filter fun i => (127 : BitVec 7).getLsbD (i - 1)).map RegName.p), .v2p l1 3 127)] : List (Need × Instr)),
    Issues demo c0 x := issues (by decide +kernel)

theorem witness_LanePairResults : ∀ x ∈ ([(.ofLane true l1 (nvs 126 2 ++ nvs 2 2) (nvs 126 2), .iadd64 l1 126 126 2),
    (.ofLane true l0 (nvs 4 2 ++ nv 3) (nvs 4 2), .sar64 l0 4 4 3), (.ofLane true l0 (nvs 4 2 ++ nvs 4 2) (nvs 6 2), .mov64 l0 6 4),
    (.ofLane true l1 (nv 3) (nvs 2 2), .sxtw l1 2 3)] : List (Need × Instr)), Issues demo c0 x := issues (by decide +kernel)

theorem witness_MultiplyAndDivideResults : ∀ x ∈ ([(.ofLane true l1 (nv 4 ++ nv 3) (nv 4), .idiv l1 4 4 3),
    (.ofLane true l1 (nv 4 ++ nv 3 ++ nv 4) (nv 4), .imad l1 4 4 3 4), (.ofLane true l1 (nv 4 ++ nv 3) (nvs 126 2), .imulw l1 126 4 3),
    (.ofLane true l1 (nv 4 ++ nv 3 ++ nvs 126 2) (nvs 126 2), .imadw l1 126 4 3 126), (.ofLane true l0 (nvs 2 2 ++ nvs 4 2) (nvs 4 2), .imul64 l0 4 2 4)] :
    List (Need × Instr)), Issues demo c0 x := issues (by decide +kernel)

theorem witness_FloatArithmeticResults : ∀ x ∈ ([({ Need.ofLane true l1 (Fk.f64.names [4, 126]) (nvs 126 Fk.f64.regs) with warn := 1 }, .faddF64 l1 126 4 126 7),
    ({ Need.ofLane true l0 (Fk.f32.names [1, 3]) (nvs 3 Fk.f32.regs) with warn := 0 }, .fsubF32 l0 3 1 3 0),
    ({ Need.ofLane true l1 (Fk.f16x2.names [1, 3]) (nvs 3 Fk.f16x2.regs) with warn := 0 }, .fmulF16x2 l1 3 1 3 4),
    ({ Need.ofLane true l1 (Fk.bf16x2.names [1, 3, 4]) (nvs 3 Fk.bf16x2.regs) with warn := 1 }, .ffmaBf16x2 l1 3 1 3 4 5),
    ({ Need.ofLane true l0 (Fk.f64.names [4, 126]) (nvs 126 Fk.f64.regs) with warn := 0 }, .fdivF64 l0 126 4 126 0),
    ({ Need.ofLane true l0 (Fk.f32.names [4]) (nvs 4 Fk.f32.regs) with warn := 0 }, .fsqrtF32 l0 4 4 0),
    ({ Need.ofLane true l0 (Fk.f32.names [4]) (nvs 4 Fk.f32.regs) with warn := 0 }, .frcpF32 l0 4 4 0),
    ({ Need.ofLane true l0 (Fk.f64.names [4]) (nvs 4 Fk.f64.regs) with warn := 0 }, .frsqF64 l0 4 4 0)] : List (Need × Instr)), Issues demo c0 x :=
  issues (by decide +kernel)

theorem witness_FloatSelectionTestAndConversionResults :
    ∀ x ∈ ([({ Need.ofLane true l1 (Fk.f64.names [4, 126]) (nvs 126 Fk.f64.regs) with warn := 1 }, .fminF64 l1 126 4 126 7),
    ({ Need.ofLane true l0 (Fk.f32.names [1, 3]) (nvs 3 Fk.f32.regs) with warn := 0 }, .fmaxF32 l0 3 1 3 0),
    ({ Need.ofLane true l1 (Fk.f16x2.names [3]) (nvs 3 Fk.f16x2.regs) with warn := 1 }, .fabsF16x2 l1 3 3 1),
    ({ Need.ofLane true l1 (Fk.bf16x2.names [3]) (nvs 3 Fk.bf16x2.regs) with warn := 0 }, .fnegBf16x2 l1 3 3 0),
    ({ Need.ofLane true l1 (Fk.f32.names [3]) (nvs 3 Fk.f32.regs) with warn := 0 }, .ffloorF32 l1 3 3 0),
    ({ Need.ofLane true l1 (Fk.f32.names [3]) (nvs 3 Fk.f32.regs) with warn := 0 }, .fceilF32 l1 3 3 0),
    ({ Need.ofLane true l1 (Fk.f32.names [3]) (nvs 3 Fk.f32.regs) with warn := 0 }, .ftruncF32 l1 3 3 0),
    ({ Need.ofLane true l1 (Fk.f32.names [3]) (nvs 3 Fk.f32.regs) with warn := 1 }, .frintF32 l1 3 3 5),
    ({ Need.ofLane true l1 (Fk.f16x2.names [1, 3]) [.p 6, .p 7] with warn := 0 }, .fcmpF16x2 l1 6 1 3 7 0),
    ({ Need.ofLane true l1 (Fk.f64.names [4]) (nv 127) with warn := 0 }, .fclassF64 l1 127 4 0),
    (.ofLane true l1 (nv 1) (nv 127), .fexp2 l1 127 1), (.ofLane true l1 (nv 1) (nv 127), .ftanh l1 127 1),
    ({ Need.ofLane true l1 (nvw 4 (wide 0)) (nvw 1 (wide 1)) with warn := 0 }, .cvt l1 1 4 0 1 0),
    ({ Need.ofLane true l1 (nvw 4 (wide 1)) (nvw 1 (wide 2)) with warn := 0 }, .cvtSat l1 1 4 1 2 0)] : List (Need × Instr)), Issues demo c0 x :=
  issues (by decide +kernel)

theorem witness_SpecialOperandResults : (FVal.nan true).isNan = true ∧ (FVal.inf false).isNan = false ∧ (1 : Nat) ≠ 0 := by decide

/-! ## Witnesses: lane exchange and irregular work -/

theorem witness_ShuffleVoteAndGatherResults : (∀ x ∈ ([(.ofLane true l1 (nvw 126 true ++ []) (nvw 126 true), .shfl l1 126 126 0 31 true true),
    (.ofLane true l0 (nvw 1 false ++ nv 3) (nvw 2 false), .shflup l0 2 1 3 0 false false), (.ofLane true l1 (nvw 1 false) (nvw 2 false), .bcast l1 2 1 31 false false),
    (.ofLane true l1 (nvw 1 false) (nvw 2 false), .bcast l1 2 1 0 false true), (.ofLane true l1 (np 1) (dp 7), .vote l1 7 1 2),
    (.ofLane true l1 (np 1) (nv 127), .vote l1 127 1 3),
    ({ Need.ofLane true l1 (nvs 8 4 ++ nv 2) (nvw 127 (0 == 3)) with badLaunch := fun la => la.protect }, .gathg l1 127 8 2 0 true)] :
    List (Need × Instr)), Issues demo c0 x) ∧ (c0.shadow (c0.active l0) fun x y => c0.p 1 x == c0.p 1 y) = none ∧
    ∀ l, l < 32 → (c0.active l1).getLsbD l = true → (c0.v 2 l).toNat < 128 → (c0.v 2 l).toNat % 2 ^ 0 = 0 := ⟨issues (by decide +kernel), by decide +kernel⟩

theorem witness_ReductionAndScanResults : (∀ x ∈ ([(.ofLane true l1 (nvw 126 true) (nvw 126 true), .redadd l1 126 126 true),
    (.ofLane true l0 (nvw 1 false) (nvw 2 false), .scanx l0 2 1 false), (.ofLane true l1 (nvw 3 false) (nvw 2 false), .redmax l1 2 3 false true),
    (.ofLane true l1 (nvw 4 true) (nvw 4 true), .redaddF64 l1 4 4), (.ofLane true l0 (nvw 3 false) (nvw 3 false), .scanF32 l0 3 3)] : List (Need × Instr)),
    Issues demo c0 x) ∧ (redLt true true = redLt true true ∧ [(0, (0 : DWord))] ≠ []) := ⟨issues (by decide +kernel), rfl, by decide⟩

theorem witness_IrregularWorkResults : ∀ x ∈ ([(.ofLane true l1 (nvw 126 true) (nv 127), .confl l1 127 126 true), (.ofLane true l0 (nv 1 ++ nv 2) (nvs 2 2), .rebal l0 2 1 2),
    (.ofLane true l1 (nvw 1 false ++ np 1) (nvw 2 false), .compact l1 2 1 1 false), (.ofLane true l1 (nvw 4 true ++ np 7) (nvw 126 true), .expand l1 126 4 7 true),
    (.ofLane true l1 (nv 1 ++ nv 2 ++ np 1 ++ np 0) (nvs 126 2 ++ dp 7), .mrgu l1 126 1 2 1 0 7),
    (.ofLane true l1 (nv 1 ++ nv 2 ++ np 1 ++ np 0) (nvs 126 2 ++ dp 0), .mrgi l1 126 1 2 1 0 0)] : List (Need × Instr)), Issues demo c0 x :=
  issues (by decide +kernel)

/-! ## Witnesses: vault memory -/

/-- A vault read of `width` bytes on its way, into v4. -/
def readOf (todo : List (Nat × Nat × Word)) (clear : Bool) : VaultRead := ⟨0, todo, [], 16, 4, 4, false, false, false, false, clear, [], 0⟩

/-- The small state with this read in flight. -/
def reads (todo : List (Nat × Nat × Word)) (clear : Bool) : State := withFlights [flightOf (.reading (readOf todo clear))]

/-- Its strand, the read and its first access are what the statements name. -/
def readFound (s : State) (todo : List (Nat × Nat × Word)) (clear : Bool) (j : Nat) : Prop :=
  let c := strandOf s
  s.ctxAt c.slot c.entry = some c ∧ (c.r.flights[0]?.map Flight.state) = some (.reading (readOf todo clear)) ∧ (todo[j]?).isSome

theorem witness_VaultLoadResults : (∀ x ∈ ([({ Need.ofLane true l1 (nv 1) (nvs 124 4) with later := true, mem := true, warn := warnRead ⟨true, true, true, 7⟩ true },
      .vldQ l1 124 1 ⟨true, true, true, 7⟩ 0x7FF0), ({ Need.ofLane true l0 (nv 1) (nvs 5 1) with later := true, mem := true, warn := warnRead o0 true }, .vldB l0 5 1 o0 0),
    ({ Need.ofLane true l1 (nv 1) (nvs 4 4) with later := true, mem := true, warn := warnRead o0 false }, .vldl l1 4 1 o0 0x7F80),
    ({ Need.ofLane true l1 (nv 6) (nvs 4 1) with later := true, mem := true, warn := warnRead o0 true }, .vldW l1 4 6 o0 0),
    ({ Need.ofLane true lNone (nv 1) (nvs 4 1) with later := true, mem := true, warn := warnRead o0 true }, .vldW lNone 4 1 o0 0)] : List (Need × Instr)), Issues demo c0 x) ∧
    demo.relWait c0 ⟨true, true, true, 7⟩ = false ∧ demo.relWait c0 o0 = false ∧ lanesOf (c0.active lNone) = [] ∧
    (∀ l ∈ lanesOf (c0.active l1), eaOk (eaOf (c0.v 1 l) 0x7FF0) false 16 = true ∧ own (eaOf (c0.v 1 l) 0x7FF0) 16 = true) ∧
    (∀ l ∈ lanesOf (c0.active l1), eaOk (eaOf (c0.v 6 l) 0) false 4 = true) ∧
    (∃ l ∈ lanesOf (c0.active l1), vaOf (eaOf (c0.v 6 l) 0) / Config.vaultSpan ≠ slotCore c0.slot) ∧
    -- A read of the own vault and one of another core's may be made, a second one of that vault not before the first.
    (let todo : List (Nat × Nat × Word) := [(0, 0x100, 0x100), (1, Config.vaultSpan + 0x100, 0xC0800100), (2, Config.vaultSpan + 0x100, 0xC0800100)]
     let s := reads todo false
     let c := strandOf s
     let may (j va : Nat) : Prop := MayRead s c (readOf todo false) (c.w.visible c.r.key 0) j va
     (∀ j < 3, readFound s todo false j) ∧ may 0 0x100 ∧ may 1 (Config.vaultSpan + 0x100) ∧ ¬ may 2 (Config.vaultSpan + 0x100) ∧ s.poisonedV 0x100 16 = false ∧
     ({ s with poisonV := [0x10] } : State).poisonedV 0x100 16 = true ∧ c.w.alive = true ∧ c.w.due = none) ∧
    (([(0, [1]), (3, [2])] : List (Nat × List Byte)).map (·.1)).Nodup := by
  unfold MayRead readFound
  exact ⟨issues (by decide +kernel), by decide +kernel⟩

theorem witness_VaultStoreAndAtomicResults :
    (∀ x ∈ ([({ Need.ofLane true l1 (nv 1 ++ nvs 124 4) [] with mem := true, warn := warnWrite ⟨true, true, false, 2⟩ }, .vstQ l1 1 124 ⟨true, true, false, 2⟩ 0x7FF0),
      ({ Need.ofUni true u1 (ns 1 ++ ns 63) [] with mem := true, warn := warnWrite o0 }, .sstv u1 1 63 3 o0 0x7FFF8 ),
      ({ Need.ofLane true l1 (nv 1 ++ nvs 4 4) (nvw 126 true) with later := true, mem := true, warn := warnBoth o0 }, .vatomCas l1 126 1 4 o0 true false),
      ({ Need.ofLane true l1 (nv 1 ++ nvs 4 1) (nvw 5 false) with later := true, mem := true, warn := warnBoth o0 }, .vatomMin l1 5 1 4 o0 false true),
      ({ Need.ofLane true lNone (nv 1 ++ nvs 4 1) [] with mem := true, warn := warnWrite o0 }, .vstW lNone 1 4 o0 0),
      ({ Need.ofLane true lNone (nv 1 ++ nvs 4 1) (nvw 5 false) with later := true, mem := true, warn := warnBoth o0 }, .vatomAdd lNone 5 1 4 o0 false false),
      ({ Need.ofUni true u1 (ns 1 ++ ns 6) (ns 47) with later := true, mem := true, warn := warnBoth o0 }, .satomvMax u1 47 1 6 3 o0 true),
      ({ Need.ofUni true u1 (ns 1 ++ (ns 4 ++ ns 5)) (ns 63) with later := true, mem := true, warn := warnBoth o0 }, .scasv u1 63 1 4 2 o0)] :
      List (Need × Instr)), Issues demo c0 x) ∧ c0.la.protect = false ∧ c0.w.canTake c0.r.key = true ∧
    (∀ l ∈ lanesOf (c0.active l1), eaOk (eaOf (c0.v 1 l) 0x7FF0) true 16 = true) ∧
    (∀ l ∈ lanesOf (c0.active l1), eaOk (c0.v 1 l) true 8 = true ∧ demo.poisonedV (vaOf (c0.v 1 l)) 8 = false) ∧
    eaOk (loWord (c0.s 1)) true 8 = true ∧ demo.poisonedV (vaOf (loWord (c0.s 1))) 8 = false := ⟨issues (by decide +kernel), by decide +kernel⟩

theorem witness_SlotAndUniformLoadResults :
    (∀ x ∈ ([({ Need.ofLane true l1 (nv 1) (nvs 124 4) with later := true, mem := true, warn := warnRead o0 true }, .slotrd l1 124 1 o0 0x7FF0),
      ({ Need.ofLane true l0 (nv 7) (nvs 4 4) with later := true, mem := true, warn := warnRead o0 true }, .slotrd l0 4 7 o0 0),
      ({ Need.ofLane true lNone (nv 1) (nvs 4 4) with later := true, mem := true, warn := warnRead o0 true }, .slotrd lNone 4 1 o0 0),
      (.ofUni true u1 [] (ns 63), .sldk u1 63 0xFF8), ({ Need.ofUni true u1 (ns 1) (ns 0) with later := true, mem := true, warn := warnRead o0 true }, .sldv u1 0 1 0 o0 0xFEFF)] :
      List (Need × Instr)), Issues demo c0 x) ∧ c0.la.protect = false ∧ demo.relWait c0 o0 = false ∧ lanesOf (c0.active lNone) = [] ∧
    -- Each lane its own slot, or all of them one.
    (∀ l ∈ lanesOf (c0.active l1), eaOk (eaOf (c0.v 1 l) 0x7FF0) true 16 = true ∧ entryBusy (c0.w.visible c0.r.key c0.w.issued) (vaOf (eaOf (c0.v 1 l) 0x7FF0)) 16 = false ∧
      demo.poisonedV (vaOf (eaOf (c0.v 1 l) 0x7FF0)) 16 = false) ∧
    (∀ l ∈ lanesOf (c0.active l0), eaOf (c0.v 7 l) 0 = 0xFFF0 ∧ eaOk 0xFFF0 true 16 = true ∧ entryBusy (c0.w.visible c0.r.key c0.w.issued) (vaOf 0xFFF0) 16 = false ∧
      demo.poisonedV (vaOf 0xFFF0) 16 = false) ∧
    -- Of two lanes that read one slot of the own vault the first goes first.
    (let todo : List (Nat × Nat × Word) := [(0, 0x100, 0x100), (1, 0x100, 0x100)]
     let s := reads todo true
     let c := strandOf s
     let may (j : Nat) : Prop := MayRead s c (readOf todo true) (c.w.visible c.r.key 0) j 0x100
     (∀ j < 2, readFound s todo true j) ∧ may 0 ∧ ¬ may 1 ∧ s.poisonedV 0x100 16 = false ∧ s.inWindow 0x10E = true) ∧
    eaOk (eaUni (c0.s 1) 0xFEFF) false 1 = true ∧ own (eaUni (c0.s 1) 0xFEFF) 1 = true := by
  unfold MayRead readFound
  exact ⟨issues (by decide +kernel), by decide +kernel⟩

/-! ## Witnesses: uniform arithmetic -/

theorem witness_UniformIntegerResults : ∀ x ∈ ([(.ofUni true u0 (ns 4 ++ ns 63) (ns 63), .ssar u0 63 4 63), (.ofUni true u1 (ns 4) (ns 0), .saddImm u1 0 4 0x8000000),
    (.ofUni true u0 (ns 63) (ns 47), .sclz u0 47 63), (.ofUni true u1 [] (ns 48), .smovImm u1 48 0xFFFFFFF), (.ofUni true u1 [] (ns 48), .sli u1 48 0x8000000),
    (.ofUni true u1 (ns 4) (ns 4), .slis u1 4 0xFFFFFFF), ({ Need.ofUni true u0 (ns 4 ++ ns 0) (ns 4) with later := true }, .sdiv u0 4 4 0), ({ Need.ofUni true u1 (ns 4) (ns 4) with later := true }, .sremuImm u1 4 4 0)] :
    List (Need × Instr)), Issues demo c0 x := issues (by decide +kernel)

theorem witness_UniformPredicateAndMoveResults : (∀ x ∈ ([(.ofUni true u0 (ns 4 ++ ns 63) (dq 7), .qltu u0 7 4 63), (.ofUni true u1 (ns 4) (dq 0), .qgeImm u1 0 4 0x8000000),
    (.ofUni true u1 (nq 7 ++ nq 0) (dq 7), .qopXor u1 7 7 0), (.ofUni true u1 (nq 7) (dq 7), .qopNot u1 7 7 3), (.ofUni true u1 (ns 4) (nvw 126 true), .s2v u1 4 126 true),
    ({ Need.ofUni true u1 (nvw 127 false) (ns 63) with lanes := fun _ => c0.smask &&& maskOf fun l => l == 31 }, .v2s u1 63 127 false 31 false), (.ofUni true u0 (np 1) (ns 0), .p2s u0 0 1), (.ofUni true u0 [] (ns 0), .actmask u0 0),
    (.ofUni true u0 (ns 4) (dp 0), .s2p u0 0 4)] : List (Need × Instr)), Issues demo c0 x) ∧ c0.la.protect = false := ⟨issues (by decide +kernel), by decide +kernel⟩

/-! ## Witnesses: global memory -/

theorem witness_GlobalLoadAndStoreResults :
    (∀ x ∈ ([({ Need.ofLane true l1 (nv 1 ++ nv 7 ++ nx 1) [] with mem := true, warn := warnRead o0 false }, .gldQ l1 1 15 1 7 o0 0x7FF0),
      ({ Need.ofLane true l1 (nv 1 ++ nv 7 ++ nx 1) [] with mem := true, warn := warnRead o0 false }, .gldBs l1 1 0 1 7 o0 0),
      ({ Need.ofLane true l1 (nvs 124 4 ++ nv 7 ++ nx 1) [] with mem := true, warn := warnWrite o0 }, .gstQ l1 1 124 7 o0),
      ({ Need.ofLane true l1 (nvs 127 1 ++ nv 7 ++ nx 1) [] with mem := true, warn := warnWrite o0 }, .gstB l1 1 127 7 o0),
      ({ Need.ofLane true lNone (nvs 4 1 ++ nv 7 ++ nx 1) [] with mem := true, warn := warnWrite o0 }, .gstW lNone 1 4 7 o0)] : List (Need × Instr)), Issues demo c0 x) ∧
    (c0.la.protect = false ∧ c0.r.park = none ∧ (c0.w.xreg 1).stale = false ∧ c0.globalsUndrained = false ∧ demo.relWait c0 o0 = false ∧ c0.w.canTake c0.r.key = true) ∧
    (∀ l ∈ lanesOf (c0.active l1), eaOk (eaOf (c0.v 1 l) 0x7FF0) true 16 = true) ∧
    ∀ l ∈ lanesOf (c0.active l1), (∃ va, access (c0.v 7 l).toNat 16 true false = .ok va (piecesOf (access (c0.v 7 l).toNat 16 true false))) ∧
      ∃ va, access (c0.v 7 l).toNat 16 false true = .ok va (piecesOf (access (c0.v 7 l).toNat 16 false true)) :=
  ⟨issues (by decide +kernel), by decide +kernel, by decide +kernel, fun l hl =>
    have h : ∀ l ∈ lanesOf (c0.active l1), Xlate.isOk (access (c0.v 7 l).toNat 16 true false) = true ∧ Xlate.isOk (access (c0.v 7 l).toNat 16 false true) = true := by
      decide +kernel
    ⟨ok_of (h l hl).1, ok_of (h l hl).2⟩⟩

theorem witness_GlobalAtomicResults :
    (∀ x ∈ ([({ Need.ofLane true l1 (nv 1 ++ nv 7 ++ nvs 124 4 ++ nx 1) [] with mem := true, warn := warnBoth o0 }, .gatomCas l1 1 15 1 7 o0 true false 124),
      ({ Need.ofLane true l1 (nv 1 ++ nv 7 ++ nvs 126 2 ++ nx 1) [] with mem := true, warn := warnBoth o0 }, .gatomMax l1 1 0 1 7 o0 true true 126),
      ({ Need.ofLane true l1 (nv 1 ++ nv 7 ++ nvs 126 2 ++ nx 1) [] with mem := true, warn := warnBoth o0 }, .gatomXchg l1 1 0 1 7 o0 true false 126)] :
      List (Need × Instr)), Issues demo c0 x) ∧ (∀ l ∈ lanesOf (c0.active l1), eaOk (c0.v 1 l) true 8 = true ∧
      ((c0.w.xreg 1).vb.toNat + (c0.v 7 l).toNat) % 8 = 0 ∧ ∀ p ∈ piecesOf (access (c0.v 7 l).toNat 8 true true), isHost p.pa = false) ∧
    ∀ l ∈ lanesOf (c0.active l1), ∃ va, access (c0.v 7 l).toNat 8 true true = .ok va (piecesOf (access (c0.v 7 l).toNat 8 true true)) :=
  ⟨issues (by decide +kernel), by decide +kernel, fun l hl => ok_of ((by decide +kernel :
    ∀ l ∈ lanesOf (c0.active l1), Xlate.isOk (access (c0.v 7 l).toNat 8 true true) = true) l hl)⟩

theorem witness_SubscriptionAndTranslationResults :
    (∀ x ∈ ([({ Need.ofLane true l1 (nv 1 ++ nv 7 ++ nx 1) [] with mem := true, warn := warnBoth ⟨false, false, true, 1⟩ }, .subscr l1 1 1 7 ⟨false, false, true, 1⟩ 0x7FF0),
      ({ Need.ofLane true l1 (nv 1 ++ nv 7 ++ nx 1) [] with mem := true, warn := warnBoth o0 }, .unsub l1 1 1 7 o0 0x7FF0),
      ({ Need.ofUni true u0 (ns 2 ++ ns 4) (nx 7) with later := true, noSplit := true, addr := fun c => c.s 2 }, .xlat u0 7 2 4),
      ({ Need.ofUni true u0 [] (nx 1) with noSplit := true }, .xdrop u0 1)] : List (Need × Instr)), Issues demo c0 x) ∧
    (∀ l ∈ lanesOf (c0.active l1), (ownEA c0.co (eaOf (c0.v 1 l) 0x7FF0)).isSome = true ∧ (eaOf (c0.v 1 l) 0x7FF0).toNat % 16 = 0 ∧
      ((c0.w.xreg 1).vb.toNat + (c0.v 7 l).toNat) % 8 = 0) ∧ canonical (c0.s 2) = true ∧ demo.tlbFind c0.co.die c0.la.part c0.la.root ((c0.s 2).toNat % 2 ^ 56) = some dataPage ∧
    ∀ l ∈ lanesOf (c0.active l1), ∃ va, access (c0.v 7 l).toNat 8 true false = .ok va (piecesOf (access (c0.v 7 l).toNat 8 true false)) :=
  ⟨issues (by decide +kernel), by decide +kernel, by decide +kernel, by decide +kernel, fun l hl => ok_of ((by decide +kernel :
    ∀ l ∈ lanesOf (c0.active l1), Xlate.isOk (access (c0.v 7 l).toNat 8 true false) = true) l hl)⟩

/-! ## Witnesses: flow and strands -/

/-- Control may pass to an address. -/
def fine (s : State) (c : Ctx) (t : Int) : Prop := s.targetBad (slotCore c.slot) c.la t = none

theorem witness_BranchResults :
    (∀ x ∈ ([(.ofUni true u1 [] [], .bra u1 0x3FFF), (.ofUni true u1 [] [], .bra u1 0xFFFFFFF), (.ofUni true u1 (nq 0) [], .brq u1 0 0x3FFF),
      (.ofUni true u1 (nq 7) [], .brq u1 7 0x3FFF), (.ofUni true u1 (nq 0) [], .brnq u1 0 2), (.ofUni true u1 (nq 7) [], .brnq u1 7 2), (.ofUni true u1 (ns 3) (ns 3), .loopd u1 3 2),
      (.ofUni true u1 (ns 63) (ns 63), .loopd u1 63 2), (.ofUni true u1 (nq 0) (ns 63), .call u1 0 false 0x4000)] : List (Need × Instr)), Issues demo c0 x) ∧
    (c0.q 0 = true ∧ c0.q 7 = false ∧ c0.s 3 = 1 ∧ c0.s 63 ≠ 1) ∧ demo.targetBad (slotCore c0.slot) c0.la (c0.r.pc + 4 * (0x3FFF : BitVec 28).toInt) = none ∧
    (c0.r.pc + 4 * (0xFFFFFFF : BitVec 28).toInt < c0.la.code ∧ c0.la.code + c0.la.extent < c0.r.pc + 4 * (0x4000 : BitVec 28).toInt + 4) ∧ c0.r.sub = none ∧ c0.r.pc < 2 ^ 48 :=
  ⟨issues (by decide +kernel), by decide +kernel, by decide +kernel, by decide +kernel, by decide +kernel, by decide +kernel⟩

/-- The frame of an open split of the root, with arms over v0 to v31 and p1, the second of which has ended or not. -/
def splitFrame (ended : Bool) : Frame :=
  { role := .root, up := none, key := [], covers := [], jm := none, joinedV := 0, joinedP := 0, lapsedV := 0, lapsedP := 0, wC := 0xFFF0, pA := 2, pC := 0, uC := 0,
    arms := [⟨0xF, 0, 0, false, some 0x10005⟩, ⟨0xF, 0, 0, ended, none⟩], pending := [], serial := false }

/-- A strand below the frame. -/
def below (role : Role) (k : Nat) : Run := { c0.r with role := role, up := some (0, 0), key := [k], priv := [(63, 0x10005)] }

/-- The wave inside the split: the arms in entries 1 and 2, the continuation in entry 3. -/
def splitWave : Wave :=
  { demoWave with lattice := [(0, ⟨[splitFrame false], none⟩), (1, ⟨[], some (below (.arm 0) 0)⟩), (2, ⟨[], some (below (.arm 1) 1)⟩), (3, ⟨[], some (below .cont 2)⟩)] }

/-- The state inside the split, with the strand of an entry issuing. -/
def inSplit (entry : Nat) : State := { demo with waves := [(0, splitWave)], cur := some (0, entry) }

theorem witness_CallAndReturnResults :
    (∀ x ∈ ([(.ofUni true u1 (nq 0) (ns 63), .call u1 0 false 0x3FFF), (.ofUni true u1 (nq 0) (ns 63), .call u1 0 true 0x3FFF), (.ofUni true u0 (ns 5 ++ nq 7) (ns 63), .callr u0 5 7 true),
      (.ofUni true u0 (ns 5 ++ nq 7) (ns 63), .callr u0 5 7 false), ({ Need.ofUni true u0 (ns 5) [] with drains := true }, .ret u0 5),
      ({ Need.ofUni true u0 [] [] with drains := true }, .endStrand u0)] : List (Need × Instr)), Issues demo c0 x) ∧
    (c0.q 0 = true ∧ c0.q 7 = false ∧ (c0.s 5).toNat % 4 = 0 ∧ belowArm c0.lv = false) ∧ demo.targetBad (slotCore c0.slot) c0.la (c0.s 5).toNat = none ∧
    (let c := strandOf (inSplit 1)
     Issues (inSplit 1) c ({ Need.ofUni true u0 (ns 63) [] with drains := true }, .ret u0 63) ∧ c.r.role = .arm 0 ∧ c.r.up = some (0, 0) ∧
     c.lv.head?.map (fun l => (l.role, l.link)) = some (.arm 0, some (c.s 63)) ∧ (c.s 63).getLsbD 0 = true) ∧
    let s : State := { demo with waves := [(0, { demoWave with s := [(5, 0x10006)] })] }
    Issues s (strandOf s) ({ Need.ofUni true u0 (ns 5) [] with drains := true }, .ret u0 5) ∧ ((strandOf s).s 5).getLsbD 0 = false ∧ ((strandOf s).s 5).toNat % 4 ≠ 0 :=
  ⟨issues (by decide +kernel), by decide +kernel, by decide +kernel,
    ⟨issues1 (by decide +kernel), by decide +kernel⟩,
    issues1 (by decide +kernel), by decide +kernel⟩

theorem witness_SplitResults :
    (∀ x ∈ ([({ Need.ofUni true u1 (np 1 ++ ns 6) [] with drains := true, mem := true }, .split u1 1 6 2 0x3FFF),
      ({ Need.ofUni true u1 ((addrs (2 * (4 : BitVec 6).toNat) 2).map RegName.v ++ np 1 ++ ns 63) [] with drains := true, mem := true, lanes := fun _ => c0.smask &&& ~~~ c0.w.pred 1 }, .calli u1 4 1 true 63 0x3FFF)] :
      List (Need × Instr)), Issues demo c0 x) ∧ c0.la.protect = false ∧ c0.windowTrap (WinMask.of (c0.s 6)) = none ∧
    c0.r.mask &&& c0.w.pred 1 ≠ 0 ∧ c0.r.mask &&& ~~~ c0.w.pred 1 ≠ 0 ∧
    (∀ t ∈ [(demo.after c0.r true).1, c0.r.pc + 4 * 2, c0.r.pc + 4 * 0x3FFF], demo.targetBad (slotCore c0.slot) c0.la t = none) ∧
    (let part := c0.smask &&& ~~~ c0.w.pred 1
     demo.calliTrap c0 (lanesOf part) (c0.target 4) (c0.s 63) (fun x => demo.wordAt (slotCore c0.slot) c0.la none (x.toNat - 4)) = none ∧
     [0x10008].Pairwise (· < ·) ∧ (∀ l ∈ lanesOf part, (c0.target 4 l).toNat ∈ [0x10008]) ∧ lanesOf part ≠ []) ∧
    -- With too few free entries a split is serialised.
    ({ demoWave with lattice := (List.range 14).map fun k => (k, ⟨[], some c0.r⟩) } : Wave).freeEntries.length < 3 ∧ 3 ≤ c0.w.freeEntries.length :=
  ⟨issues (by decide +kernel), by decide +kernel⟩

theorem witness_ArmSealAndJoinResults :
    (let c := strandOf (inSplit 1)
     (∀ x ∈ ([({ Need.ofUni true u0 [] [] with drains := true }, .endarm u0),
       ({ Need.ofUni true u1 [] [] with names := (addrs 0 32).map RegName.v }, .seal u1 0 31 false), ({ Need.ofUni true u1 [] [] with names := [.p 1] }, .seal u1 1 1 true)] :
       List (Need × Instr)), Issues (inSplit 1) c x) ∧ c.r.role = .arm 0 ∧ c.r.up = some (0, 0) ∧ c.lv.head?.map Level.role = some (.arm 0) ∧
     ((splitFrame false).arms[0]?.map fun a => a.wA) = some 0xF ∧ (∀ x ∈ (addrs 0 32).map RegName.v, inArmWindow 0xF (splitFrame false).pA x = true) ∧
     inArmWindow 0xF (splitFrame false).pA (.p 1) = true) ∧
    (let c := strandOf (inSplit 3)
     (∀ x ∈ ([({ Need.ofUni true u1 [] [] with later := true, names := (addrs 0 32).map RegName.v }, .join u1 0 31 false), (.ofUni true u0 [] [], .joinmem u0)] : List (Need × Instr)),
       Issues (inSplit 3) c x) ∧ c.r.role = .cont ∧ c.lv.head?.map (fun l => l.frame) = some (splitFrame false) ∧
     ∀ x ∈ (addrs 0 32).map RegName.v, inArmWindow (splitFrame false).wA (splitFrame false).pA x = true) ∧
    let s : State := { demo with waves := [(0, { demoWave with lattice := [(0, ⟨[], some { c0.r with lapsedV := 0xFF }⟩)] })] }
    let c := strandOf s
    Issues s c ({ Need.ofUni true u1 [] [] with later := true, names := (addrs 0 8).map RegName.v }, .join u1 0 7 false) ∧ c.lv = [] ∧ c.r.role ≠ .cont ∧
    ∀ x ∈ (addrs 0 8).map RegName.v, c.r.lapsed x = true :=
  ⟨⟨issues (by decide +kernel), by decide +kernel⟩, ⟨issues (by decide +kernel), by decide +kernel⟩, issues1 (by decide +kernel), by decide +kernel⟩

theorem witness_LastArmClosesTheSplit :
    let f := splitFrame true
    let g := splitFrame false
    let w : Wave := { demoWave with lattice := [(0, ⟨[f], none⟩), (1, ⟨[], some (below (.arm 0) 0)⟩), (15, ⟨[], some (below .cont 2)⟩)] }
    (f.arms.length = 2 ∧ f.role = .root ∧ f.up = none ∧ f.serial = false ∧ f.pending = [] ∧ f.arms.map Arm.ended = [false, true] ∧ (below (.arm 0) 0).up = some (0, 0) ∧
      (below .cont 2).role = .cont ∧ (below .cont 2).wait = none ∧ (∀ x ∈ (below .cont 2).flights, x.state ≠ .join) ∧
      w.lattice = [(0, ⟨[f], none⟩), (1, ⟨[], some (below (.arm 0) 0)⟩), (15, ⟨[], some (below .cont 2)⟩)]) ∧
    g.arms.map Arm.ended = [false, false] ∧ (below (.arm 1) 1).role = .arm (1 - 0) ∧
      splitWave.lattice = [(0, ⟨[g], none⟩), (1, ⟨[], some (below (.arm 0) 0)⟩), (2, ⟨[], some (below (.arm 1) 1)⟩), (3, ⟨[], some (below .cont 2)⟩)] := by decide +kernel

/-! ## Witnesses: barriers and waits -/

theorem witness_BarrierResults : (∀ x ∈ ([(.bar true u1 [] [], .binit u1 15 16 1023), (.bar true u1 (ns 4) [], .bexpect u1 15 4 true 0), (.bar true u1 [] [], .bexpect u1 0 0 false 0x7FFFFFF),
    (.bar true u0 [] (ns 63), .barrive u0 63 15), (.bar true u0 (ns 4) (dq 7), .bwait u0 7 15 4), (.bar true u0 [] (dq 0), .bsync u0 0 0), (.bar true u1 [] (ns 63), .bstat u1 63 15 true)] :
    List (Need × Instr)), Issues demo c0 x) ∧ 15 < c0.co.barriers.length ∧ c0.co.barriers[15]? = some ⟨1, 0, 0, 0, 0, 0, 0, []⟩ ∧ demo.unperformed c0 2 = false :=
  ⟨issues (by decide +kernel), by decide +kernel⟩

theorem witness_BarrierPhasesComplete : demo.cohorts.find 0 = some bareCohort ∧ 15 < bareCohort.barriers.length := by decide +kernel

theorem witness_GroupAndClusterBarrierResults :
    let nG : Need := { Need.bar true u0 [] (dq 7) with badLaunch := fun la => !la.persistent, badWave := fun c => (c.group 0).isNone }
    let lost : State := { demo with launches := [(0, { bareLaunch with groups := [(0, ⟨[0], true, false, 0, 0, true, []⟩)], clusters := [(0, ⟨0, true, []⟩)] })] }
    let d := strandOf lost
    (∀ x ∈ ([(nG, .gbar u0 7 0), (.bar true u0 [] (dq 0), .cbar u0 0)] : List (Need × Instr)), Issues demo c0 x) ∧
    (∀ x ∈ ([(nG, .gbar u0 7 0), (.bar true u0 [] (dq 0), .cbar u0 0)] : List (Need × Instr)), Issues lost d x) ∧
    (demo.unperformed c0 5 = false ∧ demo.unperformed c0 3 = false ∧ c0.group 0 = some 0 ∧ c0.la.groups.find 0 = some ⟨[0], true, false, 0, 0, false, []⟩ ∧ c0.la.clsz = 1 ∧
      c0.w.cohort = cohortKey c0.co.launch c0.co.index ∧ c0.co.nwaves = 1 ∧ c0.co.retired = [] ∧ c0.w.widx = 0 ∧ c0.co.index = 0 ∧ c0.co.gbar = [] ∧ c0.co.cbar = [] ∧
      (c0.la.clusters.find 0).getD ⟨0, false, []⟩ = ⟨0, false, []⟩) ∧
    lost.unperformed d 5 = false ∧ lost.unperformed d 3 = false ∧ d.group 0 = some 0 ∧ (d.la.groups.find 0).map Group.lost = some true ∧ (d.la.clusters.find 0).getD ⟨0, false, []⟩ = ⟨0, true, []⟩ :=
  ⟨issues (by decide +kernel), issues (by decide +kernel), by decide +kernel, by decide +kernel⟩

theorem witness_WaitAndFenceResults :
    let s := withVault 0x1F8 (leBytes 8 1)
    let word : DWord := BitVec.ofNat 64 (leNat (s.loadBytes (c0.w.visible c0.r.key c0.w.issued) 0x1F8 8))
    (∀ x ∈ ([({ Need.ofUni true u1 (ns 1 ++ ns 3) (ns 63) with mem := true, warn := warnRead o0 false }, .waita u1 63 1 3 0 o0 0xF8),
      ({ Need.ofUni true u1 (ns 1 ++ ns 4) (ns 63) with mem := true, warn := warnRead o0 false }, .waita u1 63 1 4 2 o0 0xF8),
      (.ofUni true u1 (ns 63) [], .sleep u1 63 true 0), (.ofUni true u1 [] [], .sleep u1 0 false 0x7FFFFFF), (.ofUni true u0 [] [], .yieldS u0),
      ({ Need.ofUni true u1 [] [] with warn := 0 }, .fenceAcq u1 7), ({ Need.ofUni true u1 [] [] with warn := 0 }, .fenceRel u1 5),
      ({ Need.ofUni true u1 [] [] with warn := 0 }, .fenceFull u1 0), ({ Need.ofUni true u1 [] [] with warn := 0x20 }, .fenceEng u1 1)] : List (Need × Instr)), Issues s c0 x) ∧
    s.vaultEA c0.co c0.la (eaUni (c0.s 1) 0xF8) false = some 0x1F8 ∧ (eaUni (c0.s 1) 0xF8).toNat % 8 = 0 ∧ s.relWait c0 o0 = false ∧ s.poisonedV 0x1F8 8 = false ∧
    0x1F8 / Config.vaultSpan = slotCore c0.slot ∧ atomicBusy (c0.w.visible c0.r.key c0.w.issued) 0x1F8 8 = false ∧ word = c0.s 3 ∧ ¬ (c0.s 4).toNat ≤ word.toNat :=
  ⟨issues (by decide +kernel), by decide +kernel⟩

/-! ## Witnesses: tiles and matrices -/

theorem witness_TileResults :
    (∀ x ∈ ([(.tileRow true l1 1 false (nt 7) (nvw 127 false), .trd l1 127 7 63 1 false), (.tileRow true l1 0 true (nvw 126 true) (nt 7), .twr l1 7 126 63 0 true),
      ({ Need.tile true u1 (ns 63) [] with names := nt 7 }, .tcfg u1 7 63 true 0), ({ Need.tile true u1 [] [] with names := nt 0 }, .tcfg u1 0 0 false 0x2102),
      ({ Need.tile true u1 [] [] with names := nt 7 }, .tlay u1 7 15), ({ Need.tile true u0 [] (nt 7) with later := true }, .tzero u0 7),
      ({ Need.tile true u0 [] (nt 0) with later := true, names := nt 7 }, .tmov u0 0 7), ({ Need.tile true u0 [] (nt 7) with later := true, names := nt 7 }, .tmov u0 7 7),
      ({ Need.tile true u1 (ns 1) (nt 7) with later := true, mem := true }, .tld u1 7 1 0 16), ({ Need.tile true u1 (ns 1) [] with mem := true, names := nt 7 }, .tst u1 1 7 0 0xFF)] :
      List (Need × Instr)), Issues { demo with tags := [(0, 15)] } c0 x) ∧
    (∀ t : Fin 8, demo.tileBusy c0.slot t true = false ∧ demo.tileBusy c0.slot t false = false) ∧ demo.poisonT = [] ∧ c0.la.protect = false ∧ c0.w.canTake c0.r.key = true ∧
    (1 ≤ shapeRows 0x2102 ∧ shapeRows 0x2102 ≤ 64 ∧ 1 ≤ shapeRB 0x2102 ∧ shapeRB 0x2102 ≤ 256) ∧ (([(0, [1]), (16, [2])] : List (Nat × List Byte)).map (·.1)).Nodup ∧
    let s : State := { demo with tags := [(0, 15)] }
    s.areaTrap c0 (c0.area 7 (c0.s 1) 0 16) false = none ∧ s.tagTrap c0 (c0.area 7 (c0.s 1) 0 16) = none ∧ s.areaTrap c0 (c0.area 7 (c0.s 1) 0 0xFF) true = none ∧
    ∀ k < 64, s.vaultAt c0.co c0.la (0x100 + 16 * k) = some (0x100 + 16 * k) ∧ entryBusy (c0.w.visible c0.r.key c0.w.issued) (0x100 + 16 * k) 16 = false ∧
      s.poisonedV (0x100 + 16 * k) 16 = false := ⟨issues (by decide +kernel), by decide +kernel⟩

theorem witness_MmaIssueResults :
    (∀ x ∈ ([({ Need.tile true u1 (nt 0 ++ nt 1) (nt 2) with later := true }, .mmaF32 u1 2 0 1 false true),
      ({ Need.tile true u1 (nt 3 ++ nt 4) (nt 2) with later := true }, .mmaE4m3 u1 2 3 4 true false)] : List (Need × Instr)), Issues demo c0 x) ∧
    (demo.cores.find (slotCore c0.slot)).isSome = true ∧ demo.poisonT = [] ∧ (∀ t : Fin 8, demo.copycHolds c0.slot t = false) ∧
    (let A := c0.w.shapeOf 0; shapeEW A = 2 ∧ shapeRows A = 64 ∧ shapeCols A = 64 ∧ c0.w.shapeOf 1 = A ∧ c0.w.shapeOf 2 = A ∧ 64 % 2 = 0) ∧
    let A := c0.w.shapeOf 3; let B := c0.w.shapeOf 4; let C := c0.w.shapeOf 2
    shapeEW A = 0 ∧ shapeEW B = 0 ∧ shapeEW C = 2 ∧ shapeRows A = shapeRows C ∧ shapeCols A = shapeRows B ∧ shapeCols B = shapeCols C ∧ shapeCols A = 32 ∧ 32 % 8 = 0 :=
  ⟨issues (by decide +kernel), by decide +kernel⟩

theorem witness_MmaArithmetic : (∀ o ∈ ([⟨1, false, true, 2, 0, 1⟩, ⟨4, true, false, 2, 3, 4⟩, ⟨7, false, false, 2, 3, 4⟩] : List MmaOp), o.fits demoWave = true ∧ o.fmt < 8) := by
  decide +kernel

theorem witness_ScaleAndQuantiseResults :
    (∀ x ∈ ([({ Need.tile true u1 (nq 0) (nt 0) with later := true, names := nt 1 ++ nt 6 }, .scacc u1 0 1 6 0 false 63 0),
      ({ Need.tile true u1 (nq 7) (nt 0) with later := true, names := nt 1 ++ nt 7 }, .scacc u1 0 1 7 7 false 0 63),
      ({ Need.tile true u1 [] (nt 5 ++ nt 6) with later := true, names := nt 0 }, .quant u1 5 0 6 4 false 62),
      ({ Need.tile true u1 [] (nt 5 ++ nt 6) with later := true, names := nt 0 }, .quant u1 5 0 6 6 true 0)] : List (Need × Instr)), Issues demo c0 x) ∧ demo.poisonT = [] ∧
    scaccFits c0.w 0 1 6 true 63 0 = true ∧ c0.q 7 = false ∧ scaccFits c0.w 0 1 7 false 0 63 = true ∧ quantFits c0.w 5 0 6 false 62 = true ∧ quantFits c0.w 5 0 6 true 0 = true ∧
    ∀ t : Fin 8, demo.tileBusy c0.slot t true = false ∧ demo.tileBusy c0.slot t false = false := ⟨issues (by decide +kernel), by decide +kernel⟩

/-! ## Witnesses: copies, step descriptors and regions -/

/-- A card at EA 0x100. -/
def cardState (fs : List (Nat × Nat)) : State := withVault 0x100 (fields fs)

/-- The checks of a card's instruction pass, decided. -/
def cardOk (s : State) (k : JobKind) (tile : Nat) : Bool :=
  let card := Card.of (s.vaultBytes 0x100 64)
  let sz := card.size k c0.w tile
  (s.cardTrap c0 k card 0x100 tile).isNone && !s.jobTilesBusy c0 k card tile && !s.poisonedV 0x100 64 &&
    (s.cores.find 0).any fun x => !x.engineFull (if k = .tstg then stagingUnits sz.1 sz.2 else 0)

def copyCard : State := cardState [(8, 0x1000), (8, 0x8000), (4, 2), (4, 128), (4, 128), (4, 128), (1, 0), (1, 0), (1, 31), (1, 0), (1, 1), (3, 0), (4, 0xFFF8), (4, 0), (8, 1), (8, 0)]
def copylCard : State := cardState [(8, 0x20000), (8, 0x8000), (4, 1), (4, 128), (4, 0), (4, 0), (1, 1), (1, 0), (1, 0), (1, 15), (1, 0), (3, 0), (4, 0), (4, 0), (8, 0), (8, 0)]
def copycCard : State := cardState [(8, 0x1000), (8, 0), (4, 0), (4, 0), (4, 256), (4, 0), (1, 0), (1, 0), (1, 16), (1, 0), (1, 0), (3, 0), (4, 0), (4, 0), (8, 0), (8, 0x1210)]
def tstgCard : State := cardState [(8, 0), (8, 0x20000), (4, 0), (4, 0), (4, 0), (4, 256), (1, 0), (1, 1), (1, 0), (1, 0), (1, 0), (3, 0), (4, 0), (4, 0), (8, 0), (8, 0x11)]
def stepDescr : State := withVault 0x100 (fields [(4, 0x1000), (4, 0x2000), (4, 64), (1, 2), (3, 0), (4, 0), (4, 7), (8, 0x20000)])

theorem witness_CopyAndStepCacheResults :
    let n : Need := { Need.tile true u0 (ns 1) [] with mem := true, names := [] }
    let m : Need := { Need.tile true u0 (ns 1) (dq 7) with later := true, mem := true }
    (Issues copyCard c0 (n, .copy u0 1 0) ∧ cardOk copyCard .copy 0 = true) ∧ (Issues copylCard c0 (n, .copyl u0 1 0) ∧ cardOk copylCard .copyl 0 = true) ∧
    (Issues copycCard c0 (n, .copyc u0 1 0) ∧ cardOk copycCard .copyc 0 = true) ∧ (Issues tstgCard c0 ({ n with names := nt 1 }, .tstg u0 1 1 0) ∧ cardOk tstgCard .tstg 1 = true) ∧
    (ownEA c0.co (eaUni (c0.s 1) 0) = some 0x100 ∧ (eaUni (c0.s 1) 0).toNat % 64 = 0 ∧ entryBusy (c0.w.visible c0.r.key c0.w.issued) 0x100 64 = false) ∧
    (∀ x ∈ ([(m, .stepchk u0 7 1), (m, .steprec u0 7 1)] : List (Need × Instr)), Issues stepDescr c0 x) ∧
    (stepDescr.cores.find 0).any (fun k => !k.engineFull 0) = true ∧ stepDescr.poisonedV 0x100 32 = false ∧
    rangePages (stepDescr.tlbOf c0) 300 (0x20000 % 2 ^ 56) (128 + 2 * ((128 + 127) / 128 * 128)) = .ok [] ∧
    stepDescr.stepTrap c0 true (stepDescr.vaultBytes 0x100 32) = none ∧ stepDescr.stepTrap c0 false (stepDescr.vaultBytes 0x100 32) = none :=
  ⟨⟨issues1 (by decide +kernel), by decide +kernel⟩, ⟨issues1 (by decide +kernel), by decide +kernel⟩, ⟨issues1 (by decide +kernel), by decide +kernel⟩,
    ⟨issues1 (by decide +kernel), by decide +kernel⟩, by decide +kernel, issues (by decide +kernel), by decide +kernel⟩

/-- A region descriptor at EA 0x100: TOTAL, length, kind, and the first argument. -/
def regionDescr (total len kind a0 : Nat) : State :=
  withVault 0x100 (fields [(8, 0x20000), (6, total), (2, 0), (4, len), (1, kind), (1, 1), (2, 0), (8, a0), (8, 0), (24, 0)])

/-- An entry of an arrival unit. -/
def armed (count : Nat) (a : Action) : Region := ⟨0, 0x210000, 64, 64, true, a, count, false, 0, []⟩

/-- Every entry of die 0 is taken. -/
def allArmed : State :=
  { regionDescr 1 64 0 15 with arrivals := [(0, ⟨(List.range 1024).map fun k => (k, armed 0 (.arrive 0 0)), [], []⟩)] }

/-- The last entry of die 3 is armed, in its last generation, and s1 holds its handle. -/
def lastEntry : State :=
  { demo with arrivals := [(3, ⟨[(1023, armed 63 (.arrive 0 15))], [(1023, 0xFFFFFFFF)], []⟩)],
              waves := [(0, { demoWave with s := [(1, BitVec.ofNat 64 (1023 + 3 * 2 ^ 10 + (2 ^ 32 - 1) * 2 ^ 16))] })] }

theorem witness_RegionInstructionResults_rarm :
    let n : Need := { Need.ofUni true u0 (ns 1) (ns 63) with later := true, mem := true }
    (∀ s ∈ [regionDescr 0 64 0 15, regionDescr 64 64 4 255, regionDescr (2 ^ 48 - 1) 64 0 15, allArmed], Issues s c0 (n, .rarm u0 63 1 0)) ∧ allArmed.poisonedV 0x100 64 = false ∧
    ownEA c0.co (eaUni (c0.s 1) 0) = some 0x100 ∧ (eaUni (c0.s 1) 0).toNat % 64 = 0 ∧ allArmed.unperformed c0 2 = false ∧
    regionBad ((regionDescr 0 64 0 15).vaultBytes 0x100 64) = true ∧
    regionBad ((regionDescr 64 64 4 255).vaultBytes 0x100 64) = false ∧ (regionDescr 64 64 4 255).resolve c0 ((regionDescr 64 64 4 255).vaultBytes 0x100 64) = .refused 5 :=
  ⟨issuesAt (by decide +kernel), by decide +kernel⟩

theorem witness_RegionInstructionResults_armed :
    let s := regionDescr (2 ^ 48 - 1) 64 0 15
    regionBad (s.vaultBytes 0x100 64) = false ∧ s.resolve c0 (s.vaultBytes 0x100 64) = .ok dataPage (.arrive 0 15) ∧ (s.arrival 0).entries.find 0 = none ∧ s.selfChip = some 0 ∧
    splitPages (s.tlbOf c0) 0x20000 1 true false = .ok 0x20000 [⟨0x210000, 1, dataPage⟩] ∧ (homeOf 0x210000).map homeDie = some 0 ∧
    regionBad (allArmed.vaultBytes 0x100 64) = false ∧ allArmed.resolve c0 (allArmed.vaultBytes 0x100 64) = .ok dataPage (.arrive 0 15) := by decide +kernel

theorem find_of_mem {α : Type} {k : Nat} : {m : FMap α} → k ∈ m.map Prod.fst → (m.find k).isSome = true
  | (n, a) :: t, h => by
    by_cases e : n = k
    · simp [FMap.find, e]
    · have : k ∈ t.map Prod.fst := by simpa [Ne.symm e] using h
      simpa [FMap.find, e] using find_of_mem this

theorem witness_RegionInstructionResults_full : ∀ k, k < 1024 → ((allArmed.arrival 0).entries.find k).isSome = true := fun k hk =>
  find_of_mem (by simp [allArmed, State.arrival, FMap.find, hk])

theorem witness_RegionInstructionResults_handles :
    let m : Need := { Need.ofUni true u0 (ns 1) (ns 63) with later := true }
    (∀ x ∈ ([(m, .rdisarm u0 63 1), (m, .rqry u0 63 1 false)] : List (Need × Instr)), Issues lastEntry (strandOf lastEntry) x) ∧
    (∀ x ∈ ([(m, .rdisarm u0 63 1), (m, .rqry u0 63 1 false)] : List (Need × Instr)), Issues demo c0 x) ∧ demo.arrivals = [] ∧
    (lastEntry.arrival 3).entries.find 1023 = some (armed 63 (.arrive 0 15)) ∧ (armed 63 (.arrive 0 15)).launch = 0 ∧ (strandOf lastEntry).co.launch = 0 ∧
    (strandOf lastEntry).s 1 = BitVec.ofNat 64 (1023 + 3 * 2 ^ 10 + (((lastEntry.arrival 3).gens.find 1023).getD 0).toNat * 2 ^ 16) ∧
    (armed 63 (.arrive 0 15)).count < (armed 63 (.arrive 0 15)).total := ⟨issues (by decide +kernel), issues (by decide +kernel), by decide +kernel⟩

/-! ## Witnesses: tasks and the system group -/

/-- A task record whose entry point is a code address. -/
def record (entry : Nat) : List Byte := fields [(8, entry), (8, 1), (8, 2), (8, 3), (8, 4), (8, 5), (8, 6), (8, 7)]

/-- The small state with the deques of cores 0 and 1. -/
def deques (a b : List (List Byte)) : State :=
  { demo with cores := [(0, ⟨0, a.map (⟨0, ·, []⟩), [], [], []⟩), (1, ⟨0, b.map (⟨0, ·, []⟩), [], [], []⟩)] }

theorem witness_TaskQueueResults :
    let n : Need := { Need.ofUni true u0 (ns 1) (dq 7) with mem := true }
    let m : Need := { Need.ofUni true u0 [] ((addrs 37 7).map RegName.s ++ ns 63 ++ dq 7) with wide := true, mem := true, badWave := fun c => c.w.task.isSome }
    let k : Need := { Need.ofUni true u0 (ns 1) [] with mem := true, badLaunch := fun la => !la.distrib }
    (∀ s ∈ [demo, deques (List.replicate 255 []) [], deques (List.replicate 256 []) []], Issues s c0 (n, .fork u0 7 1)) ∧
    (demo.vaultEA c0.co c0.la ((c0.s 1).setWidth 32) false = some 0x100 ∧ ((c0.s 1).setWidth 32 : Word).toNat % 64 = 0 ∧ demo.unperformed c0 4 = false ∧ demo.poisonedV 0x100 64 = false ∧
      demo.readsBefore 0 0 demo.tick = false) ∧
    (∀ s ∈ [deques [record 0x10008] [], deques [] [[], record 0x10008], demo], Issues s c0 (m, .tnext u0 7)) ∧
    (leNat ((record 0x10008).take 8) = 0x10008 ∧ demo.targetBad 0 c0.la 0x10008 = none) ∧
    (let s := deques [] [[], record 0x10008]
     (s.ring c0.la.part 0).find? (fun l => (s.cores.find l).any fun k => !k.deque.isEmpty) = some 1) ∧ demo.ring c0.la.part 0 = [1] ∧
    Issues demo c0 (k, .nextw u0 1 0) ∧ ownEA c0.co (eaUni (c0.s 1) 0) = some 0x100 ∧ c0.w.nextw < 4 ∧ c0.w.canTake c0.r.key = true :=
  ⟨issuesAt (by decide +kernel), by decide +kernel, issuesAt (by decide +kernel), by decide +kernel, by decide +kernel, by decide +kernel, issues1 (by decide +kernel), by decide +kernel⟩

/-- A wave in a task with 15 signals, and with none. -/
def inTask (sigs : List Signal) : State := { demo with waves := [(0, { demoWave with task := some ⟨record 0, sigs⟩, lattice := [(0, ⟨[], some { c0.r with priv := [(63, 0x10008)] }⟩)] })] }

theorem witness_TaskSignalResults :
    let s := inTask (List.replicate 15 (.sig dataPage 0x20000))
    let c := strandOf s
    (∀ x ∈ ([({ Need.ofUni true u0 (ns 2) [] with mem := true, badWave := fun c => c.w.task.isNone }, .tsig u0 2),
      ({ Need.ofUni true u0 (ns 2 ++ ns 63) [] with mem := true, badWave := fun c => c.w.task.isNone }, .tpost u0 2 63)] : List (Need × Instr)), Issues s c x) ∧
    (c.w.task.any fun k => k.signals.length == 15) = true ∧ (c.s 2).toNat % 128 = 0 ∧ canonical (c.s 2) = true ∧
    s.tlbFind c.co.die c.la.part c.la.root ((c.s 2).toNat % 2 ^ 56) = some dataPage ∧ dataPage.r = true ∧ dataPage.w = true ∧
    let t := inTask []
    let d := strandOf t
    Issues t d ({ Need.ofUni true u0 (ns 63) [] with wide := true, mem := true, badWave := fun c => c.w.task.isNone }, .tdone u0) ∧ d.w.sb = [] ∧ d.w.readsLeft (fun _ _ => true) = false ∧ d.w.pq = [] ∧ t.anyPending 5 d.releases = false ∧
    (d.s 63).toNat % 4 = 0 ∧ t.targetBad 0 d.la (d.s 63).toNat = none ∧ (applySignals d [] ⟨t, none⟩).bad = none ∧ d.w.blocks = [] :=
  ⟨issues (by decide +kernel), by decide +kernel, by decide +kernel, by decide +kernel, by decide +kernel, by decide +kernel, by decide +kernel, issues1 (by decide +kernel),
    by decide +kernel⟩

/-- A successor block in memory: count, result, mask, value, alternative record. -/
def block (fs : List Nat) : State := demo.homeWrite 1 ((addrs 0x210000 64).zip (fields ((fs ++ [0, 0, 0]).map fun x => (8, x))))

/-- Word `k` of the block. -/
def blockWord (s : State) (k : Nat) : DWord := BitVec.ofNat 64 (leNat ((addrs (dataPage.pa 0x20000 + k) 8).map (s.gbyte dataPage.key)))

/-- The block after one signal. -/
def signalled (s : State) : State :=
  s.homeWrite dataPage.key ((addrs (dataPage.pa 0x20000 + 0) 8).zip (leBytes 8 (blockWord s 0 - 1).toNat)) (some ⟨5, s.agent c0.w c0.r.key, s.stillPending c0.releases, false⟩) c0.releases

theorem witness_SignalsAct :
    dataPage.vbase ≤ 0x20000 ∧ demo.poisonG = [] ∧ blockWord (block [2, 0, 0, 0, 0]) 0 ≠ 1 ∧
    (∀ k ∈ [0, 8, 64], (block []).hasLink (dataPage.pa 0x20000 + k) = true) ∧ (block []).hasLink (2 ^ 48) = false ∧
    (let u := signalled (block [1, 5, 7, 5, 0]); blockWord (block [1, 5, 7, 5, 0]) 0 = 1 ∧ blockWord u 8 &&& blockWord u 16 = blockWord u 24) ∧
    (let u := signalled (block [1, 4, 7, 5, 0]); blockWord u 8 &&& blockWord u 16 ≠ blockWord u 24 ∧ blockWord u 32 = 0) ∧
    (∀ x ∈ [0x2FFC0, 0x50000, 2 ^ 63 + 2 ^ 55], let u := signalled (block [1, 4, 7, 5, x]); blockWord u 8 &&& blockWord u 16 ≠ blockWord u 24 ∧ blockWord u 32 ≠ 0) ∧
    (let u := signalled (block [1, 4, 7, 5, 0x2FFC0]); (blockWord u 32).toNat % 64 = 0 ∧ canonical (blockWord u 32) = true ∧
      u.walkNow c0.co.die c0.la.part c0.la.root ((blockWord u 32).toNat % 2 ^ 56) = .ok dataPage ∧ dataPage.r = true ∧ u.hasLink (dataPage.pa 0x2FFC0) = true) ∧
    (let u := signalled (block [1, 4, 7, 5, 0x50000]); canonical (blockWord u 32) = true ∧
      u.walkNow c0.co.die c0.la.part c0.la.root ((blockWord u 32).toNat % 2 ^ 56) = .miss) ∧
    canonical (blockWord (signalled (block [1, 4, 7, 5, 2 ^ 63 + 2 ^ 55])) 32) = false := by decide +kernel

theorem witness_ControlRegisterResults :
    (∀ x ∈ ([(.ofUni true u1 [] (ns 63), .csrr u1 63 0x040), (.ofUni true u1 [] (ns 0), .csrr u1 0 0x001), (.ofUni true u1 [] (ns 63), .csrr u1 63 (BitVec.ofNat 12 (0x016 + 3))),
      (.ofUni true u1 [] (ns 63), .csrr u1 63 (BitVec.ofNat 12 (0x01A + 0))), ({ Need.ofUni true u1 (ns 4) [] with noSplit := true }, .csrw u1 4 0x020),
      ({ Need.ofUni true u1 (ns 4) [] with noSplit := true }, .csrw u1 4 0x040), (.ofUni true u0 [] [], .nop u0)] : List (Need × Instr)), Issues demo c0 x) ∧
    (c0.la.groups.map Prod.fst).Pairwise (· < ·) := ⟨issues (by decide +kernel), by decide +kernel⟩

theorem witness_HaltingTrapResults :
    let d : State := { demo with launches := [(0, { bareLaunch with debug := true })] }
    (∀ x ∈ ([(.ofUni true u1 [] [], .trap u1 0xFFFF), (.ofUni true u0 [] [], .bkpt u0)] : List (Need × Instr)), Issues demo c0 x) ∧
    (∀ x ∈ ([(.ofUni true u1 [] [], .trap u1 0xFFFF), (.ofUni true u0 [] [], .bkpt u0)] : List (Need × Instr)), Issues d (strandOf d) x) ∧
    (strandOf d).la.debug = true ∧ c0.la.debug = false ∧ c0.w.task = none ∧ (demo.parts.find 0).any (fun p => decide (p.faults.used < 2 ^ p.faults.k)) = true :=
  ⟨issues (by decide +kernel), issues (by decide +kernel), by decide +kernel⟩

/-! ## Witnesses: steps of a strand that no instruction takes -/

/-- The small state with another root strand. -/
def withRun (r : Run) (s : State := demo) : State := { s with waves := [(0, { demoWave with lattice := [(0, ⟨[], some r⟩)] })] }

theorem withRun_ctx (r : Run) : ∃ c, (withRun r).ctxAt 0 0 = some c ∧ c.slot = 0 ∧ c.entry = 0 ∧ c.r = r ∧ c.co = bareCohort ∧ c.w.depth = 0 := by
  refine ⟨_, rfl, rfl, rfl, rfl, rfl, rfl⟩

/-- An entry of the store buffer. -/
def entry (id : Nat) (kind : SBKind) : SBEntry := ⟨id, [0], id, kind, ⟨0, false, false⟩, [], none, []⟩

theorem witness_StrandWaitsEnd :
    (∀ r ∈ [{ c0.r with held := true }, { c0.r with wait := some .joinmem }, { c0.r with wait := some (.fence .acq 7 1) }, { c0.r with wait := some (.fence .rel 5 1) },
      { c0.r with wait := some (.fence .full 7 1) }, { c0.r with wait := some (.fence .eng 2 1) }, { c0.r with wait := some (.sleep 0) }, { c0.r with wait := some (.sleep 1) },
      { c0.r with wait := some .ending }, { c0.r with park := some ⟨1, 1, [], 0, false, true, [], true, false⟩ }, { c0.r with park := some ⟨1, 1, [], 0, false, false, [], true, false⟩ }],
      ∃ c, (withRun r).ctxAt 0 0 = some c ∧ c.slot = 0 ∧ c.entry = 0 ∧ c.r = r ∧ c.co = bareCohort ∧ c.w.depth = 0) ∧
    -- Nothing is before the strand, or an entry that it entered before its FENCE.
    (FirstInOrder demoWave c0.r.key ∧ demoWave.sb = [] ∧ (demoWave.runs.all fun x => x.2.flights == []) = true ∧ demo.loads = [] ∧ demo.cores.all (fun k => k.2.jobs == []) = true ∧
      (∀ k ∈ [FenceKind.rel, .full, .eng], demoWave.fenced c0.r k 1 = []) ∧ earlierThan [0] 1 [] none [0] 0 = true) ∧
    (let s := withVault 0x1F8 (leBytes 8 1)
     let t (x : DWord) := withRun { c0.r with wait := some (.waita 0x1F8 .eq x 63 false 0 0 true 0) } s
     (∀ x ∈ [(1 : DWord), 2], (∃ c, (t x).ctxAt 0 0 = some c) ∧ ((t x).ctxAt 0 0).any (fun c => (t x).vaultEA c.co c.la 0x1F8 false == some 0x1F8 &&
       !atomicBusy (c.w.visible c.r.key c.w.issued) 0x1F8 8 && !(t x).poisonedV 0x1F8 8 && !c.w.trapped && !(t x).readsBefore 0 0 0 &&
       leNat ((t x).loadBytes (c.w.visible c.r.key c.w.issued) 0x1F8 8) == 1) = true)) ∧
    (demoWave.due = none ∧ demoWave.trapped = false) ∧
    ({ demoWave with lattice := [(0, ⟨[splitFrame false], some { c0.r with wait := some .ending }⟩)] } : Wave).depth ≠ 0 := by
  refine ⟨fun r _ => withRun_ctx r, by unfold FirstInOrder; decide +kernel, fun x hx => ?_, by decide +kernel⟩
  simp only [List.mem_cons, List.not_mem_nil, or_false] at hx
  obtain rfl | rfl := hx <;> exact ⟨⟨_, rfl⟩, by decide +kernel⟩

/-- A result of the strand. -/
def flight (st : FlightState) (ws : List Wr) : Flight := { flightOf st with left := 15, dests := [.s 63], writes := ws }

/-- A part of a global access at the start of the data page. -/
def part (id : Nat) (kind : PartKind) (pa width : Nat) (data : List Byte) : Part :=
  { id := id, key := [0], num := id, covers := [], jm := none, lane := 0, kind := kind, pa := pa, va := pa + 0x20000 - 0x210000, width := width, data := data, ord := .rc,
    marks := ⟨0, false, false⟩, mkey := 1, load := none, sent := false, sentAt := 0, mates := [], rem := addrs 0 width, unacked := false }

/-- The data page's neighbours in the leaf table: one with a reserved attribute, one absent. -/
def walkState : State := { demo.homeWrite 1 ((addrs 0x110018 16).zip (leBytes 8 0x22003D ++ leBytes 8 0)) with tlb := [] }

/-- The state inside the split with a result in flight in an arm. -/
def armResult (ws : List Wr) : State :=
  { inSplit 1 with waves := [(0, { splitWave with lattice := splitWave.lattice.put 1 ⟨[], some { below (.arm 0) 0 with flights := [flight .ready ws] }⟩ })] }

theorem witness_ResultsArrive :
    (∀ f ∈ [flight .ready [.s 63 7], flight .ready [.v 126 0xFFFFFFFF (lv id), .v 127 1 (lv id)], flight .ready [.p 7 0xFFFFFFFF 1, .fp 63], flight .ready [.q 7 true],
        flight .ready [.x 7 ⟨false, 0, 0, none, false⟩], flight .ready [.t 7 [(16383, 1), (0, 2), (0, 3)]], flight .ready [.q 1 true, .skip 1], flight .done [],
        flight (.reading (readOf [(0, 0x100, 0x100)] false)) []],
      let s := withRun { c0.r with flights := [f] }
      ∃ c, s.ctxAt 0 0 = some c ∧ c.r.flights[0]? = some f ∧ c.w.closable = none) ∧
    (let c := strandOf (armResult [.s 63 7])
     (armResult [.s 63 7]).ctxAt 0 1 = some c ∧ c.r.flights[0]? = some (flight .ready [.s 63 7]) ∧ c.w.closable = none ∧ c.lv ≠ []) ∧
    (let s := withRun { c0.r with park := some ⟨1, 1, [(0x20000, 0x20004)], 0x20004, false, false, [(0x20000, 0x20004)], true, false⟩ } walkState
     s.ctxAt 0 0 = some (strandOf s) ∧ (strandOf s).r.park = some ⟨1, 1, [(0x20000, 0x20004)], 0x20004, false, false, [(0x20000, 0x20004)], true, false⟩) ∧
    (walkState.walk 0 0x100000 0x20000 0 = .ok dataPage ∧ walkState.walk 0 0x100000 0x30000 0 = .perm ∧ walkState.walk 0 0x100000 0x40000 0 = .miss ∧ demoWave.state ≠ .halted) := by
  refine ⟨fun f _ => ⟨_, rfl, rfl, rfl⟩, by decide +kernel, by decide +kernel, by decide +kernel⟩

/-! ## Witnesses: drains -/

/-- The small state with these entries in the store buffer of its wave, which are as old as its strand. -/
def buffered (es : List SBEntry) : State := { demo with waves := [(0, { demoWave with sb := es })] }

theorem witness_EntriesDrain_entries :
    (∀ e ∈ [entry 3 (.vst 8 ((addrs 0x100 8).zip (leBytes 8 5)) none), { entry 3 (.vst 16 ((addrs 0x100 16).zip (leBytes 16 5)) (some 9)) with marks := ⟨7, false, true⟩ },
        entry 3 (.vatom .cas false false [⟨0, 0x100, 0x100, 1, 2⟩] 63 true), entry 3 (.vatom .add true true [⟨0, 0x100, 0x100, 1, 0⟩, ⟨31, 0x100, 0x100, 2, 0⟩] 126 false),
        entry 3 (.vatom .cas false true [⟨0, 0x100, 0x100, 1, 2⟩, ⟨1, 0x100, 0x100, 1, 2⟩] 4 false), entry 3 (.global [part 0 .write 0x210000 4 (leBytes 4 1)]), entry 3 (.nextw 0x100),
        entry 3 (.subscr [(0x100, part 0 (.subscribe 0x100) 0x210000 8 []), (0x110, { part 1 (.subscribe 0x110) 0x210008 8 [] with ord := .uo })]),
        entry 3 (.unsub [(0x100, part 0 (.unsubscribe 0x100) 0x210000 8 []), (0x110, { part 1 (.unsubscribe 0x110) 0x210008 8 [] with ord := .uo })])],
      let s := buffered [e, entry 4 (.vst 4 [] none)]
      s.waves.find 0 = some { demoWave with sb := [e, entry 4 (.vst 4 [] none)] } ∧ ({ demoWave with sb := [e, entry 4 (.vst 4 [] none)] } : Wave).sb.find? (fun x => x.id == 3) = some e ∧
      FirstInOrder { demoWave with sb := [e, entry 4 (.vst 4 [] none)] } e.key ∧ (∀ x ∈ [e, entry 4 (.vst 4 [] none)], x.key = e.key → 3 ≤ x.id) ∧
      (∀ a ∈ e.vaultBytes, a / Config.vaultSpan = 0) ∧ ({ demoWave with sb := [e] } : Wave).readsLeft (earlierThan e.key e.num e.covers e.jm) = false ∧
      (∀ k ∈ ({ demoWave with sb := [e] } : Wave).beforeVault e, s.pendingAt e.marks.scope k = false)) := by
  unfold FirstInOrder
  decide +kernel

theorem witness_EntriesDrain :
    -- The later entry of the two is not first; one waits for a read of its vault, and a release for a read of its strand.
    (¬ ∀ x ∈ [entry 3 (.nextw 0x100), entry 4 (.nextw 0x100)], x.key = [0] → 4 ≤ x.id) ∧
    (let s := reads [(0, Config.vaultSpan + 0x100, 0xC0800100)] false
     s.readsBefore 0 1 1 = true ∧ (strandOf s).w.readsLeft (earlierThan [0] 3 [] none) = true) ∧
    (demo.inWindow 0x100 = true ∧ (withVault 0x100 [1]).vkeys.find 4 = some (demo.vkeyOf 0) ∧ demo.tags.risingFrom 0 = true ∧
      (([⟨0, 0x100, 0x100, 1, 0⟩, ⟨31, 0x100, 0x100, 2, 0⟩] : List AtomLane).map AtomLane.lane).Nodup) := by decide +kernel

/-! ## Witnesses: homes, channels, regions, translations and the host -/

/-- A wave with a post queue. -/
def posts (ps : List Part) : Wave := { demoWave with pq := ps }

/-- A load on its way. -/
def load (id parts : Nat) (acq : Bool) : Load :=
  { id := id, slot := 0, cohort := 0, target := none, ea := 0x100, land := 4, sx := false, atomic := false, barrier := 15, width := 4, bytes := [], parts := parts, poison := none, pc := 0x10000,
    entry := 0, mask := 1, va := 0x20000, num := 0, key := [0], acq := acq }

theorem witness_PartsPerformAndLand_send :
    let w8 := part 9 .write 0x210000 8 (leBytes 8 5)
    (w8.sent = false ∧ w8.rem ≠ [] ∧ (posts [w8]).pq.find? (fun x => x.id == 9) = some w8) ∧
    -- What keeps it: an earlier SO part, an earlier part of its bytes, an entry before a release, what a release waits for, an acquiring load.
    (let so := { part 0 .write 0x210000 8 (leBytes 8 5) with ord := .so }
     earlierThan w8.key w8.num w8.covers w8.jm so.key so.num = true ∧ so.rem ≠ [] ∧ so.ord = .so ∧ so.meets w8 = true ∧ so.reads = false ∧ so.plainUO = false ∧
     (posts [so, w8]).pq.takeWhile (fun x => x.id != 9) = [so]) ∧
    (let r := { w8 with marks := ⟨7, false, true⟩ }
     earlierThan r.key r.num r.covers r.jm (entry 3 (.vst 4 [] none)).key (entry 3 (.vst 4 [] none)).num = true ∧
     0 ∈ (posts [part 0 .read 0x210000 8 [], r]).beforePart r ∧ ({ demo with waves := [(0, posts [part 0 .read 0x210000 8 [], r])] } : State).pendingAt 7 0 = true) ∧
    (earlierThan w8.key w8.num w8.covers w8.jm (load 1 1 true).key (load 1 1 true).num = true ∧ (load 1 1 true).acq = true) ∧
    -- Nothing does.
    ((posts [w8]).sb = [] ∧ (∀ r ∈ (posts [w8]).runs, r.2.flights = []) ∧ demo.loads = []) := by decide +kernel

theorem witness_PartsPerformAndLand_perform :
    (∀ p ∈ [part 9 .write 0x210000 8 (leBytes 8 5), { part 9 .read 0x210010 16 (leBytes 16 0) with load := some (1, 0) }, part 9 (.atomic .add false 1 0) 0x210008 4 (leBytes 4 0),
        part 9 .write 0x210001 8 (leBytes 8 5), part 9 .write 0xFF000000000000 1 [7]],
      let q : Part := { p with sent := true, sentAt := 1 }
      (posts [q]).pq.find? (fun x => x.id == 9) = some q ∧ q.rem = addrs 0 q.width ∧ q.unacked = false ∧ q.data.length = q.width ∧ 0 < q.width) ∧
    (isHost 0x210000 = false ∧ demo.linked (0x210000 / 2 ^ 48) = true ∧ demo.poisonG = [] ∧ 0x210000 % 8 = 0 ∧ 0x210010 % 16 = 0 ∧ 0x210008 % 4 = 0 ∧ 0x210001 % 8 ≠ 0) ∧
    (isHost 0xFF000000000000 = true ∧ 0 ∈ ({ part 8 .write 0xFF000000000000 1 [6] with sent := true } : Part).rem) ∧
    ({ part 9 .write 0xFF000000000000 1 [7] with sent := true, rem := [], unacked := true } : Part).unacked = true := by decide +kernel

theorem witness_PartsPerformAndLand_land :
    (∀ l ∈ [load 1 0 false, load 1 1 false, { load 1 0 false with atomic := true }, { load 1 0 false with target := some 7 }, { load 1 0 false with poison := some 0x20000 }],
      [l].find? (fun x => x.id == 1) = some l) ∧
    (demo.cohorts.find 7 = none ∧ (load 1 0 false).target = none ∧ demo.waves.find 0 = some demoWave ∧ demoWave.alive = true ∧ demoWave.cohort = 0 ∧ demoWave.due = none) := by decide +kernel

/-- A push to the slot at EA 0x100 of core 0. -/
def aPush (home : Nat) (k : PushKind) : Push := ⟨home, 0, 0x100, 7, k, [3], none, false⟩

theorem witness_SubscriptionsPush :
    let p (k : PartKind) : Part := { part 9 k 0x210000 8 [] with sent := true }
    (∀ k ∈ [PartKind.subscribe 0x7FF0, .unsubscribe 0x7FF0], (posts [p k]).pq.find? (fun x => x.id == 9) = some (p k) ∧ (p k).unacked = false) ∧ demo.hasLink 0x210000 = true ∧
    (let s : State := { demo with subs := [⟨0x210000 / 8, 0, 0x7FF0, 0, false, []⟩] }; ∃ x ∈ s.subs, x.word = 0x210000 / 8 ∧ x.core = 0 ∧ x.slot = 0x7FF0 ∧ x.dormant = false) ∧
    (demo.subs = [] ∧ demo.tableUse ((homeOf 0x210000).getD 0) < tableSize ((homeOf 0x210000).getD 0)) ∧
    (∀ k ∈ [PushKind.value 5 1 false, .refusal, .ack], ∀ x ∈ [aPush 1 .ack], ¬ (x.home = 0 ∧ x.core = 0) ∧
      ({ demo with pushes := [aPush 1 .ack, aPush 0 k] } : State).pushes = [x] ++ aPush 0 k :: []) := by decide +kernel

/-- A home's table that is full: as many queues have their TAIL there as it has entries. -/
def fullTable : State :=
  { demo with parts := demo.parts.map fun p => (p.1, { p.2 with queues := (List.range 16384).map fun k => (k, ⟨0, 0, 0x210000, 0, 0, 0, none, none⟩) }) }

theorem witness_SubscriptionsPush_full : tableSize ((homeOf 0x210000).getD 0) ≤ fullTable.tableUse ((homeOf 0x210000).getD 0) := by
  have h : (homeOf 0x210000).getD 0 = 1 ∧ homeOf 0x210000 = some 1 := by decide
  have hp : demo.parts = State.reset.bare.parts := rfl
  simp [State.tableUse, fullTable, hp, State.bare, State.reset, h, tableSize, List.filter_map, Function.comp_def]

/-- An armed region whose action arrives, releases, pushes, writes or launches, with a write to be counted, and the units that it needs. -/
def acting (a : Action) (count : Nat) (gen : Word := 0xFFFFFFFF) : State :=
  { demo with arrivals := [(0, ⟨[(7, armed count a)], [(7, 0xFFFFFFFF)], [⟨1, [(7, gen, 64)], []⟩]⟩)],
              parts := demo.parts.map fun p => (p.1, { p.2 with queues := [(0, ⟨0x300000, 1, 0x310000, 0x310008, 0x320000, 0x310010, none, none⟩)] }) }

/-- The acting state with a TAIL and a HEAD of its queue. -/
def launching (tail head : Nat) : State := (acting (.launch 0 [⟨0x210000, 128, dataPage⟩]) 64).homeWrite 1 ((addrs 0x310000 16).zip (leBytes 8 tail ++ leBytes 8 head))

theorem witness_RegionsCountAndAct_entries :
    ∀ x ∈ [(Action.arrive 0 15, 64), (.release 0 0, 64), (.task 0 [], 64), (.flag (some 0) 0xFFF8 1, 64), (.launch 0 [], 64), (.arrive 0 15, 0)],
      ((acting x.1 x.2).arrivals.find 0).map (·.entries.find 7) = some (some (armed x.2 x.1)) ∧ (armed x.2 x.1).enabled = decide (x.2 = 64) := by decide +kernel

theorem witness_RegionsCountAndAct_writes : ∀ g ∈ [0xFFFFFFFF, 0],
    ((acting (.arrive 0 15) 0 (BitVec.ofNat 32 g)).arrivals.find 0).map Arrival.writes = some [⟨1, [(7, BitVec.ofNat 32 g, 64)], []⟩] := by decide +kernel

theorem witness_RegionsCountAndAct_generation : ((acting (.arrive 0 15) 0).arrivals.find 0).map (·.gens.find 7) = some (some 0xFFFFFFFF) := by decide +kernel

theorem witness_RegionsCountAndAct_units :
    demo.cohorts.find 0 = some bareCohort ∧ bareCohort.gone = false ∧ bareCohort.preempted = false ∧ bareCohort.freed = false ∧ demo.launches.find 0 = some bareLaunch ∧
      bareLaunch.groups.find 0 = some ⟨[0], true, false, 0, 0, false, []⟩ ∧ (demo.cores.find (64 * 0 + 0)).isSome = true ∧ ({ bareCohort with preempted := true } : Cohort).preempted = true := by
  decide +kernel

/-- TAIL - HEAD of the queue. -/
def waitingPackets (s : State) : Nat :=
  let word (pa : Nat) : DWord := BitVec.ofNat 64 (leNat (s.gbytes 1 pa 8))
  (word 0x310000 - word 0x310008).toNat

theorem witness_RegionsCountAndAct_queue : waitingPackets (launching 0 0xFFFFFFFFFFFFFFFF) = 1 ∧ waitingPackets (launching 1 0xFFFFFFFFFFFFFFFF) = 2 ∧ demo.hasLink 0x210000 = true := by
  decide +kernel

/-- The small state whose leaf table maps the data page's frame, with these bits, in its first entry. -/
def leafState (bits : Nat) : State :=
  { demo.gputs 1 ((addrs 0x110000 8).zip (leBytes 8 (0x21001D + bits))) with roots := [(0, 0x100000)], channels := [(15, ⟨0, 1, 9⟩)] }

theorem witness_TranslationsAndHostRequests_shootdown :
    (let s : State := { demo with tlb := [(0, [⟨0, 0x100000, dataPage⟩])] }
     s.usesRoot 0x100000 0 = true ∧ demoWave.usesVa 0x2FFFF 1 = false ∧ (posts [part 0 .read 0x210000 8 []]).usesVa 0x20007 1 = true ∧ s.saved = [] ∧
     s.cores.all (fun k => k.2.jobs == []) = true ∧ (s.tlb.find 0).isSome = true ∧ demoWave.x.find 1 = some ⟨true, 0x20000, 0x10000, some dataPage, false⟩) := by decide +kernel

theorem witness_TranslationsAndHostRequests_ownership :
    (0x210000 % 65536 = 0 ∧ (homeOf 0x210000).isSome = true ∧ demo.hostq = []) ∧ (posts [part 0 .read 0x210000 8 []]).usesPa 0x210000 65536 = true ∧
    State.reset.waves = [] ∧ State.reset.saved = [] ∧ State.reset.tlb = [] ∧ State.reset.cores = [] := by decide +kernel

theorem witness_TranslationsAndHostRequests_host :
    (demo.selfChip = some 0 ∧ demo.hdmBase ≤ 0x210000 ∧ 0x210000 - 0 + 64 ≤ 0x200000000000 ∧ 0x210000 / 65536 = (0x210000 + 63) / 65536) ∧
    (let inside (x : Nat × Nat) (pa : Nat) : Bool := decide (x.1 ≤ pa) && decide (pa < x.1 + x.2)
     (demo.parts.all fun e => !inside e.2.qarea 0x210000 && !inside e.2.carea 0x210000) = true ∧ (demo.parts.any fun e => inside e.2.qarea 0x2000000) = true) ∧
    (homeOf 0xFFFFFFFF0000 = none ∧ demo.leafOf 0x210000 = none ∧ demo.devPages.find (0x210000 / 65536) = none) ∧
    ((leafState 0x40).leafOf 0x210000).map (fun x => (x.1, x.2.getLsbD 6, x.2.getLsbD 7)) = some (0, true, false) ∧
    ((leafState (0xF0000000000000C0)).leafOf 0x210000).map (fun x => (x.1, x.2.getLsbD 6, x.2.getLsbD 7, x.2.toNat / 2 ^ 60)) = some (0, true, true, 15) ∧
    (leafState 0).channelKey 0 15 = some 9 ∧ ((leafState 0).leafOf 0x210000).map (fun x => (x.1, x.2.getLsbD 6)) = some (0, false) ∧
    ((leafState 0).ownerPart 0x210000).map (fun x => (x.1, decide (x.2.migOut = []), decide ((x.2.migs.put - x.2.migs.got).toNat < 2 ^ x.2.migs.k))) = some (0, true, true) := by decide +kernel

theorem witness_TranslationsAndHostRequests_parts : ∀ h ∈ [(⟨9, 1, 0x210000, 0x210000, 8, none, addrs 0 8, [], false⟩ : HostPart), ⟨9, 1, 0x210000, 0x210000, 8, some (leBytes 8 5), addrs 0 8, [], false⟩,
      ⟨9, 1, 0x210001, 0x210001, 8, some (leBytes 8 5), addrs 0 8, [], false⟩],
    ({ demo with hostq := [h] } : State).hostq.find? (fun x => x.id == 9) = some h ∧ h.rem = addrs 0 h.width ∧ demo.poisonG = [] ∧ (decide (h.pa % h.width = 0) || decide (1 < h.width)) = true := by
  decide +kernel

/-! ## Witnesses: engines, packets, launches and gangs -/

/-- A copy job inside the vault: two rows of 128 bytes, with a flag and a barrier. -/
def aJob : Job :=
  { id := 5, kind := .copy, state := .running, slot := 0, widx := 0, cohort := 0, strand := 0, pc := 0x10000, key := [0], num := 0, src := 0x1000, dst := 0x2001, srcG := false, dstG := false,
    rows := 2, rowb := 128, sstr := 128, dstr := 256, layout := 0, bar := some 15, flag := some (0xFFF8, 1), ext := 0, tile := 0, staged := [], prog := 0, begun := 0, left := [], theta := 0,
    step := 0, entry := 0, fmt := 0, count := 0, phase := 0, hit := false, buf := [], head := none, race := false, use := 0, after := [] }

/-- The small state with jobs and queued MMAs on core 0. -/
def engine (js : List Job) (ms : List Mma := []) (w : Wave := demoWave) : State := { demo with cores := [(0, ⟨0, [], js, ms, []⟩)], waves := [(0, w)] }

/-- An MMA of two tiles of zeros. -/
def anMma (started : Bool) : Mma := ⟨3, 0, 0, 0x10000, 0, false, false, 0, 1, 2, started, none⟩

theorem witness_CopyEnginesMoveBytes :
    (∀ j ∈ [{ aJob with state := .handed }, { aJob with state := .handed, kind := .tstg }, aJob, { aJob with begun := 250 }, { aJob with begun := 256 }, { aJob with state := .parked },
        { aJob with left := [(0, ⟨1, [], [], none⟩)] }, { aJob with left := [(0, ⟨1, [], [], some [7]⟩)] }, { aJob with kind := .tstg, state := .capturing }],
      let s := engine [j]
      (s.cores.find 0).any (fun k => k.jobs == [j]) = true ∧ [j].find? (fun x => x.id == 5) = some j ∧ s.launchOf 0 = some bareLaunch ∧ s.fenced j = false ∧
      (j.state = .stopped → j.left ≠ []) ∧ s.poisonV = [] ∧ s.poisonT = [] ∧ s.jobWave 0 0 = some demoWave ∧ demoWave.trapped = false ∧ s.cohorts.find 0 = some bareCohort) ∧
    (aJob.srcG = false ∧ aJob.dstG = false ∧ aJob.layout = 0 ∧ 0 < aJob.rowb ∧ 250 < aJob.rows * aJob.rowb ∧ aJob.rows * aJob.rowb ≤ 256 ∧ aJob.flag = some (0xFFF8, 1) ∧
      aJob.bar = some 15 ∧ bareCohort.gone = false) ∧
    [{ aJob with state := .handed, id := 6 }, { aJob with state := .handed }].find? (fun x => x.state == .handed) = some { aJob with state := .handed, id := 6 } ∧
    (∀ b : Bool, ((engine [] [anMma b]).cores.find 0).any (fun k => k.mmas == [anMma b]) = true ∧ (anMma b).job = none ∧ demoWave.depth = 0) := by decide +kernel

/-- Tiles of one or two rows of two FP64 elements: C holds `c` and 0, A holds 1 and 0, B holds 1, 0, 0, 0. -/
def smallTiles (c : Nat) : Wave :=
  { demoWave with shape := [(0, 0x207), (1, 0x207), (2, 0x20B)],
                  tmem := Memory.setAll [] ((addrs 0 16).zip (leBytes 16 c) ++ (addrs (tileAddr 1 0) 16).zip (leBytes 16 0x3FF0000000000000) ++
                    (addrs (tileAddr 2 0) 16).zip (leBytes 16 0x3FF0000000000000) ++ (addrs (tileAddr 2 256) 16).zip (leBytes 16 0)) }

theorem witness_MatrixArrayRunsMmas :
    (∀ c ∈ [0, 0x4340000000000000], let w := smallTiles c
      let s := engine [] [anMma true] w
      (s.waves.find 0).any (fun v => v == w) = true ∧ w.depth = 0 ∧ s.cohorts.find w.cohort = some bareCohort ∧ s.launches.find bareCohort.launch = some bareLaunch ∧
      w.trapped = false ∧ (s.cores.find 0).any (fun k => k.mmas == [anMma true]) = true) ∧
    ((anMma true).op.result 0 0 (smallTiles 0)).2 = none ∧ ((anMma true).op.result 0 0 (smallTiles 0x4340000000000000)).2 = some 0 := by decide +kernel

/-- A packet. -/
def packet (kind lanes tiles cohorts code gtab : Nat) : List Byte :=
  fields [(8, code), (4, 0x10000), (4, 0), (8, 0x20000), (2, 0), (1, kind), (1, 16), (1, tiles), (1, 1), (2, lanes), (4, cohorts), (4, 0x10000), (8, 0x100000), (8, gtab), (8, 0), (4, 0), (4, 0),
    (4, 0), (4, 0), (2, 0), (2, 0), (2, 0), (2, 0), (4, 0), (4, 0), (8, 7), (24, 0)]

/-- The small state whose partition has a queue of 16 entries, with a HEAD and a TAIL, the packet at HEAD, and at 0x210000 the FLAGS of a group table, 4 for entry 0. -/
def queued (head tail : Nat) (bs : List Byte) (table : Nat := 0) : State :=
  let cells : Memory := (addrs 0x110018 8).zip (leBytes 8 0) ++ (List.range table).map (fun k => (0x21000C + 16 * k, if k = 0 then 4 else 0)) ++ (addrs (0x300000 + 128 * (head % 16)) 128).zip bs ++
    (addrs 0x310000 16).zip (leBytes 8 tail ++ leBytes 8 head)
  { demo with
    gmem := demo.gmem ++ cells, gkeys := demo.gkeys ++ (addrs 0x8400 (table / 4) ++ addrs (0xC000 + 2 * (head % 16)) 2 ++ [0xC400]).map fun l => (l, 1),
    parts := demo.parts.map fun p => (p.1, { p.2 with queues := [(0, ⟨0x300000, 4, 0x310000, 0x310008, 0x320000, 0x310010, none, none⟩)] }) }

/-- What the queue holds: TAIL − HEAD, and how the packet at HEAD is judged. -/
def judged (s : State) : Option (Nat × Except Nat Launch) := do
  let p ← s.parts.find 0
  let q ← p.queues.find 0
  let word (pa : Nat) : DWord := BitVec.ofNat 64 (leNat (s.gbytes p.dkey pa 8))
  guard (!s.down ∧ (s.launches.find 1).isNone ∧ s.selfChip.isSome ∧ q.overrun = none)
  some ((word q.tail - word q.head).toNat, s.judge p 0 0 (s.gbytes p.dkey (q.ring + 128 * ((word q.head).toNat % 2 ^ q.k)) 128))

/-- TAIL − HEAD, and the reason for which the packet at HEAD is refused, or 0. -/
def verdict (x : Option (Nat × Except Nat Launch)) : Option (Nat × Nat) := x.map fun y => (y.1, match y.2 with
  | .error r => r
  | .ok _ => 0)

abbrev top : Nat := 0xFFFFFFFFFFFFFFFF

theorem witness_PacketsAreAcceptedOrRefused_empty : (judged (queued 5 5 [])).map Prod.fst = some 0 := by decide +kernel
theorem witness_PacketsAreAcceptedOrRefused_7 : (judged (queued top 16 [])).map Prod.fst = some 17 := by decide +kernel
theorem witness_PacketsAreAcceptedOrRefused_1 : verdict (judged (queued top 15 (packet 0x40 32 8 1 0x10000 0))) = some (16, 1) := by decide +kernel
theorem witness_PacketsAreAcceptedOrRefused_6 : verdict (judged (queued top 15 (packet 2 257 0 1 0x10000 0))) = some (16, 6) := by decide +kernel
theorem witness_PacketsAreAcceptedOrRefused_5 : verdict (judged (queued top 15 (packet 0 32 8 1 0x30000 0))) = some (16, 5) := by decide +kernel
theorem witness_PacketsAreAcceptedOrRefused_2 : verdict (judged (queued top 15 (packet 1 32 8 1 0x10000 0x20000) 256)) = some (16, 2) := by decide +kernel
theorem witness_PacketsAreAcceptedOrRefused_4 : verdict (judged (queued top 15 (packet 0 512 8 1 0x10000 0))) = some (16, 4) := by decide +kernel
theorem witness_PacketsAreAcceptedOrRefused_3 : verdict (judged (queued top 15 (packet 1 32 8 100 0x10000 0))) = some (16, 3) := by decide +kernel
theorem witness_PacketsAreAcceptedOrRefused_persistent : verdict (judged (queued top 15 (packet 1 32 8 1 0x10000 0))) = some (16, 0) := by decide +kernel
theorem witness_PacketsAreAcceptedOrRefused_other : verdict (judged (queued top 15 (packet 0x10 512 2 4294967295 0x10000 0))) = some (16, 0) := by decide +kernel

/-! ## Witnesses: cohorts, gangs, contexts, and the module -/

/-- A launch in SERIAL order behind another, whose cohort 1 is not bound. -/
def waiting (serial : Bool) (ended : Bool) : State :=
  { demo with launches := [(0, { bareLaunch with ended := ended }), (1, { bareLaunch with serial := serial, after := some (0, 0), cohorts := 2 })] }

/-- A place on core 0 for the second cohort of launch 1, in the wave slots after the demo's, with a window of no use to another. -/
def aPlace (core : Nat) (slot : Nat) : Place := ⟨1, 1, 0, core, 0x10000, [slot], [0xFF00]⟩

theorem witness_CohortsAreBound :
    (∀ s ∈ [waiting false false, waiting true false, waiting true true], ∃ l, s.launches.find 1 = some l ∧ l.clsz = 1 ∧ l.gang = false ∧ l.ended = false ∧ s.down = false ∧ 1 < l.cohorts ∧
      s.cohorts.find (cohortKey 1 1) = none ∧ s.fitsAt l (aPlace 0 0) (List.range l.waves) = false ∧ s.fitsAt l (aPlace 0 7) (List.range l.waves) = true) ∧
    (∀ l, (waiting true false).launches.find 1 = some l → (waiting true false).serialOk l = false) ∧ (∀ l, (waiting true true).launches.find 1 = some l → (waiting true true).serialOk l = true) ∧
    ∀ l, (waiting false false).launches.find 1 = some l → (waiting false false).serialOk l = true :=
  ⟨fun s hs => by
      simp only [List.mem_cons, List.not_mem_nil, or_false] at hs
      obtain rfl | rfl | rfl := hs <;> exact ⟨_, rfl, by decide +kernel⟩,
    fun l h => by cases h; decide +kernel, fun l h => by cases h; decide +kernel, fun l h => by cases h; decide +kernel⟩

/-- A fatal record of the wave that is due. -/
def dueRecord : FaultRec := ⟨.eccUncorrectable, 0, 0, 0, 0, 0, 0, 0, 0⟩

/-- The small state with its launch changed. -/
def launched (l : Launch) : State := { demo with launches := [(0, l)] }

theorem witness_WavesCohortsAndRequestsEnd_waves :
    (∀ w ∈ [demoWave, { demoWave with lattice := [], pq := [part 9 .write 0x210000 4 []] }, { demoWave with lattice := [] }, { demoWave with lattice := [], due := some dueRecord },
        { demoWave with state := .halted }, { demoWave with state := .killed }, { demoWave with state := .killed, pq := [part 9 .write 0x210000 4 []] }],
      let s := engine [] [] w
      (s.waves.find 0).any (fun v => v == w) = true ∧ s.cores.find (slotCore 0) = some ⟨0, [], [], [], []⟩ ∧ s.cohorts.find w.cohort = some bareCohort ∧ FMap.risingFrom 0 s.waves = true ∧
      s.launches.find bareCohort.launch = some bareLaunch ∧ FMap.risingFrom 0 bareLaunch.groups = true ∧ s.missRecord 0 w = none) ∧
    demoWave.lattice ≠ [] ∧ demoWave.sb = [] ∧ demoWave.pq = [] ∧ demoWave.nextw = 0 ∧ demoWave.due = none ∧ demoWave.state ≠ .killed ∧ demoWave.state ≠ .halted := by decide +kernel

/-- Two waves of a cohort, the first of which has finished, while the second waits for a group's phase and has counted its execution. -/
def lastToMeet : State :=
  { demo with
    waves := [(0, { demoWave with lattice := [] }), (1, { demoWave with widx := 1, lattice := [(0, ⟨[], some { c0.r with wait := some (.group 0 0 7) }⟩)] })],
    cohorts := [(0, { bareCohort with nwaves := 2, gbar := [(1, 1)] })] }

theorem witness_WavesCohortsAndRequestsEnd_groups :
    let c : Cohort := { bareCohort with nwaves := 2, gbar := [(1, 1)] }
    lastToMeet.cohorts.find 0 = some c ∧ lastToMeet.launches.find 0 = some bareLaunch ∧ (cohortKey 0 0 = 0) ∧
    -- With the first wave retired every wave of the group has executed the phase; before a phase of the cluster none has.
    (∀ k < 2, k ∉ [0] → 0 < (c.gbar.find (0 * 16 + k)).getD 0) ∧ ¬ (∀ k < 2, k ∉ [0] → 0 < (c.cbar.find (0 * 16 + k)).getD 0) ∧ 1 < c.nwaves ∧
    ((lastToMeet.waves.find 1).bind fun w => w.run 0).map Run.wait = some (some (.group 0 0 7)) := by decide +kernel

theorem witness_WavesCohortsAndRequestsEnd_kill :
    (∀ w ∈ [{ demoWave with state := .halted }, { demoWave with state := .halted, task := some ⟨record 0, []⟩ }],
      (engine [] [] w).waves.find 0 = some w ∧ w.state = .halted ∧ w.fatal = none ∧ (demo.parts.find 0).any (fun p => decide (p.faults.used + 2 ≤ 2 ^ p.faults.k)) = true) ∧
    (let f : FaultRec := ⟨.xlateMiss, 1, 0, 0, waveField 0, 0, 0, 0, 0⟩
     let s : State := { withRun { c0.r with park := some ⟨1, 1, [], 0, false, true, [], true, false⟩ } with fwFaults := [f] }
     (s.waves.find 0).bind (s.missRecord 0) = some f) := by decide +kernel

/-- A cohort all of whose waves have retired, one of two of its launch. -/
def retiring : State := { launched { bareLaunch with cohorts := 2, groups := [] } with waves := [], cohorts := [(0, { bareCohort with retired := [0] })] }

theorem witness_WavesCohortsAndRequestsEnd_cohorts :
    (demo.cohorts.find 0 = some bareCohort ∧ bareCohort.retired.length ≠ bareCohort.nwaves ∧ demo.launches.find bareCohort.launch = some bareLaunch) ∧
    (retiring.cohorts.find 0 = some { bareCohort with retired := [0] } ∧ retiring.waves = [] ∧ retiring.loads = [] ∧ retiring.cores.all (fun e => e.2.jobs == []) = true ∧ cohortKey 0 0 = 0 ∧
      bareCohort.gone = false ∧ bareCohort.fatal = false ∧ bareCohort.preempted = false ∧ bareCohort.nwaves = 1 ∧ bareLaunch.clsz = 1 ∧ bareLaunch.done.length + 1 < 2 ∧ bareLaunch.ended = false) ∧
    (∀ x ∈ [(bareLaunch, 1), ({ bareLaunch with wdog := 1, wcount := 0xFFFFF }, 0), ({ bareLaunch with wdog := 1, wcount := 0xFFFFF }, 1)],
      (launched x.1).launches.find 0 = some x.1 ∧ x.1.ended = false ∧ ((launched x.1).waves.all fun e => e.2.cohort == 0 && e.2.state != .halted && e.2.state != .killed) = true ∧
      (launched x.1).waves ≠ [] ∧ ((x.1.wdog = 0 ∨ x.1.wcount + x.2 < x.1.wdog * 2 ^ 20) ∨ (x.1.wdog ≠ 0 ∧ x.1.wdog * 2 ^ 20 ≤ x.1.wcount + x.2))) ∧
    (retiring.launches.find 0 = some { bareLaunch with cohorts := 2, groups := [] } ∧ retiring.waves = []) := by decide +kernel

theorem witness_WavesCohortsAndRequestsEnd_requests :
    (∀ n ∈ [255, 256], let s : State := { deques (List.replicate n []) [] with parts := demo.parts.map fun p => (p.1, { p.2 with overflow := [⟨0, record 0x10008, []⟩] }) }
      (s.parts.find 0).any (fun p => p.overflow == [⟨0, record 0x10008, []⟩]) = true ∧ (s.cores.find 0).any (fun k => k.part == 0 && k.deque.length == n) = true) ∧
    (∀ g ∈ [0, 1], ∀ who ∈ [some 0, none], let l := { bareLaunch with reqs := [(who, 0x200), (some 0, 0x210)], grants := g }
      (launched l).launches.find 0 = some l ∧ l.distrib = true ∧ decide (g < l.dx * l.dy * l.dz) = (g == 0) ∧
      ((∀ x ∈ l.reqs.take 1, x.1 ≠ some 0 ∨ x.1 = none) ↔ who = none)) ∧
    (let l := { bareLaunch with answers := [(0, 0x200, 0, 0)] }
     (launched l).launches.find 0 = some l ∧ (launched l).waves.find 0 = some demoWave) := by decide +kernel

/-- The small state with a gang, its launch, and the routing table of chip 0. -/
def ganging (g : Gang) (ph : GangPhase) : State := { launched { bareLaunch with gang := true, gphase := ph } with gangs := [(0, g)] }

theorem witness_GangsStartTogetherOrNotAtAll :
    let g : Gang := ⟨0, [0, 255], [0], [], [0], false, false, false⟩
    (∀ x ∈ [(g, GangPhase.prepared), ({ g with cancelled := true }, .prepared), ({ g with sentStart := true }, .prepared), ({ g with sentStart := true, aborted := true }, .started),
        ({ g with started := [0, 255] }, .started)],
      (ganging x.1 x.2).gangs.find 0 = some x.1 ∧ (ganging x.1 x.2).selfChip ≠ some 255 ∧ (ganging x.1 x.2).launches.find 0 = some { bareLaunch with gang := true, gphase := x.2 }) ∧
    (255 ∈ g.members ∧ 255 ∉ g.acks ∧ g.nacks = [] ∧ 255 ∉ g.started ∧ g.started.length < g.members.length ∧ bareLaunch.gangId = 0 ∧ bareLaunch.ended = false) := by decide +kernel

/-- A gang launch of one cohort that is not bound. -/
def unbound : State :=
  { ganging ⟨0, [0, 255], [], [], [], false, false, false⟩ .none with waves := [], cohorts := [], launches := [(0, { bareLaunch with gang := true, bound := [] })] }

theorem witness_GangsStartTogetherOrNotAtAll_prepare :
    let l := { bareLaunch with gang := true, bound := [] }
    let ps : List Place := [⟨0, 0, 0, 0, 0, [7], [0xFF]⟩]
    unbound.launches.find 0 = some l ∧ ps.length = l.cohorts ∧ (groupsOf l.clsz ps.length ps).all (clusterPlaces l) = true ∧ (unbound.bindAll 0 l ps).isSome = true ∧ unbound.down = false ∧ unbound.serialOk l = true ∧
      ({ unbound with launches := (3, { bareLaunch with seq := 9 }) :: [] } : State).serialOk { l with serial := true, after := some (3, 9) } = false := by
  decide +kernel

/-- A cohort saved by itself, and the state without it. -/
def savedCohort : Saved := ⟨0, [(0, { demoWave with lattice := [(0, ⟨[], some { c0.r with wait := some (.sleep 5) }⟩)] })], [], [(0, 7)], [], [], []⟩
def preempted : State := { demo with waves := [], cohorts := [(0, { bareCohort with preempted := true })], saved := [savedCohort] }

theorem witness_ContextsAndTheDebugger :
    (∀ w ∈ [demoWave, posts [part 9 .write 0x210000 4 []]], let s := engine [] [] w
      s.cohorts = [(0, bareCohort)] ∧ s.launches.find bareCohort.launch = some bareLaunch ∧ bareLaunch.gang = false ∧ bareLaunch.ended = false ∧ bareCohort.gone = false ∧
      bareCohort.preempted = false ∧ s.cohortQuiet 0 bareCohort = w.pq.isEmpty ∧ s.dueIn [0] = none) ∧
    (engine [] [] { demoWave with due := some dueRecord }).dueIn [0] = some (0, dueRecord) ∧
    (preempted.cohorts = [(cohortKey 0 0, { bareCohort with preempted := true })] ∧ preempted.launches.find 0 = some bareLaunch ∧ preempted.saved = [savedCohort] ∧ savedCohort.cohort = cohortKey 0 0 ∧
      preempted.down = false ∧ preempted.fitsAt bareLaunch ⟨0, 0, 0, 1, 0x10000, [7], [0xFF]⟩ (savedCohort.waves.map (·.1)) = true ∧ FMap.risingFrom 0 preempted.cores = true ∧
      (preempted.cores.find 1).isSome = true ∧ preempted.subs = [] ∧ bareCohort.nwaves = bareLaunch.waves ∧ FMap.risingFrom 0 savedCohort.waves = true ∧
      (savedCohort.waves.all fun e => decide (e.1 < bareCohort.nwaves)) = true) := by decide +kernel

theorem witness_ContextsAndTheDebugger_halted :
    (∀ w ∈ [demoWave, { demoWave with state := .running }, { demoWave with state := .halted }, { demoWave with state := .halted, fatal := some .illegalOp },
        { demoWave with state := .halted, resumeAt := [(0, 0x10004, none)] }],
      (engine [] [] w).waves.find 0 = some w ∧ (w.run 0).isSome = true ∧ (engine [] [] w).cohorts.find w.cohort = some bareCohort) ∧
    (127 < demoWave.budget ∧ 0xFFFF < bareCohort.wsize ∧ 0xFFFFFFFFFFFC % 4 = 0 ∧ 0xFFFFFFFFFFFC < 2 ^ 48) := by decide +kernel

/-- A partition that the firmware may create beside the demo's, or may not. -/
def aPartition (cores : List Nat) (queues : List QueueSpec) : PartitionSpec :=
  ⟨cores, queues, true, (0x3000000, 0x20000), (0, 0), [(0x4000000, 0x1000000)], evenShares 0, (0x3010000, 4, 0x3010800), (0x3010900, 4, 0x3010A00)⟩

/-- The image in flash at reset. -/
def image0 : Image := State.reset.flash

/-- A module without launches, with two partitions or one, that the mailbox or an image runs. -/
def module_ (b : BootState) (ps : List Nat) : State := { demo with boot := b, launches := [], waves := [], parts := ps.flatMap fun n => demo.parts.map fun p => (n, p.2) }

theorem witness_ModuleStepResults :
    (State.reset.boot = .reset ∧ (module_ .failed []).boot = .failed ∧ (module_ .failed []).down = false ∧ demo.boot ≠ .failed ∧ demo.down = false ∧ demo.launches ≠ []) ∧
    (let s := module_ (.running image0) [0, 1]
     s.launches = [] ∧ (0x80000000BFFFFFFF : BitVec 64).getLsbD 30 = false ∧ s.channels.find 15 = none ∧ (s.parts.find 0).isSome = true ∧ (s.parts.find 1).isSome = true ∧ s.signed < 2 ^ 20 ∧
     s.waves = [] ∧ s.saved = [] ∧ s.channels = [] ∧ s.cores.all (fun k => k.2.jobs == []) = true ∧ s.mhz = 1050 ∧ 0 ∉ s.links ∧ 15 ∉ s.links ∧
     ({ s with mhz := 400 } : State).mhz = 350 + 50) ∧
    (demo.specOk 7 (aPartition [255, 2] []) = true ∧ demo.specOk 7 (aPartition [] []) = false ∧ demo.specOk 7 (aPartition [0] []) = false ∧
      demo.specOk 7 (aPartition [2] [⟨15, 0x3000000, 4, 0x3001000, 0x3001008, 0x3001020, 0x3001220⟩]) = true) ∧
    (∀ x ∈ [PoisonSite.dram 0x8400, .vault 0, .tile 0 8191, .register 0 127 31], demo.siteOk x = true) ∧ (demo.icache.filter fun x => x.core == 0).length < 65536 := by decide +kernel

theorem witness_ModuleStepResults_image : demo.boot = .running image0 ∧ (module_ (.running image0) [0, 1]).boot = .running image0 ∧
    ({ module_ (.running image0) [0, 1] with signed := 2 ^ 20 } : State).boot = .running image0 := ⟨rfl, rfl, rfl⟩

theorem witness_ModuleStepResults_fill :
    demo.launches.find 0 = some bareLaunch ∧ demo.cores.find 0 = some ⟨0, [], [], [], []⟩ ∧ bareLaunch.code ≤ 0x1FFFC ∧ 0x1FFFC + 4 ≤ bareLaunch.code + bareLaunch.extent ∧ 0x1FFFC % 4 = 0 ∧
    (match demo.walkNow 0 0 bareLaunch.root 0x1FFFC with
      | .ok _ => true
      | _ => false) = true ∧ demo.down = false := by decide +kernel

theorem witness_WritesReadBackAndPush :
    let bs := leBytes 8 5
    let s : State := { demo.homeWrite 1 ((addrs 0x210038 8).zip bs) with subs := [⟨0x210038 / 8, 0, 0x100, 0, false, []⟩], seqs := [(0x210038 / 8, 0xFFFFFFFF)] }
    (0 < bs.length ∧ 0x210038 % 64 + bs.length ≤ 64 ∧ isHost 0x210038 = false ∧ s.gkeys.find (0x210038 / 64) = some 1 ∧ 0x210038 % 8 = 0 ∧ ∃ b ∈ s.subs, b.word = 0x210038 / 8) ∧
    (s.gbytes 1 0x210038 8 = bs ∧ s.gbytes 1 0x210038 8 ≠ leBytes 8 6 ∧ ∃ b ∈ s.subs, b.word = 0x210038 / 8 ∧ b.dormant = false) ∧
    ((∀ k, k < bs.length → demo.inWindow (0xFFF8 + k) = true) ∧ 0xFFF8 % 64 + bs.length ≤ 64 ∧
      (withVault 0xFFF0 [1]).vkeys.find (0xFFF8 / 64) = some ((withVault 0xFFF0 [1]).vkeyOf (0xFFF8 / Config.vaultSpan))) := by decide +kernel

/-- The small state with nothing in the TLB and a stale register in x1. -/
def walking : State := { demo with tlb := [], waves := [(0, { demoWave with x := [(1, ⟨true, 0x20000, 0x10000, none, true⟩)] })] }

/-- Loads and stores of lanes at the EAs of v1 and the offsets of a lane register. -/
def accesses (b : BitVec 7) : List (Need × Instr) :=
  let load : Need := { Need.ofLane true l1 (nv 1 ++ nv b ++ nx 1) [] with mem := true, warn := warnRead o0 false }
  let store : Need := { Need.ofLane true l1 (nv 1 ++ nv b ++ nx 1) [] with mem := true, warn := warnWrite o0 }
  [(load, .gldB l1 1 15 1 b o0 0), (load, .gldW l1 1 15 1 b o0 0), (store, .gstB l1 1 1 b o0), (store, .gstW l1 1 1 b o0)]

theorem witness_TrapsAreTaken_accesses :
    (∀ x ∈ accesses 8, Issues demo c0 x) ∧ (∀ x ∈ accesses 7, Issues walking (strandOf walking) x) ∧
    (∀ c ∈ [c0, strandOf walking], c.la.protect = false ∧ c.r.park = none ∧ lanesOf (c.active l1) ≠ [] ∧ c.globalsUndrained = false ∧ demo.relWait c o0 = false) ∧
    (∀ l ∈ lanesOf (c0.active l1), (demo.vaultEA c0.co c0.la (eaOf (c0.v 1 l) 0) true).isSome = true ∧ (eaOf (c0.v 1 l) 0).toNat % 4 = 0) ∧
    (∀ p ∈ [(1, true), (4, true), (1, false), (4, false)], demo.xaccess c0 (c0.w.xreg 1) (c0.v 8 0).toNat p.1 p.2 (!p.2) = .perm 0x30008 ∧ 0 ∈ lanesOf (c0.active l1) ∧
      ∀ l ∈ lanesOf (c0.active l1), walking.xaccess (strandOf walking) ((strandOf walking).w.xreg 1) ((strandOf walking).v 7 l).toNat p.1 p.2 (!p.2) = .pending [0x20000] 0x2FFF0) :=
  ⟨issues (by decide +kernel), issues (by decide +kernel), by decide +kernel, by decide +kernel, by decide +kernel⟩

/-- The strand may be checked: nothing of it waits. -/
def checked (s : State) : Bool :=
  !s.down && (s.ctx.any fun c => c == strandOf s) && (strandOf s).ready && !s.quadBusy (strandOf s).slot && (strandOf s).w.due.isNone && !acquiring (strandOf s).r &&
    (strandOf s).r.flights.all fun f => f.left != 0 || f.state == .done

/-- The small state with other fields of its wave. -/
def waved (f : Wave → Wave) : State := { demo with waves := [(0, f demoWave)] }

theorem witness_TrapsAreTaken_checks :
    let need (d a : BitVec 7) : Need := Need.ofLane true l0 (nv a ++ nv 2) (nv d)
    let tnext : Need := Need.ofUni true u0 [] ((addrs 37 7).map RegName.s ++ ns 63 ++ dq 7)
    let a := waved fun w => { w with budget := 16 }
    let b := withRun { c0.r with flights := [{ flight .ready [] with dests := [.v 127] }] }
    let d : State := { launched { bareLaunch with distrib := false } with cores := demo.cores }
    let e : State := { demo with poisonR := [(0, 127, 31)] }
    (∀ s ∈ [demo, a, b, d, e, inSplit 1, inSplit 3, inTask [], withRun { c0.r with mask := 1 }], checked s = true) ∧
    (Instr.wf (.iadd ⟨false, 1, false, 0, false⟩ 1 2 3) = false ∧ Instr.wf (.tnext ⟨false, 1⟩ 7) = false ∧ Instr.wf (.barrive ⟨false, 1⟩ 63 15) = false ∧ Instr.wf (.nextw u0 1 1) = false) ∧
    (Instr.wf (.iadd l0 16 1 2) = true ∧ RegName.v 16 ∈ (need 16 1).all ∧ (strandOf a).w.budget ≤ 16) ∧
    (Instr.wf (.iadd l0 127 1 2) = true ∧ ((need 127 1).all.all fun r => match r with
        | .v j => decide (j < 128)
        | _ => true) = true ∧ c0.w.budget = 128) ∧
    ((strandOf b).r.flights.find? (fun f => f.left != 0 && (need 127 1).all.any fun r => f.dests.contains r)).isSome = true ∧
    ((strandOf (inSplit 1)).lv.any fun v => !v.mayWrite (.v 127)) = true ∧ ((strandOf (inSplit 1)).lv.any fun v => v.role.isArm) = true ∧
    (Instr.wf (.nextw u0 63 0) = true ∧ (strandOf d).la.distrib = false ∧ d.poisonR = []) ∧
    (Instr.wf (.tnext u0 7) = true ∧ Instr.wf (.barrive u0 63 15) = true ∧ (strandOf (withRun { c0.r with mask := 1 })).smask ≠ c0.w.live ∧ c0.lv = [] ∧ tnext.guard = []) ∧
    ((strandOf (inTask [])).smask = (strandOf (inTask [])).w.live ∧ (strandOf (inTask [])).lv = [] ∧ (strandOf (inTask [])).w.task.isSome = true) ∧
    (e.poisonR = [((strandOf e).slot, 127, 31)] ∧ ((strandOf e).active l0).getLsbD 31 = true ∧ (127 : BitVec 7).toNat = 127 ∧ Instr.wf (.iadd l0 1 127 2) = true) := by
  decide +kernel

/-! ## Witnesses: encodings and the step -/

theorem witness_DecodeAndEncodeAgree :
    Instr.wf (.imad l1 127 0 64 1) = true ∧ (encode (.imad l1 127 0 64 1)).isSome = true ∧
    (match decodeWords 0x47040C23 0x20050000 with
      | .ok i => i == .imad ⟨true, 2, false, 0, false⟩ 2 3 4 5
      | .error _ => false) = true := by decide +kernel

/-- The small state whose strand is next, with this word at its PC. -/
def next (w : Nat) : State := { demo.gputs 1 ((addrs 0x200000 4).zip (leBytes 4 w)) with agenda := [.issue 0 0], cur := none }

/-- The state in which that step runs its instruction. -/
def stepped (s : State) : State := { s.advance with agenda := [], cur := some (0, 0), rr := s.rr.put 0 0 }

theorem witness_StepRunsTheDecodedInstruction : ∀ w ∈ ([0x00020800, 0x10080C30] : List Nat),
    let s := next w
    let u := stepped s
    s.down = false ∧ s.patches = [] ∧ u.ctxAt 0 0 = some (strandOf u) ∧ (strandOf u).r.sub = none ∧ (strandOf u).r.pc = 0x10000 ∧ (strandOf u).la = bareLaunch ∧ (strandOf u).ready = true ∧
      (strandOf u).w.due = none ∧ (strandOf u).r.flights = [] ∧ u.quadBusy 0 = false := by decide +kernel

theorem witness_StepRunsTheDecodedInstruction_place : ∀ w ∈ ([0x00020800, 0x10080C30] : List Nat),
    let s := next w
    let u := stepped s
    bareLaunch.code ≤ 0x10000 ∧ 0x10000 + 8 ≤ bareLaunch.code + bareLaunch.extent ∧ (s.icache = []) ∧
      u.homeWord (slotCore 0) bareLaunch 0x10000 = BitVec.ofNat 32 w ∧ u.homeWord (slotCore 0) bareLaunch 0x10004 = 0x00020002 := by decide +kernel

/-- Two waves on quadrant 0, of which the second was taken last and the first stands next. -/
def twoSlots : State := { next 0 with waves := [(0, demoWave), (1, demoWave)], rr := [(0, 1)] }

theorem witness_StepRunsTheDecodedInstruction_turn :
    (∀ x ∈ ({ twoSlots.advance with agenda := [] } : State).ahead 0 0, ({ twoSlots.advance with agenda := [] } : State).issues x = false) ∧
    (let s : State := { twoSlots with rr := [(0, 7)] }
     ∃ x ∈ ({ s.advance with agenda := [] } : State).ahead 1 0, ({ s.advance with agenda := [] } : State).issues x = true) := by decide +kernel

theorem witness_StepRunsTheDecodedInstruction_words :
    decodeWords 0x00020800 0x00020002 = .ok (.iadd l0 1 2 0) ∧ decodeWords 0x10080C30 0x00020002 = .error .malformed ∧ decodeTableWord 32 0x00020800 = some (.iadd l0 1 2 0) ∧
    (next 0).agenda = [.issue 0 0] ∧ ({ State.reset with agenda := [.event .boot] } : State).agenda = [.event .boot] ∧ State.reset.down = false ∧ State.reset.clock[3]? = some 0 :=
  ⟨rfl, rfl, rfl, rfl, rfl, rfl, rfl⟩

/-- The invariant holds after reset, and a step from there answers a next state. -/
theorem reset_inv : State.reset.Inv := ⟨rfl, rfl, rfl⟩

theorem witness_StepKeepsInv : State.reset.Inv ∧ (match step { State.reset with agenda := [.event (.flitRetransmit 15)] } with
    | .next t => t.tick == 1
    | _ => false) = true := ⟨reset_inv, by decide +kernel⟩

/-! ## Terms that are not well formed

Each pair differs in the field that a check is about. -/

/-- R64. -/
theorem test_refuses_lookahead_without_extension : (Instr.wf (.iadd ⟨false, 1, false, 0, false⟩ 1 2 3), Instr.wf (.iadd ⟨true, 1, false, 0, false⟩ 1 2 3)) = (false, true) := by decide +kernel
/-- R64. -/
theorem test_refuses_guard_without_extension : (Instr.wf (.iadd ⟨false, 0, true, 1, false⟩ 1 2 3), Instr.wf (.iadd ⟨true, 0, true, 1, false⟩ 1 2 3)) = (false, true) := by decide +kernel
/-- R70. -/
theorem test_refuses_guard_fields_without_guard : (Instr.wf (.iadd ⟨true, 0, false, 1, false⟩ 1 2 3), Instr.wf (.iadd ⟨true, 0, true, 1, false⟩ 1 2 3)) = (false, true) := by decide +kernel
/-- R64. -/
theorem test_refuses_uniform_lookahead_without_extension : (Instr.wf (.nop ⟨false, 15⟩), Instr.wf (.nop ⟨true, 15⟩)) = (false, true) := by decide +kernel
/-- R64. -/
theorem test_refuses_immediate_without_extension : (Instr.wf (.iaddImm ⟨false, 0, false, 0, false⟩ 1 2 1), Instr.wf (.iaddImm ⟨false, 0, false, 0, false⟩ 1 2 0)) = (false, true) := by decide +kernel
/-- R64. -/
theorem test_refuses_operand_without_extension : (Instr.wf (.fshl ⟨false, 0, false, 0, false⟩ 1 2 3 4), Instr.wf (.fshl ⟨true, 0, false, 0, false⟩ 1 2 3 4)) = (false, true) := by decide +kernel
/-- R64. -/
theorem test_refuses_ordering_without_extension : (Instr.wf (.gstB ⟨false, 0, false, 0, false⟩ 1 2 3 ⟨true, false, false, 0⟩), Instr.wf (.gstB ⟨true, 0, false, 0, false⟩ 1 2 3 ⟨true, false, false, 0⟩)) = (false, true) := by decide +kernel
/-- R79. -/
theorem test_refuses_required_extension : (Instr.wf (.fnegF32 ⟨false, 0, false, 0, false⟩ 1 2 0), Instr.wf (.fnegF32 ⟨true, 0, false, 0, false⟩ 1 2 0)) = (false, true) := by decide +kernel
/-- R68. -/
theorem test_refuses_odd_pair_destination : (Instr.wf (.iadd64 ⟨false, 0, false, 0, false⟩ 1 2 4), Instr.wf (.iadd64 ⟨false, 0, false, 0, false⟩ 0 2 4)) = (false, true) := by decide +kernel
/-- R68. -/
theorem test_refuses_odd_pair_source : (Instr.wf (.iadd64 ⟨false, 0, false, 0, false⟩ 2 127 4), Instr.wf (.iadd64 ⟨false, 0, false, 0, false⟩ 2 126 4)) = (false, true) := by decide +kernel
/-- R68. -/
theorem test_refuses_odd_pair_third_source : (Instr.wf (.ffmaF64 ⟨true, 0, false, 0, false⟩ 2 4 6 1 0), Instr.wf (.ffmaF64 ⟨true, 0, false, 0, false⟩ 2 4 6 0 0)) = (false, true) := by decide +kernel
/-- R68. -/
theorem test_refuses_odd_pair_by_width : (Instr.wf (.redadd ⟨true, 0, false, 0, false⟩ 1 2 true), Instr.wf (.redadd ⟨true, 0, false, 0, false⟩ 1 2 false)) = (false, true) := by decide +kernel
/-- R149. -/
theorem test_refuses_quad : (Instr.wf (.vldQ ⟨true, 0, false, 0, false⟩ 126 1 ⟨false, false, false, 0⟩ 0), Instr.wf (.vldQ ⟨true, 0, false, 0, false⟩ 124 1 ⟨false, false, false, 0⟩ 0)) = (false, true) := by decide +kernel
/-- R123. -/
theorem test_refuses_pair_of_predicates : (Instr.wf (.fcmpF16x2 ⟨true, 0, false, 0, false⟩ 1 2 3 0 0), Instr.wf (.fcmpF16x2 ⟨true, 0, false, 0, false⟩ 6 2 3 0 0)) = (false, true) := by decide +kernel
/-- R79. -/
theorem test_refuses_format_code : (Instr.wf (.cvt ⟨true, 0, false, 0, false⟩ 2 4 13 1 0), Instr.wf (.cvt ⟨true, 0, false, 0, false⟩ 2 4 12 1 0)) = (false, true) := by decide +kernel
/-- R129. -/
theorem test_refuses_wide_format : (Instr.wf (.cvt ⟨true, 0, false, 0, false⟩ 3 4 1 0 0), Instr.wf (.cvt ⟨true, 0, false, 0, false⟩ 2 4 1 0 0)) = (false, true) := by decide +kernel
/-- R148. -/
theorem test_refuses_scope_without_mark : (Instr.wf (.vldW ⟨true, 0, false, 0, false⟩ 1 2 ⟨false, false, false, 3⟩ 0), Instr.wf (.vldW ⟨true, 0, false, 0, false⟩ 1 2 ⟨false, true, false, 3⟩ 0)) = (false, true) := by decide +kernel
/-- R149. -/
theorem test_refuses_unsigned_of_add : (Instr.wf (.vatomAdd ⟨true, 0, false, 0, false⟩ 2 1 4 ⟨false, false, false, 0⟩ false true), Instr.wf (.vatomMin ⟨true, 0, false, 0, false⟩ 2 1 4 ⟨false, false, false, 0⟩ false true)) = (false, true) := by decide +kernel
/-- R156. -/
theorem test_refuses_quad_of_cas : (Instr.wf (.vatomCas ⟨true, 0, false, 0, false⟩ 2 1 6 ⟨false, false, false, 0⟩ true false), Instr.wf (.vatomCas ⟨true, 0, false, 0, false⟩ 2 1 6 ⟨false, false, false, 0⟩ false false)) = (false, true) := by decide +kernel
/-- R216. -/
theorem test_refuses_shuffle_pick : (Instr.wf (.shfl ⟨true, 0, false, 0, false⟩ 2 4 6 1 false false), Instr.wf (.shfl ⟨true, 0, false, 0, false⟩ 2 4 0 1 true false)) = (false, true) := by decide +kernel
/-- R216. -/
theorem test_refuses_shuffle_register_and_immediate : (Instr.wf (.shfl ⟨true, 0, false, 0, false⟩ 2 4 6 1 true false), Instr.wf (.shfl ⟨true, 0, false, 0, false⟩ 2 4 0 1 true false)) = (false, true) := by decide +kernel
/-- R216. -/
theorem test_refuses_vote_destination : (Instr.wf (.vote ⟨true, 0, false, 0, false⟩ 8 1 0), Instr.wf (.vote ⟨true, 0, false, 0, false⟩ 8 1 3)) = (false, true) := by decide +kernel
/-- R216. -/
theorem test_refuses_gather_width : (Instr.wf (.gathg ⟨true, 0, false, 0, false⟩ 2 4 6 2 true), Instr.wf (.gathg ⟨true, 0, false, 0, false⟩ 2 4 6 1 true)) = (false, true) := by decide +kernel
/-- R216. -/
theorem test_refuses_broadcast_of_first_with_lane : (Instr.wf (.bcast ⟨true, 0, false, 0, false⟩ 2 4 1 false true), Instr.wf (.bcast ⟨true, 0, false, 0, false⟩ 2 4 1 false false)) = (false, true) := by decide +kernel
/-- R265. -/
theorem test_refuses_tile_part : (Instr.wf (.trd ⟨true, 0, false, 0, false⟩ 2 1 0 2 true), Instr.wf (.trd ⟨true, 0, false, 0, false⟩ 2 1 0 1 true)) = (false, true) := by decide +kernel
/-- R165. -/
theorem test_refuses_uniform_atomic_width : (Instr.wf (.satomvAdd ⟨true, 0⟩ 1 2 3 1 ⟨false, false, false, 0⟩ false), Instr.wf (.satomvAdd ⟨true, 0⟩ 1 2 3 2 ⟨false, false, false, 0⟩ false)) = (false, true) := by decide +kernel
/-- R165. -/
theorem test_refuses_cas_of_s63 : (Instr.wf (.scasv ⟨true, 0⟩ 1 2 63 2 ⟨false, false, false, 0⟩), Instr.wf (.scasv ⟨true, 0⟩ 1 2 62 2 ⟨false, false, false, 0⟩)) = (false, true) := by decide +kernel
/-- R43. -/
theorem test_refuses_seal_range : (Instr.wf (.seal ⟨true, 0⟩ 9 8 false), Instr.wf (.seal ⟨true, 0⟩ 9 9 false)) = (false, true) := by decide +kernel
/-- R43. -/
theorem test_refuses_seal_predicates : (Instr.wf (.seal ⟨true, 0⟩ 1 8 true), Instr.wf (.seal ⟨true, 0⟩ 1 7 true)) = (false, true) := by decide +kernel
/-- R178. -/
theorem test_refuses_barrier_waves : (Instr.wf (.binit ⟨true, 0⟩ 1 17 0), Instr.wf (.binit ⟨true, 0⟩ 1 16 0)) = (false, true) := by decide +kernel
/-- R178. -/
theorem test_refuses_barrier_without_arrivals : (Instr.wf (.binit ⟨true, 0⟩ 1 0 0), Instr.wf (.binit ⟨true, 0⟩ 1 0 1)) = (false, true) := by decide +kernel
/-- R178. -/
theorem test_refuses_expectation_register_and_immediate : (Instr.wf (.bexpect ⟨true, 0⟩ 1 2 true 1), Instr.wf (.bexpect ⟨true, 0⟩ 1 2 true 0)) = (false, true) := by decide +kernel
/-- R181. -/
theorem test_refuses_sleep_register_without_bit : (Instr.wf (.sleep ⟨true, 0⟩ 2 false 1), Instr.wf (.sleep ⟨true, 0⟩ 0 false 1)) = (false, true) := by decide +kernel
/-- R261. -/
theorem test_refuses_shape_rows : (Instr.wf (.tcfg ⟨true, 0⟩ 0 0 false 0x201), Instr.wf (.tcfg ⟨true, 0⟩ 0 0 false 0x205)) = (false, true) := by decide +kernel
/-- R261. -/
theorem test_refuses_shape_row_bytes : (Instr.wf (.tcfg ⟨true, 0⟩ 0 0 false 0x2205), Instr.wf (.tcfg ⟨true, 0⟩ 0 0 false 0x2005)) = (false, true) := by decide +kernel
/-- R266. -/
theorem test_refuses_partial_product_of_wide_format : (Instr.wf (.mmaF64 ⟨true, 0⟩ 0 1 2 true false), Instr.wf (.mmaE4m3 ⟨true, 0⟩ 0 1 2 true false)) = (false, true) := by decide +kernel
/-- R272. -/
theorem test_refuses_quantised_format : (Instr.wf (.quant ⟨true, 0⟩ 0 1 2 7 false 0), Instr.wf (.quant ⟨true, 0⟩ 0 1 2 6 false 0)) = (false, true) := by decide +kernel
/-- R170. -/
theorem test_refuses_control_register : (Instr.wf (.csrr ⟨true, 0⟩ 1 0x01E), Instr.wf (.csrr ⟨true, 0⟩ 1 0x01D)) = (false, true) := by decide +kernel

/-! ## Decoding

Words written out from the manual's layouts: one instruction of each OP. -/

/-- A lane instruction word (R66): X, OP, D, A, B and F. -/
abbrev lane (x : Bool) (op d a b f : Nat) : Nat := x.toNat * 2 ^ 30 + op * 2 ^ 24 + d * 2 ^ 17 + a * 2 ^ 10 + b * 2 ^ 3 + f

/-- A lane extension word (R66) with LA 15 and the guard !p7: C and M. -/
abbrev guarded (c m : Nat) : Nat := 15 * 2 ^ 28 + 1 * 2 ^ 27 + 7 * 2 ^ 24 + 1 * 2 ^ 23 + c * 2 ^ 16 + m

/-- A uniform instruction word (R67): X, OP, D, A, B and F. -/
abbrev uniform (x : Bool) (op d a b f : Nat) : Nat := 2 ^ 31 + x.toNat * 2 ^ 30 + op * 2 ^ 24 + d * 2 ^ 18 + a * 2 ^ 12 + b * 2 ^ 6 + f

theorem test_decode_integer : decodeTableWord 64 (lane false 0x00 127 126 125 5) = some (.imaxu ⟨false, 0, false, 0, false⟩ 127 126 125) := by unfold decodeTableWord; decide +kernel
theorem test_decode_integer_immediate : decodeTableWord 64 (lane true 0x01 1 2 0 1 + 2 ^ 32 * guarded 0 0x8001) = some (.isubImm ⟨true, 15, true, 7, true⟩ 1 2 0x8001) := by unfold decodeTableWord; decide +kernel
theorem test_decode_logic : decodeTableWord 64 (lane false 0x02 1 2 3 3) = some (.landn ⟨false, 0, false, 0, false⟩ 1 2 3) := by unfold decodeTableWord; decide +kernel
theorem test_decode_logic_immediate : decodeTableWord 64 (lane true 0x03 1 0 0 6 + 2 ^ 32 * guarded 0 0xabcd) = some (.movhi ⟨true, 15, true, 7, true⟩ 1 0xABCD) := by unfold decodeTableWord; decide +kernel
theorem test_decode_shift : decodeTableWord 64 (lane true 0x04 1 2 3 5 + 2 ^ 32 * guarded 4 0x0) = some (.fshl ⟨true, 15, true, 7, true⟩ 1 2 3 4) := by unfold decodeTableWord; decide +kernel
theorem test_decode_shift_amount : decodeTableWord 64 (lane true 0x05 1 2 31 6 + 2 ^ 32 * guarded 4 0x0) = some (.fshrImm ⟨true, 15, true, 7, true⟩ 1 2 31 4) := by unfold decodeTableWord; decide +kernel
theorem test_decode_bit_field : decodeTableWord 64 (lane true 0x06 1 2 3 7 + 2 ^ 32 * guarded 0 0x41f) = some (.bfi ⟨true, 15, true, 7, true⟩ 1 2 3 31 32) := by unfold decodeTableWord; decide +kernel
theorem test_decode_multiply : decodeTableWord 64 (lane true 0x07 2 3 4 6 + 2 ^ 32 * guarded 6 0x0) = some (.imadw ⟨true, 15, true, 7, true⟩ 2 3 4 6) := by unfold decodeTableWord; decide +kernel
theorem test_decode_divide : decodeTableWord 64 (lane false 0x08 1 2 3 3) = some (.iremu ⟨false, 0, false, 0, false⟩ 1 2 3) := by unfold decodeTableWord; decide +kernel
theorem test_decode_compare : decodeTableWord 64 (lane false 0x09 7 2 3 6) = some (.cle ⟨false, 0, false, 0, false⟩ 7 2 3) := by unfold decodeTableWord; decide +kernel
theorem test_decode_compare_immediate : decodeTableWord 64 (lane true 0x0A 7 2 0 5 + 2 ^ 32 * guarded 0 0xffff) = some (.cgeuImm ⟨true, 15, true, 7, true⟩ 7 2 0xFFFF) := by unfold decodeTableWord; decide +kernel
theorem test_decode_predicate : decodeTableWord 64 (lane true 0x0B 0 127 0 6 + 2 ^ 32 * guarded 0 0xfe) = some (.v2p ⟨true, 15, true, 7, true⟩ 127 0x7F) := by unfold decodeTableWord; decide +kernel
theorem test_decode_pair : decodeTableWord 64 (lane false 0x0C 126 2 4 7) = some (.imul64 ⟨false, 0, false, 0, false⟩ 126 2 4) := by unfold decodeTableWord; decide +kernel
theorem test_decode_extend : decodeTableWord 64 (lane false 0x0D 126 3 0 4) = some (.sxtw ⟨false, 0, false, 0, false⟩ 126 3) := by unfold decodeTableWord; decide +kernel
theorem test_decode_float64 : decodeTableWord 64 (lane true 0x10 2 4 6 3 + 2 ^ 32 * guarded 8 0x70) = some (.ffmaF64 ⟨true, 15, true, 7, true⟩ 2 4 6 8 7) := by unfold decodeTableWord; decide +kernel
theorem test_decode_float32_selector : decodeTableWord 64 (lane true 0x11 1 2 0 7 + 2 ^ 32 * guarded 0 0x5) = some (.frintF32 ⟨true, 15, true, 7, true⟩ 1 2 0) := by unfold decodeTableWord; decide +kernel
theorem test_decode_float16 : decodeTableWord 64 (lane true 0x12 1 2 0 7 + 2 ^ 32 * guarded 0 0x6) = some (.fclassF16x2 ⟨true, 15, true, 7, true⟩ 1 2 0) := by unfold decodeTableWord; decide +kernel
theorem test_decode_bfloat16 : decodeTableWord 64 (lane false 0x13 1 2 3 0) = some (.faddBf16x2 ⟨false, 0, false, 0, false⟩ 1 2 3 0) := by unfold decodeTableWord; decide +kernel
theorem test_decode_divide_and_root : decodeTableWord 64 (lane false 0x14 1 2 0 7) = some (.frsqF32 ⟨false, 0, false, 0, false⟩ 1 2 0) := by unfold decodeTableWord; decide +kernel
theorem test_decode_transcendental : decodeTableWord 64 (lane false 0x15 1 2 0 4) = some (.ftanh ⟨false, 0, false, 0, false⟩ 1 2) := by unfold decodeTableWord; decide +kernel
theorem test_decode_conversion : decodeTableWord 64 (lane true 0x16 2 4 0 1 + 2 ^ 32 * guarded 0 0x409) = some (.cvtSat ⟨true, 15, true, 7, true⟩ 2 4 9 0 4) := by unfold decodeTableWord; decide +kernel
theorem test_decode_exchange : decodeTableWord 64 (lane true 0x18 2 4 0 3 + 2 ^ 32 * guarded 0 0x7f) = some (.shfldn ⟨true, 15, true, 7, true⟩ 2 4 0 31 true true) := by unfold decodeTableWord; decide +kernel
theorem test_decode_reduce : decodeTableWord 64 (lane true 0x19 2 4 0 2 + 2 ^ 32 * guarded 0 0x3) = some (.redmax ⟨true, 15, true, 7, true⟩ 2 4 true true) := by unfold decodeTableWord; decide +kernel
theorem test_decode_irregular : decodeTableWord 64 (lane true 0x1A 2 3 4 3 + 2 ^ 32 * guarded 55 0x5) = some (.mrgi ⟨true, 15, true, 7, true⟩ 2 3 4 7 6 5) := by unfold decodeTableWord; decide +kernel
theorem test_decode_vault_load : decodeTableWord 64 (lane true 0x1C 124 2 0 6 + 2 ^ 32 * guarded 47 0xfff0) = some (.vldQ ⟨true, 15, true, 7, true⟩ 124 2 ⟨true, false, true, 7⟩ 0xFFF0) := by unfold decodeTableWord; decide +kernel
theorem test_decode_vault_store : decodeTableWord 64 (lane true 0x1D 0 2 126 5 + 2 ^ 32 * guarded 22 0x8) = some (.vstD ⟨true, 15, true, 7, true⟩ 2 126 ⟨false, true, false, 6⟩ 8) := by unfold decodeTableWord; decide +kernel
theorem test_decode_vault_atomic : decodeTableWord 64 (lane true 0x1E 2 3 4 1 + 2 ^ 32 * guarded 47 0x3) = some (.vatomMin ⟨true, 15, true, 7, true⟩ 2 3 4 ⟨true, false, true, 7⟩ true true) := by unfold decodeTableWord; decide +kernel
theorem test_decode_slot_read : decodeTableWord 64 (lane true 0x1F 4 2 0 0 + 2 ^ 32 * guarded 47 0x10) = some (.slotrd ⟨true, 15, true, 7, true⟩ 4 2 ⟨true, false, true, 7⟩ 16) := by unfold decodeTableWord; decide +kernel
theorem test_decode_global_gather : decodeTableWord 64 (lane true 0x20 127 2 3 3 + 2 ^ 32 * guarded 47 0xfffe) = some (.gldHs ⟨true, 15, true, 7, true⟩ 7 15 2 3 ⟨true, false, true, 7⟩ 0xFFFE) := by unfold decodeTableWord; decide +kernel
theorem test_decode_global_store : decodeTableWord 64 (lane true 0x21 112 124 3 6 + 2 ^ 32 * guarded 22 0x0) = some (.gstQ ⟨true, 15, true, 7, true⟩ 7 124 3 ⟨false, true, false, 6⟩) := by unfold decodeTableWord; decide +kernel
theorem test_decode_global_atomic : decodeTableWord 64 (lane true 0x22 127 2 3 7 + 2 ^ 32 * guarded 47 0x1f1) = some (.gatomCas ⟨true, 15, true, 7, true⟩ 7 15 2 3 ⟨true, false, true, 7⟩ true false 124) := by unfold decodeTableWord; decide +kernel
theorem test_decode_standing : decodeTableWord 64 (lane true 0x23 112 2 3 1 + 2 ^ 32 * guarded 22 0x8000) = some (.unsub ⟨true, 15, true, 7, true⟩ 7 2 3 ⟨false, true, false, 6⟩ 0x8000) := by unfold decodeTableWord; decide +kernel
theorem test_decode_tile_row : decodeTableWord 64 (lane true 0x24 7 0 126 1 + 2 ^ 32 * guarded 0 0x17f) = some (.twr ⟨true, 15, true, 7, true⟩ 7 126 63 1 true) := by unfold decodeTableWord; decide +kernel
theorem test_decode_scalar : decodeTableWord 64 (uniform false 0x00 1 2 3 19) = some (.sandn ⟨false, 0⟩ 1 2 3) := by unfold decodeTableWord; decide +kernel
theorem test_decode_scalar_immediate : decodeTableWord 64 (uniform true 0x01 1 2 0 8 + 2 ^ 32 * (15 * 2 ^ 28 + 268435455)) = some (.sremuImm ⟨true, 15⟩ 1 2 0xFFFFFFF) := by unfold decodeTableWord; decide +kernel
theorem test_decode_compare_to_q : decodeTableWord 64 (uniform false 0x02 7 2 3 7) = some (.qgt ⟨false, 0⟩ 7 2 3) := by unfold decodeTableWord; decide +kernel
theorem test_decode_compare_to_q_immediate : decodeTableWord 64 (uniform true 0x03 7 2 0 5 + 2 ^ 32 * (15 * 2 ^ 28 + 1)) = some (.qgeuImm ⟨true, 15⟩ 7 2 1) := by unfold decodeTableWord; decide +kernel
theorem test_decode_move : decodeTableWord 64 (uniform true 0x04 1 0 0 3 + 2 ^ 32 * (15 * 2 ^ 28 + 1032318)) = some (.v2s ⟨true, 15⟩ 1 126 true 31 false) := by unfold decodeTableWord; decide +kernel
theorem test_decode_uniform_memory : decodeTableWord 64 (uniform true 0x05 1 2 62 4 + 2 ^ 32 * (15 * 2 ^ 28 + 250609664)) = some (.scasv ⟨true, 15⟩ 1 2 62 3 ⟨true, false, true, 7⟩) := by unfold decodeTableWord; decide +kernel
theorem test_decode_flow : decodeTableWord 64 (uniform true 0x08 0 15 0 3 + 2 ^ 32 * (15 * 2 ^ 28 + 134217728)) = some (.call ⟨true, 15⟩ 7 true 0x8000000) := by unfold decodeTableWord; decide +kernel
theorem test_decode_strand : decodeTableWord 64 (uniform true 0x09 63 15 2 1 + 2 ^ 32 * (15 * 2 ^ 28 + 16383)) = some (.calli ⟨true, 15⟩ 63 7 true 2 0x3FFF) := by unfold decodeTableWord; decide +kernel
theorem test_decode_barrier : decodeTableWord 64 (uniform false 0x0A 7 15 2 3) = some (.bwait ⟨false, 0⟩ 7 15 2) := by unfold decodeTableWord; decide +kernel
theorem test_decode_waiting : decodeTableWord 64 (uniform true 0x0B 1 2 3 0 + 2 ^ 32 * (15 * 2 ^ 28 + 251658232)) = some (.waita ⟨true, 15⟩ 1 2 3 3 ⟨true, false, true, 7⟩ 0xFFFF8) := by unfold decodeTableWord; decide +kernel
theorem test_decode_translation : decodeTableWord 64 (uniform false 0x0C 7 0 0 1) = some (.xdrop ⟨false, 0⟩ 7) := by unfold decodeTableWord; decide +kernel
theorem test_decode_copy : decodeTableWord 64 (uniform true 0x0D 0 2 7 3 + 2 ^ 32 * (15 * 2 ^ 28 + 64)) = some (.tstg ⟨true, 15⟩ 2 7 64) := by unfold decodeTableWord; decide +kernel
theorem test_decode_tile : decodeTableWord 64 (uniform true 0x0E 0 2 7 3 + 2 ^ 32 * (15 * 2 ^ 28 + 268435440)) = some (.tst ⟨true, 15⟩ 2 7 0xFFFF0 255) := by unfold decodeTableWord; decide +kernel
theorem test_decode_matrix : decodeTableWord 64 (uniform true 0x0F 7 6 5 8 + 2 ^ 32 * (15 * 2 ^ 28 + 64508)) = some (.scacc ⟨true, 15⟩ 7 6 5 4 true 63 62) := by unfold decodeTableWord; decide +kernel
theorem test_decode_region : decodeTableWord 64 (uniform true 0x10 1 2 0 2 + 2 ^ 32 * (15 * 2 ^ 28 + 1)) = some (.rqry ⟨true, 15⟩ 1 2 true) := by unfold decodeTableWord; decide +kernel
theorem test_decode_task : decodeTableWord 64 (uniform false 0x11 0 2 3 4) = some (.tpost ⟨false, 0⟩ 2 3) := by unfold decodeTableWord; decide +kernel
theorem test_decode_system : decodeTableWord 64 (uniform true 0x12 1 0 0 2 + 2 ^ 32 * (15 * 2 ^ 28 + 64)) = some (.csrr ⟨true, 15⟩ 1 0x040) := by unfold decodeTableWord; decide +kernel

/-- A reserved F value, OP and format code, an odd pair and a bit of a reserved field decode to none (R69, R77, R79, R80). -/
theorem test_decode_reserved : decodeTableWord 64 (lane false 0x01 1 2 0 6) = none ∧ decodeTableWord 64 (lane false 0x0E 1 2 0 0) = none ∧
    decodeTableWord 64 (lane true 0x16 2 4 0 0 + 2 ^ 32 * guarded 0 13) = none ∧ decodeTableWord 64 (lane false 0x0C 1 2 4 0) = none ∧
    decodeTableWord 64 (lane false 0x06 1 2 1 0) = none ∧ decodeTableWord 64 (uniform false 0x00 1 2 3 15) = none := by unfold decodeTableWord; decide +kernel

/-! ## Results of the manual's tables

Each expected result stands in a table of worked examples of the manual. -/

/-- The small state with values in v1, v2 and v3 of every lane. -/
def valued (a b c : Nat) : State := { demo with waves := [(0, { demoWave with v := [(1, lv fun _ => a), (2, lv fun _ => b), (3, lv fun _ => c)] })] }

/-- What the strand's newest instruction has written or will write: lane 0 of v5, and the flags of FPSTAT. -/
def written (i : Instr) (s : State) : Option (Word × BitVec 6) :=
  match exec i s with
  | .next t => (t.waves.find 0).bind fun w => (w.run 0).map fun r =>
      let ws := r.flights.flatMap (·.writes)
      let v := (ws.findSome? fun x => match x with
        | .v 5 _ val => some (val.at 0)
        | _ => none).getD (w.lane 5 0)
      (v, (ws.foldl (fun f x => match x with
        | .fp g => f ||| g
        | _ => f) 0) ||| w.fpstat)
  | _ => none

/-- R113. -/
theorem test_shl : written (.shl ⟨true, 0, false, 0, false⟩ 5 1 2) (valued 0x80000001 33 0) = some (0, 0) := by decide +kernel
/-- R113. -/
theorem test_rol : written (.rol ⟨true, 0, false, 0, false⟩ 5 1 2) (valued 0x80000001 33 0) = some (3, 0) := by decide +kernel
/-- R113. -/
theorem test_sar : written (.sar ⟨true, 0, false, 0, false⟩ 5 1 2) (valued 0x80000000 40 0) = some (0xFFFFFFFF, 0) := by decide +kernel
/-- R113. -/
theorem test_fshl : written (.fshlImm ⟨true, 0, false, 0, false⟩ 5 1 8 3) (valued 0x12345678 0 0x9ABCDEF0) = some (0x3456789A, 0) := by decide +kernel
/-- R114. -/
theorem test_clz : written (.clz ⟨true, 0, false, 0, false⟩ 5 1) (valued 0 0 0) = some (32, 0) := by decide +kernel
/-- R114. -/
theorem test_bfxs : written (.bfxs ⟨true, 0, false, 0, false⟩ 5 1 8 4) (valued 0xF00 0 0) = some (0xFFFFFFFF, 0) := by decide +kernel
/-- R114. -/
theorem test_bfx : written (.bfx ⟨true, 0, false, 0, false⟩ 5 1 8 30) (valued 0xFFFFFFFF 0 0) = some (0xFFFFFF, 0) := by decide +kernel
/-- R111. -/
theorem test_iabs : written (.iabs ⟨true, 0, false, 0, false⟩ 5 1) (valued 0x80000000 0 0) = some (0x80000000, 0) := by decide +kernel
/-- R115. -/
theorem test_imulhi : written (.imulhi ⟨true, 0, false, 0, false⟩ 5 1 2) (valued 0xFFFFFFFE 3 0) = some (0xFFFFFFFF, 0) := by decide +kernel
/-- R115. -/
theorem test_imulhiu : written (.imulhiu ⟨true, 0, false, 0, false⟩ 5 1 2) (valued 0xFFFFFFFE 3 0) = some (2, 0) := by decide +kernel
/-- R104. -/
theorem test_idiv : written (.idiv ⟨true, 0, false, 0, false⟩ 5 1 2) (valued 0x80000000 0xFFFFFFFF 0) = some (0x80000000, 0) := by decide +kernel
/-- R104. -/
theorem test_irem : written (.irem ⟨true, 0, false, 0, false⟩ 5 1 2) (valued 0x80000000 0xFFFFFFFF 0) = some (0, 0) := by decide +kernel
/-- R100. -/
theorem test_cvt_i32_f32_rz : written (.cvt ⟨true, 0, false, 0, false⟩ 5 1 1 7 2) (valued 0xC02CCCCD 0 0) = some (0xFFFFFFFE, 0x10) := by decide +kernel
/-- R100, R129. -/
theorem test_cvt_u8_f32 : written (.cvt ⟨true, 0, false, 0, false⟩ 5 1 1 12 0) (valued 0xBF800000 0 0) = some (0xFF, 1) := by decide +kernel
/-- R100. -/
theorem test_cvtSat_u8_f32 : written (.cvtSat ⟨true, 0, false, 0, false⟩ 5 1 1 12 0) (valued 0xBF800000 0 0) = some (0, 1) := by decide +kernel
/-- R100, R129. -/
theorem test_cvt_i8_i32 : written (.cvt ⟨true, 0, false, 0, false⟩ 5 1 7 11 0) (valued 200 0 0) = some (0xFFFFFFC8, 0) := by decide +kernel
/-- R100. -/
theorem test_cvtSat_i8_i32 : written (.cvtSat ⟨true, 0, false, 0, false⟩ 5 1 7 11 0) (valued 200 0 0) = some (0x7F, 0) := by decide +kernel
/-- R127. -/
theorem test_fsinpi : written (.fsinpi ⟨true, 0, false, 0, false⟩ 5 1) (valued 0xC0400000 0 0) = some (0x80000000, 0) := by decide +kernel

/-- R258: the offsets that a swizzle with span code 3 moves. -/
theorem test_swizzle : [0x0010, 0x0410, 0x0C30, 0x1C70].map (swizzle 0xB) = [0x0010, 0x0400, 0x0C00, 0x1C00] := by decide +kernel

/-- Four lanes under p4 with the FP32 values 2^24, 1, 1 and 1. -/
def fourLanes : State := { demo with waves := [(0, { demoWave with v := [(8, lv fun l => if l = 0 then 0x4B800000 else 0x3F800000)], p := [(4, 0xF)] })] }

/-- The lanes 0 to 3 of the register that the instruction writes or will write. -/
def lanesWritten (i : Instr) (r : Nat) (s : State) : List Word :=
  match exec i s with
  | .next t => ((t.waves.find 0).bind fun w => w.run 0).elim [] fun x => (x.flights.flatMap (·.writes)).flatMap fun y => match y with
      | .v n _ val => if n = r then [val.at 0, val.at 1, val.at 2, val.at 3] else []
      | _ => []
  | _ => []

/-- R223: one tree, not lane by lane. -/
theorem test_redaddF32 : lanesWritten (.redaddF32 ⟨true, 0, true, 4, false⟩ 9 8) 9 fourLanes = List.replicate 4 0x4B800001 := by decide +kernel

/-- R223. -/
theorem test_scanF32 : lanesWritten (.scanF32 ⟨true, 0, true, 4, false⟩ 10 8) 10 fourLanes = [0x4B800000, 0x4B800000, 0x4B800000, 0x4B800001] := by decide +kernel

/-! ## The assembler's values and the loader (R335, R341 to R346) -/

/-- R344's own example. -/
theorem test_header_word : headerWord 48 0x0006 = some 0x00060006 := by decide

/-- R341's own example: `NE p3, v27, #0` takes one word, and `NE p3, v27, #1` two. -/
theorem test_extension_when_needed :
    ((assembled (.cneImm ⟨true, 0, false, 0, false⟩ 3 27 0)).map List.length, (assembled (.cneImm ⟨true, 0, false, 0, false⟩ 3 27 1)).map List.length) =
      (some 1, some 2) := by decide +kernel

/-- R343: `.align` pads code with NOP words, and 0x9200_0004 is the word of NOP. -/
theorem test_padding_is_nop : decodeTableWord 32 nopWord.toNat = some (.nop ⟨false, 0⟩) := by unfold decodeTableWord; decide +kernel

/-- R342: quotients truncate toward zero, and `a >> n` is Floor(a / 2^n). -/
theorem test_expressions : ((AsmExpr.div (.lit (-5)) (.lit 2)).eval [], (AsmExpr.shr (.lit (-5)) (.lit 1)).eval [], (AsmExpr.mod (.lit 1) (.lit 0)).eval []) =
    (some (-2), some (-3), none) := by decide

/-- A file of a header, one code section and one kernel; `minor` and `regs` are as given. -/
def smallImage (minor regs : Nat) : List Byte :=
  leBytes 4 0x4C4D4E46 ++ leBytes 2 3 ++ leBytes 2 minor ++ leBytes 4 1 ++ leBytes 4 1 ++ leBytes 8 64 ++ leBytes 8 112 ++ leBytes 32 0 ++
  (leBytes 24 0x747865742e ++ leBytes 8 0 ++ leBytes 8 176 ++ leBytes 8 4) ++
  (leBytes 24 0x6b ++ leBytes 8 0 ++ leBytes 4 4 ++ leBytes 4 0 ++ leBytes 1 regs ++ leBytes 1 0 ++ leBytes 1 1 ++ leBytes 1 0 ++ leBytes 2 32 ++ leBytes 2 0 ++
   leBytes 4 0 ++ leBytes 12 0) ++ leBytes 4 0x92000004

/-- R346: an image for minor 1 (R335) is refused, one with a budget of 8 is refused, and one without a fault loads. -/
theorem test_loader : (loadRefusals (smallImage 0 4), loadRefusals (smallImage 1 4), loadRefusals (smallImage 0 1), loadRefusals ((smallImage 0 4).take 179)) =
    ([], [.version], [.range], [.outside]) := by decide +kernel

/-- R107, R342: a value that does not fit its field is refused, never wrapped; a branch counts words from its instruction word (R75), and an instruction
without the field takes none. -/
theorem test_fields_fit :
    ((writtenWords [] 0 (.iaddImm ⟨true, 0, false, 0, false⟩ 1 2 0) [(.imm16s, .lit (-5))], writtenWords [] 0 (.iaddImm ⟨true, 0, false, 0, false⟩ 1 2 0) [(.imm16s, .lit 32768)]),
     (writtenWords [([97], 8)] 4 (.bra ⟨true, 0⟩ 0) [(.target, .name [97])], writtenWords [] 0 (.nop ⟨false, 0⟩) [(.target, .lit 4)])) =
    ((some [0x41020800, 0x0000FFFB], none), (some [0xC8000000, 0x00000001], none)) := by decide +kernel

/-- R343, R88: 0.1 and 1e-45 as `.f32` round to nearest even, 1e39 to infinity, and `nan` is canonical. -/
theorem test_float_data :
    ((AsmFloat.dec false 1 (-1)).pattern fmt32, (AsmFloat.dec false 1 (-45)).pattern fmt32, (AsmFloat.dec true 1 39).pattern fmt32, AsmFloat.nan.pattern fmt64) =
    (0x3DCCCCCD, 1, 0xFF800000, 0x7FF8000000000000) := by decide +kernel

/-- A kernel whose function follows the given items. -/
noncomputable def funcAfter (items : List AsmItem) : AsmKernel :=
  { name := [107], regs := some 48, items := items ++ [.func [102] 48 0x0006, .instr (.ret ⟨false, 0⟩ 1) [], .endfn] }

/-- R344: the header word stands at entry − 4, padding of `.align` before a `.func` is disregarded, and a `.func` after a raw word is refused. -/
theorem test_func_blocks :
    (((funcAfter [.instr (.endStrand ⟨false, 0⟩) [], .align 8]).assemble [] [([102], 12)] 3 0).map AsmCode.words,
     (funcAfter [.instr (.endStrand ⟨false, 0⟩) [], .data (.ints 4 [.lit 0])]).assemble [] [([102], 12)] 3 0 |>.isSome,
     (funcAfter [.data (.ints 2 [.lit 0])]).assemble [] [([102], 8)] 3 0 |>.isSome) =
    (some [0x88000006, 0x92000004, 0x00060006, 0x88001005], false, false) := by decide +kernel

/-! ## Witnesses: what the answers to the second review added -/

/-- R37: the flow of a SPLIT may pass to the next instruction. -/
theorem witness_SplitResults_flow :
    let next := demo.after c0.r true
    demo.flowBad (slotCore c0.slot) c0.la next.1 (demo.subAt (slotCore c0.slot) c0.la next.1 next.2) = none := by decide +kernel

/-- R202: nothing waits at the host port before TDONE. -/
theorem witness_TaskSignalResults_port :
    ((inTask (List.replicate 15 (.sig dataPage 0x20000))).waves.find 0).any (fun w => w.blocks.length == 15 && w.blocks.all fun b =>
      demo.portFree (addrs (b.1.pa b.2) 128)) = true := by decide +kernel

/-- A lane part to host memory that has arrived and has performed nothing. -/
def atPort : State := { demo with waves := [(0, posts [{ part 0 .write (2 ^ 48 * Config.hostChip) 8 (leBytes 8 1) with sent := true }])] }

/-- R201, R202, R246: a write step of home 1 that meets an entry which is not enabled, is enabled, waits for a group, or waits for its queue; a packet
behind a part at the host port. -/
theorem witness_RegionsCountAndAct_hits :
    homeDie 1 = 0 ∧ (∀ a ∈ [Action.arrive 0 15, .release 0 0], ∀ n ∈ [63, 64], (armed n a).enabled = decide (n = 64) ∧
      ((acting a n).arrivals.find 0).any (fun x => x.hit (7, 0xFFFFFFFF, 64) == some (armed n a) && (x.writes.map (·.home)) == [1]) = true) ∧
    ({ bareLaunch with groups := [(0, ⟨[0], true, false, 0, 0xFFFF, false, []⟩)] } : Launch).groups.find 0 = some ⟨[0], true, false, 0, 0xFFFF, false, []⟩ ∧
    isHost (2 ^ 48 * Config.hostChip) = true ∧ atPort.portFree (addrs (2 ^ 48 * Config.hostChip) 8) = false ∧ demo.portFree (addrs 0x210000 128) = true := by decide +kernel

/-- R210: an armed region whose packet lies in the page that moves. -/
theorem witness_TranslationsAndHostRequests_packet :
    let s := acting (.launch 0 [⟨0x210000, 128, dataPage⟩]) 0
    (s.arrivals.find 0).any (fun a => a.entries.any fun z => !z.2.spent && z.2.action.packet.any fun b => meet b.t.frame b.t.size 0x210000 65536) = true ∧ demo.arrivals = [] := by
  decide +kernel

/-- R32: a job's bytes inside its partition's windows, and one that lies in no vault of it. -/
theorem witness_CopyEnginesMoveBytes_reach :
    (addrs 0x1000 128).all ((engine [aJob]).jobReaches aJob) = true ∧ (addrs 0x2001 16).all ((engine [aJob]).jobReaches aJob) = true ∧
      (addrs 0xFFF8 8).all ((engine [aJob]).jobReaches aJob) = true ∧
      (addrs 0x3FFFFFF0 16).find? (fun y => !(engine [aJob]).jobReaches aJob y) = some 0x3FFFFFF0 := by decide +kernel

/-- R313: a tile of a queued MMA that is poisoned, and none. -/
theorem witness_MatrixArrayRunsMmas_poison :
    demo.mmaPoison 0 demoWave (anMma true).op = none ∧ (let s : State := { demo with poisonT := [(0, 16384 / 16)] }; (s.mmaPoison 0 demoWave (anMma true).op).isSome = true) ∧
      demoWave.alive = true ∧ demoWave.due = none := by decide +kernel

/-- R319, R310: a context without entries or loads reaches its partition alone; a strand's last place to go on. -/
theorem witness_ContextsAndTheDebugger_places :
    (∀ e ∈ [entry 3 (.vst 4 [] none), entry 3 (.vst 4 [(0x100, 1)] none), entry 3 (.vst 4 [(4 * Config.vaultSpan, 1)] none)],
      preempted.entriesReach 0 (moved [((0, 0), 0, 0x10000, vaultBase 1)] 0) { savedCohort with waves := [(0, { demoWave with sb := [e] })] } =
        decide (e ≠ entry 3 (.vst 4 [(4 * Config.vaultSpan, 1)] none))) ∧ preempted.loads = [] ∧
    (([(0, 0x10004, none), (1, 0x10000, none), (0, 0x10008, none)] : List (Nat × Nat × Option (Nat × Nat))) = [(0, 0x10004, none), (1, 0x10000, none)] ++ (0, 0x10008, none) :: []) := by
  decide +kernel

/-- R330: a host request under the key of a partition, and none. -/
theorem witness_ModuleStepResults_hostq :
    demo.hostq = [] ∧ (demo.parts.find 0).any (fun p => (⟨9, p.dkey, 0x210000, 0x210000, 8, none, addrs 0 8, [], false⟩ : HostPart).key == p.dkey) = true := by decide +kernel

/-- Two waves on quadrant 0 whose next instruction is FADD.F32 v1, v2, v3, of which the first has just issued one. -/
def twoPairs : State := { next 0x11020818 with waves := [(0, demoWave), (1, demoWave)], rr := [(0, 0)], pairs := [(0, 0)] }

/-- R291: the second of a pair need not be its quadrant's turn. -/
theorem witness_StepRunsTheDecodedInstruction_pair :
    let s : State := { twoPairs.advance with agenda := [] }
    let v : State := { twoSlots.advance with rr := [(0, 7)], agenda := [] }
    decodeTableWord 64 0x11020818 = some (.faddF32 ⟨false, 0, false, 0, false⟩ 1 2 3 0) ∧ s.mayPair 1 0 = true ∧ v.mayPair 1 0 = false ∧
      ∃ x ∈ v.ahead 1 0, v.issues x = true := by decide +kernel

/-- R313: an atomic whose second lane's granule is poisoned. -/
theorem witness_EntriesDrain_poison :
    let ls : List AtomLane := [⟨0, 0x100, 0x100, 1, 0⟩, ⟨31, 0x110, 0x110, 2, 0⟩]
    let s : State := { demo with poisonV := [0x11] }
    demo.atomEcc true ls = none ∧ s.atomEcc true ls = some 0x110 ∧
      (let w := (strandOf (withFlights [flightOf (.drain 3)])).w
       ((w.runs.find? fun x => x.2.flights.any fun g => g.state == .drain 3).bind fun x => x.2.flights.find? fun g => g.state == .drain 3) = some (flightOf (.drain 3)) ∧
       w.due = none ∧ w.alive = true) := by decide +kernel

/-- R338: a label before a `.func` names the function's first instruction, not its header. -/
theorem test_label_before_func :
    ({ name := [107], regs := some 48, items := [.instr (.endStrand ⟨false, 0⟩) [], .label [108], .func [102] 48 0x0006, .instr (.ret ⟨false, 0⟩ 1) [], .endfn] : AsmKernel }.assemble
      [] [([102], 8), ([108], 8)] 3 0).map AsmCode.words = some [0x88000006, 0x00060006, 0x88001005] := by decide +kernel

/-- A module `m` of one kernel and one data section `d`. -/
noncomputable def aModule : AsmModule :=
  { name := [109], isa := some (3, 0), equs := [], sections := [([100], [.align 8, .ints 2 [.lit 0x1234]])],
    kernels := [{ name := [107], regs := some 48, tiles := 1, items := [.instr (.endStrand ⟨false, 0⟩) []] }] }

/-- R345, R346: the image has MAGIC, the version of `.isa`, its tables at 64 and 160, `.text` first, and the loader accepts it. -/
theorem test_image :
    (aModule.image [[]]).map (fun bs => ((loadRefusals bs).isEmpty, [field bs 0 4, field bs 4 2, field bs 6 2, field bs 8 4, field bs 12 4, field bs 16 8, field bs 24 8],
      [field bs 88 1, field bs 96 8, field bs 104 8, field bs 136 1, field bs 137 1, field bs 144 8, field bs 152 8], field bs 224 4, field bs 232 2, bs.length)) =
    some (true, [0x4C4D4E46, 3, 0, 2, 1, 64, 160], [0, 224, 4, 1, 3, 232, 2], 0x88000006, 0x1234, 234) := by decide +kernel

/-! ## Witnesses: protected launches, stale registers, replays, and what stops a strand -/

/-- The small state in a protected launch: v1 and v8 hold these values, v2 and v4 the number of the pair, p1 lanes 0 to 3, and v10 and v11 the address of a function. -/
def shadowed (a b : Nat → Nat) : State :=
  { launched { bareLaunch with protect := true } with
    waves := [(0, { demoWave with v := [(1, lv a), (2, lv (· / 2)), (4, lv (· / 2)), (8, lv b), (10, lv fun _ => 0x10008)], p := [(1, 0xF)] })] }

/-- The copies of each pair hold one value. -/
abbrev twins : State := shadowed (· / 2 * 16) (· / 2 * 8)

/-- No guard, with an extension word. -/
abbrev lG : LExt := ⟨true, 0, false, 0, false⟩

theorem pairs {m : Word} {n : Nat} {same : Nat → Nat → Prop}
    (h : ∀ i, i < n → m.getLsbD (2 * i) = m.getLsbD (2 * i + 1) ∧ (m.getLsbD (2 * i) = true → same (2 * i) (2 * i + 1))) : ∀ i < n, PairIs m same i := h

theorem paired {c : Ctx} {m : Word} {same : Nat → Nat → Prop}
    (h : ∀ i, i < 16 → m.getLsbD (2 * i) = m.getLsbD (2 * i + 1) ∧ (m.getLsbD (2 * i) = true → same (2 * i) (2 * i + 1))) : Paired c m same := fun _ => h

/-- R314: accesses of a protected launch whose copies are together and agree. -/
theorem witness_protected :
    (∀ x ∈ ([({ Need.ofLane true l0 (nv 1 ++ nv 8 ++ nx 1) [] with mem := true, warn := warnRead o0 false }, .gldW l0 1 15 1 8 o0 0),
      ({ Need.ofLane true l0 (nvs 2 1 ++ nv 8 ++ nx 1) [] with mem := true, warn := warnWrite o0 }, .gstW l0 1 2 8 o0),
      ({ Need.ofLane true lG (nv 1 ++ nv 8 ++ nvs 4 1 ++ nx 1) [] with mem := true, warn := warnBoth o0 }, .gatomAdd lG 1 15 1 8 o0 false false 4),
      ({ Need.ofLane true lG (nv 1 ++ nv 8 ++ nx 1) [] with mem := true, warn := warnBoth o0 }, .subscr lG 1 1 8 o0 0),
      ({ Need.ofLane true l0 (nv 1 ++ nvs 2 1) [] with mem := true, warn := warnWrite o0 }, .vstW l0 1 2 o0 0),
      ({ Need.ofLane true lG (nv 1 ++ nvs 2 1) (nvw 9 false) with later := true, mem := true, warn := warnBoth o0 }, .vatomAdd lG 9 1 2 o0 false false),
      ({ Need.ofUni true u1 (np 1 ++ ns 6) [] with drains := true, mem := true }, .split u1 1 6 2 0x3FFF),
      ({ Need.ofUni true u1 ((addrs (2 * (5 : BitVec 6).toNat) 2).map RegName.v ++ np 1 ++ ns 63) [] with drains := true, mem := true, lanes := fun _ => (strandOf twins).smask &&& (strandOf twins).w.pred 1 }, .calli u1 5 1 false 63 0x3FFF)] : List (Need × Instr)), Issues twins (strandOf twins) x) ∧
    let c := strandOf twins
    (c.la.protect = true ∧ lanesOf (c.active l0) = List.range 32 ∧ (lanesOf (c.todo l0)).length = 32 ∧
      Paired c (c.todo l0) (fun i j => eaOf (c.v 1 i) 0 = eaOf (c.v 1 j) 0 ∧ c.v 1 i = c.v 1 j ∧ c.v 8 i = c.v 8 j ∧ c.v 2 i = c.v 2 j ∧ c.v 4 i = c.v 4 j) ∧
      Paired c c.r.mask (fun i j => c.p 1 i = c.p 1 j) ∧ Paired c (c.smask &&& c.w.pred 1) (fun i j => c.target 5 i = c.target 5 j)) ∧
    (∀ l : Fin 32, (ownEA c.co (eaOf (c.v 1 l) 0)).isSome = true ∧ (c.v 1 l).toNat % 16 = 0 ∧ ((c.w.xreg 1).vb.toNat + (c.v 8 l).toNat) % 8 = 0 ∧
      Xlate.isOk (twins.xaccess c (c.w.xreg 1) (c.v 8 l).toNat 8 true true) = true) ∧
    twins.calliTrap c (lanesOf (c.smask &&& c.w.pred 1)) (c.target 5) (c.s 63) (fun x => twins.wordAt (slotCore c.slot) c.la none (x.toNat - 4)) = none ∧
    -- Of the last pair the copies name different places, or only one of them takes part.
    (let s := shadowed (· / 2 * 16) fun l => if l = 31 then 0 else l / 2 * 8
     let d := strandOf s
     Issues s d ({ Need.ofLane true l0 (nv 1 ++ nv 8 ++ nx 1) [] with mem := true, warn := warnRead o0 false }, .gldW l0 1 15 1 8 o0 0) ∧
     ¬ PairIs (d.todo l0) (fun i j => d.v 8 i = d.v 8 j ∧ eaOf (d.v 1 i) 0 = eaOf (d.v 1 j) 0) 15 ∧
     ∀ j < 15, PairIs (d.todo l0) (fun i j => d.v 8 i = d.v 8 j ∧ eaOf (d.v 1 i) 0 = eaOf (d.v 1 j) 0) j) := by
  refine ⟨issues (by decide +kernel), ⟨by decide +kernel, by decide +kernel, by decide +kernel, paired (by decide +kernel), paired (by decide +kernel), paired (by decide +kernel)⟩, by decide +kernel, by decide +kernel, ?_⟩
  exact ⟨issues1 (by decide +kernel), fun h => absurd (h.2 (by decide +kernel)).1 (by decide +kernel), pairs (by decide +kernel)⟩

/-- R145, R144: a stale register whose VB's page is in the TLB again, and a replay of lane 0 alone. -/
theorem witness_GlobalLoadAndStoreResults_stale :
    let s : State := { demo with waves := [(0, { demoWave with x := [(1, ⟨true, 0x20000, 0x10000, none, true⟩)] })] }
    let c := strandOf s
    Issues s c ({ Need.ofLane true l0 (nv 1 ++ nv 7 ++ nx 1) [] with mem := true, warn := warnRead o0 false }, .gldW l0 1 15 1 7 o0 0) ∧
    ((c.w.xreg 1).stale = true ∧ Xlate.isOk (s.xaccess c (c.w.xreg 1) 0xFFF0 4 true true) = true) ∧
    let r := withRun { c0.r with park := some ⟨1, 0xF, [], 0, false, false, [], true, false⟩ }
    let d := strandOf r
    Issues r d ({ Need.ofLane true l0 (nv 1 ++ nv 7 ++ nx 1) [] with mem := true, warn := warnRead o0 false }, .gldW l0 1 15 1 7 o0 0) ∧ lanesOf (d.todo l0) = [0] :=
  ⟨issues1 (by decide +kernel), by decide +kernel, issues1 (by decide +kernel), by decide +kernel⟩

/-- R65, R76: a register target that lies outside the extent, and one that is no multiple of 4. -/
theorem witness_BranchResults_outside :
    (∀ x ∈ ([(.ofUni true u1 (nq 0) [], .brq u1 0 0x4000), (.ofUni true u1 (nq 7) [], .brnq u1 7 0x4000), (.ofUni true u1 (ns 4) (ns 4), .loopd u1 4 0x4000),
      (.ofUni true u1 (ns 1 ++ nq 0) (ns 63), .callr u1 1 0 false), (.ofUni true u1 (ns 6 ++ nq 0) (ns 63), .callr u1 6 0 false),
      ({ Need.ofUni true u0 (ns 2) [] with drains := true }, .ret u0 2)] : List (Need × Instr)), Issues demo c0 x) ∧
    (c0.s 4 ≠ 1 ∧ c0.q 0 ≠ false ∧ (c0.s 1).toNat < c0.la.code ∧ (c0.s 6).toNat % 4 ≠ 0 ∧ (c0.s 2).getLsbD 0 = false ∧ c0.la.code + c0.la.extent < (c0.s 2).toNat + 4) :=
  ⟨issues (by decide +kernel), by decide +kernel⟩

/-- The data page's translation with another frame. -/
def dataAt (frame : Nat) : Trans := { dataPage with frame := frame }

/-- A wave in a task with one signal for the block, beside a part at the host port, in a state with a block whose last signal finds another result than the expected one. -/
def settling (alt : Nat) (t : Trans := dataPage) : State :=
  let s := block [1, 4, 7, 5, alt]
  { inTask [.sig t 0x20000] with gmem := s.gmem, gkeys := s.gkeys }

/-- The settling state beside a part at the host port, with a translation of a page of host memory. -/
def portBusy : State :=
  let s := settling 0x60000
  let r : Run := { c0.r with priv := [(63, 0x10008)] }
  { s with
    tlb := [(0, [⟨0, 0x100000, ⟨0x10000, 0x10000, 0x200000, .so, true, true, false, 1⟩⟩, ⟨0, 0x100000, ⟨0x60000, 0x10000, 2 ^ 48 * Config.hostChip, .so, true, true, false, 1⟩⟩])],
    waves := [(0, { demoWave with task := some ⟨record 0, [.sig dataPage 0x20000]⟩, lattice := [(0, ⟨[], some r⟩)] }),
      (1, posts [{ part 0 .write (2 ^ 48 * Config.hostChip) 8 (leBytes 8 1) with sent := true }])] }

/-- A TDONE of the state may issue with nothing before it, and its buffer comes to this. -/
def comesTo (s : State) (b : Option Setback) : Bool :=
  let c := strandOf s
  opens s c { Need.ofUni true u0 (ns 63) [] with wide := true, mem := true, badWave := fun c => c.w.task.isNone } && c.w.sb.isEmpty && !c.w.readsLeft (fun _ _ => true) &&
    c.w.pq.isEmpty && !s.anyPending 5 c.releases && (c.w.blocks.all fun b => s.portFree (addrs (b.1.pa b.2) 128)) && (c.s 63).toNat % 4 == 0 &&
    (s.targetBad 0 c.la (c.s 63).toNat).isNone && c.w.task.any fun k => decide ((applySignals c k.signals ⟨s, none⟩).bad = b)

/-- R189, R202, R321: what stops a TDONE. -/
theorem witness_TaskSignalResults_stops :
    (comesTo (settling 0) none = true ∧ comesTo (settling 0 (dataAt (2 ^ 48))) (some (.ecc 0x20000)) = true ∧ comesTo (settling 0x50000) (some (.miss 0x50000)) = true ∧
      comesTo portBusy (some .port) = true ∧ (Instr.tdone u0).wf = true) ∧
    -- A walk that waits for the port, and one that ends without a leaf that may be read.
    (let u := signalled portBusy
     u.walkNowFree 0 0 0x100000 0x60000 = true ∧ u.walkNow 0 0 0x100000 0x60000 = .ok ⟨0x60000, 0x10000, 2 ^ 48 * Config.hostChip, .so, true, true, false, 1⟩ ∧
     u.portFree (addrs (2 ^ 48 * Config.hostChip) 64) = false) ∧
    (let u : State := { portBusy.gputs 1 ((addrs (2 ^ 48 * Config.hostChip) 8).zip (leBytes 8 0)) with tlb := [] }
     u.walkNowFree 0 0 (2 ^ 48 * Config.hostChip) 0x60000 = false ∧ u.walkNow 0 0 0x100001 0x20000 = .perm) := by decide +kernel

/-- R86, R193: a WAITA whose EA names no vault any more, and one whose bytes are poisoned. -/
theorem witness_StrandWaitsEnd_traps :
    (let s := withRun { c0.r with wait := some (.waita 0x10000 .eq 1 63 false 0 0 false 7) }
     s.ctxAt 0 0 = some (strandOf s) ∧ s.vaultEA (strandOf s).co (strandOf s).la 0x10000 false = none ∧ (strandOf s).w.trapped = false) ∧
    (let s : State := { withRun { c0.r with wait := some (.waita 0x1F8 .eq 1 63 false 0 0 false 7) } with poisonV := [0x1F] }
     s.ctxAt 0 0 = some (strandOf s) ∧ s.vaultEA (strandOf s).co (strandOf s).la 0x1F8 false = some 0x1F8 ∧ s.poisonedV 0x1F8 8 = true) := by decide +kernel

/-- R69: a result may end beyond no tile. -/
theorem witness_ResultsArrive_tiles : ∀ j bs, Wr.t j bs ∈ [Wr.t 7 [(16383, 1), (0, 2)]] → ∀ b ∈ bs, b.1 < 16384 := by
  intro j bs h
  simp only [List.mem_singleton, Wr.t.injEq] at h
  obtain ⟨rfl, rfl⟩ := h
  decide

/-- A strand that waits for the pages of a straddling lane, of which the first may be read alone and the second has a reserved attribute. -/
def straddling (wr : Bool) : State :=
  withRun { c0.r with park := some ⟨1, 1, [(0x2FFFC, 0x2FFFC), (0x30000, 0x2FFFC)], 0x2FFFC, false, false, [(0x2FFFC, 0x2FFFC), (0x30000, 0x2FFFC)], true, wr⟩ }
    { demo.homeWrite 1 ((addrs 0x110010 16).zip (leBytes 8 0x210015 ++ leBytes 8 0x22003D)) with tlb := [] }

/-- R141, R151, R202: walks that fail at the lane's first and second page, one that lacks a right, and one that waits for the host port. -/
theorem witness_ResultsArrive_walks :
    (∀ b : Bool, (straddling b).ctxAt 0 0 = some (strandOf (straddling b)) ∧ (strandOf (straddling b)).w.state ≠ .halted ∧
      (∀ p ∈ [0x2FFFC, 0x30000], (straddling b).walkFree 0 0x100000 p 31 = true) ∧ (straddling b).walk 0 0x100000 0x30000 31 = .perm ∧
      (straddling b).walk 0 0x100000 0x2FFFC 31 = .ok ⟨0x20000, 0x10000, 0x210000, .rc, true, false, false, 1⟩) ∧
    let host := 2 ^ 48 * Config.hostChip
    let t := launched { bareLaunch with root := host }
    let s : State := { t.gputs 1 ((addrs host 8).zip (leBytes 8 0)) with
      waves := (straddling false).waves ++ [(1, posts [{ part 0 .write host 8 (leBytes 8 1) with sent := true }])] }
    s.ctxAt 0 0 = some (strandOf s) ∧ (strandOf s).la.root = host ∧ s.walkFree 0 host 0x2FFFC 31 = false := by decide +kernel

/-- R94: an inexact magnitude between two integers of 25 bits, and a pattern that is no NaN. -/
theorem witness_RoundingIsCorrect :
    fmt32.frac < Nat.log2 (2 ^ 24 + 1) ∧ (∃ v : ℝ, ((2 ^ 24 + 1 : Nat) : ℝ) * (2 : ℝ) ^ (-3 : Int) < v ∧ v < ((2 ^ 24 + 1 : Nat) + 1 : ℝ) * (2 : ℝ) ^ (-3 : Int)) ∧
    0xFF7FFFFF < 2 ^ fmt32.width ∧ (fmt32.decode 0xFF7FFFFF).isNan = false :=
  ⟨by decide +kernel, ⟨((2 ^ 24 + 1 : Nat) + 1 / 2 : ℝ) * (2 : ℝ) ^ (-3 : Int), by norm_num, by norm_num⟩, by decide, by decide +kernel⟩

/-- R95, R129: operands that are finite, and conversions to each kind of format. -/
theorem witness_FloatOperationsAreCorrect :
    fmt32.ieee = true ∧ 2 ^ 23 < 2 ^ (fmt32.frac + 1) ∧ fmt32.emin - fmt32.frac ≤ -23 ∧ -23 + (fmt32.frac : Int) ≤ fmt32.emax ∧
    (cvRead (cvOf 1) 0xBF800000).1 = .fin true (2 ^ 23) (-23) ∧ (cvRead (cvOf 7) 0x80000000).1 = .fin true (2 ^ 31) 0 ∧
    ([1, 4, 6, 7, 12] : List Nat).map cvOf = [.flt fmt32, .flt fmtE4M3, .ds8, .int 32 true, .int 8 false] ∧
    ([.fin true 1 (-23), .fin false 3 4] : List FVal).all (fun x => !x.special) = true := by decide +kernel

/-! ## Witnesses: parts, pushes, regions and pages in the forms that the third review names -/

/-- R202, R206, R313: reads and atomics at the host port, a part behind an earlier one that shares a byte, an unaligned read, and a granule that is poisoned. -/
theorem witness_PartsPerformAndLand_forms :
    let host := 2 ^ 48 * Config.hostChip
    (∀ p ∈ [{ part 9 .read host 8 [] with load := some (1, 0) }, part 9 (.atomic .add false 1 0) host 4 [], { part 9 .read 0x210001 8 [] with load := some (1, 4) },
        { part 9 .read 0x210010 16 [] with load := some (1, 0) }],
      let q : Part := { p with sent := true, sentAt := 2 }
      (posts [q]).pq.find? (fun x => x.id == 9) = some q ∧ q.unacked = false ∧ q.rem ≠ [] ∧ demo.hasLink q.pa = true ∧ (0 : Nat) < 8192) ∧
    (isHost host = true ∧ host % 8 = 0 ∧ 0x210001 % 8 ≠ 0 ∧ [load 1 1 false][0]? = some (load 1 1 false)) ∧
    (let q : Part := { part 8 .write host 8 (leBytes 8 1) with sent := true, sentAt := 1 }
     isHost q.pa = true ∧ q.sentAt < 2 ∧ q.pa ≤ host + 7 ∧ host + 7 - q.pa ∈ q.rem) ∧
    (let s : State := { demo with poisonG := [0x8400] }
     (addrs 0 16).find? (fun o => s.poisonG.any (· == (0x210010 + o) / 64)) = some 0 ∧ (addrs 0 16).find? (fun o => demo.poisonG.any (· == (0x210010 + o) / 64)) = none) := by
  decide +kernel

/-- R313: a poisoned word, and a push that brings one. -/
theorem witness_SubscriptionsPush_poison :
    let p : Push := ⟨0, 0, 0x100, 7, .value 5 1 false, [3], none, true⟩
    ({ demo with poisonG := [0x8400] } : State).poisonedWord (0x210000 / 8) = true ∧ demo.poisonedWord (0x210000 / 8) = false ∧
      ({ demo with pushes := [] ++ p :: [] } : State).pushes = [] ++ p :: [] := by decide +kernel

/-- R246: a deque of 256 records, one of 255, and a cohort that has retired, that is saved, or that is no more. -/
theorem witness_RegionsCountAndAct_tasks :
    (∀ n ∈ [255, 256], ((deques (List.replicate n []) []).cores.find (64 * bareCohort.die + bareCohort.core)).any (fun j => j.deque.length == n) = true) ∧
    (∀ c ∈ [{ bareCohort with gone := true }, { bareCohort with preempted := true }, { bareCohort with freed := true }],
      ({ acting (.task 0 []) 64 with cohorts := [(0, c)] } : State).cohorts.find 0 = some c) ∧
    ((acting (.task 7 []) 64).cohorts.find 7 = none ∧ (armed 64 (.task 7 [])).enabled = true ∧ (acting (.task 7 []) 64).launches.find 0 = some bareLaunch ∧
      ((acting (.task 7 []) 64).parts.find bareLaunch.part).isSome = true) ∧
    (∀ c ∈ [none, some 7], (armed 64 (.flag c 0xFFF8 1)).enabled = true) := by decide +kernel

/-- R313, R328: a packet one half of which is poisoned or has no link, and one behind a part at the host port. -/
theorem witness_RegionsCountAndAct_packets :
    let b : Piece := ⟨0x210000, 128, dataPage⟩
    let bad (s : State) (half : Nat) : Bool := (((addrs b.pa b.len).drop (64 * half)).take 64).any fun a => !s.hasLink a || s.poisonG.any (· == a / 64)
    let s : State := { demo with poisonG := [0x8401] }
    (bad s 0 = false ∧ bad s 1 = true ∧ bad demo 0 = false) ∧ demo.hasLink (2 ^ 48) = false ∧
    (let h : Piece := ⟨2 ^ 48 * Config.hostChip, 128, dataPage⟩; atPort.portFree (addrs h.pa h.len) = false ∧ atPort.portFree (addrs b.pa b.len) = true) ∧
    (([0, 1] : List Nat).filter (bad s)).map (fun half => 0x300000 / 64 + half) = [0xC001] := by decide +kernel

/-- R210: pages of each size, and who uses one or asks for it. -/
theorem witness_TranslationsAndHostRequests_pages :
    let held : Trans := ⟨0x40000, 0x10000, 0x4010000, .rc, true, true, false, 1⟩
    (∀ z ∈ [0x10000, 0x200000, 0x4000000], 0x4000000 % z = 0 ∧ (homeOf 0x4000000).isSome = true ∧
      -- Nothing uses the page.
      ((demo.waves.all fun e => !e.2.usesPa 0x4000000 z) && (demo.tlb.all fun d => d.2.all fun x => !meet x.trans.frame x.trans.size 0x4000000 z) &&
        (demo.waves.all fun e => e.2.x.all fun x => x.2.trans.all fun y => !meet y.frame y.size 0x4000000 z)) = true) ∧
    (demo.saved = [] ∧ demo.hostq = [] ∧ demo.arrivals = [] ∧ demo.cores.all (fun e => e.2.jobs == []) = true ∧ demo.waves.all (fun e => e.2.runs.all fun r => r.2.flights == []) = true) ∧
    -- A part, a TLB entry, a register, an XLAT under way and a job's piece of a sector use the last page of a large one, and a host request asks for it.
    ((posts [part 0 .read 0x4010000 8 []]).usesPa 0x4000000 0x4000000 = true ∧
      held.frame < 0x4000000 + 0x4000000 ∧ 0x4000000 < held.frame + held.size ∧ (⟨true, 0x40000, 0x10000, some held, false⟩ : XReg).trans = some held ∧
      Wr.x 1 ⟨true, 0x40000, 0x10000, some held, false⟩ ∈ (flight .ready [.x 1 ⟨true, 0x40000, 0x10000, some held, false⟩]).writes ∧
      ({ aJob with left := [(0, ⟨1, [⟨0x4010000, 16, held⟩], [], none⟩)] } : Job).pieces = [⟨0x4010000, 16, held⟩] ∧
      (⟨9, 1, 0x4010000, 0x4010000, 8, none, addrs 0 8, [], false⟩ : HostPart).pa < 0x4000000 + 0x4000000) := by decide +kernel

/-! ## Witnesses: copy engines and the step cache -/

/-- A step-cache job of 64 FP32 elements in a phase, which has begun nothing of it. -/
def stepJob (kind : JobKind) (phase : Nat) (buf : FMap (FMap Byte) := []) : Job :=
  { aJob with kind := kind, rows := 1, rowb := 256, src := 0x1000, dst := 0x2000, entry := 0x20000, count := 64, phase := phase, bar := none, flag := none, use := 9, buf := buf }

/-- Jobs that read or write global memory. -/
def fromGlobal : Job := { aJob with kind := .copyl, srcG := true, src := 0x20000, rows := 1 }
def toGlobal : Job := { aJob with dstG := true, dst := 0x20001 }

/-- R249, R252, R282: jobs that begin a sector, in each phase of a step-cache job, and how their pages translate. -/
theorem witness_CopyEnginesMoveBytes_sectors :
    (∀ j ∈ [aJob, fromGlobal, toGlobal, { aJob with kind := .tstg, staged := List.replicate 256 1 }, { aJob with kind := .copyc }] ++
        ([0, 1, 2, 3, 4, 5, 7, 8, 9] : List Nat).map (stepJob .stepchk) ++ ([0, 11, 12] : List Nat).map (stepJob .steprec),
      let s := engine [j]
      (s.cores.find 0).any (fun k => k.jobs == [j]) = true ∧ [j].find? (fun x => x.id == j.id) = some j ∧ s.launchOf j.cohort = some bareLaunch ∧ s.fenced j = false ∧
      j.state = .running ∧ j.left = [] ∧ j.begun < j.size ∧ (j.kind = .tstg → j.srcG = false) ∧ (j.step? = false → 0 < j.rowb) ∧ s.sectorFree 0 bareLaunch j j.begun = true ∧
      (j.step? = true → j.entry % 128 = 0 ∧ j.rowb = j.count * 4 ∧ j.layout = 0)) ∧
    (let s := engine [aJob]
     s.rangeOf 0 bareLaunch true false 3 0x20000 16 = .ok [⟨0x210000, 16, dataPage⟩] ∧ s.rangeOf 0 bareLaunch true false 3 0x50000 16 = .error (false, 0x50000) ∧
     s.walkNow 0 bareLaunch.part bareLaunch.root 0x20000 = .ok dataPage ∧ dataPage.r = true ∧ 0x20000 + 16 ≤ dataPage.vbase + dataPage.size ∧ s.uses = []) ∧
    ((straddling true).rangeOf 0 bareLaunch false true 3 0x20000 16 = .error (true, 0x20000)) ∧
    (∀ u ∈ [(⟨3, 0x210000, 0, 0, [0], 0, none⟩ : Use), ⟨3, 0x210000, 7, 0, [0], 0, none⟩], u.head = 0x210000 ∧
      (u.cohort = (stepJob .stepchk 0).cohort ∨ u.id ∈ ({ stepJob .stepchk 0 with after := [3] } : Job).after)) ∧
    (let host := 2 ^ 48 * Config.hostChip
     let la := { bareLaunch with root := host }
     let t := launched la
     let s : State := { t.gputs 1 ((addrs host 8).zip (leBytes 8 0)) with
       tlb := [], waves := [(0, demoWave), (1, posts [{ part 0 .write host 8 (leBytes 8 1) with sent := true }])], cores := [(0, ⟨0, [], [fromGlobal], [], []⟩)] }
     s.launchOf fromGlobal.cohort = some la ∧ s.fenced fromGlobal = false ∧ s.sectorFree 0 la fromGlobal 0 = false) := by decide +kernel

/-- R278, R281, R313: a piece that may not yet be read or written, and why. -/
theorem witness_CopyEnginesMoveBytes_waits :
    (let e : Job := { aJob with id := 4, dst := 0x1000 }
     let s := engine [e, aJob]
     [e, aJob].takeWhile (fun x => x.id != aJob.id) = [e] ∧ e.cohort = aJob.cohort ∧ e.state ≠ .handedOver ∧ s.jobUses e true 0 0x1000 = true) ∧
    (let e : Job := { fromGlobal with id := 4 }
     (engine [e, toGlobal]).jobUses e false 1 0x20001 = true ∧ (engine [e, toGlobal]).jobUses e true 1 0x20001 = false) ∧
    (let j : Job := { stepJob .stepchk 1 with num := 9 }
     let w : Wave := { demoWave with sb := [entry 3 (.vst 4 [(0x1000, 1)] none)] }
     (engine [j] [] w).jobWave 0 0 = some w ∧ ∃ d ∈ w.visible j.key j.num, 0x1000 ∈ d.vaultBytes) ∧
    (let s : State := { engine [aJob] with poisonV := [0x100] }
     (addrs 0x1000 16).find? (fun y => s.poisonV.any (· == s.jobVault aJob y / 16)) = some 0x1000) ∧
    (let s : State := { engine [fromGlobal] with poisonG := [0x8400] }
     s.hasLink 0x210000 = true ∧ (addrs 0x210000 16).find? (fun a => s.poisonG.any (· == a / 64)) = some 0x210000 ∧ s.hasLink (2 ^ 48) = false) ∧
    (let host := 2 ^ 48 * Config.hostChip; isHost host = true ∧ atPort.portFree (addrs host 16) = false) ∧
    ({ engine [{ aJob with kind := .copyc }] with waves := [] } : State).jobWave 0 0 = none := by decide +kernel

/-- R278: pieces that may be read and written. -/
theorem witness_CopyEnginesMoveBytes_pieces :
    (∀ x ∈ [({ aJob with left := [(0, ⟨16, [], [], none⟩)] } : Job), { fromGlobal with left := [(0, ⟨16, [⟨0x210000, 16, dataPage⟩], [], none⟩)] },
        { toGlobal with left := [(0, ⟨1, [], [⟨0x210001, 1, dataPage⟩], some [7]⟩)] }, { aJob with kind := .copyc, left := [(0, ⟨16, [], [], some (leBytes 16 5)⟩)] },
        { stepJob .stepchk 1 with left := [(240, ⟨16, [], [], none⟩)], begun := 256 }],
      let s := engine [x]
      (s.cores.find 0).any (fun k => k.jobs == [x]) = true ∧ s.launchOf x.cohort = some bareLaunch ∧ s.fenced x = false ∧ x.state = .running ∧ x.race = false ∧ s.poisonV = [] ∧
      (x.left.all fun p => (p.2.data.all fun bs => bs.length == p.2.len) && decide (p.1 + p.2.len ≤ 16384)) = true ∧ s.jobWave x.slot x.cohort = some demoWave) ∧
    (addrs 0x1000 16).all ((engine [aJob]).jobReaches aJob) = true ∧ (addrs 0x2001 16).all ((engine [aJob]).jobReaches aJob) = true := by decide +kernel

/-- R279, R252: jobs that are done: with a flag in reach and out of it, of a cohort that is there and one that has retired, of each kind. -/
theorem witness_CopyEnginesMoveBytes_completion :
    (∀ j ∈ [{ aJob with begun := 256 }, { aJob with begun := 256, kind := .copyc }, { aJob with begun := 256, flag := some (0x3FFFFFF0, 1) }, { aJob with begun := 256, flag := none, bar := none }],
      j.state = .running ∧ j.left = [] ∧ j.step? = false ∧ j.rows * j.rowb ≤ j.begun ∧ (engine [j]).cohorts.find j.cohort = some bareCohort) ∧
    ({ engine [aJob] with cohorts := [(0, { bareCohort with gone := true })] } : State).cohorts.find aJob.cohort = some { bareCohort with gone := true } ∧
    (∀ h : Bool, let j := { stepJob .stepchk 10 with hit := h }
      let w : Wave := { demoWave with lattice := [(0, ⟨[], some { c0.r with flights := [flight (.job 5) []] }⟩)] }
      j.phase = 10 ∧ j.step? = true ∧ (engine [j] [] w).jobWave 0 0 = some w ∧ (w.run 0).any (fun r => r.flights.any fun f => f.state == .job 5) = true) := by decide +kernel

/-- R252: the header of an entry that a descriptor matches, and of one that it does not. -/
theorem witness_CopyEnginesMoveBytes_header :
    let head (flags tag : Nat) : List Byte := fields [(4, flags), (4, tag), (4, 64), (1, 0), (3, 0)]
    (let h := head 3 6; (h.getD 0 0).getLsbD 0 = true ∧ (h.getD 0 0).getLsbD 1 = true ∧ field h 8 4 = 64 ∧ field h 12 1 = 0 ∧ (7 : Word) - BitVec.ofNat 32 (field h 4 4) = 1) ∧
    (let h := head 1 7; (h.getD 0 0).getLsbD 0 = true ∧ (h.getD 0 0).getLsbD 1 = false ∧ BitVec.ofNat 32 (field h 4 4) = (7 : Word)) ∧
    ((head 0 0).getD 0 0).getLsbD 0 = false := by decide +kernel

theorem mag_nonneg (x : FVal) : 0 ≤ x.mag := by
  cases x <;> simp [FVal.mag]; positivity

/-- R252: areas of one element, +0 in each, are close under THETA = 0, and no areas are under a NaN. -/
theorem witness_CopyEnginesMoveBytes_close : StepClose fmt32 4 1 0 [0, 0, 0, 0] [0, 0, 0, 0] ∧ ¬ StepClose fmt32 4 1 0x7FC00000 [0, 0, 0, 0] [0, 0, 0, 0] := by
  constructor
  · have z : fmt32.decode 0 = .fin false 0 (-149) := by decide +kernel
    have e (k : Nat) (hk : k < 1) : fmt32.decode (leNat ((([0, 0, 0, 0] : List Byte).drop (4 * k)).take 4)) = .fin false 0 (-149) := by
      obtain rfl : k = 0 := by omega
      decide +kernel
    have m : fmt32.mag 0 = 0 := by simp [Fmt.mag, z, FVal.mag]
    have b : (0 : ℚ) < fmt32.mag (fmt32.maxFin false) + 2 ^ (fmt32.emax - fmt32.frac) / 2 := add_pos_of_nonneg_of_pos (mag_nonneg _) (by positivity)
    refine ⟨by decide +kernel, by decide, fun k hk => ?_, 0, 0, fun k hk => ?_, .inl rfl, fun _ => rfl, fun h => absurd rfl h, fun h => absurd rfl h, fun k hk => ⟨0, 0, ?_, le_rfl⟩⟩
    · show FVal.special (fmt32.decode _) = false ∧ FVal.special (fmt32.decode _) = false
      rw [e k hk]
      exact ⟨rfl, rfl⟩
    · show FVal.mag (fmt32.decode _) ≤ 0
      rw [e k hk]
      simp [FVal.mag]
    · show fmt32.Rounds .ne false false ((|FVal.val (fmt32.decode _) - FVal.val (fmt32.decode _)| : ℚ) : ℝ) (0, 0)
      rw [e k hk, sub_self, abs_zero, Rat.cast_zero]
      refine ⟨fun h => by simp at h, fun h => ?_, fun _ _ => ⟨0, Nat.zero_le _, by decide +kernel, fun _ p _ => ⟨by simp [m], fun _ _ => rfl⟩, fun h => absurd rfl h, fun h => absurd rfl h,
        fun _ => rfl, fun h => absurd (by simp [m]) h, fun h => absurd (by simp [m]) h⟩⟩
      rcases h.1 rfl with h | h
      · exact absurd (lt_trans (by exact_mod_cast b) h) (lt_irrefl _)
      · exact absurd h.1 (ne_of_lt (by exact_mod_cast b))
  · exact fun h => absurd h.1 (by decide +kernel)

/-! ## Witnesses: packets, clusters, contexts, and the step -/

/-- A packet with some of its bytes changed. -/
def packetWith (kind gtab : Nat) (bs : List (Nat × Byte)) : List Byte := bs.foldl (fun p b => p.set b.1 b.2) (packet kind 32 8 1 0x10000 gtab)

/-- How the state judges the packet at HEAD, and whether it may. -/
def judgedFree (s : State) : Option (Bool × Nat) := do
  let p ← s.parts.find 0
  let q ← p.queues.find 0
  let bs := s.gbytes p.dkey (q.ring + 128 * ((BitVec.ofNat 64 (leNat (s.gbytes p.dkey q.head 8)) : DWord).toNat % 2 ^ q.k)) 128
  some (s.judgeFree p 0 0 bs, match s.judge p 0 0 bs with
    | .error r => r
    | .ok _ => 0)

/-- R288: arguments that can be read and that cannot, a group table that cannot, a gang's packet. -/
theorem witness_PacketsAreAcceptedOrRefused_forms :
    (([[(24, 8)], [(24, 8), (18, 5)]] : List (List (Nat × Byte))).map fun bs => judgedFree (queued top 15 (packetWith 1 0 bs))) = [some (true, 0), some (true, 5)] ∧
    judgedFree (queued top 15 (packetWith 1 0x50000 [])) = some (true, 5) ∧ judgedFree (queued top 15 (packetWith 8 0 [(92, 1)])) = some (true, 0) ∧
    demo.gangs.find 0 = none := by decide +kernel

/-- R202: a packet whose tables lie in host memory, behind a part at the host port. -/
theorem witness_PacketsAreAcceptedOrRefused_port :
    let host := 2 ^ 48 * Config.hostChip
    let t := queued top 15 (packetWith 1 0 [(42, 0), (46, 0xFF)])
    let s : State := { t.gputs 1 ((addrs host 8).zip (leBytes 8 0)) with tlb := [], waves := [(1, posts [{ part 0 .write host 8 (leBytes 8 1) with sent := true }])] }
    (judgedFree s).map Prod.fst = some false := by decide +kernel

/-- R18, R289: the second cluster of a launch of two clusters of two cohorts, on cores 0 and 1, and a gang's grid of two. -/
theorem witness_CohortsAreBound_cluster :
    let ps : List Place := [⟨1, 2, 0, 0, 0x10000, [7], [0xFF00]⟩, ⟨1, 3, 0, 1, 0, [0], [0xFF]⟩]
    let l := { bareLaunch with clsz := 2, cohorts := 4, bound := [0, 1] }
    let s : State := { demo with launches := [(0, bareLaunch), (1, l)] }
    (s.launches.find 1 = some l ∧ l.gang = false ∧ l.ended = false ∧ s.down = false ∧ s.serialOk l = true ∧ ps.length = l.clsz ∧ ps.map (·.cohort) = addrs (1 * l.clsz) l.clsz ∧
      (ps.all fun p => p.launch == 1 && decide (p.cohort < l.cohorts) && (s.cohorts.find (cohortKey 1 p.cohort)).isNone && s.fitsAt l p (List.range l.waves)) = true ∧
      (ps.map fun p => 64 * p.die + p.core).Nodup ∧ clusterPlaces l ps = true) ∧
    let g := { l with gang := true, cohorts := 2, bound := [] }
    let qs : List Place := [⟨1, 0, 0, 0, 0x10000, [7], [0xFF00]⟩, ⟨1, 1, 0, 1, 0, [0], [0xFF]⟩]
    let u : State := { demo with launches := [(0, bareLaunch), (1, g)] }
    g.gphase = .none ∧ u.gangs = [] ∧ qs.length = g.cohorts ∧ (groupsOf g.clsz qs.length qs).all (clusterPlaces g) = true ∧ (qs.map (·.cohort)).Nodup ∧ u.serialOk g = true ∧
      (qs.all fun p => u.fitsAt g p (List.range g.waves)) = true := by decide +kernel

/-- R317, R318: a second cohort of the launch, still running or preempted, in its own cluster or, in a persistent launch, in the same unit. -/
theorem witness_ContextsAndTheDebugger_unit :
    let two (l : Launch) (p : Bool) : State := { launched l with cohorts := [(0, bareCohort), (1, { bareCohort with index := 1, preempted := p })] }
    let unit (l : Launch) (p : Bool) : List Bool := (two l p).cohorts.map fun e => decide (e.1 ≠ 0) &&
      (e.2.launch == 0 && (l.persistent || l.clusterOf e.2.index == l.clusterOf 0)) && (!e.2.gone && !e.2.preempted)
    let l : Launch := { bareLaunch with persistent := false }
    unit l false = [false, false] ∧ unit { l with persistent := true } false = [false, true] ∧ unit { l with clsz := 2 } false = [false, true] ∧
    unit { l with clsz := 2 } true = [false, false] ∧ (two bareLaunch false).cohortQuiet 0 bareCohort = true ∧ (two bareLaunch false).dueIn [0] = none ∧
    FMap.risingFrom 0 demo.waves = true := by decide +kernel

/-- R239, R319: a saved cohort that holds one subscription, none of whose values is owed, to the core it is restored to. -/
theorem witness_ContextsAndTheDebugger_held :
    let b : Subscription := ⟨0x210038 / 8, 0, 0x100, 0, true, []⟩
    let sv := { savedCohort with window := (addrs 0x100 16).map fun o => (o, 1) }
    let s : State := { preempted with saved := [sv], subs := [b], cohorts := [(0, { bareCohort with preempted := true, wsize := bareLaunch.window })] }
    s.subs.filter (fun x => x.cohort == 0) = [b] ∧ b.dormant = true ∧ b.owed = [] ∧ bareCohort.winBase ≤ b.slot ∧ b.slot + 16 ≤ bareCohort.winBase + bareLaunch.window ∧
      (s.cores.all fun e => decide (e.2.subs.length + 1 ≤ 4096)) = true ∧ (∀ o < 16, sv.window.find (b.slot - bareCohort.winBase + o) = some 1) ∧ FMap.risingFrom 0 sv.window = true ∧
      s.fitsAt bareLaunch ⟨0, 0, 0, 1, 0x10000, [7], [0xFF]⟩ (sv.waves.map (·.1)) = true ∧
      s.entriesReach bareLaunch.part (moved [((0, 0), bareCohort.winBase, bareLaunch.window, vaultBase 1 + 0x10000)] 0) sv = true ∧ s.loads = [] := by decide +kernel

/-- The partition's home of code lies in host memory, behind a part at the host port or not. -/
def codeAtHost (ps : List Part) : State :=
  let host := 2 ^ 48 * Config.hostChip
  { ({ (next 0) with waves := [(0, { posts ps with lattice := demoWave.lattice })] } : State) with
    tlb := [(0, [⟨0, bareLaunch.root, ⟨0x10000, 0x10000, host, .so, true, true, false, 1⟩⟩])] }

/-- R202: an instruction whose word stands in host memory, and so a copy of code. -/
theorem witness_StepRunsTheDecodedInstruction_port :
    let host := 2 ^ 48 * Config.hostChip
    let q := { part 0 .write host 8 (leBytes 8 1) with sent := true }
    ([[], [q]].map fun ps => let u := stepped (codeAtHost ps); (u.fetchFree (strandOf u), u.walkNowFree 0 0 bareLaunch.root 0x10000 && u.portFree (addrs host 4))) =
      [(true, true), (false, false)] := by decide +kernel

/-- R330: keys of lines, of a partition and of none. -/
theorem witness_ModuleStepResults_keys :
    let s : State := demo.gputs 1 [(0x210000, 5), (0x210040, 6)]
    s.gkeys.find (0x210000 / 64) = some 1 ∧ (s.parts.find 0).any (fun p => p.dkey == 1) = true ∧ (∀ e ∈ s.channels, e.2.key ≠ 5) ∧
      ({ s with gkeys := [(7, 5)] } : State).gkeys.find 7 = some 5 := by decide +kernel

/-- R234: a directory with 4,096 entries. -/
theorem witness_EntriesDrain_full :
    let s : State := { demo with cores := [(0, ⟨0, [], [], [], List.replicate 4096 (1, 0)⟩)] }
    (((s.cores.find 0).map (·.subs)).getD []).length = 4096 := by decide +kernel

/-- R179: the last wave of a group's members retires while the group holds two RELEASEs. -/
theorem witness_WavesCohortsAndRequestsEnd_releases :
    let x : Group := ⟨[0], true, true, 3, 2, false, []⟩
    let l := { bareLaunch with groups := [(0, x)] }
    let s : State := { launched l with waves := [(0, { demoWave with lattice := [] })] }
    let d : Cohort := { bareCohort with retired := bareCohort.retired ++ [0] }
    s.launches.find 0 = some l ∧ s.cohorts.find 0 = some bareCohort ∧ d.nwaves = 1 ∧ (∀ k < d.nwaves, k ∈ d.retired) ∧ x.rwait = true ∧ x.held ≠ 0 ∧ FMap.risingFrom 0 l.groups = true := by decide +kernel

end Sys2Proof.Tests
end

section
/-! PROOFS. A step of the machine: the turn of a strand, the words that it fetches, and a program placed from outside (O57). -/

namespace Sys2Proof.Machine

/-! ## A step that the agenda holds -/

theorem step_of_agenda {s : State} {x : Next} {rest : List Next} (hd : s.down = false) (ha : s.agenda = x :: rest) :
    step s = State.take { s.advance with agenda := rest } x := by
  unfold step State.once
  rw [hd, ha]
  rfl

theorem State.elapsed_pos (s : State) (die : Nat) : 1 ≤ s.elapsed die := Nat.le_add_right 1 _

/-- CLOCK of a die advances by what elapses there (R171). -/
theorem State.advance_clock {s : State} {die : Nat} {x : DWord} (h : s.clock[die]? = some x) :
    s.advance.clock[die]? = some (x + BitVec.ofNat 64 (s.elapsed die)) := by
  have hz : s.clock.zipIdx[die]? = some (x, die) := by simp [List.getElem?_zipIdx, h]
  show (s.clock.zipIdx.map _)[die]? = _
  rw [List.getElem?_map, hz]
  rfl

/-! ## The words that a strand fetches (R62, R347) -/

/-- A fetched word is the one at its home or a copy that the core holds (R347). -/
theorem State.codeWord_cases (s : State) (core va : Nat) (la : Launch) : s.codeWord core la va = s.homeWord core la va ∨
    ∃ l ∈ s.icache, l.core = core ∧ l.part = la.part ∧ l.root = la.root ∧ l.va = va ∧ s.codeWord core la va = l.word := by
  cases hf : s.icache.find? fun l => l.core == core && l.part == la.part && l.root == la.root && l.va == va with
  | none => left; simp only [State.codeWord, hf]
  | some l =>
    have hl := List.find?_some hf
    simp only [Bool.and_eq_true, beq_iff_eq] at hl
    obtain ⟨⟨⟨hcore, hpart⟩, hroot⟩, hva⟩ := hl
    have hm := List.mem_of_find?_eq_some hf
    have hw : s.codeWord core la va = if l.word = s.homeWord core la va then s.homeWord core la va
        else if Config.oldFetch s.tick core va then l.word else s.homeWord core la va := by simp only [State.codeWord, hf]
    rw [hw]
    split
    · exact .inl rfl
    · split
      · exact .inr ⟨l, hm, hcore, hpart, hroot, hva, rfl⟩
      · exact .inl rfl

/-- Where the home and every copy of the core agree, that is the word fetched. -/
theorem State.codeWord_eq {s : State} {core va : Nat} {la : Launch} {x : Word} (home : s.homeWord core la va = x)
    (copies : ∀ l ∈ s.icache, l.core = core → l.part = la.part → l.root = la.root → l.va = va → l.word = x) : s.codeWord core la va = x := by
  rcases s.codeWord_cases core va la with h | ⟨l, hl, h1, h2, h3, h4, h⟩
  · exact h.trans home
  · exact h.trans (copies l hl h1 h2 h3 h4)

/-- Without an extension word the word after it does not count (R64). -/
theorem decodeWords_noExt {w : Word} (ext : Word) (h : hasExt w = false) : decodeWords w ext = decodeWords w 0 := by
  simp [decodeWords, Raw.ofWords, h]

theorem decodeWords_fetched (w ext : Word) : decodeWords w (if hasExt w then ext else 0) = decodeWords w ext := by
  cases h : hasExt w
  · exact (decodeWords_noExt ext h).symm
  · rfl

theorem State.patched_nil {s : State} (h : s.patches = []) (core : Nat) (la : Launch) (va : Nat) : s.patched core la va = none := by
  simp [State.patched, h]

theorem State.wordAt_unpatched {s : State} (h : s.patches = []) (core : Nat) (la : Launch) (va : Nat) :
    s.wordAt core la none va = s.codeWord core la va := by
  simp [State.wordAt, State.patched_nil h]

/-- Without patches a strand fetches the two words at its PC (R62, R332). -/
theorem State.fetch_unpatched {s : State} {c : Ctx} (hp : s.patches = []) (hs : c.r.sub = none) (hpc : c.r.pc < 2 ^ 48)
    (hlo : c.la.code ≤ c.r.pc) (hhi : c.r.pc + 8 ≤ c.la.code + c.la.extent) :
    s.fetch c = .words (s.codeWord (slotCore c.slot) c.la c.r.pc)
      (if hasExt (s.codeWord (slotCore c.slot) c.la c.r.pc) then s.codeWord (slotCore c.slot) c.la (c.r.pc + 4) else 0) none := by
  have in0 : c.la.inExtent c.r.pc = true := by simp [Launch.inExtent]; omega
  have in4 : c.la.inExtent (c.r.pc + 4) = true := by simp [Launch.inExtent]; omega
  have flow : s.flowBad (slotCore c.slot) c.la c.r.pc none = none := by
    simp only [State.flowBad, in0, in4]
    simp; omega
  simp only [State.fetch, State.subAt, hs, State.patched_nil hp, flow, State.wordAt_unpatched hp]

/-! ## The turn of a strand (R33, R291) -/

/-- A strand is the second of a pair where it may be and is not the first in turn, or is chosen to be (R291). -/
noncomputable def State.isSecond (s : State) (slot entry : Nat) : Bool :=
  s.mayPair slot entry && ((s.ahead slot entry).any s.issues || Config.second s.tick slot)

theorem State.any_issues_eq_false {s : State} {slot entry : Nat} :
    (s.ahead slot entry).any s.issues = false ↔ ∀ x ∈ s.ahead slot entry, s.issues x = false := by
  simp [List.any_eq_false]

/-- A strand that is neither in turn nor a second waits. -/
theorem State.select_waits {s : State} {slot entry : Nat} (ho : ¬ ∀ x ∈ s.ahead slot entry, s.issues x = false)
    (hp : s.mayPair slot entry = false) : s.select slot entry = .next { s with stall := true } := by
  have h : (s.ahead slot entry).any s.issues = true := by
    rw [← Bool.not_eq_false]; exact fun h => ho (State.any_issues_eq_false.mp h)
  simp [State.select, h, hp, State.stalled]

/-- A strand in turn, or a second, makes its attempt. -/
theorem State.select_tries {s : State} {slot entry : Nat}
    (h : (∀ x ∈ s.ahead slot entry, s.issues x = false) ∨ s.mayPair slot entry = true) :
    s.select slot entry = turn s slot (!s.isSecond slot entry && s.pairsAt slot entry)
      ({ s with rr := if s.isSecond slot entry then s.rr else s.rr.put (slot / 8) slot }.issueAt slot entry) := by
  have hg : ¬ (!(!(s.ahead slot entry).any s.issues) && !s.mayPair slot entry) = true := by
    rcases h with h | h
    · simp [State.any_issues_eq_false.mpr h]
    · simp [h]
  unfold State.select
  rw [if_neg hg]
  simp only [State.isSecond, Bool.not_not]
  rfl

/-! ## An attempt -/

section
variable {s : State} {slot entry : Nat} {c : Ctx}

theorem State.issueAt_waits (hc : s.ctxAt slot entry = some c) (hf : s.fetchFree c = false) (rr : FMap Nat) :
    State.issueAt { s with rr := rr } slot entry = .next { s with cur := some (slot, entry), rr := rr, stall := true } := by
  have hc' : State.ctxAt { s with cur := some (slot, entry), rr := rr } slot entry = some c := hc
  have hf' : State.fetchFree { s with cur := some (slot, entry), rr := rr } c = false := hf
  simp [State.issueAt, hc', hf', State.stalled]

theorem State.issueAt_decoded {i : Instr} {w ext : Word} (hc : s.ctxAt slot entry = some c) (hf : s.fetchFree c = true)
    (hw : State.fetch { s with cur := some (slot, entry) } c = .words w ext none) (hs : c.r.sub = none) (hi : decodeWords w ext = .ok i) :
    s.issueAt slot entry = exec i { s with cur := some (slot, entry) } := by
  have hc' : State.ctxAt { s with cur := some (slot, entry) } slot entry = some c := hc
  have hf' : State.fetchFree { s with cur := some (slot, entry) } c = true := hf
  simp [State.issueAt, hc', hf', hw, hi, State.enterSub, hs]

theorem State.issueAt_undecoded {e : DecodeError} {w ext : Word} (hc : s.ctxAt slot entry = some c) (hf : s.fetchFree c = true)
    (hw : State.fetch { s with cur := some (slot, entry) } c = .words w ext none) (hs : c.r.sub = none) (hi : decodeWords w ext = .error e) :
    s.issueAt slot entry = State.illegal { s with cur := some (slot, entry) } (hasExt w) := by
  have hc' : State.ctxAt { s with cur := some (slot, entry) } slot entry = some c := hc
  have hf' : State.fetchFree { s with cur := some (slot, entry) } c = true := hf
  simp [State.issueAt, hc', hf', hw, hi, State.enterSub, hs]

end

/-- A strand that nothing holds back traps ILLEGAL_OP where its words are no instruction (R82 item 2). -/
theorem State.illegal_traps {s : State} {c : Ctx} (x : Bool) (hd : s.down = false) (hc : s.ctx = some c) (hr : c.ready = true)
    (hq : s.quadBusy c.slot = false) (hu : c.w.due = none) (hf : ∀ f ∈ c.r.flights, f.left = 0 → f.state = .done) :
    s.illegal x = .next (s.takeTrap c .illegalOp 0 c.r.mask) := by
  have hh (n : Need) : c.r.flights.any (holdsBack c.r n) = false := by
    rw [List.any_eq_false]
    intro f hm
    by_cases h0 : f.left = 0
    · simp [holdsBack, hf f hm h0]
    · simp [holdsBack, h0]
  simp [State.illegal, State.issue, State.gate, hd, hc, hr, Ctx.runs_of_ready hr, hq, hu, hh]

end Sys2Proof.Machine

namespace Sys2Proof.Machine

/-- What a step comes to where the strand that it lets issue finds words at their homes and in its core's copies that agree. -/
structure FetchesWords (s : State) (slot entry : Nat) (c : Ctx) (w ext : Word) : Prop where
  ctx : s.ctxAt slot entry = some c
  plain : s.patches = []
  sub : c.r.sub = none
  pc : c.r.pc < 2 ^ 48
  low : c.la.code ≤ c.r.pc
  high : c.r.pc + 8 ≤ c.la.code + c.la.extent
  free : s.fetchFree c = true
  word : s.codeWord (slotCore slot) c.la c.r.pc = w
  ext : s.codeWord (slotCore slot) c.la (c.r.pc + 4) = ext

section
variable {s : State} {slot entry : Nat} {c : Ctx} {w ext : Word}

/-- Neither the choice of a strand nor the order of the waves bears on what it fetches. -/
theorem FetchesWords.fetch (h : FetchesWords s slot entry c w ext) (cur : Option (Nat × Nat)) (rr : FMap Nat) :
    State.fetch { s with cur := cur, rr := rr } c = .words w (if hasExt w then ext else 0) none := by
  obtain ⟨hslot, -, -⟩ := State.ctxAt_stands h.ctx
  subst hslot
  have hf := State.fetch_unpatched (s := { s with cur := cur, rr := rr }) h.plain h.sub h.pc h.low h.high
  have e0 : State.codeWord { s with cur := cur, rr := rr } (slotCore c.slot) c.la c.r.pc = w := h.word
  have e4 : State.codeWord { s with cur := cur, rr := rr } (slotCore c.slot) c.la (c.r.pc + 4) = ext := h.ext
  rw [hf, e0, e4]

theorem FetchesWords.pairsAt_ok (h : FetchesWords s slot entry c w ext) {i : Instr} (hi : decodeWords w ext = .ok i) :
    s.pairsAt slot entry = pairing i := by
  have hf : s.fetch c = _ := h.fetch s.cur s.rr
  simp only [State.pairsAt, h.ctx, hf, decodeWords_fetched, hi]

theorem FetchesWords.pairsAt_error (h : FetchesWords s slot entry c w ext) {e : DecodeError} (hi : decodeWords w ext = .error e) :
    s.pairsAt slot entry = false := by
  have hf : s.fetch c = _ := h.fetch s.cur s.rr
  simp only [State.pairsAt, h.ctx, hf, decodeWords_fetched, hi]

/-- The attempt runs the instruction that the words decode to. -/
theorem FetchesWords.issueAt_ok (h : FetchesWords s slot entry c w ext) {i : Instr} (hi : decodeWords w ext = .ok i) (rr : FMap Nat) :
    State.issueAt { s with rr := rr } slot entry = exec i { s with cur := some (slot, entry), rr := rr } :=
  State.issueAt_decoded (s := { s with rr := rr }) h.ctx h.free (h.fetch (some (slot, entry)) rr) h.sub ((decodeWords_fetched w ext).trans hi)

theorem FetchesWords.issueAt_error (h : FetchesWords s slot entry c w ext) {e : DecodeError} (hi : decodeWords w ext = .error e) (rr : FMap Nat) :
    State.issueAt { s with rr := rr } slot entry = State.illegal { s with cur := some (slot, entry), rr := rr } (hasExt w) :=
  State.issueAt_undecoded (s := { s with rr := rr }) h.ctx h.free (h.fetch (some (slot, entry)) rr) h.sub ((decodeWords_fetched w ext).trans hi)

end

end Sys2Proof.Machine

/-! ## Maps -/

namespace Sys2Proof

/-- Keeping the entries whose keys a test accepts. -/
theorem FMap.find_keep_key {α : Type} (m : FMap α) (p : Nat → Bool) (k : Nat) :
    (m.keep fun j _ => p j).find k = if p k then m.find k else none := by
  induction m with
  | nil => simp [FMap.keep]
  | cons x t ih =>
    obtain ⟨j, a⟩ := x
    have ih' : FMap.find (List.filter (fun e : Nat × α => p e.1) t) k = _ := ih
    by_cases hj : j = k
    · subst hj
      cases hp : p j <;> simp [FMap.keep, FMap.find, hp, ih']
    · cases hp : p j <;> simp [FMap.keep, FMap.find, hp, hj, ih']

theorem addrs_eq_range' : ∀ (n a : Nat), addrs a n = List.range' a n
  | 0, _ => rfl
  | n + 1, a => by rw [addrs, addrs_eq_range' n (a + 1), List.range'_succ]

/-- Consecutive addresses paired with what stands at them. -/
theorem mem_zip_addrs {α : Type} (b : α) (x : Nat) : ∀ (n a : Nat) (bs : List α),
    (x, b) ∈ (addrs a n).zip bs ↔ a ≤ x ∧ x < a + n ∧ bs[x - a]? = some b
  | 0, a, bs => by simp [addrs]; omega
  | n + 1, a, [] => by simp
  | n + 1, a, c :: bs => by
    rw [addrs, List.zip_cons_cons, List.mem_cons, mem_zip_addrs b x n (a + 1) bs, Prod.mk.injEq]
    by_cases hx : x = a
    · subst hx
      simp [eq_comm]
    · constructor
      · rintro (⟨h, -⟩ | ⟨h1, h2, h3⟩)
        · exact absurd h hx
        · obtain ⟨j, rfl⟩ : ∃ j, x = a + 1 + j := ⟨x - (a + 1), by omega⟩
          refine ⟨by omega, by omega, ?_⟩
          rw [show a + 1 + j - a = (a + 1 + j - (a + 1)) + 1 by omega]
          exact h3
      · rintro ⟨h1, h2, h3⟩
        obtain ⟨j, rfl⟩ : ∃ j, x = a + 1 + j := ⟨x - (a + 1), by omega⟩
        rw [show a + 1 + j - a = (a + 1 + j - (a + 1)) + 1 by omega] at h3
        exact .inr ⟨by omega, by omega, h3⟩

theorem wordOfBytes_bytesOfWord (w : Word) :
    wordOfBytes (w.extractLsb' 0 8) (w.extractLsb' 8 8) (w.extractLsb' 16 8) (w.extractLsb' 24 8) = w := by
  unfold wordOfBytes
  ext i hi
  simp only [BitVec.getElem_append, BitVec.getElem_extractLsb']
  repeat' split
  all_goals rw [← BitVec.getLsbD_eq_getElem]; congr 1; omega

theorem leNat_bytesOfWord (w : Word) : BitVec.ofNat 32 (leNat (bytesOfWord w)) = w := by
  apply BitVec.eq_of_toNat_eq
  simp only [bytesOfWord, leNat, BitVec.extractLsb'_toNat, BitVec.toNat_ofNat, Nat.shiftRight_eq_div_pow]
  have := w.isLt
  omega

end Sys2Proof

namespace Sys2Proof.Machine

theorem decodeWords_of_decodeBytes {w0 w1 : Word} {i : Instr} {rest : List Byte}
    (h : decodeBytes (bytesOfWord w0 ++ bytesOfWord w1) = .ok (i, rest)) : decodeWords w0 w1 = .ok i := by
  simp only [bytesOfWord, decodeBytes, List.cons_append, List.nil_append, wordOfBytes_bytesOfWord] at h
  cases hx : hasExt w0 with
  | true =>
    cases hd : decodeWords w0 w1 with
    | ok j => simp only [hx, hd, if_true, Except.ok.injEq, Prod.mk.injEq] at h; rw [h.1]
    | error e => simp [hx, hd] at h
  | false =>
    rw [decodeWords_noExt _ hx]
    cases hd : decodeWords w0 0 with
    | ok j => simp only [hx, hd, Bool.false_eq_true, if_false, Except.ok.injEq, Prod.mk.injEq] at h; rw [h.1]
    | error e => simp only [hx, hd, Bool.false_eq_true, if_false, reduceCtorEq] at h

theorem decodeWords_of_decodeTableWord {nbits w : Nat} {i : Instr} (h : decodeTableWord nbits w = some i) :
    decodeWords (BitVec.ofNat 32 (w % 2 ^ nbits)) (BitVec.ofNat 32 (w % 2 ^ nbits / 2 ^ 32)) = .ok i := by
  unfold decodeTableWord tableBytes at h
  split at h
  · rename_i j rest hb
    exact (Option.some.inj h) ▸ decodeWords_of_decodeBytes hb
  · cases h

/-! ## Bytes of global memory under a key (R147) -/

@[simp] theorem Memory.byte_clear (m : Memory) (lo hi a : Nat) :
    Memory.byte (Memory.clear m lo hi) a = if a < lo ∨ hi ≤ a then Memory.byte m a else none := by
  unfold Memory.byte Memory.clear
  rw [FMap.find_keep_key m fun a => decide (a < lo ∨ hi ≤ a)]
  simp only [decide_eq_true_eq]

/-- A write changes the bytes of memory and the keys of lines, and nothing else. -/
theorem State.gputs_frame (key : Nat) : ∀ (bs : List (Nat × Byte)) (s : State),
    s.gputs key bs = { s with gmem := (s.gputs key bs).gmem, gkeys := (s.gputs key bs).gkeys }
  | [], _ => rfl
  | (a, b) :: t, s => by
    have h : s.gput key a b = { s with gmem := (s.gput key a b).gmem, gkeys := (s.gput key a b).gkeys } := by
      unfold State.gput
      split <;> rfl
    rw [State.gputs]
    refine (State.gputs_frame key t (s.gput key a b)).trans ?_
    generalize (State.gputs (s.gput key a b) key t) = u
    rw [h]

/-- A write leaves the other lines, with their keys, as they were. -/
theorem State.gput_line (s : State) {key pa x : Nat} (b : Byte) (h : x / 64 ≠ pa / 64) :
    Memory.byte (s.gput key pa b).gmem x = Memory.byte s.gmem x ∧ (s.gput key pa b).gkeys.find (x / 64) = s.gkeys.find (x / 64) := by
  have hne : x ≠ pa := fun e => h (by rw [e])
  have hout : x < pa / 64 * 64 ∨ pa / 64 * 64 + 64 ≤ x := by omega
  unfold State.gput
  split
  · exact ⟨Memory.byte_set_ne _ _ hne, rfl⟩
  · exact ⟨by simp only [Memory.byte_set_ne _ _ hne, Memory.byte_clear, hout, if_true], FMap.find_put_ne _ _ h⟩

theorem State.gputs_line {key x : Nat} : ∀ (bs : List (Nat × Byte)) (s : State), (∀ e ∈ bs, x / 64 ≠ e.1 / 64) →
    Memory.byte (s.gputs key bs).gmem x = Memory.byte s.gmem x ∧ (s.gputs key bs).gkeys.find (x / 64) = s.gkeys.find (x / 64)
  | [], _, _ => ⟨rfl, rfl⟩
  | (a, b) :: t, s, h => by
    obtain ⟨hm, hk⟩ := State.gputs_line t (s.gput key a b) fun e he => h e (by simp [he])
    obtain ⟨hm', hk'⟩ := State.gput_line (key := key) s b (h (a, b) (by simp))
    exact ⟨hm.trans hm', hk.trans hk'⟩

/-- A byte of memory stands, and a reader with the key finds it (R147). -/
def State.Holds (s : State) (key x : Nat) (b : Byte) : Prop :=
  Memory.byte s.gmem x = some b ∧ (isHost x || s.gkeys.find (x / 64) == some key) = true

theorem State.Holds.gbyte {s : State} {key x : Nat} {b : Byte} (h : s.Holds key x b) : s.gbyte key x = b := by
  obtain ⟨hm, hk⟩ := h
  simp only [State.gbyte, hk, hm, if_true, Option.getD_some]

theorem State.gput_holds (s : State) (key pa : Nat) (b : Byte) : (s.gput key pa b).Holds key pa b := by
  unfold State.gput
  split
  · rename_i h
    exact ⟨Memory.byte_set_same _ _ _, h⟩
  · exact ⟨Memory.byte_set_same _ _ _, by simp⟩

/-- A byte that a key reads stays while that key writes others. -/
theorem State.Holds.gput_ne {s : State} {key x pa : Nat} {b : Byte} (h : s.Holds key x b) (c : Byte) (hne : x ≠ pa) :
    (s.gput key pa c).Holds key x b := by
  obtain ⟨hm, hk⟩ := h
  by_cases hl : x / 64 = pa / 64
  · have hh : isHost x = isHost pa := by simp only [isHost]; congr 1; omega
    have hp : (isHost pa || s.gkeys.find (pa / 64) == some key) = true := by rw [← hh, ← hl]; exact hk
    unfold State.gput
    rw [if_pos hp]
    exact ⟨(Memory.byte_set_ne _ _ hne).trans hm, hk⟩
  · obtain ⟨hm', hk'⟩ := State.gput_line (key := key) s c hl
    exact ⟨hm'.trans hm, by rw [hk']; exact hk⟩

theorem State.Holds.gputs {key x : Nat} {b : Byte} : ∀ {bs : List (Nat × Byte)} {s : State}, s.Holds key x b →
    (∀ e ∈ bs, e.1 = x → e.2 = b) → (s.gputs key bs).Holds key x b
  | [], _, h, _ => h
  | (a, c) :: t, s, h, hb => by
    refine State.Holds.gputs (bs := t) ?_ fun e he => hb e (by simp [he])
    by_cases hx : x = a
    · subst hx
      have : c = b := hb (x, c) (by simp) rfl
      exact this ▸ s.gput_holds key x c
    · exact h.gput_ne c hx

/-- What a key writes it reads back. -/
theorem State.gputs_holds {key x : Nat} {b : Byte} : ∀ {bs : List (Nat × Byte)} {s : State}, (x, b) ∈ bs →
    (∀ e ∈ bs, e.1 = x → e.2 = b) → (s.gputs key bs).Holds key x b
  | (a, c) :: t, s, h, hb => by
    rcases List.mem_cons.mp h with h | h
    · obtain ⟨rfl, rfl⟩ := Prod.mk.inj h
      exact (s.gput_holds key x b).gputs fun e he => hb e (by simp [he])
    · exact State.gputs_holds (bs := t) h fun e he => hb e (by simp [he])

/-- Bytes that a key writes at consecutive addresses it reads back. -/
theorem State.gputs_zip_holds (s : State) (key a : Nat) {bs : List Byte} {j : Nat} {b : Byte} (h : bs[j]? = some b) {n : Nat} (hn : j < n) :
    (s.gputs key ((addrs a n).zip bs)).Holds key (a + j) b := by
  refine State.gputs_holds ((mem_zip_addrs b (a + j) n a bs).mpr ⟨by omega, by omega, by rwa [Nat.add_sub_cancel_left]⟩) fun e he hx => ?_
  have h' := ((mem_zip_addrs e.2 e.1 n a bs).mp he).2.2
  rw [hx, Nat.add_sub_cancel_left, h] at h'
  exact (Option.some.inj h').symm

/-! ## A program placed from outside -/

/-- The machine with a memory and the keys of its lines, where the first step from `State.bare` tries the strand. -/
def loaded (m : Memory) (k : FMap Nat) : State := { State.reset.bare.advance with gmem := m, gkeys := k, agenda := [] }

/-- The memory that holds the page tables of `State.bare` and the two words. -/
@[irreducible] def codeState (w0 w1 : Word) : State := State.reset.bare.gputs 1 ((addrs 0x200000 8).zip (bytesOfWord w0 ++ bytesOfWord w1))

/-- Where the strand of `State.bare` stands. -/
def bareCtx : Ctx := ⟨0, 0, bareLaunch.wave 0 0 0 0xFF, bareLaunch.root' 0 0, bareCohort, bareLaunch, []⟩

/-- The page of the program. -/
def codePage : Trans := ⟨0x10000, 0x10000, 0x200000, .so, true, true, false, 1⟩

theorem bare_walkNow : State.reset.bare.walkNow 0 0 0x100000 0x10000 = .ok codePage := by decide +kernel

theorem bare_placeCode (w0 w1 : Word) : State.reset.bare.placeCode bareCtx 0x10000 w0 w1 = codeState w0 w1 := by
  have hw : State.reset.bare.walkNow bareCtx.co.die bareCtx.la.part bareCtx.la.root 0x10000 = .ok codePage := bare_walkNow
  have hi : (codeState w0 w1).icache = [] := by rw [codeState, State.gputs_frame]; rfl
  have hp : State.reset.bare.placeCode bareCtx 0x10000 w0 w1 =
      { codeState w0 w1 with icache := (codeState w0 w1).icache.filter fun x => !(x.va == 0x10000 || x.va == 0x10000 + 4) } := by
    rw [codeState]
    simp only [State.placeCode, hw]
    rfl
  rw [hp, hi, List.filter_nil, ← hi]

theorem withFetchWord_reset (nbits w : Nat) : State.reset.withFetchWord nbits w =
    { codeState (BitVec.ofNat 32 (w % 2 ^ nbits)) (BitVec.ofNat 32 (w % 2 ^ nbits / 2 ^ 32)) with rr := [], agenda := [.issue 0 0] } :=
  congrArg (fun s : State => { s with rr := [], agenda := [.issue 0 0] })
    (bare_placeCode (BitVec.ofNat 32 (w % 2 ^ nbits)) (BitVec.ofNat 32 (w % 2 ^ nbits / 2 ^ 32)))

theorem State.Holds.loaded {s : State} {key x : Nat} {b : Byte} (h : s.Holds key x b) : (loaded s.gmem s.gkeys).Holds key x b := ⟨h.1, h.2⟩

theorem loaded_hasLink (m m' : Memory) (k k' : FMap Nat) : (loaded m k).hasLink = (loaded m' k').hasLink := rfl

section
variable (w0 w1 : Word)

/-- The first step finds the memory as it was placed. -/
theorem advance_codeState : { State.advance { codeState w0 w1 with rr := [], agenda := [.issue 0 0] } with agenda := [] } =
    loaded (codeState w0 w1).gmem (codeState w0 w1).gkeys := by
  have h : codeState w0 w1 = { State.reset.bare with gmem := (codeState w0 w1).gmem, gkeys := (codeState w0 w1).gkeys } := by
    rw [codeState]
    exact State.gputs_frame _ _ _
  have hr : State.reset.bare.rr = [] := rfl
  have comm : ∀ (s : State) m k a, s.rr = [] → { State.advance { { s with gmem := m, gkeys := k } with rr := [], agenda := a } with agenda := [] } =
      { s.advance with gmem := m, gkeys := k, agenda := [] } := fun s m k a h => by rw [← h]; rfl
  exact (congrArg (fun s : State => { State.advance { s with rr := [], agenda := [.issue 0 0] } with agenda := [] }) h).trans (comm _ _ _ _ hr)

theorem loaded_gbyte_congr {m m' : Memory} {k k' : FMap Nat} {x : Nat} (key : Nat) (hm : Memory.byte m x = Memory.byte m' x)
    (hk : k.find (x / 64) = k'.find (x / 64)) : (loaded m k).gbyte key x = (loaded m' k').gbyte key x := by
  show (if isHost x || k.find (x / 64) == some key then (Memory.byte m x).getD (Config.freeByte (loaded m' k').tick 1 x)
    else Config.freeByte (loaded m' k').tick 1 x) = _
  rw [hm, hk]
  rfl

/-- The page tables lie in other lines than the code. -/
theorem codeState_pte {x : Nat} (h : x + 8 ≤ 0x200000) :
    (loaded (codeState w0 w1).gmem (codeState w0 w1).gkeys).pte 1 x = (loaded State.reset.bare.gmem State.reset.bare.gkeys).pte 1 x := by
  have hb : (loaded (codeState w0 w1).gmem (codeState w0 w1).gkeys).gbytes 1 x 8 = (loaded State.reset.bare.gmem State.reset.bare.gkeys).gbytes 1 x 8 := by
    refine List.map_congr_left fun a ha => ?_
    have hlow := (mem_addrs 8 x a).mp ha
    obtain ⟨hm, hk⟩ := State.gputs_line (key := 1) (x := a) ((addrs 0x200000 8).zip (bytesOfWord w0 ++ bytesOfWord w1)) State.reset.bare
      fun e he => by
        have := (mem_addrs 8 0x200000 e.1).mp (List.of_mem_zip (a := e.1) (b := e.2) he).1
        omega
    rw [codeState]
    exact loaded_gbyte_congr 1 hm hk
  have hl := loaded_hasLink (codeState w0 w1).gmem State.reset.bare.gmem (codeState w0 w1).gkeys State.reset.bare.gkeys
  simp only [State.pte, State.readBytes, hb, hl]

end

/-- The walk of the program's page goes through the entries of `bareTables` (R139). -/
theorem loaded_walk {m : Memory} {k : FMap Nat} {va : Nat} (run : Nat) (hva : va = 0x10000 ∨ va = 0x10004)
    (h3 : (loaded m k).pte 1 0x100000 = 0x101003) (h2 : (loaded m k).pte 1 0x101000 = 0x108003)
    (h1 : (loaded m k).pte 1 0x108000 = 0x110003) (h0 : (loaded m k).pte 1 0x110008 = 0x20000D) :
    (loaded m k).walk 0 0x100000 va run = .ok codePage := by
  have hk : (loaded m k).dkey 0 = 1 := rfl
  have hb : (loaded m k).backed = (loaded [] []).backed := rfl
  have hl : (loaded m k).leaf = (loaded [] []).leaf := rfl
  have b3 : (loaded [] []).backed 0x100000 = true := by decide +kernel
  have b2 : (loaded [] []).backed 0x101000 = true := by decide +kernel
  have b1 : (loaded [] []).backed 0x108000 = true := by decide +kernel
  have b0 : (loaded [] []).backed 0x110000 = true := by decide +kernel
  have l : ∀ va, va = 0x10000 ∨ va = 0x10004 → (loaded [] []).leaf 0 0x20000D va 0x10000 true = .ok codePage := by
    rintro va (rfl | rfl) <;> decide +kernel
  rcases hva with rfl | rfl <;>
    simp [State.walk, hk, h3, h2, h1, h0, State.tableOk, pteField, hb, hl, b3, b2, b1, b0] <;> exact l _ (by decide)

end Sys2Proof.Machine

namespace Sys2Proof.Machine

/-- The bytes of the two words stand in the program's page. -/
theorem codeState_gbyte (w0 w1 : Word) {j : Nat} {b : Byte} (h : (bytesOfWord w0 ++ bytesOfWord w1)[j]? = some b) :
    (loaded (codeState w0 w1).gmem (codeState w0 w1).gkeys).gbyte 1 (0x200000 + j) = b := by
  have hj : j < 8 := (List.getElem?_eq_some_iff.mp h).1
  refine (State.Holds.loaded ?_).gbyte
  rw [codeState]
  exact State.gputs_zip_holds _ 1 0x200000 h hj

theorem loaded_readBytes {m : Memory} {k : FMap Nat} {a : Nat} (n : Nat) (h : a < 2 ^ 48) : (loaded m k).readBytes 1 a n = (loaded m k).gbytes 1 a n := by
  have h0 : a / 2 ^ 48 = 0 := Nat.div_eq_of_lt h
  have h1 : (loaded [] []).linked 0 = true := by decide +kernel
  have hl : (loaded m k).hasLink a = true := by
    rw [loaded_hasLink m [] k [], State.hasLink, h0, h1, Bool.or_true]
  rw [State.readBytes, if_pos hl]

theorem codeState_readBytes (w0 w1 : Word) {i n : Nat} (h : i + n ≤ 8) :
    (loaded (codeState w0 w1).gmem (codeState w0 w1).gkeys).readBytes 1 (0x200000 + i) n = ((bytesOfWord w0 ++ bytesOfWord w1).drop i).take n := by
  have hl : (bytesOfWord w0 ++ bytesOfWord w1).length = 8 := rfl
  rw [loaded_readBytes n (by omega), State.gbytes, addrs_eq_range']
  refine List.ext_getElem (by simp [hl]; omega) fun j hj hj' => ?_
  simp only [List.length_map, List.length_range'] at hj
  rw [List.getElem_map, List.getElem_range', List.getElem_take, List.getElem_drop, Nat.one_mul, Nat.add_assoc]
  exact codeState_gbyte w0 w1 (List.getElem?_eq_getElem _)

section
variable {m : Memory} {k : FMap Nat}

theorem loaded_ctxAt : (loaded m k).ctxAt 0 0 = some bareCtx := rfl

/-- Nothing stands at the host port. -/
theorem loaded_portFree (as : List Nat) : (loaded m k).portFree as = true := rfl

theorem loaded_ahead : (loaded m k).ahead 0 0 = [] := rfl

theorem loaded_mayPair : (loaded m k).mayPair 0 0 = false := rfl

theorem loaded_codeFree (core va : Nat) (la : Launch) : (loaded m k).codeFree core la va = true := by
  have hw : (loaded m k).walkNowFree (core / 64) la.part la.root va = true := by
    simp only [State.walkNowFree, State.walkFree, loaded_portFree, List.all_eq_true, Bool.or_eq_true, implies_true, or_true]
  unfold State.codeFree
  rw [hw]
  cases (loaded m k).walkNow (core / 64) la.part la.root va <;> simp [loaded_portFree]

theorem loaded_homeWord {va : Nat} {w : Word} (hw : (loaded m k).walkNow 0 0 0x100000 va = .ok codePage)
    (hb : (loaded m k).readBytes 1 (codePage.pa va) 4 = bytesOfWord w) : (loaded m k).codeWord 0 bareLaunch va = w := by
  refine State.codeWord_eq ?_ fun l hl => absurd hl (List.not_mem_nil (a := l))
  have hw' : (loaded m k).walkNow (0 / 64) bareLaunch.part bareLaunch.root va = .ok codePage := hw
  have hb' : (loaded m k).readBytes codePage.key (codePage.pa va) 4 = bytesOfWord w := hb
  simp only [State.homeWord, hw', hb', leNat_bytesOfWord]

end

/-- The strand fetches the words that were placed. -/
theorem codeState_fetches (w0 w1 : Word) :
    FetchesWords (loaded (codeState w0 w1).gmem (codeState w0 w1).gkeys) 0 0 bareCtx w0 w1 := by
  have walk : ∀ va, va = 0x10000 ∨ va = 0x10004 →
      (loaded (codeState w0 w1).gmem (codeState w0 w1).gkeys).walkNow 0 0 0x100000 va = .ok codePage := fun va hva =>
    loaded_walk _ hva ((codeState_pte w0 w1 (by decide)).trans (by decide +kernel)) ((codeState_pte w0 w1 (by decide)).trans (by decide +kernel))
      ((codeState_pte w0 w1 (by decide)).trans (by decide +kernel)) ((codeState_pte w0 w1 (by decide)).trans (by decide +kernel))
  exact {
    ctx := loaded_ctxAt
    plain := rfl
    sub := rfl
    pc := by decide
    low := by decide
    high := by decide
    free := by simp only [State.fetchFree, loaded_codeFree, Bool.and_self]
    word := loaded_homeWord (walk 0x10000 (.inl rfl)) (codeState_readBytes w0 w1 (i := 0) (n := 4) (by decide))
    ext := loaded_homeWord (walk 0x10004 (.inr rfl)) (codeState_readBytes w0 w1 (i := 4) (n := 4) (by decide)) }

/-- A strand with no other before it and no partner runs the instruction that its words decode to. -/
theorem FetchesWords.select {s : State} {slot entry : Nat} {c : Ctx} {w ext : Word} (h : FetchesWords s slot entry c w ext) {i : Instr}
    (hi : decodeWords w ext = .ok i) (ha : s.ahead slot entry = []) (hp : s.mayPair slot entry = false) :
    s.select slot entry = turn s slot (pairing i) (exec i { s with cur := some (slot, entry), rr := s.rr.put (slot / 8) slot }) := by
  have hn : s.isSecond slot entry = false := by rw [State.isSecond, hp, Bool.false_and]
  have ho : ∀ x ∈ s.ahead slot entry, s.issues x = false := by simp [ha]
  rw [State.select_tries (.inl ho), hn, h.pairsAt_ok hi, h.issueAt_ok hi]
  rfl

/-- A program placed at reset runs in the first step. -/
theorem step_withFetchWord {nbits w : Nat} {i : Instr} (h : decodeTableWord nbits w = some i) :
    ∃ u c, step (State.reset.withFetchWord nbits w) = turn { u with cur := none, rr := [] } 0 (pairing i) (exec i u) ∧ u.ctx = some c ∧
      c.r.pc = 0x10000 ∧ c.r.flights = [] ∧ u.down = false := by
  have hi := decodeWords_of_decodeTableWord h
  rw [withFetchWord_reset]
  generalize BitVec.ofNat 32 (w % 2 ^ nbits) = w0 at hi ⊢
  generalize BitVec.ofNat 32 (w % 2 ^ nbits / 2 ^ 32) = w1 at hi ⊢
  have hd : ({ codeState w0 w1 with rr := [], agenda := [.issue 0 0] } : State).down = false := by
    rw [codeState, State.gputs_frame]
    rfl
  have hs := step_of_agenda (rest := []) hd rfl
  rw [advance_codeState] at hs
  have hf := (codeState_fetches w0 w1).select hi loaded_ahead loaded_mayPair
  exact ⟨_, bareCtx, hs.trans hf, loaded_ctxAt (m := (codeState w0 w1).gmem) (k := (codeState w0 w1).gkeys), rfl, rfl, rfl⟩

/-- Settles O57: the agenda's step is taken after `State.advance`; where the strand's words stand alike at home and in the core's copies, `State.fetch`
gives them and the attempt is `exec` of what they decode to. From reset the walk through `bareTables` finds the words that were placed. -/
theorem stepRunsTheDecodedInstruction : Obligations.StepRunsTheDecodedInstruction := by
  unfold Obligations.StepRunsTheDecodedInstruction
  refine ⟨fun s slot entry rest hd ha => ?_, State.codeWord_cases, fun _ _ _ hd ha => step_of_agenda hd ha,
    fun s die _ h => ⟨s.elapsed die, s.elapsed_pos die, s.advance_clock h⟩, fun _ _ _ _ h => step_withFetchWord h⟩
  intro v ordered
  have hstep : step s = v.select slot entry := step_of_agenda hd ha
  refine ⟨fun ho hp => hstep.trans (State.select_waits ho hp), fun ht => ⟨v.isSecond slot entry, ?_, ?_, ?_⟩⟩
  · exact fun h => (Bool.and_eq_true _ _ ▸ h : _ ∧ _).1
  · intro h
    rcases ht with ht | ht
    · exact ht
    · rw [State.isSecond, ht, Bool.true_and, Bool.or_eq_false_iff] at h
      exact State.any_issues_eq_false.mp h.1
  intro u c w ext hc hp hs hpc hlo hhi stands
  have htry := hstep.trans (State.select_tries ht)
  refine ⟨fun hf => ?_, fun hf h0 h4 => ?_⟩
  · rw [htry, State.issueAt_waits (s := v) hc hf]
    rfl
  have hv : FetchesWords v slot entry c w ext :=
    ⟨hc, hp, hs, hpc, hlo, hhi, hf, State.codeWord_eq h0.1 h0.2, State.codeWord_eq h4.1 h4.2⟩
  refine ⟨fun i hi => ?_, fun e he hr hq hu hfl => ?_⟩
  · rw [htry, hv.pairsAt_ok hi, hv.issueAt_ok hi]
    rfl
  · obtain ⟨hslot, -, -⟩ := State.ctxAt_stands hc
    rw [htry, hv.pairsAt_error he, hv.issueAt_error he, Bool.and_false]
    exact congrArg _ (State.illegal_traps (s := u) (hasExt w) hd hc hr (hslot ▸ hq) hu hfl)

end Sys2Proof.Machine
end

section
/-! PROOFS. The firmware and the module: boot, tables, partitions, errors, links and the end (O52). -/

namespace Sys2Proof.Machine

/-! ## Events and their guards -/

section
variable {α : Type} {p : Prop} [Decidable p]

theorem guard_pos (x : Option α) (h : p) : (do guard p; x) = x := by simp [guard, h]

theorem guard_neg (x : Option α) (h : ¬ p) : (do guard p; x) = none := by simp [guard, h]

end

section
variable {p : Prop} [Decidable p] {name : String}

/-- An event whose condition holds. -/
theorem event_pos {x : Option State} {o : Out} (h : p) (hx : State.event name x = o) : State.event name (do guard p; x) = o := by
  rw [guard_pos x h, hx]

/-- An event whose condition does not hold. -/
theorem event_neg (x : Option State) (h : ¬ p) : State.event name (do guard p; x) = .refused (.notEnabled name) := by
  rw [guard_neg x h]
  rfl

end

theorem State.fwRuns_of {s : State} {image : Image} (hb : s.boot = .running image) (hd : s.down = false) : s.fwRuns = true := by
  simp [State.fwRuns, hb, hd]

/-! ## Boot and the mailbox (R323, R331) -/

theorem boot_from_reset {s : State} (h : s.boot = .reset) :
    exec .boot s = .next (if imageSigned s.flash.bytes s.flash.sig = true ∧ s.rollback ≤ s.flash.version
      then { s with boot := .running s.flash, hdmBase := Config.hdmBase s.flash.bytes } else { s with boot := .failed }) := by
  rw [exec_boot]
  exact event_pos h rfl

theorem mailboxImageWrite_failed {s : State} (v : Nat) (x : SignedBytes) (hd : s.down = false) (h : s.boot = .failed) :
    exec (.mailboxImageWrite v x) s = .next { s with flash := ⟨v, x.bytes, x.sig⟩ } := by
  rw [exec_mailboxImageWrite]
  exact event_pos ⟨h, by simp [hd]⟩ rfl

theorem mailboxImageWrite_disabled {s : State} (v : Nat) (x : SignedBytes) (h : s.boot ≠ .failed) :
    Disabled s (.mailboxImageWrite v x) "MAILBOX_IMAGE_WRITE" := by
  rw [Disabled, exec_mailboxImageWrite]
  exact event_neg _ fun hg => h hg.1

/-- Bit `b` of an entry once the bits of some links are cleared. -/
theorem getLsbD_clearLinks {b : Nat} (hb : b < 64) : ∀ (ls : List Nat) (x : BitVec 64),
    (ls.foldl (fun v l => setBit v l false) x).getLsbD b = (x.getLsbD b && decide (b ∉ ls))
  | [], x => by simp
  | l :: ls, x => by
    rw [List.foldl_cons, getLsbD_clearLinks hb ls]
    by_cases h : b = l
    · subst h
      simp [getLsbD_setBit_same x b false hb]
    · simp [getLsbD_setBit x l b false h, h]

/-- The bits of a routing entry that are not reserved (R327). -/
theorem getLsbD_routeMask : ∀ b, b < 64 → (0xC0FFFFFF : BitVec 64).getLsbD b = decide (b < 24 ∨ b = 30 ∨ b = 31) := by decide

/-- Putting one value under several keys. -/
theorem find_foldl_put {α : Type} (x : α) {k : Nat} : ∀ (ks : List Nat) (m : FMap α), k ∈ ks ∨ m.find k = some x →
    (ks.foldl (fun m j => m.put j x) m).find k = some x
  | [], m, h => by simpa using h
  | j :: ks, m, h => by
    refine find_foldl_put x ks (m.put j x) ?_
    rw [FMap.find_put]
    by_cases hk : k = j
    · exact .inr (by rw [if_pos hk])
    · rw [if_neg hk]
      exact h.imp (fun h => (List.mem_cons.mp h).resolve_left hk) id

/-! ## Writes at a home -/

theorem State.pushWord_frame (s : State) (home key word : Nat) (rel : Option Release) :
    { s.pushWord home key word rel with seqs := [], pushes := [] } = { s with seqs := [], pushes := [] } := by
  have fold : ∀ (bs : List Subscription) (seq : Word) (t : State),
      { bs.foldl (fun t b => t.pushValue home b (s.gword key word) seq false [] rel (s.poisonedWord word)) t with seqs := [], pushes := [] } =
        { t with seqs := [], pushes := [] } := by
    intro bs seq
    induction bs with
    | nil => exact fun _ => rfl
    | cons b bs ih => exact fun t => (ih _).trans rfl
  exact (fold _ _ _).trans rfl

/-- A write at a home puts its bytes; else only what counts, pushes and orders it changes. -/
theorem State.homeWrite_frame (s : State) (key : Nat) (bs : List (Nat × Byte)) (rel : Option Release) (hb : List Nat) :
    { s.homeWrite key bs rel hb with poisonG := [], seqs := [], pushes := [], arrivals := [], syncs := [] } =
      { s.gputs key bs with poisonG := [], seqs := [], pushes := [], arrivals := [], syncs := [] } := by
  have fold : ∀ (ns : List Nat) (home : Nat) (t : State),
      { ns.foldl (fun u n => u.pushWord home key n rel) t with poisonG := [], seqs := [], pushes := [], arrivals := [], syncs := [] } =
        { t with poisonG := [], seqs := [], pushes := [], arrivals := [], syncs := [] } := by
    intro ns home
    induction ns with
    | nil => exact fun _ => rfl
    | cons n ns ih =>
      exact fun t => (ih _).trans (congrArg (fun u : State => { u with poisonG := [], arrivals := [], syncs := [] }) (t.pushWord_frame home key n rel))
  cases bs with
  | nil => rfl
  | cons b bs => exact (fold _ _ _).trans rfl

/-- What a key writes at a home it reads back. -/
theorem State.Holds.homeWrite {s : State} {key x : Nat} {b : Byte} {bs : List (Nat × Byte)} {rel : Option Release} {hb : List Nat}
    (h : (s.gputs key bs).Holds key x b) : (s.homeWrite key bs rel hb).Holds key x b := by
  have f := s.homeWrite_frame key bs rel hb
  have hm : (s.homeWrite key bs rel hb).gmem = (s.gputs key bs).gmem := (congrArg State.gmem f :)
  have hk : (s.homeWrite key bs rel hb).gkeys = (s.gputs key bs).gkeys := (congrArg State.gkeys f :)
  exact ⟨by rw [hm]; exact h.1, by rw [hk]; exact h.2⟩

/-- What a partition's queue area takes leaves the firmware's own tables. -/
theorem State.queueWrite_tables (s : State) (p : Partition) (pa : Nat) (bs : List Byte) :
    (s.queueWrite p pa bs).parts = s.parts ∧ (s.queueWrite p pa bs).cores = s.cores ∧ (s.queueWrite p pa bs).nextKey = s.nextKey := by
  have f := s.homeWrite_frame p.dkey ((addrs pa bs.length).zip bs) none []
  rw [State.gputs_frame] at f
  exact ⟨(congrArg State.parts f :), (congrArg State.cores f :), (congrArg State.nextKey f :)⟩

theorem leBytes_zero : ∀ n, leBytes n 0 = List.replicate n 0
  | 0 => rfl
  | n + 1 => by rw [leBytes, List.replicate_succ, Nat.zero_div, leBytes_zero n]; rfl

/-- A word that is set to 0 reads 0, and so does one that was (R283, R305, R324). -/
theorem State.queueWrite_zero (s : State) (p : Partition) (a : Nat) {x : Nat}
    (h : (∃ k, k < 8 ∧ x = a + k) ∨ s.Holds p.dkey x 0) : (s.queueWrite p a (leBytes 8 0)).Holds p.dkey x 0 := by
  have hz : ∀ e ∈ (addrs a (leBytes 8 0).length).zip (leBytes 8 0), e.1 = x → e.2 = 0 := fun e he _ => by
    have := (List.of_mem_zip (a := e.1) (b := e.2) he).2
    rw [leBytes_zero] at this
    exact List.eq_of_mem_replicate this
  refine State.Holds.homeWrite ?_
  rcases h with ⟨k, hk, rfl⟩ | h
  · exact State.gputs_zip_holds s p.dkey a (by rw [leBytes_zero, List.getElem?_replicate, if_pos hk]) hk
  · exact h.gputs hz

/-! ## The firmware's steps (R327, R330, R332 to R334, R336) -/

section
variable {s : State} (hf : s.fwRuns = true)
include hf

theorem patchLoad_loads (hl : s.launches = []) {es : List PatchSpec} {bytes : List Byte} (hn : es.length ≤ 64) (he : es ≠ []) (hb : bytes ≠ [])
    (hok : ∀ e ∈ es, e.pat.length = 4 ∧ e.msk.length = 4 ∧ 1 ≤ e.subst.length ∧ e.subst.length ≤ 8) :
    exec (.patchLoad es bytes) s = .next { s with patches := es.map fun e => ⟨e.pat, e.msk, e.subst⟩, patchHash := shakeHead bytes } := by
  have hall : es.all PatchSpecOk = true := by
    refine List.all_eq_true.mpr fun e h => ?_
    obtain ⟨h1, h2, h3, h4⟩ := hok e h
    simp [PatchSpecOk, h1, h2, h3, h4]
  have hempty : es.isEmpty = bytes.isEmpty := by
    rw [List.isEmpty_eq_false_iff.mpr he, List.isEmpty_eq_false_iff.mpr hb]
  rw [exec_patchLoad]
  exact event_pos ⟨hf, by rw [hl]; rfl, hn, hall, hempty⟩ rfl

theorem routingTableWrite_writes (hl : s.launches = []) {n : Nat} {x : BitVec 64} (hn : n < 256) (hx : x.getLsbD 30 = false) :
    ∃ y, exec (.routingTableWrite n x) s = .next { s with routes := s.routes.put n y } ∧
      ∀ b, b < 64 → y.getLsbD b = (x.getLsbD b && decide ((b < 24 ∨ b = 30 ∨ b = 31) ∧ b ∉ s.links)) := by
  refine ⟨(s.links.foldl (fun v l => setBit v l false) x) &&& 0xC0FFFFFF, ?_, ?_⟩
  · rw [exec_routingTableWrite]
    exact event_pos ⟨hf, by rw [hl]; rfl, hn⟩ (event_pos (.inl (by rw [hx]; rfl)) rfl)
  · intro b hb
    rw [BitVec.getLsbD_and, getLsbD_clearLinks hb, getLsbD_routeMask b hb, Bool.and_assoc, ← Bool.decide_and]
    simp only [and_comm]

theorem attestationRequest_reports {image : Image} (hb : s.boot = .running image) {nonce : Nat} (hn : nonce < 2 ^ 256) (hk : s.signed < 2 ^ 20) :
    ∃ r bytes, exec (.attestationRequest nonce) s = .next { s with signed := s.signed + 1, reports := s.reports ++ [r] } ∧
      r = ⟨nonce, digest image.bytes, s.patchHash, 0x0003000000000001, s.parts.map fun p => (p.1, p.2.config),
        s.channels.map fun c => (c.1, c.2.p1, c.2.p2), identitySign s.signed bytes⟩ := by
  have hd : s.down = false := by
    simp only [State.fwRuns, Bool.and_eq_true, Bool.not_eq_true'] at hf
    exact hf.1
  let r : Report := ⟨nonce, digest image.bytes, s.patchHash, Config.isaver, s.parts.map fun p => (p.1, p.2.config),
    s.channels.map fun c => (c.1, c.2.p1, c.2.p2), []⟩
  refine ⟨{ r with sig := identitySign s.signed r.bytes }, r.bytes, ?_, rfl⟩
  rw [exec_attestationRequest]
  refine event_pos ⟨by simp [hd], hn, hk⟩ ?_
  simp only [hb]
  rfl

/-- A partition starts with fresh keys and its words at 0, and the others stand as they were (R31, R283, R330). -/
theorem partitionCreate_creates {n : Nat} {p : PartitionSpec} (hok : s.specOk n p = true) (hq : p.queues = []) :
    ∃ t z, exec (.partitionCreate n p) s = .next t ∧ t.parts.find n = some z ∧ t.nextKey = s.nextKey + 2 ∧
      (∀ a ∈ [p.faults.2.2, p.migs.2.2], ∀ k, k < 8 → t.gbyte s.nextKey (a + k) = 0) ∧ z = newPartition p s.nextKey (s.nextKey + 1) ∧
      (∀ c ∈ p.cores, t.cores.find c = some ⟨n, [], [], [], []⟩) ∧ ∀ m, m ≠ n → t.parts.find m = s.parts.find m := by
  let z := newPartition p s.nextKey (s.nextKey + 1)
  let t0 : State := { s with nextKey := s.nextKey + 2, parts := s.parts.put n z,
                             cores := p.cores.foldl (fun (m : FMap Core) c => m.put c ⟨n, [], [], [], []⟩) s.cores }
  let t1 := t0.queueWrite z p.faults.2.2 (leBytes 8 0)
  let t2 := t1.queueWrite z p.migs.2.2 (leBytes 8 0)
  have hw : specWords p = [p.faults.2.2, p.migs.2.2] := by rw [specWords, hq]; rfl
  have he : exec (.partitionCreate n p) s = .next t2 := by
    rw [exec_partitionCreate]
    refine event_pos ⟨hf, hok⟩ ?_
    rw [hw]
    rfl
  obtain ⟨p1, c1, k1⟩ := t0.queueWrite_tables z p.faults.2.2 (leBytes 8 0)
  obtain ⟨p2, c2, k2⟩ := t1.queueWrite_tables z p.migs.2.2 (leBytes 8 0)
  have hp : t2.parts = s.parts.put n z := p2.trans p1
  have hc : t2.cores = t0.cores := c2.trans c1
  refine ⟨t2, z, he, by rw [hp, FMap.find_put_same], k2.trans k1, ?_, rfl, ?_, fun m hm => by rw [hp, FMap.find_put_ne _ _ hm]⟩
  · intro a ha k hk
    have hdk : z.dkey = s.nextKey := rfl
    refine State.Holds.gbyte (hdk ▸ t1.queueWrite_zero z p.migs.2.2 ?_)
    rcases List.mem_pair.mp ha with rfl | rfl
    · exact .inr (t0.queueWrite_zero z _ (.inl ⟨k, hk, rfl⟩))
    · exact .inl ⟨k, hk, rfl⟩
  · intro c hcm
    rw [hc]
    exact find_foldl_put _ p.cores s.cores (.inl hcm)

theorem channelCreate_creates {ch a b : Nat} (hch : ch < 16) (hn : s.channels.find ch = none) (hab : a ≠ b) (ha : (s.parts.find a).isSome = true)
    (hb : (s.parts.find b).isSome = true) :
    exec (.channelCreate ch a b) s = .next { s with channels := s.channels.put ch ⟨a, b, s.nextKey⟩, nextKey := s.nextKey + 1 } := by
  rw [exec_channelCreate]
  exact event_pos ⟨hf, hch, by rw [hn]; rfl, hab, ha, hb⟩ rfl

theorem clockThrottle_moves {mhz : Nat} (hlo : 350 ≤ mhz) (hhi : mhz ≤ 1050) (h : mhz + 50 = s.mhz ∨ mhz = s.mhz + 50) :
    exec (.clockThrottle mhz) s = .next { s with mhz := mhz } := by
  rw [exec_clockThrottle]
  exact event_pos ⟨hf, hlo, hhi, h⟩ rfl

end

/-- While launches run neither patches nor routes change (R327, R332). -/
theorem patchLoad_disabled {s : State} (hl : s.launches ≠ []) (es : List PatchSpec) (bytes : List Byte) :
    Disabled s (.patchLoad es bytes) "PATCH_LOAD" := by
  rw [Disabled, exec_patchLoad]
  exact event_neg _ fun h => hl (List.isEmpty_iff.mp h.2.1)

theorem routingTableWrite_disabled {s : State} (hl : s.launches ≠ []) (n : Nat) (x : BitVec 64) :
    Disabled s (.routingTableWrite n x) "ROUTING_TABLE_WRITE" := by
  rw [Disabled, exec_routingTableWrite]
  exact event_neg _ fun h => hl (List.isEmpty_iff.mp h.2.1)

theorem partitionCreate_disabled {s : State} {n : Nat} {p : PartitionSpec} (h : s.specOk n p = false) :
    Disabled s (.partitionCreate n p) "PARTITION_CREATE" := by
  rw [Disabled, exec_partitionCreate]
  exact event_neg _ fun hg => by rw [h] at hg; exact absurd hg.2 (by decide)

theorem attestationRequest_disabled {s : State} (nonce : Nat) (h : 2 ^ 20 ≤ s.signed) :
    Disabled s (.attestationRequest nonce) "ATTESTATION_REQUEST" := by
  rw [Disabled, exec_attestationRequest]
  exact event_neg _ fun hg => absurd hg.2.2 (by omega)

end Sys2Proof.Machine

namespace Sys2Proof

theorem FMap.find_some_mem {α : Type} {k : Nat} {a : α} : ∀ {m : FMap α}, m.find k = some a → (k, a) ∈ m
  | (j, b) :: t, h => by
    rw [FMap.find] at h
    split at h
    · rename_i e
      obtain rfl := Option.some.inj h
      exact e ▸ List.mem_cons_self
    · exact List.mem_cons_of_mem _ (FMap.find_some_mem h)

/-- The entry of a key stays where the test accepts it. -/
theorem FMap.find_keep_of {α : Type} {f : Nat → α → Bool} {k : Nat} {a : α} (hf : f k a = true) : ∀ {m : FMap α},
    m.find k = some a → (m.keep f).find k = some a
  | (j, b) :: t, h => by
    rw [FMap.find] at h
    by_cases hj : j = k
    · subst hj
      rw [if_pos rfl] at h
      obtain rfl := Option.some.inj h
      simp [FMap.keep, FMap.find, hf]
    · rw [if_neg hj] at h
      have ih : FMap.find (List.filter (fun e : Nat × α => f e.1 e.2) t) k = some a := FMap.find_keep_of hf h
      cases hb : f j b <;> simp [FMap.keep, FMap.find, hb, hj, ih]

/-- An entry that is kept is one that the test accepts. -/
theorem FMap.mem_keep {α : Type} {f : Nat → α → Bool} {m : FMap α} {e : Nat × α} : e ∈ m.keep f ↔ e ∈ m ∧ f e.1 e.2 = true :=
  List.mem_filter

theorem FMap.mem_mapv {α β : Type} {f : Nat → α → β} {m : FMap α} {e : Nat × β} : e ∈ m.mapv f ↔ ∃ x ∈ m, (x.1, f x.1 x.2) = e :=
  List.mem_map

theorem FMap.find_isSome {α : Type} {k : Nat} : ∀ {m : FMap α}, (m.find k).isSome = true ↔ k ∈ m.map (·.1)
  | [] => by simp
  | (j, b) :: t => by
    by_cases hj : j = k
    · simp [FMap.find, hj]
    · simp [FMap.find, hj, FMap.find_isSome (m := t), Ne.symm hj]

namespace Machine

/-- An event that looks something up. -/
theorem event_some {α : Type} {name : String} {x : Option α} {a : α} {f : α → Option State} {o : Out} (h : x = some a)
    (hx : State.event name (f a) = o) : State.event name (x >>= f) = o := by
  rw [h]
  exact hx

/-! ## A partition goes (R31, R330) -/

/-- The keys of the channels that bind a partition. -/
def State.channelKeys (s : State) (n : Nat) : List Nat := (s.channels.filter fun c => c.2.p1 == n || c.2.p2 == n).map fun c => c.2.key

theorem State.mem_channelKeys {s : State} {n k : Nat} :
    k ∈ s.channelKeys n ↔ ∃ e ∈ s.channels, (e.2.p1 = n ∨ e.2.p2 = n) ∧ e.2.key = k := by
  simp only [State.channelKeys, List.mem_map, List.mem_filter, Bool.or_eq_true, beq_iff_eq, and_assoc]

theorem not_contains {l : List Nat} {k : Nat} : (!l.contains k) = true ↔ k ∉ l := by simp

/-- No access under a key of the list is under way in a wave, nor in the signals of its task. -/
def Wave.quietFor (w : Wave) (keys : List Nat) : Prop := (∀ a ∈ w.unperformed, a.mkey ∉ keys) ∧ ∀ b ∈ w.blocks, b.1.key ∉ keys

theorem Wave.quietFor_iff {w : Wave} {keys : List Nat} : ((w.unperformed.all fun a => !keys.contains a.mkey) &&
    w.blocks.all fun b => !keys.contains b.1.key) = true ↔ w.quietFor keys := by
  simp only [Bool.and_eq_true, List.all_eq_true, not_contains, Wave.quietFor]

/-- A packet's translation names no key that has gone (R330). -/
theorem Action.cut_packet {keys : List Nat} {fresh : Nat} {a : Action} {b : Piece} (h : b ∈ (a.cut keys fresh).packet) :
    b.t.key = fresh ∨ b.t.key ∉ keys := by
  cases a with
  | launch q ps =>
    obtain ⟨x, -, rfl⟩ := List.mem_map.mp h
    unfold Piece.cut
    split
    · exact .inl rfl
    · rename_i hk
      exact .inr (by simpa using hk)
  | _ => cases h

section
variable {s : State} {n : Nat} {p : Partition}

/-- A partition whose keys a host request still names stays. -/
theorem partitionTeardown_disabled (hp : s.parts.find n = some p) {h : HostPart} (hm : h ∈ s.hostq) (hk : h.key = p.dkey ∨ h.key ∈ s.channelKeys n) :
    Disabled s (.partitionTeardown n) "PARTITION_TEARDOWN" := by
  rw [Disabled, exec_partitionTeardown]
  refine event_some hp ?_
  by_cases hg : s.fwRuns = true ∧ (s.launches.all fun l => l.2.part != n) = true ∧ (s.waves.all fun e => !p.cores.contains (slotCore e.1)) = true
  · refine event_pos hg (event_neg _ fun hq => ?_)
    have hkey := not_contains.mp (List.all_eq_true.mp hq.2.2.2 h hm)
    exact hkey (List.mem_cons.mpr hk)
  · exact event_neg _ hg

/-- The state that the end of a partition leaves. -/
theorem partitionTeardown_ends (hf : s.fwRuns = true) (hp : s.parts.find n = some p) (hl : ∀ e ∈ s.launches, e.2.part ≠ n)
    (hw : ∀ e ∈ s.waves, slotCore e.1 ∉ p.cores) (hh : ∀ h ∈ s.hostq, h.key ∉ p.dkey :: s.channelKeys n)
    (hq : ∀ e ∈ s.waves, e.2.quietFor (s.channelKeys n)) (hv : ∀ v ∈ s.saved, ∀ e ∈ v.waves, e.2.quietFor (s.channelKeys n))
    (hj : ∀ e ∈ s.cores, ∀ j ∈ e.2.jobs, ∀ x ∈ j.pieces, x.t.key ∉ s.channelKeys n) :
    ∃ t, exec (.partitionTeardown n) s = .next t ∧ t.nextKey = s.nextKey + 1 ∧
      (∀ e ∈ t.arrivals, ∀ z ∈ e.2.entries, ∀ b ∈ z.2.action.packet, b.t.key = s.nextKey ∨ b.t.key ∉ s.channelKeys n) ∧
      (∀ d ∈ t.tlb, ∀ e ∈ d.2, e.part ≠ n ∧ e.trans.key ∉ s.channelKeys n) ∧ t.parts = s.parts.del n ∧ t.gmem = s.gmem ∧ t.vmem = s.vmem ∧
      (∀ g x, t.gkeys.find g = some x → x ∉ p.dkey :: s.channelKeys n) ∧
      (∀ g x, s.gkeys.find g = some x → x ∉ p.dkey :: s.channelKeys n → t.gkeys.find g = some x) ∧
      (∀ e ∈ t.channels, e ∈ s.channels ∧ e.2.p1 ≠ n ∧ e.2.p2 ≠ n) ∧ ∀ e ∈ t.cores, e ∈ s.cores ∧ e.2.part ≠ n := by
  have hg : s.fwRuns = true ∧ (s.launches.all fun l => l.2.part != n) = true ∧ (s.waves.all fun e => !p.cores.contains (slotCore e.1)) = true :=
    ⟨hf, List.all_eq_true.mpr fun e he => bne_iff_ne.mpr (hl e he), List.all_eq_true.mpr fun e he => not_contains.mpr (hw e he)⟩
  refine ⟨_, (exec_partitionTeardown).trans (event_some hp (event_pos hg (event_pos ⟨List.all_eq_true.mpr fun e he => Wave.quietFor_iff.mpr (hq e he),
    List.all_eq_true.mpr fun v hm => List.all_eq_true.mpr fun e he => Wave.quietFor_iff.mpr (hv v hm e he),
    List.all_eq_true.mpr fun e he => List.all_eq_true.mpr fun j hm => List.all_eq_true.mpr fun x hx => not_contains.mpr (hj e he j hm x hx),
    List.all_eq_true.mpr fun h hm => not_contains.mpr (hh h hm)⟩ rfl))), rfl, ?_, ?_, rfl, rfl, rfl, ?_, ?_, ?_, ?_⟩
  all_goals dsimp only
  · intro e he z hz b hb
    obtain ⟨x, -, rfl⟩ := FMap.mem_mapv.mp he
    dsimp only at hz
    obtain ⟨y, -, rfl⟩ := FMap.mem_mapv.mp hz
    exact Action.cut_packet hb
  · intro d hd e he
    obtain ⟨x, -, rfl⟩ := FMap.mem_mapv.mp hd
    have ht := (List.mem_filter.mp he).2
    rw [Bool.and_eq_true] at ht
    exact ⟨bne_iff_ne.mp ht.1, not_contains.mp ht.2⟩
  · exact fun g x h => not_contains.mp (FMap.mem_keep.mp (FMap.find_some_mem h)).2
  · exact fun g x h hx => FMap.find_keep_of (not_contains.mpr hx) h
  · intro e he
    obtain ⟨hm, hc⟩ := FMap.mem_keep.mp he
    refine ⟨hm, ?_⟩
    have hno : ¬ (e.2.p1 = n ∨ e.2.p2 = n) := fun h => by
      have : (s.channels.filter fun c => c.2.p1 == n || c.2.p2 == n).any (fun c => c.1 == e.1) = true :=
        List.any_eq_true.mpr ⟨e, List.mem_filter.mpr ⟨hm, by simpa using h⟩, by simp⟩
      rw [this] at hc
      exact absurd hc (by decide)
    exact not_or.mp hno
  · exact fun e he => ⟨(FMap.mem_keep.mp he).1, bne_iff_ne.mp (FMap.mem_keep.mp he).2⟩

end

/-! ## Errors and links (R312, R326, R328) -/

theorem mem_addTo {α : Type} [BEq α] [LawfulBEq α] {x y : α} {xs : List α} : y ∈ addTo x xs ↔ y = x ∨ y ∈ xs := by
  unfold addTo
  by_cases h : xs.contains x
  · rw [if_pos h]
    have hm : x ∈ xs := by simpa using h
    exact ⟨.inr, fun h => h.elim (fun e => e ▸ hm) id⟩
  · rw [if_neg h, List.mem_append, List.mem_singleton, or_comm]

section
variable {s : State}

theorem eccCorrectable_counts {site : PoisonSite} (h : s.siteOk site = true) :
    exec (.eccCorrectable site) s = .next { s with corrected := s.corrected + 1 } := by
  rw [exec_eccCorrectable]
  exact event_pos h rfl

/-- A granule is poisoned (R312). -/
def State.poisonedAt (s : State) : PoisonSite → Prop
  | .dram x => x ∈ s.poisonG
  | .vault x => x ∈ s.poisonV
  | .tile a x => (a, x) ∈ s.poisonT
  | .register a r l => (a, r, l) ∈ s.poisonR

/-- An uncorrectable error poisons its granule and no other. -/
theorem eccPoison_poisons {site : PoisonSite} (h : s.siteOk site = true) :
    ∃ t, exec (.eccPoison site) s = .next t ∧ t.gmem = s.gmem ∧ t.vmem = s.vmem ∧ t.waves = s.waves ∧ t.poisonedAt site ∧
      ∀ y, t.poisonedAt y → y = site ∨ s.poisonedAt y := by
  refine ⟨_, (exec_eccPoison).trans (event_pos h rfl), ?_⟩
  cases site <;> refine ⟨rfl, rfl, rfl, mem_addTo.mpr (.inl rfl), fun y hy => ?_⟩ <;> cases y <;>
    simpa [State.poisonedAt, mem_addTo] using hy

theorem flitRetransmit_next {n : Nat} (hn : n < 16) (hl : n ∉ s.links) : exec (.flitRetransmit n) s = .next s := by
  rw [exec_flitRetransmit]
  exact event_pos ⟨hn, not_contains.mpr hl⟩ rfl

theorem linkFailure_fails {n : Nat} (hn : n < 16) (hl : n ∉ s.links) :
    ∃ t, exec (.linkFailure n) s = .next t ∧ t.links = s.links ++ [n] ∧
    (∀ c, c ∈ t.lost ↔ c ∈ s.lost ∨ ((s.routes.find c).isSome = true ∧ s.reachable c = true ∧ s.linked c = true ∧ t.linked c = false)) ∧
    (∀ c x, t.routes.find c = some x → x.getLsbD n = false) ∧ (∀ c x k, s.routes.find c = some x → k ≠ n → (t.routes.find c).map (BitVec.getLsbD · k) = some (x.getLsbD k)) ∧
    ∀ p, p ∈ t.pushes ↔ p ∈ s.pushes ∧ t.linked (p.home / 64) = true := by
  refine ⟨_, (exec_linkFailure).trans (event_pos ⟨hn, not_contains.mpr hl⟩ rfl), rfl, fun c => ?_, fun c x hx => ?_, fun c x k hx hk => ?_, fun p => ?_⟩
  all_goals dsimp only at *
  · rw [List.mem_append, List.mem_filter, ← FMap.find_isSome, Bool.and_eq_true, Bool.and_eq_true, Bool.not_eq_true']
    exact or_congr Iff.rfl (and_congr Iff.rfl and_assoc)
  · rw [FMap.find_mapv] at hx
    obtain ⟨y, -, rfl⟩ := Option.map_eq_some_iff.mp hx
    exact getLsbD_setBit_same y n false (by omega)
  · rw [FMap.find_mapv, hx, Option.map_some, Option.map_some, getLsbD_setBit _ _ _ _ hk]
  · exact List.mem_filter

/-! ## Stalls, copies of code and the end (R135, R336, R347) -/

theorem currentStepStall_stalls {q n : Nat} (hq : q < 1024) (h1 : 1 ≤ n) (h64 : n ≤ 64) :
    exec (.currentStepStall q n) s = .next { s with stalls := s.stalls.put q n } := by
  rw [exec_currentStepStall]
  exact event_pos ⟨hq, h1, h64⟩ rfl

theorem newest_all {α : Type} {n : Nat} {l : List α} (h : l.length ≤ n) : newest n l = l := by
  rw [newest, Nat.sub_eq_zero_of_le h, List.drop_zero]

/-- A word of code enters a cache with room for it, in the place of an older copy (R10, R347). -/
theorem State.mem_fillIcache {y : ILine} (h : (s.icache.filter fun x => x.core == y.core).length < 65536) (x : ILine) :
    x ∈ (s.fillIcache y).icache ↔ (x ∈ s.icache ∧ ¬ (x.core = y.core ∧ x.part = y.part ∧ x.root = y.root ∧ x.va = y.va)) ∨ x = y := by
  let same (x : ILine) : Bool := x.core == y.core && x.part == y.part && x.root == y.root && x.va == y.va
  have hsub : (s.icache.filter fun x => x.core == y.core && !same x).length ≤ (s.icache.filter fun x => x.core == y.core).length := by
    rw [← List.countP_eq_length_filter, ← List.countP_eq_length_filter]
    exact List.countP_mono_left fun x _ hx => (Bool.and_eq_true _ _ ▸ hx : _ ∧ _).1
  have hlen : ((s.icache.filter fun x => x.core == y.core && !same x) ++ [y]).length ≤ Config.icacheWords := by
    rw [List.length_append, List.length_singleton]
    have hcap : Config.icacheWords = 65536 := rfl
    omega
  have hnew : (s.fillIcache y).icache = (s.icache.filter fun x => x.core != y.core) ++
      newest Config.icacheWords ((s.icache.filter fun x => x.core == y.core && !same x) ++ [y]) := rfl
  rw [hnew, newest_all hlen]
  simp only [same, List.mem_append, List.mem_filter, List.mem_singleton, bne_iff_ne, Bool.and_eq_true, beq_iff_eq, Bool.not_eq_true', ← or_assoc,
    Bool.eq_false_iff, ne_eq, and_assoc, ← and_or_left]
  refine or_congr (and_congr Iff.rfl ?_) Iff.rfl
  tauto

section
variable {core h va : Nat} {l : Launch} {k : Core} {tr : Trans} (hl : s.launches.find h = some l) (hk : s.cores.find core = some k)
  (hw : s.walkNow (core / 64) l.part l.root va = .ok tr)
include hl hk hw

theorem icacheFill_disabled (hfree : (s.walkNowFree (core / 64) l.part l.root va && s.portFree (addrs (tr.pa va) 4)) = false) :
    Disabled s (.icacheFill core h va) "ICACHE_FILL" := by
  rw [Disabled, exec_icacheFill]
  refine event_some hl (event_some hk ?_)
  by_cases hg : k.part = l.part ∧ va % 4 = 0 ∧ l.inExtent va = true ∧ s.walkNowFree (core / 64) l.part l.root va = true
  · rw [hg.2.2.2, Bool.true_and] at hfree
    refine event_pos hg ?_
    simp only [hw]
    exact event_neg _ (by rw [hfree]; decide)
  · exact event_neg _ hg

theorem icacheFill_fills (hp : k.part = l.part) (h4 : va % 4 = 0) (hlo : l.code ≤ va) (hhi : va + 4 ≤ l.code + l.extent)
    (hfree : (s.walkNowFree (core / 64) l.part l.root va && s.portFree (addrs (tr.pa va) 4)) = true) :
    exec (.icacheFill core h va) s =
      .next (s.fillIcache ⟨core, l.part, l.root, va, BitVec.ofNat 32 (leNat (s.readBytes tr.key (tr.pa va) 4))⟩) := by
  obtain ⟨hwf, hpf⟩ : _ ∧ _ := Bool.and_eq_true _ _ ▸ hfree
  rw [exec_icacheFill]
  refine event_some hl (event_some hk (event_pos ⟨hp, h4, by simp [Launch.inExtent, hlo, hhi], hwf⟩ ?_))
  simp only [hw]
  exact event_pos hpf rfl

end

theorem thermalShutdown_ends (hd : s.down = false) : ∃ t, exec .thermalShutdown s = .next t ∧ t.down = true ∧ t.launches = [] ∧ t.waves = [] ∧
    t.gmem = s.gmem ∧ step t = .fault .shutDown :=
  ⟨_, (exec_thermalShutdown).trans (event_pos (by simp [hd]) rfl), rfl, rfl, rfl, rfl, rfl⟩

end

/-- Settles O52, by the conditions of each step of the firmware and the module and the state that it leaves. -/
theorem moduleStepResults : Obligations.ModuleStepResults := by
  intro s
  refine ⟨boot_from_reset, fun v d sig hd => ⟨mailboxImageWrite_failed v ⟨d, sig⟩ hd, mailboxImageWrite_disabled v ⟨d, sig⟩⟩, ?_,
    fun site h => ⟨eccCorrectable_counts h, ?_⟩, fun n hn hl => ⟨flitRetransmit_next hn hl, linkFailure_fails hn hl⟩,
    fun q n => currentStepStall_stalls, ?_, thermalShutdown_ends⟩
  · intro image hb hd
    have hf := State.fwRuns_of hb hd
    refine ⟨fun hl es bytes => patchLoad_loads hf hl, fun hl => ⟨patchLoad_disabled hl, routingTableWrite_disabled hl⟩,
      fun hl n x => routingTableWrite_writes hf hl, ?_, fun n p => partitionCreate_disabled, fun ch a b => channelCreate_creates hf,
      fun nonce hn => ⟨attestationRequest_reports hf hb hn, attestationRequest_disabled nonce⟩, ?_, fun mhz => clockThrottle_moves hf⟩
    · intro n p hok hq
      obtain ⟨t, z, he, hz, hk, hw, rfl, hc, ho⟩ := partitionCreate_creates hf hok hq
      exact ⟨t, _, he, hz, hk, hw, rfl, rfl, rfl, rfl, rfl, rfl, rfl, fun c hm => by rw [hc c hm]; rfl, ho⟩
    · intro n p hp hl hw lost quiet
      have hkey (k : Nat) : k ∈ s.channelKeys n ↔ lost k := State.mem_channelKeys
      have hquiet (w : Wave) : quiet w ↔ w.quietFor (s.channelKeys n) := by simp only [quiet, Wave.quietFor, hkey]
      refine ⟨fun ⟨h, hm, hk⟩ => partitionTeardown_disabled hp hm (hk.imp id (hkey _).mpr), fun hh hq hv hj => ?_⟩
      have hcons (k : Nat) : k ∉ p.dkey :: s.channelKeys n ↔ k ≠ p.dkey ∧ ¬ lost k := by rw [List.mem_cons, not_or, hkey]
      have ends := partitionTeardown_ends hf hp hl hw (fun h hm => (hcons _).mpr (hh h hm)) (fun e he => (hquiet _).mp (hq e he))
        (fun v hm e he => (hquiet _).mp (hv v hm e he)) (fun e he j hm x hx => (hkey _).not.mpr (hj e he j hm x hx))
      simpa only [hcons, hkey, and_imp] using ends
  · obtain ⟨t, he, hg, hv, hw, hx, hy⟩ := eccPoison_poisons h
    refine ⟨t, he, hg, hv, hw, ?_⟩
    cases site with
    | dram x => exact ⟨hx, fun y hm => (hy (.dram y) hm).imp_left fun e => PoisonSite.dram.inj e⟩
    | vault x => exact ⟨hx, fun y hm => (hy (.vault y) hm).imp_left fun e => PoisonSite.vault.inj e⟩
    | tile a x => exact ⟨hx, fun y hm => (hy (.tile y.1 y.2) hm).imp_left fun e => Prod.ext_iff.mpr (PoisonSite.tile.inj e)⟩
    | register a r l => exact ⟨hx, fun y hm => (hy (.register y.1 y.2.1 y.2.2) hm).imp_left fun e =>
        Prod.ext_iff.mpr ⟨(PoisonSite.register.inj e).1, Prod.ext_iff.mpr (PoisonSite.register.inj e).2⟩⟩
  · intro core h va l k tr hl hk hp h4 hlo hhi hw free
    exact ⟨icacheFill_disabled hl hk hw, fun hfree hroom => ⟨_, icacheFill_fills hl hk hw hp h4 hlo hhi hfree, rfl, State.mem_fillIcache hroom⟩⟩

end Machine
end Sys2Proof
end

section
/-! PROOFS. Binding: the places of a cluster, their fit, and the state once their cohorts are bound (O48). -/

namespace Sys2Proof

/-! ## Maps that take several entries -/

section
variable {α : Type}

/-- Puts several entries, in order. -/
def FMap.puts (m : FMap α) (xs : List (Nat × α)) : FMap α := xs.foldl (fun m x => m.put x.1 x.2) m

theorem FMap.find_puts_ne {k : Nat} : ∀ {xs : List (Nat × α)} (m : FMap α), (∀ x ∈ xs, x.1 ≠ k) → (m.puts xs).find k = m.find k
  | [], _, _ => rfl
  | x :: xs, m, h => by
    obtain ⟨hx, hxs⟩ := List.forall_mem_cons.mp h
    exact (FMap.find_puts_ne (xs := xs) (m.put x.1 x.2) hxs).trans (FMap.find_put_ne m x.2 (Ne.symm hx))

theorem FMap.find_puts_mem {k : Nat} {a : α} : ∀ {xs : List (Nat × α)} (m : FMap α), (xs.map (·.1)).Nodup → (k, a) ∈ xs → (m.puts xs).find k = some a
  | x :: xs, m, hn, h => by
    obtain ⟨hx, hxs⟩ := List.nodup_cons.mp hn
    rcases List.mem_cons.mp h with rfl | h
    · exact (FMap.find_puts_ne (xs := xs) _ fun y hy e => hx (List.mem_map.mpr ⟨y, hy, e⟩)).trans (FMap.find_put_same m k a)
    · exact FMap.find_puts_mem (xs := xs) _ hxs h

/-- A new entry that a test rejects. -/
theorem FMap.filter_put {f : Nat × α → Bool} {k : Nat} {a : α} (hf : f (k, a) = false) : ∀ {m : FMap α}, m.find k = none →
    List.filter f (m.put k a) = List.filter f m
  | [], _ => by simp [FMap.put, hf]
  | (j, b) :: t, h => by
    rw [FMap.find] at h
    split at h
    · cases h
    · rename_i hj
      rw [FMap.put]
      split
      · rw [List.filter_cons_of_neg (by simp [hf])]
      · rw [if_neg (Ne.symm hj), List.filter_cons, List.filter_cons, FMap.filter_put hf h]

/-- A new entry that a test accepts. -/
theorem FMap.all_put {f : Nat × α → Bool} {k : Nat} {a : α} (hf : f (k, a) = true) : ∀ {m : FMap α}, m.find k = none →
    List.all (m.put k a) f = List.all m f
  | [], _ => by simp [FMap.put, hf]
  | (j, b) :: t, h => by
    rw [FMap.find] at h
    split at h
    · cases h
    · rename_i hj
      rw [FMap.put]
      split
      · rw [List.all_cons, hf, Bool.true_and]
      · rw [if_neg (Ne.symm hj), List.all_cons, List.all_cons, FMap.all_put hf h]

theorem FMap.filter_puts {f : Nat × α → Bool} : ∀ {xs : List (Nat × α)} {m : FMap α}, (xs.map (·.1)).Nodup →
    (∀ x ∈ xs, f x = false ∧ m.find x.1 = none) → List.filter f (m.puts xs) = List.filter f m
  | [], _, _, _ => rfl
  | x :: xs, m, hn, h => by
    obtain ⟨hx, hxs⟩ := List.nodup_cons.mp hn
    obtain ⟨h0, ht⟩ := List.forall_mem_cons.mp h
    refine (FMap.filter_puts (xs := xs) hxs fun y hy => ⟨(ht y hy).1, ?_⟩).trans (FMap.filter_put h0.1 h0.2)
    have hne : y.1 ≠ x.1 := fun e => hx (List.mem_map.mpr ⟨y, hy, e⟩)
    rw [FMap.find_put_ne _ _ hne, (ht y hy).2]

end

theorem eraseDups_length_le {α : Type} [BEq α] [LawfulBEq α] (l : List α) : l.eraseDups.length ≤ l.length := by
  induction h : l.length using Nat.strong_induction_on generalizing l with
  | _ n ih =>
    cases l with
    | nil => simp at h; simp [h]
    | cons a l =>
      rw [List.eraseDups_cons, List.length_cons]
      have hl : (l.filter fun b => !b == a).length ≤ l.length := List.length_filter_le _ _
      have := ih _ (by rw [← h, List.length_cons]; omega) (l.filter fun b => !b == a) rfl
      rw [List.length_cons] at h
      omega

/-- A list in which removing duplicates leaves the length has none. -/
theorem eraseDups_length_eq {α : Type} [BEq α] [LawfulBEq α] : ∀ (l : List α), l.eraseDups.length = l.length ↔ l.Nodup
  | [] => by simp
  | a :: l => by
    rw [List.eraseDups_cons, List.length_cons, List.length_cons, Nat.add_right_cancel_iff, List.nodup_cons]
    have h1 := eraseDups_length_le (l.filter fun b => !b == a)
    have h2 : (l.filter fun b => !b == a).length ≤ l.length := List.length_filter_le _ _
    constructor
    · intro h
      have hf : l.filter (fun b => !b == a) = l := List.filter_eq_self.mpr (List.length_filter_eq_length_iff.mp (by omega))
      rw [hf] at h
      refine ⟨fun hm => ?_, (eraseDups_length_eq l).mp h⟩
      have := List.filter_eq_self.mp hf a hm
      simp at this
    · rintro ⟨ha, hn⟩
      have hf : l.filter (fun b => !b == a) = l := List.filter_eq_self.mpr fun b hb => by
        have : b ≠ a := fun e => ha (e ▸ hb)
        simp [this]
      rw [hf]
      exact (eraseDups_length_eq l).mpr hn

end Sys2Proof

namespace Sys2Proof.Machine

/-! ## Places -/

/-- The core of a place, counted through the module. -/
def placeCore (p : Place) : Nat := 64 * p.die + p.core

/-- The slot of wave `i` at a place: wave `i` goes to quadrant `i mod 4` (R16). -/
theorem placeSlots_getElem? (p : Place) (i : Nat) :
    (placeSlots p)[i]? = p.slots[i]?.map fun x => 2048 * p.die + 32 * p.core + 8 * (i % 4) + x := by
  rw [placeSlots, List.getElem?_map, List.getElem?_zipIdx, Option.map_map, Nat.zero_add]
  rfl

theorem placeSlots_length (p : Place) : (placeSlots p).length = p.slots.length := by simp [placeSlots]

/-- What of a fit is the place's own: its waves, slots and tiles, on a core of the module (R16). -/
structure PlaceSound (l : Launch) (p : Place) : Prop where
  core : p.core < 64
  slots : p.slots.length = l.waves
  tiles : p.tiles.length = l.waves
  small : ∀ x ∈ p.slots, x < 8
  apart : (placeSlots p).Nodup

theorem PlaceSound.slot {l : Launch} {p : Place} (h : PlaceSound l p) {slot : Nat} (hm : slot ∈ placeSlots p) :
    ∃ u, u < 4 ∧ slot / 8 = 4 * placeCore p + u := by
  obtain ⟨i, hi⟩ := List.mem_iff_getElem?.mp hm
  rw [placeSlots_getElem?] at hi
  obtain ⟨x, hx, rfl⟩ := Option.map_eq_some_iff.mp hi
  have := h.small x (List.mem_of_getElem? hx)
  exact ⟨i % 4, Nat.mod_lt _ (by decide), by unfold placeCore; omega⟩

theorem PlaceSound.slotCore {l : Launch} {p : Place} (h : PlaceSound l p) {slot : Nat} (hm : slot ∈ placeSlots p) : slotCore slot = placeCore p := by
  obtain ⟨u, hu, he⟩ := h.slot hm
  unfold Machine.slotCore
  omega

theorem placeSlots_range {l : Launch} {p : Place} (h : p.slots.length = l.waves) :
    (List.range l.waves).map (fun w => (placeSlots p).getD w 0) = placeSlots p := by
  refine List.ext_getElem (by simp [placeSlots_length, h]) fun i hi hi' => ?_
  simp [List.getElem_map, List.getElem_range, List.getD_eq_getElem?_getD, List.getElem?_eq_getElem hi']

/-- A place whose waves fit is sound, and its slots are free. -/
theorem State.fitsAt_sound {s : State} {l : Launch} {p : Place} (h : s.fitsAt l p (List.range l.waves) = true) :
    PlaceSound l p ∧ ∀ slot ∈ placeSlots p, s.waves.find slot = none := by
  simp only [State.fitsAt, Bool.and_eq_true, decide_eq_true_eq, beq_iff_eq] at h
  obtain ⟨⟨⟨⟨⟨⟨⟨⟨⟨⟨⟨⟨⟨hdie, hcore⟩, hpart⟩, hs⟩, ht⟩, h8⟩, hd⟩, hfree⟩, -⟩, -⟩, -⟩, -⟩, -⟩, -⟩ := h
  rw [placeSlots_range hs] at hd hfree
  refine ⟨⟨hcore, hs, ht, fun x hx => by simpa using List.all_eq_true.mp h8 x hx, (eraseDups_length_eq _).mp hd⟩, fun slot hm => ?_⟩
  exact Option.isNone_iff_eq_none.mp (List.all_eq_true.mp hfree slot hm)

/-! ## Binding one cohort -/

/-- A cohort as it is bound at a place (R15, R25, R175). -/
def Launch.cohortAt (l : Launch) (h : Nat) (p : Place) : Cohort :=
  ⟨h, p.cohort, p.die, p.core, p.wbase, l.window, l.waves, [], List.replicate 16 l.barrier, false, false, false, false, [], []⟩

/-- The waves of a cohort at a place, by slot (R16, R26). -/
def Launch.wavesAt (l : Launch) (h : Nat) (p : Place) : List (Nat × Wave) :=
  (((placeSlots p).zip p.tiles).zipIdx).map fun x => (x.1.1, l.wave (cohortKey h p.cohort) p.cohort x.2 x.1.2)

/-- The state once a cohort is bound at a place. -/
def State.boundAt (s : State) (h : Nat) (l : Launch) (p : Place) : State :=
  let t := s.freshWindow (vaultBase (placeCore p) + p.wbase) l.window
  let u := (l.wavesAt h p).foldl (fun (v : State) x => v.takeSlot x.1 x.2) t
  { u with cohorts := u.cohorts.put (cohortKey h p.cohort) (l.cohortAt h p),
           launches := u.launches.change h fun x => { x with bound := x.bound ++ [p.cohort] } }

theorem State.takeSlots_frame : ∀ (xs : List (Nat × Wave)) (s : State), { xs.foldl (fun (v : State) x => v.takeSlot x.1 x.2) s with poisonT := [] } =
    { s with waves := s.waves.puts xs, poisonT := [] }
  | [], _ => rfl
  | x :: xs, s => (State.takeSlots_frame xs (s.takeSlot x.1 x.2)).trans rfl

section
variable (s : State) (h : Nat) (l : Launch) (p : Place)

/-- What binding a cohort changes: its window, its slots, itself and its launch. -/
theorem State.boundAt_frame : { s.boundAt h l p with vmem := [], syncs := [], tags := [], poisonT := [], waves := [], cohorts := [], launches := [] } =
    { s with vmem := [], syncs := [], tags := [], poisonT := [], waves := [], cohorts := [], launches := [] } :=
  congrArg (fun t : State => { t with vmem := [], syncs := [], tags := [], waves := [], cohorts := [], launches := [] })
    (State.takeSlots_frame (l.wavesAt h p) (s.freshWindow (vaultBase (placeCore p) + p.wbase) l.window))

theorem State.boundAt_waves : (s.boundAt h l p).waves = s.waves.puts (l.wavesAt h p) :=
  (congrArg State.waves (State.takeSlots_frame (l.wavesAt h p) (s.freshWindow (vaultBase (placeCore p) + p.wbase) l.window)) :)

theorem State.boundAt_vmem : (s.boundAt h l p).vmem = Memory.clear s.vmem (vaultBase (placeCore p) + p.wbase) (vaultBase (placeCore p) + p.wbase + l.window) :=
  (congrArg State.vmem (State.takeSlots_frame (l.wavesAt h p) (s.freshWindow (vaultBase (placeCore p) + p.wbase) l.window)) :)

theorem State.boundAt_cohorts : (s.boundAt h l p).cohorts = s.cohorts.put (cohortKey h p.cohort) (l.cohortAt h p) :=
  (congrArg (fun t : State => t.cohorts.put (cohortKey h p.cohort) (l.cohortAt h p))
    (State.takeSlots_frame (l.wavesAt h p) (s.freshWindow (vaultBase (placeCore p) + p.wbase) l.window)) :)

theorem State.boundAt_launches : (s.boundAt h l p).launches = s.launches.change h fun x => { x with bound := x.bound ++ [p.cohort] } :=
  (congrArg (fun t : State => t.launches.change h fun x => { x with bound := x.bound ++ [p.cohort] })
    (State.takeSlots_frame (l.wavesAt h p) (s.freshWindow (vaultBase (placeCore p) + p.wbase) l.window)) :)

theorem State.boundAt_gmem : (s.boundAt h l p).gmem = s.gmem := (congrArg State.gmem (s.boundAt_frame h l p) :)

theorem State.boundAt_cores : (s.boundAt h l p).cores = s.cores := (congrArg State.cores (s.boundAt_frame h l p) :)

end

section
variable {s : State} {h : Nat} {l : Launch} {p q : Place}

/-- A cohort is bound where it fits and nowhere else. -/
theorem State.bindAt_eq (hp : p.launch = h) (hc : p.cohort < l.cohorts) (hk : s.cohorts.find (cohortKey h p.cohort) = none) :
    s.bindAt h l p = if s.fitsAt l p (List.range l.waves) = true then some (s.boundAt h l p) else none := by
  unfold State.bindAt
  by_cases hf : s.fitsAt l p (List.range l.waves) = true
  · rw [guard_pos _ ⟨hp, hc, hf⟩, if_pos hf, guard_pos _ (by rw [hk]; rfl)]
    have hfold : ∀ t : State, (((placeSlots p).zip p.tiles).zipIdx).foldl (fun (v : State) x => v.takeSlot x.1.1 (l.wave (cohortKey h p.cohort) p.cohort x.2 x.1.2)) t =
        (l.wavesAt h p).foldl (fun (v : State) x => v.takeSlot x.1 x.2) t := fun t => by rw [Launch.wavesAt, List.foldl_map]
    exact congrArg (fun u : State => some { u with
      cohorts := u.cohorts.put (cohortKey h p.cohort) (l.cohortAt h p)
      launches := u.launches.change h fun x => { x with bound := x.bound ++ [p.cohort] } }) (hfold _)
  · rw [guard_neg _ fun hg => hf hg.2.2, if_neg hf]

theorem Launch.mem_wavesAt {slot : Nat} {w : Wave} : (slot, w) ∈ l.wavesAt h p ↔
    ∃ i m, (placeSlots p)[i]? = some slot ∧ p.tiles[i]? = some m ∧ l.wave (cohortKey h p.cohort) p.cohort i m = w := by
  rw [Launch.wavesAt, List.mem_map]
  constructor
  · rintro ⟨⟨⟨slot', m⟩, i⟩, hm, he⟩
    obtain ⟨h1, h2⟩ := List.getElem?_zip_eq_some.mp (List.mem_zipIdx_iff_getElem?.mp hm)
    obtain ⟨rfl, rfl⟩ := Prod.mk.inj he
    exact ⟨i, m, h1, h2, rfl⟩
  · rintro ⟨i, m, h1, h2, rfl⟩
    exact ⟨((slot, m), i), List.mem_zipIdx_iff_getElem?.mpr (List.getElem?_zip_eq_some.mpr ⟨h1, h2⟩), rfl⟩

theorem Launch.slot_of_mem_wavesAt {x : Nat × Wave} (hx : x ∈ l.wavesAt h p) : x.1 ∈ placeSlots p := by
  obtain ⟨i, m, h1, -⟩ := Launch.mem_wavesAt.mp hx
  exact List.mem_of_getElem? h1

/-- The slots of a cohort's waves are those of its place. -/
theorem Launch.wavesAt_slots (hp : PlaceSound l p) : (l.wavesAt h p).map (·.1) = placeSlots p := by
  have hz : ((((placeSlots p).zip p.tiles).zipIdx.map Prod.fst).map Prod.fst) = ((placeSlots p).zip p.tiles).map Prod.fst := by rw [List.zipIdx_map_fst]
  rw [List.map_map] at hz
  rw [Launch.wavesAt, List.map_map]
  exact hz.trans (List.map_fst_zip (by rw [placeSlots_length, hp.slots, hp.tiles]))

end

end Sys2Proof.Machine

namespace Sys2Proof.Machine

/-! ## Binding a cohort leaves the fit of a place on another core as it was -/

section
variable {s : State} {h : Nat} {l : Launch} {p q : Place}

/-- Every wave that a cohort brings is in a slot of its place, which was free. -/
theorem State.filter_boundAt (hq : PlaceSound l q) (hfree : ∀ slot ∈ placeSlots q, s.waves.find slot = none) {f : Nat × Wave → Bool}
    (hf : ∀ slot ∈ placeSlots q, ∀ w, f (slot, w) = false) : (s.boundAt h l q).waves.filter f = s.waves.filter f := by
  rw [State.boundAt_waves]
  refine FMap.filter_puts ?_ fun x hx => ?_
  · rw [Launch.wavesAt_slots hq]
    exact hq.apart
  · have hm := Launch.slot_of_mem_wavesAt hx
    exact ⟨hf x.1 hm x.2, hfree x.1 hm⟩

theorem PlaceSound.slot_notMem (hp : PlaceSound l p) (hq : PlaceSound l q) (hne : placeCore p ≠ placeCore q) {slot : Nat} (hm : slot ∈ placeSlots p) : slot ∉ placeSlots q :=
  fun hm' => hne ((hp.slotCore hm).symm.trans (hq.slotCore hm'))

theorem State.waves_boundAt_other {slot : Nat} (hm : slot ∉ placeSlots q) : (s.boundAt h l q).waves.find slot = s.waves.find slot := by
  rw [State.boundAt_waves]
  exact FMap.find_puts_ne _ fun x hx e => hm (e ▸ Launch.slot_of_mem_wavesAt hx)

theorem State.waves_boundAt_mem (hq : PlaceSound l q) {i slot : Nat} {m : Word} (hi : (placeSlots q)[i]? = some slot) (hm : q.tiles[i]? = some m) :
    (s.boundAt h l q).waves.find slot = some (l.wave (cohortKey h q.cohort) q.cohort i m) := by
  rw [State.boundAt_waves]
  refine FMap.find_puts_mem _ ?_ (Launch.mem_wavesAt.mpr ⟨i, m, hi, hm, rfl⟩)
  rw [Launch.wavesAt_slots hq]
  exact hq.apart

theorem State.fitsAt_boundAt (hq : PlaceSound l q) (hfree : ∀ slot ∈ placeSlots q, s.waves.find slot = none) (hk : s.cohorts.find (cohortKey h q.cohort) = none)
    (hne : placeCore p ≠ placeCore q) : (s.boundAt h l q).fitsAt l p (List.range l.waves) = s.fitsAt l p (List.range l.waves) := by
  by_cases hp : PlaceSound l p
  · have hslots : (placeSlots p).all (fun x => ((s.boundAt h l q).waves.find x).isNone) = (placeSlots p).all fun x => (s.waves.find x).isNone := by
      rw [Bool.eq_iff_iff, List.all_eq_true, List.all_eq_true]
      refine forall₂_congr fun x hx => ?_
      rw [State.waves_boundAt_other (hp.slot_notMem hq hne hx)]
    have hquad : ∀ u, u < 4 → (s.boundAt h l q).quadRegs (4 * placeCore p + u) = s.quadRegs (4 * placeCore p + u) := fun u hu => by
      unfold State.quadRegs
      rw [State.filter_boundAt hq hfree fun slot hm w => ?_]
      obtain ⟨v, hv, he⟩ := hq.slot hm
      simp only [he, beq_eq_false_iff_ne]
      omega
    have hregs : (List.range 4).all (fun u => decide ((s.boundAt h l q).quadRegs (4 * placeCore p + u % 4) + l.budget * ((List.range l.waves).countP fun w => w % 4 == u) ≤ 512)) =
        (List.range 4).all fun u => decide (s.quadRegs (4 * placeCore p + u % 4) + l.budget * ((List.range l.waves).countP fun w => w % 4 == u) ≤ 512) := by
      refine List.all_congr rfl fun u => ?_
      rw [hquad _ (Nat.mod_lt _ (by decide))]
    have hheld : ((s.boundAt h l q).waves.filter fun e => slotCore e.1 == placeCore p && e.2.alive) = s.waves.filter fun e => slotCore e.1 == placeCore p && e.2.alive := by
      refine State.filter_boundAt hq hfree fun slot hm w => ?_
      simp [hq.slotCore hm, Ne.symm hne]
    have hcoh : (s.boundAt h l q).cohorts.all (fun e => e.2.place != placeCore p || e.2.freed || e.2.preempted || e.2.wsize == 0 || l.window == 0 ||
          decide (e.2.wbase + e.2.wsize ≤ p.wbase) || decide (p.wbase + l.window ≤ e.2.wbase)) =
        s.cohorts.all fun e => e.2.place != placeCore p || e.2.freed || e.2.preempted || e.2.wsize == 0 || l.window == 0 ||
          decide (e.2.wbase + e.2.wsize ≤ p.wbase) || decide (p.wbase + l.window ≤ e.2.wbase) := by
      rw [State.boundAt_cohorts]
      refine FMap.all_put ?_ hk
      have : (l.cohortAt h q).place ≠ placeCore p := fun e => hne e.symm
      simp [this]
    unfold placeCore at hregs hheld hcoh
    unfold State.fitsAt
    simp only [placeSlots_range hp.slots, hslots, hregs, hheld, hcoh, State.boundAt_cores]
  · rw [Bool.eq_false_iff.mpr fun hf => hp (State.fitsAt_sound hf).1, Bool.eq_false_iff.mpr fun hf => hp (State.fitsAt_sound hf).1]

end
end Sys2Proof.Machine

namespace Sys2Proof.Machine

/-! ## Binding several cohorts -/

theorem cohortKey_inj {h i j : Nat} : cohortKey h i = cohortKey h j ↔ i = j := by
  unfold cohortKey
  omega

/-- The state once the cohorts of several places are bound, one after another. -/
def State.boundAll (s : State) (h : Nat) (l : Launch) (ps : List Place) : State := ps.foldl (fun t p => t.boundAt h l p) s

/-- The cohorts of places on distinct cores are bound exactly where each fits before the first is bound. -/
theorem State.bindAll_eq {h : Nat} {l : Launch} : ∀ {ps : List Place} {s : State},
    (∀ p ∈ ps, p.launch = h ∧ p.cohort < l.cohorts ∧ s.cohorts.find (cohortKey h p.cohort) = none) → (ps.map placeCore).Nodup → (ps.map (·.cohort)).Nodup →
    s.bindAll h l ps = if ∀ p ∈ ps, s.fitsAt l p (List.range l.waves) = true then some (s.boundAll h l ps) else none
  | [], s, _, _, _ => by simp [State.bindAll, State.boundAll]
  | q :: ps, s, hps, hcores, hcohorts => by
    obtain ⟨⟨hl, hc, hk⟩, hps⟩ := List.forall_mem_cons.mp hps
    obtain ⟨hcore, hcores⟩ := List.nodup_cons.mp hcores
    obtain ⟨hcohort, hcohorts⟩ := List.nodup_cons.mp hcohorts
    rw [State.bindAll, State.bindAt_eq hl hc hk]
    by_cases hf : s.fitsAt l q (List.range l.waves) = true
    · obtain ⟨hq, hfree⟩ := State.fitsAt_sound hf
      have hkeys : ∀ p ∈ ps, p.launch = h ∧ p.cohort < l.cohorts ∧ (s.boundAt h l q).cohorts.find (cohortKey h p.cohort) = none := fun p hp => by
        obtain ⟨h1, h2, h3⟩ := hps p hp
        refine ⟨h1, h2, ?_⟩
        rw [State.boundAt_cohorts, FMap.find_put_ne _ _ fun e => hcohort (List.mem_map.mpr ⟨p, hp, cohortKey_inj.mp e⟩), h3]
      have hfits : (∀ p ∈ ps, (s.boundAt h l q).fitsAt l p (List.range l.waves) = true) ↔ ∀ p ∈ ps, s.fitsAt l p (List.range l.waves) = true :=
        forall₂_congr fun p hp => by rw [State.fitsAt_boundAt hq hfree hk fun e => hcore (List.mem_map.mpr ⟨p, hp, e⟩)]
      rw [if_pos hf, Option.bind_some, State.bindAll_eq hkeys hcores hcohorts]
      simp only [hfits, List.forall_mem_cons, hf, true_and]
      rfl
    · rw [if_neg hf, if_neg fun hall => hf (hall q List.mem_cons_self)]
      rfl

/-- What a state holds of a cohort that was just bound at a place (R15, R16, R25). -/
structure State.Placed (t : State) (h : Nat) (l : Launch) (p : Place) : Prop where
  window : ∀ a, vaultBase (placeCore p) + p.wbase ≤ a → a < vaultBase (placeCore p) + p.wbase + l.window → Memory.byte t.vmem a = none
  cohort : t.cohorts.find (cohortKey h p.cohort) = some (l.cohortAt h p)
  waves : ∀ i slot m, (placeSlots p)[i]? = some slot → p.tiles[i]? = some m → t.waves.find slot = some (l.wave (cohortKey h p.cohort) p.cohort i m)

section
variable {s : State} {h : Nat} {l : Launch} {p q : Place}

theorem State.boundAt_placed (hq : PlaceSound l q) : (s.boundAt h l q).Placed h l q where
  window a h1 h2 := by rw [State.boundAt_vmem, Memory.byte_clear, if_neg (by omega)]
  cohort := by rw [State.boundAt_cohorts, FMap.find_put_same]
  waves i slot m hi hm := State.waves_boundAt_mem hq hi hm

theorem State.Placed.boundAt (ht : s.Placed h l p) (hp : PlaceSound l p) (hq : PlaceSound l q) (hcore : placeCore p ≠ placeCore q) (hcohort : p.cohort ≠ q.cohort) :
    (s.boundAt h l q).Placed h l p where
  window a h1 h2 := by
    rw [State.boundAt_vmem, Memory.byte_clear, ht.window a h1 h2, ite_self]
  cohort := by rw [State.boundAt_cohorts, FMap.find_put_ne _ _ fun e => hcohort (cohortKey_inj.mp e), ht.cohort]
  waves i slot m hi hm := by
    rw [State.waves_boundAt_other (hp.slot_notMem hq hcore (List.mem_of_getElem? hi)), ht.waves i slot m hi hm]

end

section
variable {h : Nat} {l : Launch}

theorem State.Placed.boundAll {p : Place} (hp : PlaceSound l p) : ∀ {ps : List Place} {s : State}, s.Placed h l p → (∀ q ∈ ps, PlaceSound l q) →
    placeCore p ∉ ps.map placeCore → p.cohort ∉ ps.map (·.cohort) → (s.boundAll h l ps).Placed h l p
  | [], _, ht, _, _, _ => ht
  | q :: ps, s, ht, hs, hcore, hcohort => by
    obtain ⟨hq, hs⟩ := List.forall_mem_cons.mp hs
    rw [List.map_cons, List.mem_cons, not_or] at hcore hcohort
    exact State.Placed.boundAll hp (ps := ps) (ht.boundAt hp hq hcore.1 hcohort.1) hs hcore.2 hcohort.2

/-- Each cohort of several places on distinct cores is placed. -/
theorem State.boundAll_placed : ∀ {ps : List Place} {s : State}, (∀ q ∈ ps, PlaceSound l q) → (ps.map placeCore).Nodup → (ps.map (·.cohort)).Nodup →
    ∀ p ∈ ps, (s.boundAll h l ps).Placed h l p
  | q :: ps, s, hall, hcores, hcohorts, p, hm => by
    obtain ⟨hq, hs⟩ := List.forall_mem_cons.mp hall
    obtain ⟨hcore, hcores⟩ := List.nodup_cons.mp hcores
    obtain ⟨hcohort, hcohorts⟩ := List.nodup_cons.mp hcohorts
    rcases List.mem_cons.mp hm with rfl | hm
    · exact State.Placed.boundAll hq (ps := ps) (State.boundAt_placed hq) hs hcore hcohort
    · exact State.boundAll_placed (ps := ps) hs hcores hcohorts p hm

theorem State.boundAll_gmem : ∀ (ps : List Place) (s : State), (s.boundAll h l ps).gmem = s.gmem
  | [], _ => rfl
  | q :: ps, s => (State.boundAll_gmem ps (s.boundAt h l q)).trans (State.boundAt_gmem ..)

theorem State.boundAll_vmem {a : Nat} : ∀ (ps : List Place) (s : State),
    (∀ p ∈ ps, ¬ (vaultBase (placeCore p) + p.wbase ≤ a ∧ a < vaultBase (placeCore p) + p.wbase + l.window)) → Memory.byte (s.boundAll h l ps).vmem a = Memory.byte s.vmem a
  | [], _, _ => rfl
  | q :: ps, s, ho => by
    obtain ⟨hq, ho⟩ := List.forall_mem_cons.mp ho
    refine (State.boundAll_vmem ps (s.boundAt h l q) ho).trans ?_
    rw [State.boundAt_vmem, Memory.byte_clear, if_pos (by omega)]

theorem State.boundAll_waves {slot : Nat} : ∀ (ps : List Place) (s : State), (∀ p ∈ ps, slot ∉ placeSlots p) → (s.boundAll h l ps).waves.find slot = s.waves.find slot
  | [], _, _ => rfl
  | q :: ps, s, ho => by
    obtain ⟨hq, ho⟩ := List.forall_mem_cons.mp ho
    exact (State.boundAll_waves ps (s.boundAt h l q) ho).trans (State.waves_boundAt_other hq)

theorem State.boundAll_launch : ∀ (ps : List Place) {s : State} {x : Launch}, s.launches.find h = some x →
    (s.boundAll h l ps).launches.find h = some { x with bound := x.bound ++ ps.map (·.cohort) }
  | [], _, x, hx => by rw [List.map_nil, List.append_nil]; exact hx
  | q :: ps, s, x, hx => by
    have hq : (s.boundAt h l q).launches.find h = some { x with bound := x.bound ++ [q.cohort] } := by rw [State.boundAt_launches, FMap.find_change_same, hx]; rfl
    refine (State.boundAll_launch ps hq).trans ?_
    rw [List.append_assoc]
    rfl

end

/-! ## The places of a cluster -/

/-- The places of one whole cluster: in index order, on distinct cores of a die within a rectangle of 4 by 4 (R18, R28). -/
theorem clusterPlaces_iff {l : Launch} {ps : List Place} (hps : ps ≠ []) : clusterPlaces l ps = true ↔
    ps.length = l.clsz ∧ (ps.map placeCore).Nodup ∧
    (∀ p ∈ ps, ∀ q ∈ ps, placeCore p / 64 = placeCore q / 64 ∧ placeCore p % 64 / 8 ≤ placeCore q % 64 / 8 + 3 ∧ placeCore p % 8 ≤ placeCore q % 8 + 3) ∧
    ∃ n, ps.map (·.cohort) = addrs (n * l.clsz) l.clsz := by
  have hcores : (ps.map fun p => 64 * p.die + p.core) = ps.map placeCore := rfl
  have hshape : clusterShape (ps.map placeCore) = true ↔
      ∀ p ∈ ps, ∀ q ∈ ps, placeCore p / 64 = placeCore q / 64 ∧ placeCore p % 64 / 8 ≤ placeCore q % 64 / 8 + 3 ∧ placeCore p % 8 ≤ placeCore q % 8 + 3 := by
    simp only [clusterShape, List.all_map, List.all_eq_true, Function.comp_apply, Bool.and_eq_true, beq_iff_eq, decide_eq_true_eq, and_assoc]
  have hindex : ∀ (p : Place) (rest : List Place), ps = p :: rest → ps.length = l.clsz →
      ((p.cohort % l.clsz == 0 && ps.map (·.cohort) == addrs p.cohort l.clsz) = true ↔ ∃ n, ps.map (·.cohort) = addrs (n * l.clsz) l.clsz) := by
    rintro p rest rfl hlen
    rw [Bool.and_eq_true, beq_iff_eq, beq_iff_eq]
    constructor
    · rintro ⟨hmod, he⟩
      exact ⟨p.cohort / l.clsz, by rw [he, Nat.div_mul_cancel (Nat.dvd_of_mod_eq_zero hmod)]⟩
    · rintro ⟨n, he⟩
      have hz : l.clsz = rest.length + 1 := hlen.symm
      have hhead : p.cohort = n * l.clsz := by
        rw [hz, addrs, List.map_cons] at he
        rw [hz]
        exact (List.cons.inj he).1
      exact ⟨by rw [hhead, Nat.mul_mod_left], by rw [he, hhead]⟩
  cases ps with
  | nil => exact absurd rfl hps
  | cons p rest =>
    unfold clusterPlaces
    rw [hcores]
    simp only [Bool.and_eq_true, beq_iff_eq, eraseDups_length_eq, hshape, and_assoc]
    refine and_congr_right fun hlen => and_congr_right fun _ => and_congr_right fun _ => ?_
    rw [← hindex p rest rfl hlen, Bool.and_eq_true, beq_iff_eq, beq_iff_eq]

theorem nodup_addrs (a n : Nat) : (addrs a n).Nodup := by
  rw [Sys2Proof.addrs_eq_range']
  exact List.nodup_range'

end Sys2Proof.Machine

namespace Sys2Proof.Machine

/-! ## A wave and a cohort as they are bound -/

section
variable (l : Launch) (key index i : Nat) (m : Word)

theorem Launch.live_getLsbD {k : Nat} (hk : k < 32) : (l.live i).getLsbD k = true ↔ if l.protect then 16 * i + k / 2 < l.lanes else 32 * i + k < l.lanes := by
  rw [Launch.live, maskOf_getLsbD _ _ hk]
  split <;> exact decide_eq_true_iff

theorem Launch.root'_qreg (n : Nat) : (l.root' index i).qreg n = true ↔ n = 0 := by
  have hq : (1 : BitVec 16).getLsbD n = decide (n = 0) := by simp [BitVec.getLsbD_one]
  rw [Run.qreg, Bool.or_eq_true, beq_iff_eq]
  exact ⟨fun h => h.elim id fun h => of_decide_eq_true (hq ▸ h), .inl⟩

theorem Launch.root'_sreg (n : Nat) : sreg (l.wave key index i m) (l.root' index i) n = if n = 62 then l.stack + BitVec.ofNat 64 ((l.waves * index + i) * l.stksz) else 0 := by
  have hp : (l.root' index i).priv.find n = if 62 = n then some (l.stack + BitVec.ofNat 64 ((l.waves * index + i) * l.stksz)) else none := rfl
  have hs : (l.wave key index i m).s.find n = none := rfl
  unfold Machine.sreg
  rw [hp, hs]
  by_cases h62 : n = 62
  · subst h62; rfl
  · rw [if_neg h62, if_neg (Ne.symm h62), ite_self]; rfl

end

section
variable {s : State} {h : Nat} {l : Launch} {ps : List Place}

/-- What `Obligations.CohortsAreBound` says of a state in which cohorts were bound. -/
def State.Bound (s : State) (h : Nat) (l : Launch) (ps : List Place) (t : State) : Prop :=
  t.gmem = s.gmem ∧
  (∀ a, (∀ p ∈ ps, ¬ (vaultBase (placeCore p) + p.wbase ≤ a ∧ a < vaultBase (placeCore p) + p.wbase + l.window)) → Memory.byte t.vmem a = Memory.byte s.vmem a) ∧
  (∀ slot, (∀ p ∈ ps, slot ∉ placeSlots p) → t.waves.find slot = s.waves.find slot) ∧ ∀ p ∈ ps, PlaceSound l p ∧ t.Placed h l p

/-- A change of the launch alone. -/
theorem State.Bound.modLaunch {t : State} (ht : s.Bound h l ps t) (f : Launch → Launch) : s.Bound h l ps (t.modLaunch h f) := by
  obtain ⟨hg, hv, hw, hp⟩ := ht
  refine ⟨hg, hv, hw, fun p hm => ?_⟩
  obtain ⟨hsound, hplaced⟩ := hp p hm
  exact ⟨hsound, hplaced.window, hplaced.cohort, hplaced.waves⟩

theorem State.boundAll_bound (hcores : (ps.map placeCore).Nodup) (hcohorts : (ps.map (·.cohort)).Nodup) (hf : ∀ p ∈ ps, s.fitsAt l p (List.range l.waves) = true) :
    s.Bound h l ps (s.boundAll h l ps) :=
  have hs : ∀ p ∈ ps, PlaceSound l p := fun p hp => (State.fitsAt_sound (hf p hp)).1
  ⟨State.boundAll_gmem ps s, fun _ ho => State.boundAll_vmem ps s ho, fun _ ho => State.boundAll_waves ps s ho,
    fun p hp => ⟨hs p hp, State.boundAll_placed hs hcores hcohorts p hp⟩⟩

end

theorem State.Placed.wave {t : State} {h : Nat} {l : Launch} {p : Place} (ht : t.Placed h l p) (hp : PlaceSound l p) {i slot : Nat} (hi : (placeSlots p)[i]? = some slot) :
    ∃ m, p.tiles[i]? = some m ∧ t.waves.find slot = some (l.wave (cohortKey h p.cohort) p.cohort i m) := by
  have hlt : i < p.tiles.length := by
    obtain ⟨hlt, -⟩ := List.getElem?_eq_some_iff.mp hi
    rw [placeSlots_length, hp.slots] at hlt
    rw [hp.tiles]
    exact hlt
  have hm := List.getElem?_eq_getElem hlt
  exact ⟨_, hm, ht.waves i slot _ hi hm⟩

theorem exec_cohortBind_steps (h : Nat) (ps : List Place) (s : State) : exec (.cohortBind h ps) s = State.event "COHORT_BIND" (do
    let l ← s.launches.find h
    guard (!s.down ∧ !l.ended ∧ !l.gang ∧ clusterPlaces l ps ∧ s.serialOk l)
    s.bindAll h l ps) := rfl

theorem exec_gangPrepare_steps (part queue h : Nat) (ps : List Place) (s : State) : exec (.gangPrepare part queue ⟨h, none⟩ ps) s = State.event "GANG_PREPARE" (do
    guard !s.down
    let l ← s.launches.find h
    guard (l.gang ∧ l.part = part ∧ l.queue = queue ∧ !l.ended ∧ s.gangSays l fun g => !g.cancelled)
    guard (l.gphase = .none)
    if ps.isEmpty then some (s.modLaunch h fun x => { x with gphase := .nacked 3 })
    else
      guard (gangPlaces l ps ∧ s.serialOk l)
      let u ← s.bindAll h l ps
      some (u.modLaunch h fun x => { x with gphase := .prepared })) := rfl

/-- Settles O48: places on distinct cores do not change one another's fit (`State.fitsAt_boundAt`), so the cohorts are bound exactly where each fits in the
state before (`State.bindAll_eq`), and each then stays placed (`State.boundAll_bound`). -/
theorem cohortsAreBound : Obligations.CohortsAreBound := by
  unfold Obligations.CohortsAreBound
  intro s h l ps hl hd hne hps core apart cluster fit window bound
  have hbound : ∀ t, s.Bound h l ps t → bound t := by
    rintro t ⟨hg, hv, hw, hp⟩
    refine ⟨hg, hv, hw, fun p hm => ?_⟩
    obtain ⟨hsound, hplaced⟩ := hp p hm
    refine ⟨fun a ha => hplaced.window a ha.1 ha.2, hplaced.cohort, fun i slot hi => ?_⟩
    obtain ⟨m, hm, hwave⟩ := hplaced.wave hsound hi
    exact ⟨_, l.root' p.cohort i, hwave, rfl, rfl, rfl, rfl, rfl, hm.symm, fun _ _ => rfl, fun n hn => if_neg (Nat.ne_of_gt hn), fun _ => rfl, rfl, rfl, rfl,
      fun _ => ⟨rfl, rfl⟩, fun k hk => l.live_getLsbD i hk, rfl, rfl, rfl, rfl, l.root'_qreg _ i, l.root'_sreg _ _ i m⟩
  have hcohorts : cluster → (ps.map (·.cohort)).Nodup := by
    rintro ⟨-, -, -, n, hn⟩
    rw [hn]
    exact nodup_addrs _ _
  have hcluster : clusterPlaces l ps = true ↔ cluster := clusterPlaces_iff hne
  refine ⟨fun hno => ?_, fun hgang hend hcl hser hfit => ?_, fun hgang hend hph hsay hlen hall hapart hnodup hser hfit => ?_⟩
  · rw [Disabled, exec_cohortBind_steps, hl, Option.bind_eq_bind, Option.bind_some]
    by_cases hgd : !s.down ∧ !l.ended ∧ !l.gang ∧ clusterPlaces l ps ∧ s.serialOk l
    · obtain ⟨-, he, hg, hc, hs⟩ := id hgd
      have hc := hcluster.mp hc
      have hnofit : ¬ ∀ p ∈ ps, fit p := by
        rcases hno with hno | hno | hno | hno | ⟨p, hp, hno⟩
        · simp [hno] at hg
        · simp [hno] at he
        · exact absurd hc hno
        · simp [hno] at hs
        · exact fun hf => hno (hf p hp)
      rw [guard_pos _ hgd, State.bindAll_eq hps hc.2.1 (hcohorts hc), if_neg hnofit]
      rfl
    · rw [guard_neg _ hgd]
      rfl
  · refine ⟨s.boundAll h l ps, _, ?_, hbound _ (State.boundAll_bound hcl.2.1 (hcohorts hcl) hfit), State.boundAll_launch ps hl, rfl⟩
    rw [exec_cohortBind_steps, hl, Option.bind_eq_bind, Option.bind_some, guard_pos _ ⟨by simp [hd], by simp [hend], by simp [hgang], hcluster.mpr hcl, hser⟩,
      State.bindAll_eq hps hcl.2.1 (hcohorts hcl), if_pos hfit]
    rfl
  · have hb := State.boundAll_bound (h := h) hapart hnodup hfit
    refine ⟨(s.boundAll h l ps).modLaunch h fun x => { x with gphase := .prepared }, _, ?_, hbound _ (hb.modLaunch _), ?_, rfl⟩
    · have hsays : s.gangSays l (fun g => !g.cancelled) = true := by
        unfold State.gangSays
        split
        next g hg => simp [hsay g hg]
        next => rfl
      have hplaces : gangPlaces l ps = true := by rw [gangPlaces, hall, Bool.and_true, beq_iff_eq, hlen]
      rw [exec_gangPrepare_steps, guard_pos _ (by simp [hd]), hl, Option.bind_eq_bind, Option.bind_some,
        guard_pos _ ⟨hgang, rfl, rfl, by simp [hend], hsays⟩, guard_pos _ hph, if_neg (by simpa using hne), guard_pos _ ⟨hplaces, hser⟩,
        State.bindAll_eq hps hapart hnodup, if_pos hfit]
      rfl
    · rw [State.modLaunch_launches, FMap.find_change_same, State.boundAll_launch ps hl]
      rfl

end Sys2Proof.Machine
end

section
/-! PROOFS. Ends: waits that end, meetings that settle, retirement, kills, the watchdog and the work distributor (O49). -/

namespace Sys2Proof.Machine

/-! ## What ends waits: the strands that a step may wake and those that it must -/

/-- A strand after a step that may end the waits of `may` and ends those of `must`. -/
def Run.Roused (may must : Wait → Prop) (r q : Run) : Prop :=
  (q = r ∨ (∃ x, r.wait = some x ∧ may x) ∧ ∃ d b, q = r.wake d b) ∧ ∀ x, r.wait = some x → must x → q.wait = none

section
variable {may must may' must' : Wait → Prop} {r q u : Run}

theorem Run.Roused.refl (r : Run) (h : ∀ x, ¬ must x) : r.Roused may must r := ⟨.inl rfl, fun x _ hx => absurd hx (h x)⟩

theorem Run.Roused.mono (h : r.Roused may must q) (h1 : ∀ x, may x → may' x) (h2 : ∀ x, must' x → must x) : r.Roused may' must' q :=
  ⟨h.1.imp_right fun ⟨⟨x, hx, hm⟩, hq⟩ => ⟨⟨x, hx, h1 x hm⟩, hq⟩, fun x hx hm => h.2 x hx (h2 x hm)⟩

theorem Run.Roused.trans (h : r.Roused may must q) (h' : q.Roused may' must' u) : r.Roused (fun x => may x ∨ may' x) (fun x => must x ∨ must' x) u := by
  obtain ⟨rfl | ⟨⟨x, hx, hmay⟩, d, b, rfl⟩, hmust⟩ := h
  · refine ⟨h'.1.imp_right fun ⟨⟨x, hx, hm⟩, hq⟩ => ⟨⟨x, hx, .inr hm⟩, hq⟩, fun x hx hm => hm.elim (fun hm => ?_) (h'.2 x hx)⟩
    exact absurd (hmust x hx hm) (by rw [hx]; exact Option.some_ne_none x)
  · have hu : u = r.wake d b := h'.1.elim id fun ⟨⟨_, hy, _⟩, _⟩ => nomatch hy
    exact ⟨.inr ⟨⟨x, hx, .inl hmay⟩, d, b, hu⟩, fun _ _ _ => by rw [hu]; rfl⟩

/-- What waking leaves of a strand. -/
theorem Run.Roused.frame (h : r.Roused may must q) : { q with wait := none, q := 0 } = { r with wait := none, q := 0 } ∧ (q.wait = r.wait ∨ q.wait = none) := by
  obtain ⟨rfl | ⟨-, d, b, rfl⟩, -⟩ := h
  · exact ⟨rfl, .inl rfl⟩
  · exact ⟨rfl, .inr rfl⟩

/-- A strand none of whose waits may end stays as it is. -/
theorem Run.Roused.same (h : r.Roused may must q) (hr : ∀ x, r.wait = some x → ¬ may x) : q = r :=
  h.1.elim id fun ⟨⟨x, hx, hm⟩, _⟩ => absurd hm (hr x hx)

end

theorem Wave.run_mapRuns (w : Wave) (f : Run → Run) (e : Nat) : (w.mapRuns f).run e = (w.run e).map f := by
  unfold Wave.run Wave.mapRuns
  rw [FMap.find_mapv]
  cases w.lattice.find e with
  | none => rfl
  | some x => rfl

theorem Wave.wakeRuns_frame (w : Wave) (ids : List Nat) (f : Run → Option Run) :
    { w.wakeRuns ids f with before := [] } = { w.mapRuns (fun r => (f r).getD r) with before := [] } := by
  unfold Wave.wakeRuns
  split <;> rfl

/-- A wave after a step that may end the waits of `may` and ends those of `must`. -/
structure Wave.Roused (may must : Wait → Prop) (v u : Wave) : Prop where
  frame : { u with lattice := [], before := [] } = { v with lattice := [], before := [] }
  empty : v.lattice = [] → u.lattice = []
  run : ∀ e r, v.run e = some r → ∃ q, u.run e = some q ∧ r.Roused may must q

section
variable {may must may' must' : Wait → Prop} {v u w : Wave}

theorem Wave.Roused.refl (v : Wave) (h : ∀ x, ¬ must x) : v.Roused may must v := ⟨rfl, id, fun _ r hr => ⟨r, hr, .refl r h⟩⟩

theorem Wave.Roused.mono (h : v.Roused may must u) (h1 : ∀ x, may x → may' x) (h2 : ∀ x, must' x → must x) : v.Roused may' must' u :=
  ⟨h.frame, h.empty, fun e r hr => let ⟨q, hq, hm⟩ := h.run e r hr; ⟨q, hq, hm.mono h1 h2⟩⟩

theorem Wave.Roused.trans (h : v.Roused may must u) (h' : u.Roused may' must' w) : v.Roused (fun x => may x ∨ may' x) (fun x => must x ∨ must' x) w :=
  ⟨h'.frame.trans h.frame, fun he => h'.empty (h.empty he), fun e r hr =>
    let ⟨q, hq, hm⟩ := h.run e r hr
    let ⟨y, hy, hm'⟩ := h'.run e q hq
    ⟨y, hy, hm.trans hm'⟩⟩

theorem Wave.Roused.cohort (h : v.Roused may must u) : u.cohort = v.cohort := (congrArg Wave.cohort h.frame :)

theorem Wave.mapRuns_roused {f : Run → Run} (hf : ∀ r : Run, r.Roused may must (f r)) : v.Roused may must (v.mapRuns f) where
  frame := rfl
  empty he := by rw [Wave.mapRuns, he]; rfl
  run e r hr := ⟨f r, by rw [Wave.run_mapRuns, hr]; rfl, hf r⟩

theorem Wave.wakeRuns_roused {ids : List Nat} {f : Run → Option Run} (hf : ∀ r : Run, r.Roused may must ((f r).getD r)) : v.Roused may must (v.wakeRuns ids f) := by
  have hm : v.Roused may must (v.mapRuns fun r => (f r).getD r) := Wave.mapRuns_roused hf
  have hl : (v.wakeRuns ids f).lattice = (v.mapRuns fun r => (f r).getD r).lattice := (congrArg Wave.lattice (Wave.wakeRuns_frame v ids f) :)
  have hr : ∀ e, (v.wakeRuns ids f).run e = (v.mapRuns fun r => (f r).getD r).run e := fun e => by rw [Wave.run, Wave.run, hl]
  exact ⟨(congrArg (fun w : Wave => { w with lattice := [] }) (Wave.wakeRuns_frame v ids f) :), fun he => hl.trans (hm.empty he),
    fun e r h => by rw [hr]; exact hm.run e r h⟩

end

/-- The waves after a step that may end the waits of `may` and ends those of `must`, each cohort's own. -/
def State.Rouses (may must : Nat → Wait → Prop) (s t : State) : Prop :=
  ∀ j, (s.waves.find j = none → t.waves.find j = none) ∧
    ∀ v, s.waves.find j = some v → ∃ u, t.waves.find j = some u ∧ v.Roused (may v.cohort) (must v.cohort) u

section
variable {may must may' must' : Nat → Wait → Prop} {s t u : State}

theorem State.Rouses.of_waves (hw : t.waves = s.waves) (h : ∀ k x, ¬ must k x) : s.Rouses may must t := fun j => by
  rw [hw]
  exact ⟨id, fun v hv => ⟨v, hv, .refl v (h _)⟩⟩

theorem State.Rouses.mono (h : s.Rouses may must t) (h1 : ∀ k x, may k x → may' k x) (h2 : ∀ k x, must' k x → must k x) : s.Rouses may' must' t :=
  fun j => ⟨(h j).1, fun v hv => let ⟨w, hw, hm⟩ := (h j).2 v hv; ⟨w, hw, hm.mono (h1 _) (h2 _)⟩⟩

theorem State.Rouses.trans (h : s.Rouses may must t) (h' : t.Rouses may' must' u) : s.Rouses (fun k x => may k x ∨ may' k x) (fun k x => must k x ∨ must' k x) u :=
  fun j => ⟨fun hn => (h' j).1 ((h j).1 hn), fun v hv => by
    obtain ⟨w, hw, hm⟩ := (h j).2 v hv
    obtain ⟨y, hy, hm'⟩ := (h' j).2 w hw
    rw [hm.cohort] at hm'
    exact ⟨y, hy, hm.trans hm'⟩⟩

theorem State.rouses_mapv {f : Wave → Wave} (hf : ∀ v : Wave, v.Roused (may v.cohort) (must v.cohort) (f v)) (hw : t.waves = s.waves.mapv fun _ w => f w) : s.Rouses may must t :=
  fun j => by
    rw [hw, FMap.find_mapv]
    exact ⟨fun hn => by rw [hn]; rfl, fun v hv => ⟨f v, by rw [hv]; rfl, hf v⟩⟩

/-- What `State.wakeWaits` does to a wave. -/
def State.wakeWave (s : State) (h : Nat) (ids : List Nat) (f : Cohort → Run → Option Run) (w : Wave) : Wave :=
  match s.cohorts.find w.cohort with
  | some c => if c.launch = h then w.wakeRuns ids (f c) else w
  | none => w

/-- The waits that `State.wakeWaits` ends are of cohorts of its launch. -/
theorem State.wakeWaits_rouses {h : Nat} {ids : List Nat} {f : Cohort → Run → Option Run} (s : State)
    (hin : ∀ k c, s.cohorts.find k = some c → c.launch = h → ∀ r : Run, r.Roused (may k) (must k) ((f c r).getD r))
    (hout : ∀ k x, must k x → ∃ c, s.cohorts.find k = some c ∧ c.launch = h) : s.Rouses may must (s.wakeWaits h ids f) := by
  refine State.rouses_mapv (f := s.wakeWave h ids f) (fun v => ?_) rfl
  unfold State.wakeWave
  split
  next c hc =>
    split
    next hl => exact Wave.wakeRuns_roused (hin _ c hc hl)
    next hl =>
      refine .refl v fun x hx => ?_
      obtain ⟨d, hd, hl'⟩ := hout _ x hx
      rw [hc] at hd
      exact hl (Option.some.inj hd ▸ hl')
  next hc =>
    refine .refl v fun x hx => ?_
    obtain ⟨d, hd, -⟩ := hout _ x hx
    rw [hc] at hd
    cases hd

end

/-! ## The state apart from what meetings change -/

/-- A state without its waves, pre-empted cohorts and launches, which alone a meeting of waves changes. -/
def State.butMeets (s : State) : State := { s with waves := [], saved := [], launches := [] }

/-- A launch without its groups and clusters. -/
def Launch.butMeets (l : Launch) : Launch := { l with groups := [], clusters := [] }

theorem State.wakeWaits_butMeets (s : State) (h : Nat) (ids : List Nat) (f : Cohort → Run → Option Run) : (s.wakeWaits h ids f).butMeets = s.butMeets := rfl

theorem State.cohorts_of_butMeets {s t : State} (h : t.butMeets = s.butMeets) : t.cohorts = s.cohorts := (congrArg State.cohorts h :)

/-- What a step that settles meetings leaves of the launches. -/
def State.KeepsLaunches (s t : State) : Prop := ∀ k, (t.launches.find k).map Launch.butMeets = (s.launches.find k).map Launch.butMeets

theorem State.KeepsLaunches.trans {s t u : State} (h : s.KeepsLaunches t) (h' : t.KeepsLaunches u) : s.KeepsLaunches u := fun k => (h' k).trans (h k)

theorem State.KeepsLaunches.find {s t : State} {k : Nat} {l : Launch} (h : s.KeepsLaunches t) (hl : s.launches.find k = some l) :
    ∃ m, t.launches.find k = some m ∧ m.butMeets = l.butMeets := by
  have := h k
  rw [hl] at this
  exact Option.map_eq_some_iff.mp this

theorem State.keepsLaunches_change {s t : State} {h : Nat} {f : Launch → Launch} (ht : t.launches = s.launches.change h f) (hf : ∀ l, (f l).butMeets = l.butMeets) :
    s.KeepsLaunches t := fun k => by
  rw [ht]
  by_cases hk : k = h
  · subst hk
    rw [FMap.find_change_same, Option.map_map]
    exact congrArg (fun g => Option.map g _) (funext hf)
  · rw [FMap.find_change_ne _ _ hk]

end Sys2Proof.Machine

namespace Sys2Proof.Machine

/-! ## Meetings of the waves of several cohorts (R179, R180) -/

/-- The cohorts that meet, as far as they are bound. -/
def meetMembers (cohorts : FMap Cohort) (h : Nat) (is : List Nat) : List Cohort := is.filterMap fun i => cohorts.find (cohortKey h i)

/-- Every cohort that meets is bound and has arrived. -/
def meetArrived (cohorts : FMap Cohort) (h : Nat) (is : List Nat) (counts : Cohort → FMap Nat) (key phase : Nat) : Bool :=
  (meetMembers cohorts h is).length == is.length && (meetMembers cohorts h is).all fun c => c.arrived (counts c) key phase

/-- A wave of the cohorts that meet has not retired. -/
def meetLeft (cohorts : FMap Cohort) (h : Nat) (is : List Nat) : Bool := (meetMembers cohorts h is).any fun c => !c.pendingWaves.isEmpty

theorem Cohort.mem_pendingWaves {c : Cohort} {k : Nat} : k ∈ c.pendingWaves ↔ k < c.nwaves ∧ k ∉ c.retired := by
  simp [Cohort.pendingWaves]

theorem Cohort.arrived_iff {c : Cohort} {counts : FMap Nat} {key phase : Nat} :
    c.arrived counts key phase = true ↔ ∀ k, k < c.nwaves → k ∉ c.retired → phase < (counts.find (key * 16 + k)).getD 0 := by
  simp only [Cohort.arrived, List.all_eq_true, decide_eq_true_eq, Cohort.mem_pendingWaves, and_imp]

section
variable {cohorts : FMap Cohort} {h : Nat} {is : List Nat}

theorem meetArrived_iff {counts : Cohort → FMap Nat} {key phase : Nat} : meetArrived cohorts h is counts key phase = true ↔
    ∀ i ∈ is, ∃ x, cohorts.find (cohortKey h i) = some x ∧ ∀ k, k < x.nwaves → k ∉ x.retired → phase < ((counts x).find (key * 16 + k)).getD 0 := by
  rw [meetArrived, Bool.and_eq_true, beq_iff_eq, meetMembers, List.filterMap_length_eq_length, List.all_eq_true]
  constructor
  · rintro ⟨hall, harr⟩ i hi
    obtain ⟨x, hx⟩ := Option.isSome_iff_exists.mp (hall i hi)
    exact ⟨x, hx, Cohort.arrived_iff.mp (harr x (List.mem_filterMap.mpr ⟨i, hi, hx⟩))⟩
  · refine fun hall => ⟨fun i hi => let ⟨x, hx, _⟩ := hall i hi; Option.isSome_iff_exists.mpr ⟨x, hx⟩, fun x hx => ?_⟩
    obtain ⟨i, hi, hf⟩ := List.mem_filterMap.mp hx
    obtain ⟨y, hy, ha⟩ := hall i hi
    obtain rfl : y = x := Option.some.inj (hy.symm.trans hf)
    exact Cohort.arrived_iff.mpr ha

theorem meetLeft_iff : meetLeft cohorts h is = true ↔ ∃ i ∈ is, ∃ x k, cohorts.find (cohortKey h i) = some x ∧ k < x.nwaves ∧ k ∉ x.retired := by
  have hpend : ∀ x : Cohort, (!x.pendingWaves.isEmpty) = true ↔ ∃ k, k < x.nwaves ∧ k ∉ x.retired := fun x => by
    rw [Bool.not_eq_true', List.isEmpty_eq_false_iff_exists_mem]
    exact exists_congr fun k => Cohort.mem_pendingWaves
  rw [meetLeft, List.any_eq_true]
  constructor
  · rintro ⟨x, hx, hp⟩
    obtain ⟨i, hi, hf⟩ := List.mem_filterMap.mp hx
    obtain ⟨k, hk⟩ := (hpend x).mp hp
    exact ⟨i, hi, x, k, hf, hk⟩
  · rintro ⟨i, hi, x, k, hf, hk⟩
    exact ⟨x, List.mem_filterMap.mpr ⟨i, hi, hf⟩, (hpend x).mpr ⟨k, hk⟩⟩

end

/-! ## A group -/

/-- The phases that a group completes at once when it opens (R179). -/
def groupSteps (cohorts : FMap Cohort) (h : Nat) (x : Group) : Nat := if meetLeft cohorts h x.members then 1 else if x.rwait then x.held else 0

/-- A group completes a phase (R179). -/
def groupOpens (cohorts : FMap Cohort) (h g : Nat) (x : Group) : Bool :=
  meetArrived cohorts h x.members Cohort.gbar g x.phase && groupSteps cohorts h x != 0 && (!x.rwait || x.held != 0)

theorem groupOpens_iff {cohorts : FMap Cohort} {h g : Nat} {x : Group} : groupOpens cohorts h g x = true ↔
    meetArrived cohorts h x.members Cohort.gbar g x.phase = true ∧ (meetLeft cohorts h x.members = true ∨ x.rwait = true) ∧ (x.rwait = true → x.held ≠ 0) := by
  unfold groupOpens groupSteps
  cases meetLeft cohorts h x.members <;> cases x.rwait <;> simp

/-- A group once it has completed phases. -/
def Group.opened (x : Group) (n : Nat) (parts : List Nat) : Group :=
  { x with phase := x.phase + n, held := if x.rwait then x.held - n else x.held, parts := parts }

/-- The strand once its wait on a phase of group `g` is over. -/
def Run.wakeGroup (g phase : Nat) (lost : Bool) (r : Run) : Option Run :=
  match r.wait with
  | some (.group h ph q) => if h = g ∧ ph < phase then some (r.wake q (!lost)) else none
  | _ => none

/-- The state once a group has completed its phases. -/
def State.openGroup (s : State) (h g : Nat) (x : Group) : State :=
  let y := x.opened (groupSteps s.cohorts h x) (s.stillPending x.parts)
  (s.modLaunch h fun l => { l with groups := l.groups.put g y }).wakeWaits h y.parts fun _ r => r.wakeGroup g y.phase x.lost

theorem State.settleGroup_eq {s : State} {h g : Nat} {l : Launch} {x : Group} (hl : s.launches.find h = some l) (hg : l.groups.find g = some x) :
    s.settleGroup h g = if groupOpens s.cohorts h g x = true then s.openGroup h g x else s := by
  unfold State.settleGroup
  simp only [hl, hg]
  rfl

theorem Run.wakeGroup_roused (r : Run) (g phase : Nat) (lost : Bool) :
    r.Roused (fun x => ∃ ph b, x = .group g ph b) (fun x => ∃ ph b, x = .group g ph b ∧ ph < phase) ((r.wakeGroup g phase lost).getD r) := by
  unfold Run.wakeGroup
  split
  next k ph b hw =>
    split
    next hc =>
      obtain ⟨rfl, -⟩ := hc
      exact ⟨.inr ⟨⟨_, hw, ph, b, rfl⟩, b, !lost, rfl⟩, fun _ _ _ => rfl⟩
    next hc =>
      refine ⟨.inl rfl, fun x hx ⟨ph', b', he, hlt⟩ => absurd ?_ hc⟩
      rw [hw, he] at hx
      cases hx
      exact ⟨rfl, hlt⟩
  next hw => exact ⟨.inl rfl, fun x hx ⟨ph, b, he, _⟩ => absurd (he ▸ hx) (hw g ph b)⟩

/-- A cohort of the launch. -/
def State.ofLaunch (s : State) (h key : Nat) : Prop := ∃ c, s.cohorts.find key = some c ∧ c.launch = h

section
variable {s : State} {h g : Nat} {x : Group}

theorem State.openGroup_rouses : s.Rouses (fun _ w => ∃ ph b, w = .group g ph b)
    (fun k w => s.ofLaunch h k ∧ ∃ ph b, w = .group g ph b ∧ ph < x.phase + groupSteps s.cohorts h x) (s.openGroup h g x) :=
  let y := x.opened (groupSteps s.cohorts h x) (s.stillPending x.parts)
  State.wakeWaits_rouses (must := fun k w => s.ofLaunch h k ∧ ∃ ph b, w = .group g ph b ∧ ph < x.phase + groupSteps s.cohorts h x)
    (s.modLaunch h fun l => { l with groups := l.groups.put g y }) (fun _ _ _ _ r => (r.wakeGroup_roused g _ x.lost).mono (fun _ => id) fun _ hm => hm.2) fun _ _ hm => hm.1

theorem State.openGroup_launch {l : Launch} (hl : s.launches.find h = some l) : (s.openGroup h g x).launches.find h =
    some { l with groups := l.groups.put g (x.opened (groupSteps s.cohorts h x) (s.stillPending x.parts)) } :=
  (FMap.find_change_same s.launches h _).trans (by rw [hl]; rfl)

/-! ## The groups of a cohort -/

/-- A group of the cohort `index` completes a phase. -/
def opensFor (cohorts : FMap Cohort) (h index : Nat) (e : Nat × Group) : Bool := e.2.members.contains index && groupOpens cohorts h e.1 e.2

/-- Settling one group. -/
def State.settleFor (h index : Nat) (u : State) (e : Nat × Group) : State := if e.2.members.contains index then u.settleGroup h e.1 else u

theorem State.settleFor_eq {l : Launch} {e : Nat × Group} {index : Nat} (hl : s.launches.find h = some l) (hg : l.groups.find e.1 = some e.2) :
    s.settleFor h index e = if opensFor s.cohorts h index e = true then s.openGroup h e.1 e.2 else s := by
  unfold State.settleFor opensFor
  rw [State.settleGroup_eq hl hg]
  cases e.2.members.contains index <;> simp

end

/-- What settling the groups `gs` of a launch does. -/
structure State.GroupsSettled (h index : Nat) (gs : List (Nat × Group)) (s : State) (l : Launch) (t : State) (m : Launch) : Prop where
  frame : t.butMeets = s.butMeets
  launch : t.launches.find h = some m
  keep : { m with groups := [] } = { l with groups := [] }
  opened : ∀ e ∈ gs, opensFor s.cohorts h index e = true → ∃ parts, m.groups.find e.1 = some (e.2.opened (groupSteps s.cohorts h e.2) parts)
  other : ∀ g, (∀ e ∈ gs, e.1 = g → opensFor s.cohorts h index e = false) → m.groups.find g = l.groups.find g
  rouses : s.Rouses (fun _ w => ∃ e ∈ gs, opensFor s.cohorts h index e = true ∧ ∃ ph b, w = .group e.1 ph b)
    (fun k w => s.ofLaunch h k ∧ ∃ e ∈ gs, opensFor s.cohorts h index e = true ∧ ∃ ph b, w = .group e.1 ph b ∧ ph < e.2.phase + groupSteps s.cohorts h e.2) t

theorem State.groupsSettled {h index : Nat} : ∀ {gs : List (Nat × Group)} {s : State} {l : Launch}, (gs.map (·.1)).Nodup → s.launches.find h = some l →
    (∀ e ∈ gs, l.groups.find e.1 = some e.2) → ∃ m, State.GroupsSettled h index gs s l (gs.foldl (State.settleFor h index) s) m
  | [], s, l, _, hl, _ => ⟨l, rfl, hl, rfl, fun _ he => (nomatch he), fun _ _ => rfl, .of_waves rfl fun _ _ hm => by simp at hm⟩
  | e :: gs, s, l, hn, hl, hgs => by
    obtain ⟨hnew, hn⟩ := List.nodup_cons.mp hn
    obtain ⟨hg, hgs⟩ := List.forall_mem_cons.mp hgs
    have hne : ∀ x ∈ gs, x.1 ≠ e.1 := fun x hx heq => hnew (List.mem_map.mpr ⟨x, hx, heq⟩)
    rw [List.foldl_cons, State.settleFor_eq hl hg]
    by_cases ho : opensFor s.cohorts h index e = true
    · rw [if_pos ho]
      obtain ⟨m, ht⟩ := State.groupsSettled (index := index) hn (State.openGroup_launch (g := e.1) (x := e.2) hl)
        fun x hx => (FMap.find_put_ne _ _ (hne x hx)).trans (hgs x hx)
      refine ⟨m, ht.frame, ht.launch, ht.keep, ?_, fun g hno => ?_, ?_⟩
      · refine List.forall_mem_cons.mpr ⟨fun _ => ⟨_, (ht.other e.1 fun x hx heq => absurd heq (hne x hx)).trans (FMap.find_put_same _ _ _)⟩, ht.opened⟩
      · obtain ⟨h1, h2⟩ := List.forall_mem_cons.mp hno
        refine (ht.other g h2).trans (FMap.find_put_ne _ _ fun heq => ?_)
        rw [h1 heq.symm] at ho
        cases ho
      · refine (State.openGroup_rouses.trans ht.rouses).mono (fun k w => ?_) fun k w => ?_
        · rintro (⟨ph, b, rfl⟩ | ⟨x, hx, hw⟩)
          · exact ⟨e, List.mem_cons_self, ho, ph, b, rfl⟩
          · exact ⟨x, List.mem_cons_of_mem _ hx, hw⟩
        · rintro ⟨hk, x, hx, hw⟩
          rcases List.mem_cons.mp hx with rfl | hx
          · exact .inl ⟨hk, hw.2⟩
          · exact .inr ⟨hk, x, hx, hw⟩
    · rw [if_neg ho]
      obtain ⟨m, ht⟩ := State.groupsSettled (index := index) hn hl hgs
      have hno : opensFor s.cohorts h index e = false := Bool.eq_false_iff.mpr ho
      refine ⟨m, ht.frame, ht.launch, ht.keep, ?_, fun g hn' => ht.other g (List.forall_mem_cons.mp hn').2, ht.rouses.mono (fun k w => ?_) fun k w => ?_⟩
      · exact List.forall_mem_cons.mpr ⟨fun hyes => absurd hyes ho, ht.opened⟩
      · exact fun ⟨x, hx, hw⟩ => ⟨x, List.mem_cons_of_mem _ hx, hw⟩
      · rintro ⟨hk, x, hx, hw⟩
        rcases List.mem_cons.mp hx with rfl | hx
        · exact absurd hw.1 ho
        · exact ⟨hk, x, hx, hw⟩

end Sys2Proof.Machine

namespace Sys2Proof

/-! ## Maps in rising order -/

section
variable {α : Type}

theorem FMap.le_of_rising : ∀ {m : FMap α} {lo : Nat}, m.risingFrom lo = true → ∀ k ∈ m.map (·.1), lo ≤ k
  | (j, _) :: t, lo, h, k, hk => by
    rw [FMap.risingFrom, Bool.and_eq_true, decide_eq_true_eq] at h
    rcases List.mem_cons.mp hk with rfl | hk
    · exact h.1
    · have := FMap.le_of_rising h.2 k hk
      omega

theorem FMap.nodup_of_rising : ∀ {m : FMap α} {lo : Nat}, m.risingFrom lo = true → (m.map (·.1)).Nodup
  | [], _, _ => List.nodup_nil
  | (j, _) :: t, lo, h => by
    rw [FMap.risingFrom, Bool.and_eq_true] at h
    refine List.nodup_cons.mpr ⟨fun hj => ?_, FMap.nodup_of_rising h.2⟩
    have := FMap.le_of_rising h.2 j hj
    omega

theorem FMap.find_of_mem {k : Nat} {a : α} : ∀ {m : FMap α}, (m.map (·.1)).Nodup → (k, a) ∈ m → m.find k = some a
  | (j, b) :: t, hn, h => by
    obtain ⟨hj, hn⟩ := List.nodup_cons.mp hn
    rw [FMap.find]
    rcases List.mem_cons.mp h with h | h
    · cases h
      rw [if_pos rfl]
    · rw [if_neg fun e : j = k => hj (e ▸ List.mem_map.mpr ⟨(k, a), h, rfl⟩), FMap.find_of_mem hn h]

theorem FMap.find_del_same {k : Nat} : ∀ {m : FMap α}, (m.map (·.1)).Nodup → (m.del k).find k = none
  | [], _ => rfl
  | (j, b) :: t, hn => by
    obtain ⟨hj, hn⟩ := List.nodup_cons.mp hn
    rw [FMap.del]
    split
    next e =>
      subst e
      exact Option.not_isSome_iff_eq_none.mp fun hs => hj (FMap.find_isSome.mp hs)
    next hne => rw [FMap.find, if_neg hne, FMap.find_del_same hn]

theorem FMap.change_of_find {m : FMap α} {k : Nat} {a : α} (h : m.find k = some a) (f : α → α) : m.change k f = m.put k (f a) := by
  rw [FMap.change, h]

end

end Sys2Proof

namespace Sys2Proof.Machine

/-! ## A cluster -/

/-- A cluster completes a phase (R180). -/
def clusterJoins (cohorts : FMap Cohort) (h : Nat) (l : Launch) (cl : Nat) : Bool :=
  meetArrived cohorts h (addrs (cl * l.clsz) l.clsz) Cohort.cbar 0 (l.cluster cl).phase && meetLeft cohorts h (addrs (cl * l.clsz) l.clsz)

theorem Launch.clusterMembers_eq (l : Launch) (cl : Nat) : l.clusterMembers cl = addrs (cl * l.clsz) l.clsz := by
  rw [addrs_eq_range', List.range'_eq_map_range]
  rfl

theorem Launch.clusterMembers_length (l : Launch) (cl : Nat) : (l.clusterMembers cl).length = l.clsz := by simp [Launch.clusterMembers]

/-- The strand once its wait on a phase of its cluster is over; `mine` tells whether the cluster is its own. -/
def Run.wakeCluster (mine : Prop) [Decidable mine] (phase : Nat) (lost : Bool) (r : Run) : Option Run :=
  match r.wait with
  | some (.cluster ph q) => if mine ∧ ph < phase then some (r.wake q (!lost)) else none
  | _ => none

/-- A cluster once it has completed a phase. -/
def Cluster.joined (x : Cluster) (parts : List Nat) : Cluster := { x with phase := x.phase + 1, parts := parts }

/-- The state once a cluster has completed a phase. -/
def State.joinCluster (s : State) (h : Nat) (l : Launch) (cl : Nat) : State :=
  let y := (l.cluster cl).joined (s.stillPending (l.cluster cl).parts)
  (s.modLaunch h fun l => { l with clusters := l.clusters.put cl y }).wakeWaits h y.parts fun c r =>
    r.wakeCluster (l.clusterOf c.index = cl) y.phase (l.cluster cl).lost

theorem State.settleCluster_eq {s : State} {h cl : Nat} {l : Launch} (hl : s.launches.find h = some l) :
    s.settleCluster h cl = if clusterJoins s.cohorts h l cl = true then s.joinCluster h l cl else s := by
  have hj : clusterJoins s.cohorts h l cl = (((l.clusterMembers cl).filterMap fun i => s.cohorts.find (cohortKey h i)).length == l.clsz &&
      ((l.clusterMembers cl).filterMap fun i => s.cohorts.find (cohortKey h i)).all (fun c => c.arrived c.cbar 0 (l.cluster cl).phase) &&
      ((l.clusterMembers cl).filterMap fun i => s.cohorts.find (cohortKey h i)).any fun c => !c.pendingWaves.isEmpty) := by
    rw [clusterJoins, ← Launch.clusterMembers_eq, meetArrived, Launch.clusterMembers_length]
    rfl
  rw [hj]
  unfold State.settleCluster
  simp only [hl]
  rfl

theorem Run.wakeCluster_roused (r : Run) (mine : Prop) [Decidable mine] (phase : Nat) (lost : Bool) :
    r.Roused (fun x => ∃ ph b, x = .cluster ph b) (fun _ => False) ((r.wakeCluster mine phase lost).getD r) := by
  refine ⟨?_, fun _ _ hm => hm.elim⟩
  unfold Run.wakeCluster
  split
  next ph b hw =>
    split
    · exact .inr ⟨⟨_, hw, ph, b, rfl⟩, b, !lost, rfl⟩
    · exact .inl rfl
  next hw => exact .inl rfl

section
variable {s : State} {h cl : Nat} {l : Launch}

theorem State.joinCluster_rouses : s.Rouses (fun _ w => ∃ ph b, w = .cluster ph b) (fun _ _ => False) (s.joinCluster h l cl) :=
  let y := (l.cluster cl).joined (s.stillPending (l.cluster cl).parts)
  State.wakeWaits_rouses (s.modLaunch h fun l => { l with clusters := l.clusters.put cl y }) (fun _ _ _ _ r => r.wakeCluster_roused _ _ _) fun _ _ hm => hm.elim

theorem State.joinCluster_launch (hl : s.launches.find h = some l) : (s.joinCluster h l cl).launches.find h =
    some { l with clusters := l.clusters.put cl ((l.cluster cl).joined (s.stillPending (l.cluster cl).parts)) } :=
  (FMap.find_change_same s.launches h _).trans (by rw [hl]; rfl)

end

theorem State.settleMeets_eq {s : State} {h index : Nat} {l : Launch} (hl : s.launches.find h = some l) :
    s.settleMeets h index = (l.groups.foldl (State.settleFor h index) s).settleCluster h (l.clusterOf index) := by
  unfold State.settleMeets
  simp only [hl]
  rfl

/-- What settling the groups and the cluster of a cohort does. -/
structure State.MeetsSettled (h index : Nat) (s : State) (l : Launch) (t : State) (m : Launch) : Prop where
  frame : t.butMeets = s.butMeets
  launch : t.launches.find h = some m
  keep : m.butMeets = l.butMeets
  opened : ∀ g x, l.groups.find g = some x → opensFor s.cohorts h index (g, x) = true → ∃ parts, m.groups.find g = some (x.opened (groupSteps s.cohorts h x) parts)
  other : ∀ g x, l.groups.find g = some x → opensFor s.cohorts h index (g, x) = false → m.groups.find g = some x
  joined : clusterJoins s.cohorts h l (l.clusterOf index) = true → (m.cluster (l.clusterOf index)).phase = (l.cluster (l.clusterOf index)).phase + 1
  apart : clusterJoins s.cohorts h l (l.clusterOf index) = false → m.clusters = l.clusters
  rouses : s.Rouses (fun _ w => (∃ g x ph b, l.groups.find g = some x ∧ opensFor s.cohorts h index (g, x) = true ∧ w = .group g ph b) ∨ ∃ ph b, w = .cluster ph b)
    (fun k w => s.ofLaunch h k ∧ ∃ g x ph b, l.groups.find g = some x ∧ opensFor s.cohorts h index (g, x) = true ∧ w = .group g ph b ∧
      ph < x.phase + groupSteps s.cohorts h x) t

theorem State.meetsSettled {s : State} {h index : Nat} {l : Launch} (hl : s.launches.find h = some l) (hr : FMap.risingFrom 0 l.groups = true) :
    ∃ m, State.MeetsSettled h index s l (s.settleMeets h index) m := by
  have hn := FMap.nodup_of_rising hr
  obtain ⟨m, hm⟩ := State.groupsSettled (index := index) hn hl fun e he => FMap.find_of_mem hn he
  have hmem : ∀ {g x}, l.groups.find g = some x ↔ (g, x) ∈ l.groups := ⟨FMap.find_some_mem, FMap.find_of_mem hn⟩
  have hcohorts := State.cohorts_of_butMeets hm.frame
  have hclsz : m.clsz = l.clsz := (congrArg Launch.clsz hm.keep :)
  have hclusters : m.clusters = l.clusters := (congrArg Launch.clusters hm.keep :)
  have hjoins : ∀ cl, clusterJoins (l.groups.foldl (State.settleFor h index) s).cohorts h m cl = clusterJoins s.cohorts h l cl := fun cl => by
    unfold clusterJoins Launch.cluster
    rw [hcohorts, hclsz, hclusters]
  have hopened : ∀ g x, l.groups.find g = some x → opensFor s.cohorts h index (g, x) = true → ∃ parts, m.groups.find g = some (x.opened (groupSteps s.cohorts h x) parts) :=
    fun g x hx ho => hm.opened (g, x) (hmem.mp hx) ho
  have hother : ∀ g x, l.groups.find g = some x → opensFor s.cohorts h index (g, x) = false → m.groups.find g = some x := fun g x hx ho => by
    refine (hm.other g fun e he heq => ?_).trans hx
    obtain ⟨g', y⟩ := e
    obtain rfl : g' = g := heq
    obtain rfl : y = x := Option.some.inj ((hmem.mpr he).symm.trans hx)
    exact ho
  have hrouses := hm.rouses
  rw [State.settleMeets_eq hl, State.settleCluster_eq hm.launch, hjoins]
  by_cases hj : clusterJoins s.cohorts h l (l.clusterOf index) = true
  · rw [if_pos hj]
    have hphase : ∀ y, ({ m with clusters := m.clusters.put (l.clusterOf index) y } : Launch).cluster (l.clusterOf index) = y := fun y => by
      rw [Launch.cluster, FMap.find_put_same, Option.getD_some]
    have hcluster : m.cluster (l.clusterOf index) = l.cluster (l.clusterOf index) := by rw [Launch.cluster, Launch.cluster, hclusters]
    refine ⟨_, hm.frame, State.joinCluster_launch hm.launch, (congrArg (fun x : Launch => { x with clusters := [] }) hm.keep :), hopened, hother,
      fun _ => by rw [hphase, hcluster]; rfl, fun hj' => absurd hj (by rw [hj']; decide), ?_⟩
    refine (hrouses.trans State.joinCluster_rouses).mono (fun k w => ?_) fun k w => ?_
    · rintro (⟨e, he, ho, ph, b, rfl⟩ | hw)
      · exact .inl ⟨e.1, e.2, ph, b, hmem.mpr he, ho, rfl⟩
      · exact .inr hw
    · rintro ⟨hk, g, x, ph, b, hx, ho, hw⟩
      exact .inl ⟨hk, (g, x), hmem.mp hx, ho, ph, b, hw⟩
  · rw [if_neg hj]
    refine ⟨m, hm.frame, hm.launch, (congrArg (fun x : Launch => { x with clusters := [] }) hm.keep :), hopened, hother, fun hj' => absurd hj' hj, fun _ => hclusters,
      hrouses.mono (fun k w => ?_) fun k w => ?_⟩
    · rintro ⟨e, he, ho, ph, b, rfl⟩
      exact .inl ⟨e.1, e.2, ph, b, hmem.mpr he, ho, rfl⟩
    · rintro ⟨hk, g, x, ph, b, hx, ho, hw⟩
      exact ⟨hk, (g, x), hmem.mp hx, ho, ph, b, hw⟩

end Sys2Proof.Machine

namespace Sys2Proof.Machine

/-! ## A wave retires (R29) -/

theorem Wave.alive_iff {w : Wave} : w.alive = true ↔ w.state ≠ .killed := by simp [Wave.alive]

/-- A wave's strands, entries, parts, answers, MMAs and copies of its own are over (R29, R279). -/
def Wave.finished (w : Wave) (slot : Nat) (k : Core) : Prop :=
  w.lattice = [] ∧ w.sb = [] ∧ w.pq = [] ∧ w.nextw = 0 ∧ (∀ m ∈ k.mmas, m.slot ≠ slot) ∧
    ∀ j ∈ k.jobs, j.kind = .copyc → j.slot = slot → j.cohort = w.cohort → j.state = .stopped

theorem Wave.finished_iff {w : Wave} {slot : Nat} {k : Core} : w.finished slot k ↔
    (w.lattice.isEmpty ∧ w.sb.isEmpty ∧ w.pq.isEmpty ∧ w.nextw = 0 ∧ (k.mmas.all fun m => m.slot != slot) ∧
      k.jobs.all fun j => !(j.kind == .copyc && j.slot == slot && j.cohort == w.cohort && j.state != .stopped)) := by
  simp only [Wave.finished, List.isEmpty_iff, List.all_eq_true, bne_iff_ne, Bool.not_eq_true', Bool.and_eq_false_iff, beq_eq_false_iff_ne, ne_eq]
  refine and_congr_right fun _ => and_congr_right fun _ => and_congr_right fun _ => and_congr_right fun _ => and_congr_right fun _ => forall₂_congr fun j _ => ?_
  rw [bne_eq_false_iff_eq]
  tauto

/-- The state once a wave has left its slot and its cohort counts it as retired. -/
def State.retired (s : State) (slot : Nat) (w : Wave) : State :=
  (s.leaveSlot slot w).modCohort w.cohort fun d => { d with retired := d.retired ++ [w.widx] }

section
variable {s : State} {slot : Nat} {w : Wave}

theorem exec_waveRetire_killed (hw : s.waves.find slot = some w) (ha : w.state = .killed) :
    exec (.waveRetire slot) s = State.event "WAVE_RETIRE" (do guard w.pq.isEmpty; some (s.leaveSlot slot w)) := by
  show execWaveRetire slot s = _
  unfold execWaveRetire
  rw [hw, Option.bind_eq_bind, Option.bind_some, if_pos (by simp [Wave.alive, ha])]

/-- The state once a live wave has retired, or has taken the trap that was due. -/
def State.retireWave (s : State) (slot : Nat) (w : Wave) (c : Cohort) : State :=
  match w.due with
  | some f => s.waveTrap slot f none
  | none => (s.retired slot w).settleMeets c.launch c.index

variable {k : Core} {c : Cohort}

theorem exec_waveRetire_alive (hw : s.waves.find slot = some w) (ha : w.state ≠ .killed) (hk : s.cores.find (slotCore slot) = some k)
    (hc : s.cohorts.find w.cohort = some c) : exec (.waveRetire slot) s = State.event "WAVE_RETIRE" (do
      guard (w.lattice.isEmpty ∧ w.sb.isEmpty ∧ w.pq.isEmpty ∧ w.nextw = 0 ∧ (k.mmas.all fun m => m.slot != slot) ∧
        k.jobs.all fun j => !(j.kind == .copyc && j.slot == slot && j.cohort == w.cohort && j.state != .stopped))
      some (s.retireWave slot w c)) := by
  show execWaveRetire slot s = _
  unfold execWaveRetire State.retireWave
  rw [hw, Option.bind_eq_bind, Option.bind_some, if_neg (by simp [Wave.alive_iff.mpr ha]), hk, hc]
  cases w.due <;> rfl

theorem waveRetire_unfinished (hw : s.waves.find slot = some w) (ha : w.state ≠ .killed) (hk : s.cores.find (slotCore slot) = some k)
    (hc : s.cohorts.find w.cohort = some c) (hf : ¬ w.finished slot k) : Disabled s (.waveRetire slot) "WAVE_RETIRE" := by
  rw [Disabled, exec_waveRetire_alive hw ha hk hc, guard_neg _ fun hg => hf (Wave.finished_iff.mpr hg)]
  rfl

theorem waveRetire_finished (hw : s.waves.find slot = some w) (ha : w.state ≠ .killed) (hk : s.cores.find (slotCore slot) = some k)
    (hc : s.cohorts.find w.cohort = some c) (hf : w.finished slot k) : exec (.waveRetire slot) s = .next (s.retireWave slot w c) := by
  rw [exec_waveRetire_alive hw ha hk hc, guard_pos _ (Wave.finished_iff.mp hf)]
  rfl

theorem State.retireWave_due {f : FaultRec} (hd : w.due = some f) : s.retireWave slot w c = s.waveTrap slot f none := by rw [State.retireWave, hd]

theorem State.retireWave_none (hd : w.due = none) : s.retireWave slot w c = (s.retired slot w).settleMeets c.launch c.index := by rw [State.retireWave, hd]

theorem State.retired_cohorts (hc : s.cohorts.find w.cohort = some c) : (s.retired slot w).cohorts = s.cohorts.put w.cohort { c with retired := c.retired ++ [w.widx] } :=
  FMap.change_of_find hc _

theorem State.retired_frame : { (s.retired slot w) with waves := [], cohorts := [], poisonR := [], poisonT := [] } = { s with waves := [], cohorts := [], poisonR := [], poisonT := [] } := rfl

theorem State.retired_waves : (s.retired slot w).waves = s.waves.del slot := rfl

/-- Retiring a wave changes no cohort's launch. -/
theorem State.retired_ofLaunch {h key : Nat} {x : Cohort} (hc : s.cohorts.find w.cohort = some c) (hx : s.cohorts.find key = some x) (hl : x.launch = h) :
    (s.retired slot w).ofLaunch h key := by
  unfold State.ofLaunch
  rw [State.retired_cohorts hc, FMap.find_put]
  split
  next e =>
    subst e
    obtain rfl := Option.some.inj (hc.symm.trans hx)
    exact ⟨_, rfl, hl⟩
  next => exact ⟨x, hx, hl⟩

end

theorem opensFor_iff {cohorts : FMap Cohort} {h index g : Nat} {x : Group} : opensFor cohorts h index (g, x) = true ↔
    index ∈ x.members ∧ meetArrived cohorts h x.members Cohort.gbar g x.phase = true ∧ (meetLeft cohorts h x.members = true ∨ x.rwait = true) ∧
      (x.rwait = true → x.held ≠ 0) := by
  rw [opensFor, Bool.and_eq_true, groupOpens_iff, List.contains_iff_mem]

theorem groupSteps_of_left {cohorts : FMap Cohort} {h : Nat} {x : Group} (hl : meetLeft cohorts h x.members = true) : groupSteps cohorts h x = 1 := if_pos hl

theorem groupSteps_of_not_left {cohorts : FMap Cohort} {h : Nat} {x : Group} (hl : ¬ meetLeft cohorts h x.members = true) (hr : x.rwait = true) :
    groupSteps cohorts h x = x.held := by rw [groupSteps, if_neg hl, if_pos hr]

theorem groupSteps_pos {cohorts : FMap Cohort} {h index g : Nat} {x : Group} (ho : opensFor cohorts h index (g, x) = true) : 0 < groupSteps cohorts h x := by
  obtain ⟨-, -, hor, hheld⟩ := opensFor_iff.mp ho
  by_cases hl : meetLeft cohorts h x.members = true
  · rw [groupSteps_of_left hl]
    exact Nat.one_pos
  · have hr := hor.resolve_left hl
    rw [groupSteps_of_not_left hl hr]
    exact Nat.pos_of_ne_zero (hheld hr)

theorem clusterJoins_iff {cohorts : FMap Cohort} {h cl : Nat} {l : Launch} : clusterJoins cohorts h l cl = true ↔
    meetArrived cohorts h (addrs (cl * l.clsz) l.clsz) Cohort.cbar 0 (l.cluster cl).phase = true ∧ meetLeft cohorts h (addrs (cl * l.clsz) l.clsz) = true := by
  rw [clusterJoins, Bool.and_eq_true]

section
variable {h index : Nat} {s t : State} {l m : Launch}

/-- A group once the meetings of a cohort have settled. -/
theorem State.MeetsSettled.group (hm : State.MeetsSettled h index s l t m) {g : Nat} {x : Group} (hx : l.groups.find g = some x) :
    ∃ y, m.groups.find g = some y ∧ (y.members, y.valid, y.rwait, y.lost) = (x.members, x.valid, x.rwait, x.lost) ∧
      (opensFor s.cohorts h index (g, x) = true →
        (meetLeft s.cohorts h x.members = true → y.phase = x.phase + 1 ∧ y.held = if x.rwait then x.held - 1 else x.held) ∧
        (¬ meetLeft s.cohorts h x.members = true → y.phase = x.phase + x.held ∧ y.held = 0)) ∧
      (¬ opensFor s.cohorts h index (g, x) = true → y = x) := by
  by_cases ho : opensFor s.cohorts h index (g, x) = true
  · obtain ⟨parts, hy⟩ := hm.opened g x hx ho
    refine ⟨_, hy, rfl, fun _ => ⟨fun hleft => ?_, fun hleft => ?_⟩, fun hno => absurd ho hno⟩
    · rw [groupSteps_of_left hleft]
      exact ⟨rfl, rfl⟩
    · obtain ⟨-, -, hor, -⟩ := opensFor_iff.mp ho
      have hr := hor.resolve_left hleft
      rw [groupSteps_of_not_left hleft hr]
      exact ⟨rfl, by simp [Group.opened, hr]⟩
  · exact ⟨x, hm.other g x hx (Bool.eq_false_iff.mpr ho), rfl, fun hyes => absurd hyes ho, fun _ => rfl⟩

/-- The strands of a wave once the meetings of a cohort have settled. -/
theorem State.MeetsSettled.strands (hm : State.MeetsSettled h index s l t m) {j : Nat} {v : Wave} (hv : s.waves.find j = some v) :
    ∃ u, t.waves.find j = some u ∧ { u with lattice := [], before := [] } = { v with lattice := [], before := [] } ∧
      ∀ e r, v.run e = some r → ∃ q, u.run e = some q ∧
        { q with wait := none, q := 0 } = { r with wait := none, q := 0 } ∧ (q.wait = r.wait ∨ q.wait = none) ∧
        ((∀ g ph b, r.wait ≠ some (.group g ph b)) → (∀ ph b, r.wait ≠ some (.cluster ph b)) → q = r) ∧
        ∀ g ph b y, r.wait = some (.group g ph b) → l.groups.find g = some y →
          (s.ofLaunch h v.cohort → opensFor s.cohorts h index (g, y) = true → ph ≤ y.phase → q.wait = none) ∧
          (¬ opensFor s.cohorts h index (g, y) = true → q = r) := by
  obtain ⟨u, hu, hroused⟩ := (hm.rouses j).2 v hv
  refine ⟨u, hu, hroused.frame, fun e r hr => ?_⟩
  obtain ⟨q, hq, hrun⟩ := hroused.run e r hr
  refine ⟨q, hq, hrun.frame.1, hrun.frame.2, fun hng hnc => hrun.same fun x hx hmay => ?_,
    fun g ph b y hwait hy => ⟨fun hk ho hph => ?_, fun ho => hrun.same fun x hx hmay => ?_⟩⟩
  · rcases hmay with ⟨g, -, ph, b, -, -, rfl⟩ | ⟨ph, b, rfl⟩
    · exact hng g ph b hx
    · exact hnc ph b hx
  · have hpos := groupSteps_pos ho
    exact hrun.2 _ hwait ⟨hk, g, y, ph, b, hy, ho, rfl, by omega⟩
  · rw [hwait] at hx
    rcases hmay with ⟨g', y', ph', b', hy', ho', rfl⟩ | ⟨ph', b', rfl⟩
    · cases hx
      obtain rfl := Option.some.inj (hy.symm.trans hy')
      exact ho ho'
    · cases hx

end

end Sys2Proof.Machine

namespace Sys2Proof.Machine

/-! ## Steps that change nothing but what meetings change -/

/-- A step that changes only waits, groups, clusters and pre-empted cohorts. -/
structure State.MeetsOnly (s t : State) : Prop where
  frame : t.butMeets = s.butMeets
  launches : s.KeepsLaunches t
  rouses : s.Rouses (fun _ _ => True) (fun _ _ => False) t

theorem State.MeetsOnly.refl (s : State) : s.MeetsOnly s := ⟨rfl, fun _ => rfl, .of_waves rfl fun _ _ => id⟩

theorem State.MeetsOnly.of_eq {s t : State} (h : t = s) : s.MeetsOnly t := by
  subst h
  exact .refl t

theorem State.MeetsOnly.trans {s t u : State} (h : s.MeetsOnly t) (h' : t.MeetsOnly u) : s.MeetsOnly u :=
  ⟨h'.frame.trans h.frame, h.launches.trans h'.launches, (h.rouses.trans h'.rouses).mono (fun _ _ _ => trivial) fun _ _ hm => hm.elim⟩

theorem State.openGroup_meetsOnly (s : State) (h g : Nat) (x : Group) : s.MeetsOnly (s.openGroup h g x) :=
  ⟨rfl, State.keepsLaunches_change (h := h) rfl fun _ => rfl, State.openGroup_rouses.mono (fun _ _ _ => trivial) fun _ _ hm => hm.elim⟩

theorem State.settleGroup_meetsOnly (s : State) (h g : Nat) : s.MeetsOnly (s.settleGroup h g) := by
  cases hl : s.launches.find h with
  | none =>
    exact .of_eq (by unfold State.settleGroup; simp only [hl])
  | some l =>
    cases hg : l.groups.find g with
    | none =>
      exact .of_eq (by unfold State.settleGroup; simp only [hl, hg])
    | some x =>
      rw [State.settleGroup_eq hl hg]
      split
      · exact s.openGroup_meetsOnly h g x
      · exact .refl s

theorem State.settleCluster_meetsOnly (s : State) (h cl : Nat) : s.MeetsOnly (s.settleCluster h cl) := by
  cases hl : s.launches.find h with
  | none =>
    exact .of_eq (by unfold State.settleCluster; simp only [hl])
  | some l =>
    rw [State.settleCluster_eq hl]
    split
    · exact ⟨rfl, State.keepsLaunches_change (h := h) rfl fun _ => rfl, State.joinCluster_rouses.mono (fun _ _ _ => trivial) fun _ _ => id⟩
    · exact .refl s

theorem State.settleFor_meetsOnly (s : State) (h index : Nat) (e : Nat × Group) : s.MeetsOnly (s.settleFor h index e) := by
  unfold State.settleFor
  split
  · exact s.settleGroup_meetsOnly h e.1
  · exact .refl s

theorem State.settleMeets_meetsOnly (s : State) (h index : Nat) : s.MeetsOnly (s.settleMeets h index) := by
  have fold : ∀ (gs : List (Nat × Group)) (t : State), t.MeetsOnly (gs.foldl (State.settleFor h index) t) := by
    intro gs
    induction gs with
    | nil => exact .refl
    | cons e gs ih => exact fun t => (t.settleFor_meetsOnly h index e).trans (ih _)
  cases hl : s.launches.find h with
  | none =>
    exact .of_eq (by unfold State.settleMeets; simp only [hl])
  | some l =>
    rw [State.settleMeets_eq hl]
    exact (fold l.groups s).trans (State.settleCluster_meetsOnly _ h _)

/-- The strand once its group or its cluster is lost. -/
def Run.wakeLost (lost : List Nat) (mine : Prop) [Decidable mine] (r : Run) : Option Run :=
  match r.wait with
  | some (.group g _ q) => if lost.contains g then some (r.wake q false) else none
  | some (.cluster _ q) => if mine then some (r.wake q false) else none
  | _ => none

theorem Run.wakeLost_roused (lost : List Nat) (mine : Prop) [Decidable mine] (r : Run) : r.Roused (fun _ => True) (fun _ => False) ((r.wakeLost lost mine).getD r) := by
  refine ⟨?_, fun _ _ hm => hm.elim⟩
  unfold Run.wakeLost
  split
  next g ph q hw =>
    split
    · exact .inr ⟨⟨_, hw, trivial⟩, q, false, rfl⟩
    · exact .inl rfl
  next ph q hw =>
    split
    · exact .inr ⟨⟨_, hw, trivial⟩, q, false, rfl⟩
    · exact .inl rfl
  next => exact .inl rfl

/-- A launch whose groups `lost` and cluster are lost. -/
def Launch.lose (lost : List Nat) (cl : Nat) (x : Cluster) (l : Launch) : Launch :=
  { l with groups := l.groups.mapv fun k g => if lost.contains k then { g with lost := true } else g,
           clusters := l.clusters.put cl { x with lost := true } }

theorem State.loseMeets_meetsOnly (s : State) (h index : Nat) : s.MeetsOnly (s.loseMeets h index) := by
  cases hl : s.launches.find h with
  | none =>
    exact .of_eq (by unfold State.loseMeets; simp only [hl])
  | some l =>
    let lost := (l.groups.filter fun g => g.2.members.contains index).map (·.1)
    let cl := l.clusterOf index
    have heq : s.loseMeets h index = (s.modLaunch h (Launch.lose lost cl (l.cluster cl))).wakeWaits h [] fun c r => r.wakeLost lost (l.clusterOf c.index = cl) := by
      unfold State.loseMeets
      simp only [hl]
      rfl
    rw [heq]
    exact ⟨rfl, State.keepsLaunches_change (h := h) rfl fun _ => rfl,
      State.wakeWaits_rouses (s.modLaunch h _) (fun _ _ _ _ r => r.wakeLost_roused _ _) fun _ _ hm => hm.elim⟩

/-! ## A cohort's barriers are abandoned (R177) -/

/-- The strand once the barriers of its cohort have taken a status. -/
def Run.wakeAbandoned (status : Nat) (r : Run) : Run :=
  match r.wait with
  | some (.barrier _ _ q) => r.wake q (status == 0)
  | _ => r

theorem Run.wakeAbandoned_roused (status : Nat) (r : Run) : r.Roused (fun _ => True) (fun _ => False) (r.wakeAbandoned status) := by
  refine ⟨?_, fun _ _ hm => hm.elim⟩
  unfold Run.wakeAbandoned
  split
  next q hw => exact .inr ⟨⟨_, hw, trivial⟩, q, status == 0, rfl⟩
  next => exact .inl rfl

/-- A cohort whose barriers have taken a status. -/
def Cohort.abandoned (c : Cohort) (status : Nat) : Cohort := { c with barriers := c.barriers.map fun b => { b with status := status } }

/-- What `State.abandon` does to a wave. -/
def Wave.abandoned (cohort status : Nat) (w : Wave) : Wave := if w.cohort = cohort then w.mapRuns (Run.wakeAbandoned status) else w

theorem State.abandon_eq {s : State} {cohort status : Nat} {c : Cohort} (hc : s.cohorts.find cohort = some c) :
    s.abandon cohort status = { s with cohorts := s.cohorts.put cohort (c.abandoned status), waves := s.waves.mapv fun _ w => w.abandoned cohort status } := by
  unfold State.abandon
  simp only [hc]
  rfl

theorem State.abandon_cohorts {s : State} {cohort status : Nat} {c : Cohort} (hc : s.cohorts.find cohort = some c) :
    (s.abandon cohort status).cohorts = s.cohorts.put cohort (c.abandoned status) := by rw [State.abandon_eq hc]

theorem State.abandon_launches {s : State} {cohort status : Nat} {c : Cohort} (hc : s.cohorts.find cohort = some c) :
    (s.abandon cohort status).launches = s.launches := by rw [State.abandon_eq hc]

theorem State.abandon_rouses {s : State} {cohort status : Nat} {c : Cohort} (hc : s.cohorts.find cohort = some c) :
    s.Rouses (fun _ _ => True) (fun _ _ => False) (s.abandon cohort status) := by
  rw [State.abandon_eq hc]
  refine State.rouses_mapv (f := Wave.abandoned cohort status) (fun v => ?_) rfl
  unfold Wave.abandoned
  split
  · exact Wave.mapRuns_roused (Run.wakeAbandoned_roused status)
  · exact .refl v fun _ => id

/-! ## A wave is killed (R308, R309) -/

/-- A wave that was killed: it holds nothing that could still issue. -/
def Wave.dead (w : Wave) : Wave :=
  { w with state := .killed, lattice := [], demoted := [], sb := [], x := [], tmem := [], task := none, nextw := 0, due := none, single := none, fatal := none, resumeAt := [] }

/-- A cohort that has lost a wave. -/
def Cohort.bereft (c : Cohort) (widx : Nat) : Cohort := { c with fatal := true, retired := c.retired ++ [widx] }

/-- A launch's requests and answers once a wave was killed. -/
def Launch.dropRequests (slot : Nat) (l : Launch) : Launch :=
  { l with reqs := l.reqs.map fun q => if q.1 = some slot then (none, q.2) else q, answers := l.answers.filter fun a => a.1 != slot }

/-- The core of a killed wave, whose jobs stop and whose MMAs are gone. -/
def Core.discard (slot cohort : Nat) (k : Core) : Core :=
  { k with jobs := stopJobs (fun j => j.slot == slot && j.cohort == cohort) k.jobs, mmas := k.mmas.filter fun m => m.slot != slot }

/-- A state without the tiles of a killed wave and the loads of its undrained entries. -/
def State.dropLoads (s : State) (slot : Nat) (w : Wave) : State :=
  { s.freeTiles slot w with loads := s.loads.filter fun x => !(w.sb.any fun e => e.loads.contains x.id) }

/-- The state once a wave is discarded, before its barriers, groups and cluster see the loss. -/
def State.discarded (s : State) (slot : Nat) (w : Wave) (c : Cohort) : State :=
  (((((s.modWave slot Wave.dead).modCore (slotCore slot) (Core.discard slot w.cohort)).dropLoads slot w).modCohort w.cohort fun d => d.bereft w.widx).modLaunch
    c.launch (Launch.dropRequests slot))

section
variable {s : State} {slot : Nat} {w : Wave} {c : Cohort}

theorem State.kill_eq (hw : s.waves.find slot = some w) (ha : w.alive = true) (hc : s.cohorts.find w.cohort = some c) :
    s.kill slot = (((s.discarded slot w c).abandon w.cohort 1).loseMeets c.launch c.index).settleMeets c.launch c.index := by
  unfold State.kill
  simp only [hw, ha, hc]
  rfl

theorem State.discarded_waves (hw : s.waves.find slot = some w) : (s.discarded slot w c).waves.find slot = some w.dead :=
  (FMap.find_change_same s.waves slot Wave.dead).trans (by rw [hw]; rfl)

theorem State.discarded_cohort (hc : s.cohorts.find w.cohort = some c) : (s.discarded slot w c).cohorts.find w.cohort = some (c.bereft w.widx) :=
  (FMap.find_change_same s.cohorts w.cohort _).trans (by rw [hc]; rfl)

theorem State.discarded_launch {l : Launch} (hl : s.launches.find c.launch = some l) : (s.discarded slot w c).launches.find c.launch = some (l.dropRequests slot) := by
  have hload (t : State) : (t.dropLoads slot w).launches = t.launches := rfl
  rw [State.discarded, State.modLaunch_launches, State.modCohort_launches, hload, State.modCore_launches, State.modWave_launches, FMap.find_change_same, hl]
  rfl

/-- A state without what a kill changes. -/
def State.butKill (s : State) : State := { s with waves := [], cores := [], poisonT := [], loads := [], cohorts := [], launches := [], saved := [] }

/-- A wave without what the end of waits changes. -/
def Wave.butLattice (w : Wave) : Wave := { w with lattice := [], before := [] }

theorem State.discarded_butKill : (s.discarded slot w c).butKill = s.butKill := by
  have hwave (f : Wave → Wave) : (s.modWave slot f).butKill = s.butKill := rfl
  have hcore (t : State) (k : Nat) (f : Core → Core) : (t.modCore k f).butKill = t.butKill := rfl
  have hload (t : State) : (t.dropLoads slot w).butKill = t.butKill := rfl
  have hcohort (t : State) (k : Nat) (f : Cohort → Cohort) : (t.modCohort k f).butKill = t.butKill := rfl
  have hlaunch (t : State) (k : Nat) (f : Launch → Launch) : (t.modLaunch k f).butKill = t.butKill := rfl
  rw [State.discarded, hlaunch, hcohort, hload, hcore, hwave]

theorem State.abandoned_butKill {key : Nat} {d : Cohort} (hd : s.cohorts.find key = some d) (status : Nat) : (s.abandon key status).butKill = s.butKill := by
  rw [State.abandon_eq hd]
  rfl

theorem State.butKill_of_butMeets {t : State} (h : t.butMeets = s.butMeets) : t.butKill = s.butKill := (congrArg State.butKill h :)

/-- What a kill leaves: the wave in its slot, with nothing but its post queue, the cohort's barriers abandoned and its launch counted as before. -/
structure State.Killed (s : State) (slot : Nat) (w : Wave) (c : Cohort) (l : Launch) (t : State) : Prop where
  frame : t.butKill = s.butKill
  wave : ∃ v, t.waves.find slot = some v ∧ v.lattice = [] ∧ v.butLattice = w.dead.butLattice
  cohort : t.cohorts.find w.cohort = some ((c.bereft w.widx).abandoned 1)
  launch : ∃ m, t.launches.find c.launch = some m ∧ m.butMeets = (l.dropRequests slot).butMeets

theorem State.kill_killed {l : Launch} (hw : s.waves.find slot = some w) (ha : w.alive = true) (hc : s.cohorts.find w.cohort = some c)
    (hl : s.launches.find c.launch = some l) : s.Killed slot w c l (s.kill slot) := by
  rw [State.kill_eq hw ha hc]
  have hd := State.discarded_cohort (slot := slot) hc
  have hmeets := (State.loseMeets_meetsOnly ((s.discarded slot w c).abandon w.cohort 1) c.launch c.index).trans (State.settleMeets_meetsOnly _ c.launch c.index)
  refine ⟨?_, ?_, ?_, ?_⟩
  · exact (State.butKill_of_butMeets hmeets.frame).trans ((State.abandoned_butKill hd 1).trans State.discarded_butKill)
  · obtain ⟨v, hv, hr⟩ := (((State.abandon_rouses (status := 1) hd).trans hmeets.rouses) slot).2 _ (State.discarded_waves hw)
    exact ⟨v, hv, hr.empty rfl, hr.frame⟩
  · rw [State.cohorts_of_butMeets hmeets.frame, State.abandon_cohorts hd, FMap.find_put_same]
  · refine hmeets.launches.find ?_
    rw [State.abandon_launches hd, State.discarded_launch hl]

end

end Sys2Proof.Machine

namespace Sys2Proof.Machine

/-! ## Records in the fault ring change nothing but memory, its subscribers and the ring (R305) -/

/-- A state without what a write at a home changes. -/
def State.butHome (s : State) : State := { s with gmem := [], gkeys := [], poisonG := [], seqs := [], pushes := [], arrivals := [], syncs := [] }

/-- A state without what the record of a fault changes. -/
def State.butPosts (s : State) : State := { s.butHome with parts := [], launches := [] }

theorem State.homeWrite_butHome (s : State) (key : Nat) (bs : List (Nat × Byte)) (rel : Option Release) (hb : List Nat) : (s.homeWrite key bs rel hb).butHome = s.butHome := by
  have f := s.homeWrite_frame key bs rel hb
  rw [State.gputs_frame] at f
  exact (congrArg State.butHome f :)

theorem State.queueWrite_butHome (s : State) (p : Partition) (pa : Nat) (bs : List Byte) : (s.queueWrite p pa bs).butHome = s.butHome := s.homeWrite_butHome ..

theorem State.ringPut_butHome {p : Partition} {size : Nat} : ∀ (es : List (List Byte)) (s : State) (r : Ring), (s.ringPut p r size es).butHome = s.butHome
  | [], _, _ => rfl
  | _ :: es, _, _ => (State.ringPut_butHome es _ _).trans ((State.queueWrite_butHome ..).trans (State.queueWrite_butHome ..))

theorem State.butPosts_of_butHome {s t : State} (h : t.butHome = s.butHome) : t.butPosts = s.butPosts := (congrArg State.butPosts h :)

theorem State.launches_of_butHome {s t : State} (h : t.butHome = s.butHome) : t.launches = s.launches := (congrArg State.launches h :)

theorem State.parts_of_butHome {s t : State} (h : t.butHome = s.butHome) : t.parts = s.parts := (congrArg State.parts h :)

/-- What a state keeps that differs from another one in what a fault's record changes alone. -/
theorem State.tables_of_butPosts {s t : State} (h : t.butPosts = s.butPosts) : t.waves = s.waves ∧ t.cohorts = s.cohorts ∧ t.fwFaults = s.fwFaults :=
  ⟨(congrArg State.waves h :), (congrArg State.cohorts h :), (congrArg State.fwFaults h :)⟩

theorem State.modPart_butPosts (s : State) (k : Nat) (f : Partition → Partition) : (s.modPart k f).butPosts = s.butPosts := rfl

theorem State.modLaunch_butPosts (s : State) (k : Nat) (f : Launch → Launch) : (s.modLaunch k f).butPosts = s.butPosts := rfl

/-- A partition whose fault ring holds `n` entries more. -/
def Partition.postFaults (n : BitVec 64) (p : Partition) : Partition := { p with faults := { p.faults with put := p.faults.put + n } }

theorem State.postTask_eq {s : State} {part : Nat} {p : Partition} {b : List Byte} (hp : s.parts.find part = some p) (hroom : p.faults.used + 2 ≤ 2 ^ p.faults.k) :
    s.postTask part b = (s.ringPut p p.faults 32 [b.take 32, b.drop 32]).modPart part (Partition.postFaults 2) := by
  unfold State.postTask
  simp only [hp, if_pos hroom]
  rfl

theorem State.postTask_posts (s : State) (part : Nat) (b : List Byte) : (s.postTask part b).butPosts = s.butPosts ∧ (s.postTask part b).launches = s.launches := by
  unfold State.postTask
  split
  next => exact ⟨rfl, rfl⟩
  next p hp =>
    split
    · have h := State.ringPut_butHome (p := p) (size := 32) [b.take 32, b.drop 32] s p.faults
      exact ⟨(State.modPart_butPosts _ part _).trans (State.butPosts_of_butHome h), (State.modPart_launches _ part _).trans (State.launches_of_butHome h)⟩
    · exact ⟨rfl, rfl⟩

theorem State.postTask_parts {s : State} {part : Nat} {p : Partition} {b : List Byte} (hp : s.parts.find part = some p) (hroom : p.faults.used + 2 ≤ 2 ^ p.faults.k) :
    (s.postTask part b).parts.find part = some (p.postFaults 2) := by
  rw [State.postTask_eq hp hroom, State.modPart_parts, FMap.find_change_same, State.parts_of_butHome (State.ringPut_butHome _ _ _), hp]
  rfl

/-- A launch that counts one fault more. -/
def Launch.countFault (fatal : Bool) (l : Launch) : Launch := { l with faults := min (l.faults + 1) 0xFFFFFFFF, anyFatal := l.anyFatal || fatal }

theorem State.postFault_posts (s : State) (part launch : Nat) (fatal : Bool) (r : FaultRec) (task : Option (List Byte)) :
    (s.postFault part launch fatal r task).butPosts = s.butPosts ∧ (s.postFault part launch fatal r task).launches = s.launches.change launch (Launch.countFault fatal) := by
  unfold State.postFault
  dsimp only
  generalize (r.bytes :: _) = es
  split
  next => exact ⟨rfl, rfl⟩
  next p hp =>
    split
    · have h := State.ringPut_butHome (p := p) (size := 32) es s p.faults
      refine ⟨(State.modLaunch_butPosts _ launch _).trans ((State.modPart_butPosts _ part _).trans (State.butPosts_of_butHome h)), ?_⟩
      rw [State.modLaunch_launches, State.modPart_launches, State.launches_of_butHome h]
      rfl
    · exact ⟨rfl, rfl⟩

/-! ## The firmware or a debugger kills a wave (R307, R310) -/

/-- A state without the misses of a slot. -/
def State.dropMisses (s : State) (slot : Nat) : State := { s with fwFaults := s.fwFaults.filter fun f => f.wave != waveField slot }

/-- The record of the task that a wave is in, unless its fault has posted it. -/
def Wave.taskRecord (w : Wave) : Option (List Byte) := if w.fatal.isSome then none else w.task.map (·.record)

/-- The state in which a debugger's kill kills. -/
def State.posted (s : State) (part : Nat) : Option (List Byte) → State
  | some b => s.postTask part b
  | none => s

section
variable {s : State} {slot : Nat} {w : Wave} {c : Cohort} {l : Launch}

theorem exec_waveKill_plain (hw : s.waves.find slot = some w) (hc : s.cohorts.find w.cohort = some c) (hl : s.launches.find c.launch = some l) (ha : w.alive = true) :
    exec (.waveKill ⟨slot, true⟩) s = State.event "WAVE_KILL" (do
      guard (w.state = .halted)
      some (((s.dropMisses slot).posted l.part w.taskRecord).kill slot)) := by
  show execWaveKill ⟨slot, true⟩ s = _
  unfold execWaveKill
  dsimp only
  rw [hw, Option.bind_eq_bind, Option.bind_some, hc, Option.bind_eq_bind, Option.bind_some, hl, Option.bind_eq_bind, Option.bind_some, guard_pos _ ha, if_pos rfl]
  unfold State.posted Wave.taskRecord
  rfl

theorem exec_waveKill_miss (hw : s.waves.find slot = some w) (hc : s.cohorts.find w.cohort = some c) (hl : s.launches.find c.launch = some l) (ha : w.alive = true) :
    exec (.waveKill ⟨slot, false⟩) s = State.event "WAVE_KILL" ((s.missRecord slot w).bind fun f =>
      some (((s.dropMisses slot).postFault l.part c.launch true { f with flags := (f.flags &&& 0xFE) ||| if w.taskRecord.isSome then 4 else 0 } w.taskRecord).kill slot)) := by
  show execWaveKill ⟨slot, false⟩ s = _
  unfold execWaveKill
  dsimp only
  rw [hw, Option.bind_eq_bind, Option.bind_some, hc, Option.bind_eq_bind, Option.bind_some, hl, Option.bind_eq_bind, Option.bind_some, guard_pos _ ha, if_neg Bool.false_ne_true]
  rfl

end

end Sys2Proof.Machine

namespace Sys2Proof.Machine

theorem State.posted_posts (s : State) (part : Nat) (o : Option (List Byte)) : (s.posted part o).butPosts = s.butPosts ∧ (s.posted part o).launches = s.launches := by
  cases o with
  | none => exact ⟨rfl, rfl⟩
  | some b => exact s.postTask_posts part b

section
variable {s t : State} {slot : Nat} {w : Wave} {c : Cohort} {l : Launch}

/-- A killed wave holds nothing that could still issue, and its cohort's barriers are abandoned. -/
theorem State.Killed.dead (h : s.Killed slot w c l t) : ∃ v d, t.waves.find slot = some v ∧ v.state = .killed ∧ v.lattice = [] ∧ v.sb = [] ∧ v.pq = w.pq ∧
    v.task = none ∧ t.cohorts.find w.cohort = some d ∧ d.fatal = true ∧ w.widx ∈ d.retired ∧ ∀ b ∈ d.barriers, b.status = 1 := by
  obtain ⟨v, hv, hlat, hrest⟩ := h.wave
  refine ⟨v, _, hv, (congrArg Wave.state hrest :), hlat, (congrArg Wave.sb hrest :), (congrArg Wave.pq hrest :), (congrArg Wave.task hrest :), h.cohort, rfl,
    List.mem_append_right _ (List.mem_singleton.mpr rfl), fun b hb => ?_⟩
  obtain ⟨x, -, rfl⟩ := List.mem_map.mp hb
  rfl

theorem State.Killed.counted (h : s.Killed slot w c l t) : ∃ m, t.launches.find c.launch = some m ∧ (m.faults, m.anyFatal) = (l.faults, l.anyFatal) := by
  obtain ⟨m, hm, hkeep⟩ := h.launch
  exact ⟨m, hm, (congrArg (fun x : Launch => (x.faults, x.anyFatal)) hkeep :)⟩

theorem State.Killed.tables (h : s.Killed slot w c l t) : t.parts = s.parts ∧ t.gmem = s.gmem ∧ t.fwFaults = s.fwFaults :=
  ⟨(congrArg State.parts h.frame :), (congrArg State.gmem h.frame :), (congrArg State.fwFaults h.frame :)⟩

/-- A kill in a state that a fault's record has changed. -/
theorem State.kill_of_butPosts {u : State} (hu : u.butPosts = s.butPosts) (hw : s.waves.find slot = some w) (ha : w.alive = true) (hc : s.cohorts.find w.cohort = some c)
    (hl : u.launches.find c.launch = some l) : u.Killed slot w c l (u.kill slot) := by
  obtain ⟨hwaves, hcohorts, -⟩ := State.tables_of_butPosts hu
  exact State.kill_killed (hwaves ▸ hw) ha (hcohorts ▸ hc) hl

theorem Wave.taskRecord_none (h : w.task = none ∨ w.fatal ≠ none) : w.taskRecord = none := by
  unfold Wave.taskRecord
  split
  · rfl
  next hf =>
    have : w.task = none := h.resolve_right fun hne => hf (Option.isSome_iff_ne_none.mpr hne)
    rw [this]
    rfl

theorem Wave.taskRecord_some {k : Task} (h : w.task = some k) (hf : w.fatal = none) : w.taskRecord = some k.record := by
  rw [Wave.taskRecord, hf, h]
  rfl

end

section
variable {s : State} {slot : Nat} {w : Wave} {c : Cohort} {l : Launch}

/-- A debugger's kill of a halted wave (R310). -/
theorem waveKill_plain (hw : s.waves.find slot = some w) (hc : s.cohorts.find w.cohort = some c) (hl : s.launches.find c.launch = some l) (hh : w.state = .halted) :
    exec (.waveKill ⟨slot, true⟩) s = .next (((s.dropMisses slot).posted l.part w.taskRecord).kill slot) ∧
    ((s.dropMisses slot).posted l.part w.taskRecord).Killed slot w c l (((s.dropMisses slot).posted l.part w.taskRecord).kill slot) := by
  have ha : w.alive = true := Wave.alive_iff.mpr (by rw [hh]; decide)
  obtain ⟨hposts, hlaunches⟩ := (s.dropMisses slot).posted_posts l.part w.taskRecord
  refine ⟨?_, State.kill_of_butPosts hposts hw ha hc (hlaunches ▸ hl)⟩
  rw [exec_waveKill_plain hw hc hl ha, guard_pos _ hh]
  rfl

/-- The firmware's kill of a wave whose miss it cannot resolve (R307). -/
theorem waveKill_miss (hw : s.waves.find slot = some w) (ha : w.alive = true) (hc : s.cohorts.find w.cohort = some c) (hl : s.launches.find c.launch = some l)
    {f : FaultRec} (hm : s.missRecord slot w = some f) : ∃ u : State, exec (.waveKill ⟨slot, false⟩) s = .next (u.kill slot) ∧
      u.butPosts = (s.dropMisses slot).butPosts ∧ u.Killed slot w c (l.countFault true) (u.kill slot) := by
  let r : FaultRec := { f with flags := (f.flags &&& 0xFE) ||| if w.taskRecord.isSome then 4 else 0 }
  obtain ⟨hposts, hlaunches⟩ := (s.dropMisses slot).postFault_posts l.part c.launch true r w.taskRecord
  have hcount : ((s.dropMisses slot).postFault l.part c.launch true r w.taskRecord).launches.find c.launch = some (l.countFault true) := by
    rw [hlaunches, FMap.find_change_same]
    exact congrArg (Option.map _) hl
  refine ⟨(s.dropMisses slot).postFault l.part c.launch true r w.taskRecord, ?_, hposts, State.kill_of_butPosts hposts hw ha hc hcount⟩
  rw [exec_waveKill_miss hw hc hl ha, hm]
  rfl

end

end Sys2Proof.Machine

namespace Sys2Proof.Machine

/-! ## A cohort retires (R29, R30) -/

theorem State.complete_butHome (s : State) (c : Completion) : (s.complete c).butHome = s.butHome := by
  unfold State.complete
  split
  next => rfl
  next p hp =>
    split
    next => rfl
    next q hq => exact (State.queueWrite_butHome ..).trans (State.queueWrite_butHome ..)

theorem State.endLaunch_subs (s : State) (h status : Nat) : (s.endLaunch h status).subs = s.subs := by
  unfold State.endLaunch
  split
  next => rfl
  next l hl => exact (congrArg State.subs (s.complete_butHome ⟨l.part, l.queue, l.tag, status, 0, l.faults, min (s.leftOf h) (2 ^ 64 - 1), l.wcount⟩) :)

theorem State.sweep_subs (s : State) (h : Nat) : (s.sweep h).subs = s.subs := by
  unfold State.sweep
  split
  next => rfl
  next l hl =>
    split
    · rfl
    · rfl

/-- A launch that has not ended stays. -/
theorem State.sweep_running {s : State} {h : Nat} {l : Launch} (hl : s.launches.find h = some l) (he : l.ended = false) : s.sweep h = s := by
  unfold State.sweep
  simp only [hl]
  rw [if_neg fun hc => by simp [he] at hc]

/-- A cohort that has retired. -/
def Cohort.leave (c : Cohort) : Cohort := { c with gone := true }

/-- A launch that counts a cohort as done. -/
def Launch.finish (index : Nat) (l : Launch) : Launch := { l with done := l.done ++ [index] }

/-- The state once a cohort is gone, before its window is freed. -/
def State.cohortGone (s : State) (key : Nat) (c : Cohort) : State :=
  ((s.dropCohortSubs key c).modCohort key Cohort.leave).modLaunch c.launch (Launch.finish c.index)

/-- The state once a cohort's window is freed and the meetings that waited for it go on. -/
def State.cohortFreed (s : State) (key : Nat) (c : Cohort) (l : Launch) : State :=
  ((s.cohortGone key c).freeWindows c.launch l (l.clusterOf c.index)).settleMeets c.launch c.index

/-- The state once a cohort has retired, and with the last one its launch has ended. -/
def State.cohortRetired (s : State) (key : Nat) (c : Cohort) (l : Launch) : State :=
  (if !l.ended ∧ l.done.length + 1 = l.cohorts then (s.cohortFreed key c l).endLaunch c.launch (if l.anyFatal then 2 else 0) else s.cohortFreed key c l).sweep c.launch

/-- A cohort's waves, jobs and loads are over. -/
def State.cohortOver (s : State) (key : Nat) (c : Cohort) : Prop :=
  c.gone = false ∧ c.retired.length = c.nwaves ∧ (∀ e ∈ s.waves, e.2.cohort ≠ key) ∧ (∀ e ∈ s.cores, ∀ j ∈ e.2.jobs, j.cohort ≠ key) ∧ ∀ x ∈ s.loads, x.cohort ≠ key

section
variable {s : State} {key : Nat} {c : Cohort} {l : Launch}

theorem State.cohortOver_iff : s.cohortOver key c ↔ (!c.gone ∧ c.retired.length = c.nwaves ∧ (s.waves.all fun e => e.2.cohort != key) ∧
    (s.cores.all fun e => e.2.jobs.all fun j => j.cohort != key) ∧ s.loads.all fun x => x.cohort != key) := by
  simp [State.cohortOver]

theorem exec_cohortRetire_steps (hc : s.cohorts.find key = some c) (hl : s.launches.find c.launch = some l) :
    exec (.cohortRetire key) s = State.event "COHORT_RETIRE" (do
      guard (!c.gone ∧ c.retired.length = c.nwaves ∧ (s.waves.all fun e => e.2.cohort != key) ∧
        (s.cores.all fun e => e.2.jobs.all fun j => j.cohort != key) ∧ s.loads.all fun x => x.cohort != key)
      some (s.cohortRetired key c l)) := by
  show execCohortRetire key s = _
  unfold execCohortRetire
  rw [hc, Option.bind_eq_bind, Option.bind_some, hl, Option.bind_eq_bind, Option.bind_some]
  rfl

theorem State.cohortGone_subs : (s.cohortGone key c).subs = s.subs.filter fun b => !(b.cohort == key) := by
  have hdrop : (s.dropCohortSubs key c).subs = s.subs.filter fun b => !(b.cohort == key) := rfl
  rw [State.cohortGone, State.modLaunch_subs, State.modCohort_subs, hdrop]

theorem State.cohortGone_cohort (hc : s.cohorts.find key = some c) : (s.cohortGone key c).cohorts.find key = some c.leave := by
  have hdrop : (s.dropCohortSubs key c).cohorts = s.cohorts := rfl
  rw [State.cohortGone, State.modLaunch_cohorts, State.modCohort_cohorts, hdrop, FMap.find_change_same, hc]
  rfl

theorem State.cohortGone_launch (hl : s.launches.find c.launch = some l) : (s.cohortGone key c).launches.find c.launch = some (l.finish c.index) := by
  have hdrop : (s.dropCohortSubs key c).launches = s.launches := rfl
  rw [State.cohortGone, State.modLaunch_launches, State.modCohort_launches, hdrop, FMap.find_change_same, hl]
  rfl

theorem State.freeWindows_subs (t : State) (h cl : Nat) : (t.freeWindows h l cl).subs = t.subs := rfl

theorem State.freeWindows_launches (t : State) (h cl : Nat) : (t.freeWindows h l cl).launches = t.launches := rfl

theorem State.cohortFreed_subs : (s.cohortFreed key c l).subs = s.subs.filter fun b => !(b.cohort == key) := by
  have hmeets : (s.cohortFreed key c l).subs = ((s.cohortGone key c).freeWindows c.launch l (l.clusterOf c.index)).subs :=
    (congrArg State.subs (State.settleMeets_meetsOnly _ c.launch c.index).frame :)
  rw [hmeets, State.freeWindows_subs, State.cohortGone_subs]

theorem State.cohortRetired_subs : (s.cohortRetired key c l).subs = s.subs.filter fun b => !(b.cohort == key) := by
  unfold State.cohortRetired
  rw [State.sweep_subs]
  split
  · rw [State.endLaunch_subs, State.cohortFreed_subs]
  · exact State.cohortFreed_subs

theorem State.cohortFreed_launch (hl : s.launches.find c.launch = some l) : ∃ m, (s.cohortFreed key c l).launches.find c.launch = some m ∧ m.butMeets = (l.finish c.index).butMeets :=
  (State.settleMeets_meetsOnly _ c.launch c.index).launches.find (by rw [State.freeWindows_launches, State.cohortGone_launch hl])

theorem Launch.mem_clusterMembers (hz : 0 < l.clsz) (index : Nat) : index ∈ l.clusterMembers (l.clusterOf index) := by
  refine List.mem_map.mpr ⟨index % l.clsz, List.mem_range.mpr (Nat.mod_lt _ hz), ?_⟩
  rw [Launch.clusterOf, Nat.mul_comm]
  exact Nat.div_add_mod index l.clsz

/-- A cohort that retires is gone, and its window is freed if no wave of it was killed. -/
theorem State.cohortFreed_cohort (hc : s.cohorts.find key = some c) (hkey : key = cohortKey c.launch c.index) :
    ∃ d, (s.cohortFreed key c l).cohorts.find key = some d ∧ d.gone = true ∧ (c.fatal = false → 0 < l.clsz → d.freed = true) := by
  rw [State.cohortFreed, State.cohorts_of_butMeets (State.settleMeets_meetsOnly _ c.launch c.index).frame, State.freeWindows, FMap.find_mapv, State.cohortGone_cohort hc]
  refine ⟨_, rfl, ?_, fun hf hz => ?_⟩
  · dsimp only
    split <;> rfl
  · have hmem : ((l.clusterMembers (l.clusterOf c.index)).map (cohortKey c.launch)).contains key = true :=
      List.contains_iff_mem.mpr (List.mem_map.mpr ⟨c.index, Launch.mem_clusterMembers hz c.index, hkey.symm⟩)
    dsimp only
    rw [if_pos (by rw [hmem]; simp [Cohort.leave, hf])]

end

/-- A cohort retires once its waves, jobs and loads are over (R29, R30). -/
theorem cohortRetire_results {s : State} {key : Nat} {c : Cohort} {l : Launch} (hc : s.cohorts.find key = some c) (hl : s.launches.find c.launch = some l) :
    (¬ s.cohortOver key c → Disabled s (.cohortRetire key) "COHORT_RETIRE") ∧
    (s.cohortOver key c → key = cohortKey c.launch c.index →
      ∃ t d m, exec (.cohortRetire key) s = .next t ∧ (∀ x ∈ t.subs, x ∈ s.subs ∧ x.cohort ≠ key) ∧
        (l.done.length + 1 < l.cohorts → l.ended = false → t.cohorts.find key = some d ∧ d.gone = true ∧ t.launches.find c.launch = some m ∧
          m.done = l.done ++ [c.index] ∧ m.ended = false ∧ (c.fatal = false → 0 < l.clsz → d.freed = true))) := by
  refine ⟨fun hno => ?_, fun hover hkey => ?_⟩
  · rw [Disabled, exec_cohortRetire_steps hc hl, guard_neg _ fun hg => hno (State.cohortOver_iff.mpr hg)]
    rfl
  · obtain ⟨d, hd, hgone, hfreed⟩ := State.cohortFreed_cohort (l := l) hc hkey
    obtain ⟨m, hm, hkeep⟩ := State.cohortFreed_launch (key := key) hl
    have hended : m.ended = l.ended := (congrArg Launch.ended hkeep :)
    refine ⟨s.cohortRetired key c l, d, m, ?_, fun x hx => ?_, fun hlt he => ?_⟩
    · rw [exec_cohortRetire_steps hc hl, guard_pos _ (State.cohortOver_iff.mp hover)]
      rfl
    · rw [State.cohortRetired_subs] at hx
      obtain ⟨hmem, hne⟩ := List.mem_filter.mp hx
      exact ⟨hmem, by simpa using hne⟩
    · have hrun : s.cohortRetired key c l = s.cohortFreed key c l := by
        have hno : ¬ ((!l.ended) = true ∧ l.done.length + 1 = l.cohorts) := fun hend => by omega
        unfold State.cohortRetired
        rw [if_neg hno]
        exact State.sweep_running hm (hended.trans he)
      rw [hrun]
      exact ⟨hd, hgone, hm, (congrArg Launch.done hkeep :), hended.trans he, hfreed⟩

end Sys2Proof.Machine

namespace Sys2Proof.Machine

theorem State.modLaunch_of_find {s : State} {h : Nat} {l : Launch} (hl : s.launches.find h = some l) (f : Launch → Launch) :
    s.modLaunch h f = { s with launches := s.launches.put h (f l) } := by
  rw [State.modLaunch, FMap.change_of_find hl]

/-! ## A killed wave leaves its slot (R308) -/

theorem waveRetire_killed {s : State} {slot : Nat} {w : Wave} (hw : s.waves.find slot = some w) (hs : w.state = .killed) :
    (w.pq ≠ [] → Disabled s (.waveRetire slot) "WAVE_RETIRE") ∧ (w.pq = [] → ∃ t, exec (.waveRetire slot) s = .next t ∧ t.waves = s.waves.del slot) := by
  rw [Disabled, exec_waveRetire_killed hw hs]
  refine ⟨fun hpq => ?_, fun hpq => ⟨s.leaveSlot slot w, ?_, rfl⟩⟩
  · rw [guard_neg _ (by simpa using hpq)]
    rfl
  · rw [guard_pos _ (by simpa using hpq)]
    rfl

/-! ## The watchdog (R301) -/

/-- A wave of the launch is resident and not halted. -/
def State.countsFor (s : State) (h : Nat) : Prop :=
  ∃ e ∈ s.waves, e.2.state ≠ .halted ∧ e.2.state ≠ .killed ∧ ∃ c, s.cohorts.find e.2.cohort = some c ∧ c.launch = h

theorem State.countsFor_iff {s : State} {h : Nat} : s.countsFor h ↔
    (s.waves.any fun e => e.2.state != .halted && e.2.alive && (s.cohorts.find e.2.cohort).any fun c => c.launch == h) = true := by
  simp only [State.countsFor, List.any_eq_true, Bool.and_eq_true, bne_iff_ne, Wave.alive_iff, Option.any_eq_true, beq_iff_eq, and_assoc]

section
variable {s : State} {h cycles : Nat} {l : Launch}

theorem exec_watchdog_steps (hl : s.launches.find h = some l) : exec (.watchdog h cycles) s = State.event "WATCHDOG" (do
    guard (!l.ended ∧ s.waves.any fun e => e.2.state != .halted && e.2.alive && (s.cohorts.find e.2.cohort).any fun c => c.launch == h)
    if l.wdog ≠ 0 ∧ l.wdog * 2 ^ 20 ≤ l.wcount + cycles then
      some ((s.modLaunch h fun x => { x with wcount := l.wdog * 2 ^ 20 }).abortLaunch h 3)
    else some (s.modLaunch h fun x => { x with wcount := l.wcount + cycles })) := by
  show execWatchdog h cycles s = _
  unfold execWatchdog
  rw [hl, Option.bind_eq_bind, Option.bind_some]

theorem watchdog_results (hl : s.launches.find h = some l) :
    (¬ s.countsFor h ∨ l.ended = true → Disabled s (.watchdog h cycles) "WATCHDOG") ∧
    (s.countsFor h → l.ended = false → (l.wdog = 0 ∨ l.wcount + cycles < l.wdog * 2 ^ 20) →
      exec (.watchdog h cycles) s = .next { s with launches := s.launches.put h { l with wcount := l.wcount + cycles } }) ∧
    (s.countsFor h → l.ended = false → l.wdog ≠ 0 → l.wdog * 2 ^ 20 ≤ l.wcount + cycles → exec (.watchdog h cycles) s = .next
      (State.abortLaunch { s with launches := s.launches.put h { l with wcount := l.wdog * 2 ^ 20 } } h 3)) := by
  rw [Disabled, exec_watchdog_steps hl]
  refine ⟨fun hno => ?_, fun hcount he hlim => ?_, fun hcount he hd hlim => ?_⟩
  · rw [guard_neg _ fun hg => ?_]
    · rfl
    · rcases hno with hno | hno
      · exact hno (State.countsFor_iff.mpr hg.2)
      · simp [hno] at hg
  · rw [guard_pos _ ⟨by rw [he]; rfl, State.countsFor_iff.mp hcount⟩, if_neg (by omega), State.modLaunch_of_find hl]
    rfl
  · rw [guard_pos _ ⟨by rw [he]; rfl, State.countsFor_iff.mp hcount⟩, if_pos ⟨hd, hlim⟩, State.modLaunch_of_find hl]
    rfl

end

/-! ## The overflow queue (R294) -/

theorem overflowMove_results {s : State} {part core : Nat} {p : Partition} {k : Core} {x : TaskRec} {rest : List TaskRec} (hp : s.parts.find part = some p)
    (hk : s.cores.find core = some k) (ho : p.overflow = x :: rest) (hpart : k.part = part) :
    (k.deque.length < 256 → exec (.overflowMove part core) s = .next
      { s with parts := s.parts.put part { p with overflow := rest }, cores := s.cores.put core { k with deque := k.deque ++ [x] } }) ∧
    (256 ≤ k.deque.length → Disabled s (.overflowMove part core) "OVERFLOW_MOVE") := by
  have hexec : exec (.overflowMove part core) s = State.event "OVERFLOW_MOVE" (do
      guard (k.part = part ∧ k.deque.length < Config.dequeRecords)
      some { s with parts := s.parts.put part { p with overflow := rest }, cores := s.cores.put core { k with deque := k.deque ++ [x] } }) := by
    show execOverflowMove part core s = _
    unfold execOverflowMove
    rw [hp, Option.bind_eq_bind, Option.bind_some, hk, Option.bind_eq_bind, Option.bind_some]
    simp only [ho]
    rw [State.modPart, FMap.change_of_find hp, State.modCore, FMap.change_of_find hk]
  rw [Disabled, hexec]
  refine ⟨fun hlt => ?_, fun hge => ?_⟩
  · rw [guard_pos _ ⟨hpart, hlt⟩]
    rfl
  · rw [guard_neg _ fun hg => absurd hg.2 (Nat.not_lt.mpr hge)]
    rfl

/-! ## The work distributor (R296 to R298) -/

/-- The answers that a grant to `who` brings. -/
def grantAnswer (who : Option Nat) (a k : Nat) (place : DWord) : List (Nat × Nat × Nat × DWord) :=
  match who with
  | some slot => [(slot, a, k, place)]
  | none => []

/-- The place of the grid that the distributor grants next, or all ones once none is left. -/
def Launch.nextPlace (l : Launch) : DWord :=
  if l.grants < l.dx * l.dy * l.dz then BitVec.ofNat 64 (l.grants % l.dx + l.grants / l.dx % l.dy * 2 ^ 16 + l.grants / (l.dx * l.dy) * 2 ^ 32) else 0xFFFFFFFFFFFFFFFF

/-- A launch once its request `n` is granted. -/
def Launch.granted (l : Launch) (n : Nat) (who : Option Nat) (a : Nat) : Launch :=
  { l with grants := l.grants + 1, reqs := l.reqs.eraseIdx n, answers := l.answers ++ grantAnswer who a l.grants l.nextPlace }

theorem distributorGrant_results {s : State} {h n a : Nat} {l : Launch} {who : Option Nat} (hl : s.launches.find h = some l) (hd : l.distrib = true)
    (hr : l.reqs[n]? = some (who, a)) :
    ((∀ x ∈ l.reqs.take n, x.1 ≠ who ∨ x.1 = none) → exec (.distributorGrant h n) s = .next { s with launches := s.launches.put h (l.granted n who a) }) ∧
    ((¬ ∀ x ∈ l.reqs.take n, x.1 ≠ who ∨ x.1 = none) → Disabled s (.distributorGrant h n) "DISTRIBUTOR_GRANT") := by
  have hfirst : ((l.reqs.take n).all fun x => x.1 != who || x.1 == none) = true ↔ ∀ x ∈ l.reqs.take n, x.1 ≠ who ∨ x.1 = none := by
    simp only [List.all_eq_true, Bool.or_eq_true, bne_iff_ne, beq_iff_eq]
  have hexec : exec (.distributorGrant h n) s = State.event "DISTRIBUTOR_GRANT" (do
      guard (l.distrib ∧ (l.reqs.take n).all fun x => x.1 != who || x.1 == none)
      some (s.modLaunch h fun x => { x with grants := l.grants + 1, reqs := x.reqs.eraseIdx n, answers := x.answers ++ grantAnswer who a l.grants l.nextPlace })) := by
    show execDistributorGrant h n s = _
    unfold execDistributorGrant
    rw [hl, Option.bind_eq_bind, Option.bind_some, hr, Option.bind_eq_bind, Option.bind_some]
    rfl
  rw [Disabled, hexec, State.modLaunch_of_find hl]
  refine ⟨fun hf => ?_, fun hf => ?_⟩
  · rw [guard_pos _ ⟨hd, hfirst.mpr hf⟩]
    rfl
  · rw [guard_neg _ fun hg => hf (hfirst.mp hg.2)]
    rfl

theorem State.vaultPuts_waves : ∀ (bs : List (Nat × Byte)) (s : State), (s.vaultPuts bs).waves = s.waves
  | [], _ => rfl
  | (a, b) :: bs, s => by
    have hput : (s.vaultPut a b).waves = s.waves := by
      unfold State.vaultPut
      dsimp only
      split <;> rfl
    rw [State.vaultPuts, State.vaultPuts_waves bs (s.vaultPut a b), hput]

theorem State.vaultWrite_waves (s : State) (bs : List (Nat × Byte)) : (s.vaultWrite bs).waves = s.waves := State.vaultPuts_waves bs s

theorem State.modWave_of_waves {s t : State} {slot : Nat} {w : Wave} (ht : t.waves = s.waves) (hw : s.waves.find slot = some w) (f : Wave → Wave) :
    t.modWave slot f = { t with waves := s.waves.put slot (f w) } := by
  rw [State.modWave, ht, FMap.change_of_find hw]

theorem nextwAnswer_result {s : State} {h n slot a g : Nat} {l : Launch} {place : DWord} {w : Wave} (hl : s.launches.find h = some l)
    (ha : l.answers[n]? = some (slot, a, g, place)) (hw : s.waves.find slot = some w) : exec (.nextwAnswer h n) s = .next
      { State.vaultWrite { s with launches := s.launches.put h { l with answers := l.answers.eraseIdx n } }
          ((addrs a 16).zip (leBytes 8 place.toNat ++ leBytes 8 (g + 1))) with waves := s.waves.put slot { w with nextw := w.nextw - 1 } } := by
  have hexec : exec (.nextwAnswer h n) s = .next (((s.modLaunch h fun x => { x with answers := x.answers.eraseIdx n }).vaultWrite
      ((addrs a 16).zip (leBytes 8 place.toNat ++ leBytes 8 (g + 1)))).modWave slot fun w => { w with nextw := w.nextw - 1 }) := by
    show execNextwAnswer h n s = _
    unfold execNextwAnswer
    rw [hl, Option.bind_eq_bind, Option.bind_some, ha, Option.bind_eq_bind, Option.bind_some]
    rfl
  rw [hexec, State.modLaunch_of_find hl]
  exact congrArg Host.Outcome.next (State.modWave_of_waves (State.vaultWrite_waves { s with launches := s.launches.put h _ } _) hw _)

/-- Settles O49: each step's conditions are its guards; settling the groups of a launch in key order opens exactly those that may open in the state once the wave has
retired (`State.meetsSettled`), a kill leaves a wave with its post queue alone (`State.kill_killed`), and a cohort's end drops its subscriptions (`State.cohortRetired_subs`). -/
theorem wavesCohortsAndRequestsEnd : Obligations.WavesCohortsAndRequestsEnd := by
  unfold Obligations.WavesCohortsAndRequestsEnd
  intro s
  refine ⟨fun slot w k c hw hs hk hc => ⟨waveRetire_unfinished hw hs hk hc, fun hf f hd => ?_, fun l hf hd hrise hl hg => ?_⟩,
    fun slot w hw hs => waveRetire_killed hw hs, fun slot w c l hw hs hc hl => ?_, fun key c l hc hl => ?_,
    fun h l cycles hl => watchdog_results hl, fun part core p k x rest hp hk ho hpart => overflowMove_results hp hk ho hpart,
    fun h l n who a hl hd hr => ?_, fun h l n slot a g place w hl ha hw => nextwAnswer_result hl ha hw⟩
  · rw [waveRetire_finished hw hs hk hc hf, State.retireWave_due hd]
  · intro d cohorts arrived left opens cl joins
    have hcohorts : (s.retired slot w).cohorts = cohorts := State.retired_cohorts hc
    have hopens : ∀ g x, opensFor (s.retired slot w).cohorts c.launch c.index (g, x) = true ↔ opens g x := fun g x => by
      rw [hcohorts, opensFor_iff, meetArrived_iff, meetLeft_iff]
    have hleft : ∀ is, meetLeft (s.retired slot w).cohorts c.launch is = true ↔ left is := fun is => by rw [hcohorts, meetLeft_iff]
    have hjoins : clusterJoins (s.retired slot w).cohorts c.launch l cl = true ↔ joins := by rw [hcohorts, clusterJoins_iff, meetArrived_iff, meetLeft_iff]
    obtain ⟨m, hm⟩ := State.meetsSettled (s := s.retired slot w) (index := c.index) hl hg
    refine ⟨_, m, (waveRetire_finished hw hs hk hc hf).trans (congrArg Host.Outcome.next (State.retireWave_none hd)),
      (hm.rouses slot).1 (FMap.find_del_same (FMap.nodup_of_rising hrise)), (State.cohorts_of_butMeets hm.frame).trans hcohorts, hm.launch, hm.keep,
      (congrArg (fun t : State => { t with cohorts := [], poisonR := [], poisonT := [] }) hm.frame :), fun g x hx => ?_,
      fun hj => hm.joined (hjoins.mpr hj), fun hj => hm.apart (Bool.eq_false_iff.mpr fun h => hj (hjoins.mp h)), fun j v hj hv => ?_⟩
    · obtain ⟨y, hy, hsame, hyes, hno⟩ := hm.group hx
      exact ⟨y, hy, hsame, fun ho => ⟨fun h => (hyes ((hopens g x).mpr ho)).1 ((hleft _).mpr h), fun h => (hyes ((hopens g x).mpr ho)).2 fun h' => h ((hleft _).mp h')⟩,
        fun ho => hno fun h => ho ((hopens g x).mp h)⟩
    · obtain ⟨u, hu, hframe, hruns⟩ := hm.strands (j := j) ((FMap.find_del_ne _ hj).trans hv)
      refine ⟨u, hu, hframe, fun e r hr => ?_⟩
      obtain ⟨q, hq, hrest, hwait, hsame, hgroup⟩ := hruns e r hr
      exact ⟨q, hq, hrest, hwait, hsame, fun x g ph b hx hxl hw => ⟨fun y hy ho => (hgroup g ph b y hw hy).1 (State.retired_ofLaunch hc hx hxl) ((hopens g y).mpr ho),
        fun y hy ho => (hgroup g ph b y hw hy).2 fun h => ho ((hopens g y).mp h)⟩⟩
  · have ha := Wave.alive_iff.mpr hs
    intro dead counted
    refine ⟨fun hh => ?_, fun hh => ?_, fun hm => ?_, fun f hm => ?_⟩
    · rw [Disabled, exec_waveKill_plain hw hc hl ha, guard_neg _ hh]
      rfl
    · obtain ⟨hexec, hk⟩ := waveKill_plain hw hc hl hh
      obtain ⟨hparts, hgmem, -⟩ := hk.tables
      refine ⟨_, hexec, hk.dead, hk.counted, fun ht => ?_, fun k p ht hf hp hroom => ?_⟩
      · rw [hparts, hgmem, Wave.taskRecord_none ht]
        exact ⟨rfl, rfl⟩
      · rw [hparts, Wave.taskRecord_some ht hf]
        exact congrArg (Option.map Partition.faults) (State.postTask_parts (s := s.dropMisses slot) hp hroom)
    · rw [Disabled, exec_waveKill_miss hw hc hl ha, hm]
      rfl
    · obtain ⟨u, hexec, hposts, hk⟩ := waveKill_miss hw ha hc hl hm
      obtain ⟨-, -, hfaults⟩ := hk.tables
      obtain ⟨-, -, hposted⟩ := State.tables_of_butPosts hposts
      refine ⟨_, hexec, hk.dead, ?_, fun g hg => ?_⟩
      · obtain ⟨m, hm, he⟩ := hk.counted
        exact ⟨m, hm, he.trans (by rw [Launch.countFault, Bool.or_true])⟩
      · rw [hfaults, hposted] at hg
        obtain ⟨hmem, hne⟩ := List.mem_filter.mp hg
        exact ⟨hmem, bne_iff_ne.mp hne⟩
  · obtain ⟨hno, hyes⟩ := cohortRetire_results hc hl
    refine ⟨fun h => hno ?_, fun hret hgone hwaves hjobs hloads hkey => hyes ⟨hgone, hret, hwaves, hjobs, hloads⟩ hkey⟩
    rintro ⟨hgone, hret, hwaves, hjobs, hloads⟩
    rcases h with h | h | ⟨e, he, h⟩ | ⟨e, he, j, hj, h⟩ | ⟨x, hx, h⟩
    · exact h hret
    · rw [hgone] at h
      cases h
    · exact hwaves e he h
    · exact hjobs e he j hj h
    · exact hloads x hx h
  · intro g place first answer m
    have hm : m = l.granted n who a := by
      cases who <;> rfl
    rw [hm]
    exact distributorGrant_results hl hd hr

end Sys2Proof.Machine
end

section
/-! PROOFS. Words and instructions: the fields of a word pair, decode against encode, and the words of the manual (O55, O56). -/

namespace Sys2Proof

/-! ## Fields within a field -/

theorem getLsbD_append_low {m n k : Nat} (x : BitVec m) (y : BitVec n) (h : k < n) : (x ++ y).getLsbD k = y.getLsbD k := by
  rw [BitVec.getLsbD_append, if_pos h]

theorem getLsbD_append_high {m n k : Nat} (x : BitVec m) (y : BitVec n) (h : n ≤ k) : (x ++ y).getLsbD k = x.getLsbD (k - n) := by
  rw [BitVec.getLsbD_append, if_neg (by omega)]

@[simp] theorem getLsbD_bitOf (b : Bool) : (bitOf b).getLsbD 0 = b := by
  cases b <;> rfl

theorem bitOf_getLsbD {n : Nat} (w : BitVec n) (k : Nat) : bitOf (w.getLsbD k) = w.extractLsb' k 1 := by
  ext j hj
  obtain rfl : j = 0 := by omega
  simp [bitOf]

@[simp] theorem Ordering.ofBits_bits (o : Ordering) : Ordering.ofBits o.bits = o := by
  cases o
  simp (disch := omega) only [Ordering.ofBits, Ordering.bits, getLsbD_append_low, getLsbD_append_high, getLsbD_bitOf,
    BitVec.extractLsb'_append_eq_of_add_le, BitVec.extractLsb'_eq_self, Nat.reduceSub]

/-! ## Fields and words (R63, R64, R66, R67) -/

@[simp] theorem hasExt_lane (r : RawL) : hasExt (Raw.lane r).words.1 = r.x := by
  simp (disch := omega) only [hasExt, Raw.words, getLsbD_append_low, getLsbD_append_high, getLsbD_bitOf, Nat.reduceSub]

@[simp] theorem hasExt_uni (r : RawU) : hasExt (Raw.uni r).words.1 = r.x := by
  simp (disch := omega) only [hasExt, Raw.words, getLsbD_append_low, getLsbD_append_high, getLsbD_bitOf, Nat.reduceSub]

/-- The fields cut from two words make up those words: each field ends where the next begins. -/
theorem Raw.words_ofWords (w ext : Word) : (Raw.ofWords w ext).words = (w, if hasExt w then ext else 0) := by
  have hx : bitOf (hasExt w) = w.extractLsb' 30 1 := bitOf_getLsbD w 30
  unfold Raw.ofWords
  generalize (if hasExt w then ext else 0) = y
  cases hset : w.getLsbD 31 with
  | false =>
    have h31 : bitOf false = w.extractLsb' 31 1 := hset ▸ bitOf_getLsbD w 31
    simp (disch := omega) only [Raw.words, hx, h31, bitOf_getLsbD, BitVec.extractLsb'_append_extractLsb'_eq_extractLsb', Bool.false_eq_true, if_false]
    simp only [Nat.reduceAdd, BitVec.extractLsb'_eq_self]
  | true =>
    have h31 : bitOf true = w.extractLsb' 31 1 := hset ▸ bitOf_getLsbD w 31
    simp (disch := omega) only [Raw.words, hx, h31, BitVec.extractLsb'_append_extractLsb'_eq_extractLsb', if_true]
    simp only [Nat.reduceAdd, BitVec.extractLsb'_eq_self]

/-- The words of fields cut into fields again: without X the fields of the extension word have to be 0 (R64). -/
theorem Raw.ofWords_words {r : Raw} (h : hasExt r.words.1 = false → r.words.2 = 0) : Raw.ofWords r.words.1 r.words.2 = r := by
  have hy : (if hasExt r.words.1 then r.words.2 else 0) = r.words.2 := by
    cases hx : hasExt r.words.1 with
    | false => exact (h hx).symm
    | true => rfl
  unfold Raw.ofWords
  rw [hy]
  cases r with
  | lane r =>
    rw [hasExt_lane]
    simp (disch := omega) only [Raw.words, getLsbD_append_low, getLsbD_append_high, getLsbD_bitOf, Nat.reduceSub,
      BitVec.extractLsb'_append_eq_of_add_le, BitVec.extractLsb'_append_eq_of_le, BitVec.extractLsb'_eq_self, Bool.false_eq_true, if_false]
  | uni r =>
    rw [hasExt_uni]
    simp (disch := omega) only [Raw.words, getLsbD_append_low, getLsbD_append_high, getLsbD_bitOf, Nat.reduceSub,
      BitVec.extractLsb'_append_eq_of_add_le, BitVec.extractLsb'_append_eq_of_le, BitVec.extractLsb'_eq_self, if_true]

/-! ## Fields and instructions (R77 to R81) -/

/-- The opcode maps name the instruction whose fields they are given. For each instruction its OP, F and sub-selector pick the entry of
the maps, and the entry takes each operand from where the encoding has put it. -/
theorem Instr.cand_of_toRaw {i : Instr} {r : Raw} (h : i.toRaw = some r) : r.cand = some i := by
  cases i <;> cases h
  all_goals
    conv_lhs => whnf
    simp (disch := omega) only [RawL.base, RawU.base, RawL.ext, RawU.ext, BitVec.extractLsb'_append_eq_of_add_le, BitVec.extractLsb'_append_eq_of_le,
      BitVec.extractLsb'_eq_self, getLsbD_append_low, getLsbD_append_high, getLsbD_bitOf, Nat.reduceSub, BitVec.reduceToNat, Ordering.ofBits_bits]

/-- Fields decode to exactly the well-formed instruction whose fields they are (R69, R82). -/
theorem Raw.decode_ok_iff {r : Raw} {i : Instr} : r.decode = .ok i ↔ i.toRaw = some r ∧ i.wf = true := by
  unfold Raw.decode
  constructor
  · intro h
    split at h
    · cases h
    · split at h
      · split at h
        · cases h
          exact ⟨‹_›, ‹_›⟩
        · cases h
      · cases h
  · rintro ⟨hr, hw⟩
    simp only [Instr.cand_of_toRaw hr, hr, hw, if_true]

/-! ## Well-formed instructions without an extension word (R64, R70) -/

theorem LExt.wf_noExt {e : LExt} (hx : e.x = false) : e.wf = true ↔ e.la = 0 ∧ e.g = false ∧ e.gp = 0 ∧ e.gn = false := by
  cases hg : e.g <;> simp [LExt.wf, hx, hg]

theorem UExt.wf_noExt {e : UExt} (hx : e.x = false) : e.wf = true ↔ e.la = 0 := by
  simp [UExt.wf, hx]

/-- Each instruction's own condition makes the operands of its extension word 0, or asks for that word. -/
theorem Instr.lane_noExt {i : Instr} {r : RawL} (h : i.toRaw = some (.lane r)) (hw : i.wf = true) (hx : r.x = false) :
    (r.la = 0 ∧ r.g = false ∧ r.gp = 0 ∧ r.gn = false) ∧ r.c = 0 ∧ r.m = 0 := by
  cases i <;> cases h
  all_goals
    delta Instr.wf at hw
    with_reducible conv at hw => lhs; whnf
    dsimp only [RawL.base] at hx ⊢
    simp only [hx, absent, Bool.false_or, Bool.and_eq_true, LExt.wf_noExt hx, beq_iff_eq, Bool.not_eq_true', Bool.false_eq_true, false_and, and_false] at hw <;>
      simp [hw, bitOf, Ordering.bits]

theorem Instr.uni_noExt {i : Instr} {r : RawU} (h : i.toRaw = some (.uni r)) (hw : i.wf = true) (hx : r.x = false) : r.la = 0 ∧ r.imm = 0 := by
  cases i <;> cases h
  all_goals
    delta Instr.wf at hw
    with_reducible conv at hw => lhs; whnf
    dsimp only [RawU.base] at hx ⊢
    simp only [hx, absent, Bool.false_or, Bool.and_eq_true, UExt.wf_noExt hx, beq_iff_eq, Bool.not_eq_true', Bool.false_eq_true, false_and, and_false] at hw <;>
      simp [hw, bitOf, Ordering.bits]

theorem Instr.words_noExt {i : Instr} {r : Raw} (h : i.toRaw = some r) (hw : i.wf = true) (hx : hasExt r.words.1 = false) : r.words.2 = 0 := by
  cases r with
  | lane r =>
    rw [hasExt_lane] at hx
    obtain ⟨⟨hla, hg, hgp, hgn⟩, hc, hm⟩ := Instr.lane_noExt h hw hx
    rw [Raw.words, hla, hg, hgp, hgn, hc, hm]
    rfl
  | uni r =>
    rw [hasExt_uni] at hx
    obtain ⟨hla, himm⟩ := Instr.uni_noExt h hw hx
    rw [Raw.words, hla, himm]
    rfl

/-! ## Words and bytes (R2, R62) -/

theorem decodeWords_words {i : Instr} {r : Raw} (h : i.toRaw = some r) (hw : i.wf = true) : decodeWords r.words.1 r.words.2 = .ok i := by
  rw [decodeWords, Raw.ofWords_words (Instr.words_noExt h hw)]
  exact Raw.decode_ok_iff.mpr ⟨h, hw⟩

theorem decodeBytes_noExt {w : Word} {i : Instr} (hx : hasExt w = false) (h : decodeWords w 0 = .ok i) (rest : List Byte) :
    decodeBytes (bytesOfWord w ++ rest) = .ok (i, rest) := by
  simp only [bytesOfWord, decodeBytes, List.cons_append, List.nil_append, wordOfBytes_bytesOfWord, hx, h, Bool.false_eq_true, if_false]

theorem decodeBytes_ext {w ext : Word} {i : Instr} (hx : hasExt w = true) (h : decodeWords w ext = .ok i) (rest : List Byte) :
    decodeBytes (bytesOfWord w ++ bytesOfWord ext ++ rest) = .ok (i, rest) := by
  simp only [bytesOfWord, decodeBytes, List.cons_append, List.nil_append, wordOfBytes_bytesOfWord, hx, h, if_true]

theorem decodeBytes_encode {i : Instr} {ws : List Word} (hw : i.wf = true) (h : encode i = some ws) (rest : List Byte) :
    decodeBytes (ws.flatMap bytesOfWord ++ rest) = .ok (i, rest) := by
  obtain ⟨r, hr, rfl⟩ := Option.map_eq_some_iff.mp h
  have hd := decodeWords_words hr hw
  cases hx : hasExt r.words.1 with
  | false => simpa using decodeBytes_noExt hx (Instr.words_noExt hr hw hx ▸ hd) rest
  | true => simpa using decodeBytes_ext hx hd rest

theorem encode_of_decodeWords {i : Instr} {w ext : Word} (h : decodeWords w ext = .ok i) :
    i.wf = true ∧ encode i = some (if hasExt w then [w, ext] else [w]) := by
  obtain ⟨hr, hw⟩ := Raw.decode_ok_iff.mp h
  refine ⟨hw, ?_⟩
  rw [encode, hr, Option.map_some, Raw.words_ofWords]
  cases hasExt w <;> rfl

/-- Settles O56: an instruction's fields name it in the opcode maps, and fields and words determine each other. -/
theorem decodeAndEncodeAgree : Obligations.DecodeAndEncodeAgree := by
  unfold Obligations.DecodeAndEncodeAgree
  exact ⟨fun _ _ rest hw h => decodeBytes_encode hw h rest, fun _ _ _ h => encode_of_decodeWords h⟩

/-- Settles O55: the words are a finite list, each decoded in the kernel. -/
theorem wordsDecode : Obligations.WordsDecode := by
  unfold Obligations.WordsDecode decodeTableWord
  refine ⟨?lane, ?uniform, ?reserved⟩
  case lane => decide +kernel
  case uniform => decide +kernel
  case reserved => decide +kernel

end Sys2Proof
end

section
/-! PROOFS. Branches: where control goes, what is written on the way, and targets outside the code extent (O22). -/

namespace Sys2Proof.Machine

/-! ## An issue that passes control to another address -/

section
variable {s : State} {c : Ctx}

/-- An issue leaves its strand at the address given, with the issuing PC noted. -/
theorem State.commitTo_issued (n : Need) (pc : Nat × Option (Nat × Nat)) (fs : List Flight) (h : s.ctx = some c) :
    ∃ w r, Issued pc id id id s (s.commitTo c n pc fs) c n [] fs 0 w r ∧ r.fromPc = c.r.pc := by
  obtain ⟨w, hw, hlat, hout, hregs, hwarn, hfp, -⟩ := s.commitTo_wave c n pc fs
  have hrun : w.run c.entry = some (c.next n pc fs) := by
    have h' := Wave.run_setRun (c.next n pc fs) (State.ctx_stands h).run
    unfold Wave.run at h' ⊢
    rwa [hlat]
  refine ⟨w, _, ⟨rfl, fun k hk => FMap.find_put_ne _ _ hk, hw, hrun, fun k hk => ?_, ?_, rfl, hregs.untouched _, fun l _ _ => ⟨fun k => ?_, fun k => ?_⟩,
    hout, rfl, hwarn, ?_, rfl⟩, rfl⟩
  · rw [hlat, Wave.lattice_setRun _ _ hk]
  · rw [hlat, Wave.frames_setRun]
  · simp only [Wave.lane, hregs.v]
  · simp only [Wave.pred, hregs.p]
  · simp [hfp]

theorem applyWrs_fromPc : ∀ (xs : List Wr) (w : Wave) (r : Run), (applyWrs w r xs).2.fromPc = r.fromPc
  | [], _, _ => rfl
  | x :: t, w, r => by
    rw [applyWrs, applyWrs_fromPc t]
    cases x <;> simp only [applyWr] <;> (try split) <;> rfl

/-- Register writes keep the issuing PC of their strand. -/
theorem State.writeRegs_fromPc {slot entry : Nat} {xs : List Wr} {ws : List RegName} {v w : Wave} {q r : Run} (hxs : ∀ x ∈ xs, x.within ws)
    (hv : s.waves.find slot = some v) (hq : v.run entry = some q) (hw : (s.writeRegs slot entry xs).waves.find slot = some w)
    (hr : w.run entry = some r) : r.fromPc = q.fromPc := by
  have hput : (s.writeRegs slot entry xs).waves = s.waves.put slot ((applyWrs v q xs).1.setRun entry (applyWrs v q xs).2) := by
    simp only [State.writeRegs, hv, hq]
  rw [hput, FMap.find_put_same] at hw
  cases hw
  have hq' : (applyWrs v q xs).1.run entry = some q := by
    unfold Wave.run
    rw [(applyWrs_keeps xs v q hxs).lattice]
    exact hq
  rw [Wave.run_setRun _ hq'] at hr
  cases hr
  exact applyWrs_fromPc xs v q

/-- The same with register writes at issue. -/
theorem State.commitTo_writeRegs_issued (n : Need) (pc : Nat × Option (Nat × Nat)) (fs : List Flight) {xs : List Wr} {ws : List RegName} (h : s.ctx = some c)
    (hxs : ∀ x ∈ xs, x.within ws) :
    ∃ w r, Issued pc id id id s ((s.commitTo c n pc fs).writeRegs c.slot c.entry xs) c n ws fs (fpOf xs) w r ∧ r.fromPc = c.r.pc ∧
      SameRegs (applyWrs c.w c.r xs).1 (applyWrs c.w c.r xs).2 w r := by
  obtain ⟨w, r, h1, h2, hw, hr, h5, h6, h7, hregs, h9, h10, h11, h12, h13, h14, h15, -⟩ := State.commitTo_writes n pc fs xs (State.ctx_stands h) hxs
  obtain ⟨v, q, hi, hfrom⟩ := State.commitTo_issued n pc fs h
  exact ⟨w, r, ⟨h1, h2, hw, hr, h5, h6, h7, h9, h10, h11, h12, h13, h14, h15⟩, (State.writeRegs_fromPc hxs hi.wave hi.run hw hr).trans hfrom, hregs⟩

/-! ## Targets (R65, R75) -/

theorem State.jump_good {target : Int} (f : Nat → State) (h : s.targetBad (slotCore c.slot) c.la target = none) :
    s.jump c target f = .next (f target.toNat) := by
  rw [State.jump, h]

/-- A target outside the code extent is bad, and its record carries it. -/
theorem State.targetBad_outside {core : Nat} {la : Launch} {x : Int} (h : x < la.code ∨ la.code + la.extent < x + 4) :
    ∃ a, s.targetBad core la x = some a ∧ a % 2 ^ 48 = (x % 2 ^ 48).toNat := by
  unfold State.targetBad
  split
  · exact ⟨_, rfl, by omega⟩
  · have hout : la.inExtent x.toNat = false := by
      simp only [Launch.inExtent, Bool.and_eq_false_iff, decide_eq_false_iff_not]
      omega
    refine ⟨x.toNat, by simp only [hout, Bool.not_false, if_true], by omega⟩

/-- FETCH_BOUND is taken for a target, and nothing else: the record holds the target, 48 bits of it, as its PC and the branch's PC as its address (R65, R304). -/
def TakesBound (s : State) (c : Ctx) (target : Int) (o : Out) : Prop :=
  ∃ f, o = .next (s.trapWith c f) ∧ f.cause = .fetchBound ∧ f.pc.toNat = (target % 2 ^ 48).toNat ∧ f.addr.toNat = c.r.pc ∧ f.mask = c.r.mask ∧ f.prog = 0

theorem State.boundTrap_takes {a : Nat} {target : Int} (hsub : c.r.sub = none) (hpc : c.r.pc < 2 ^ 48) (ha : a % 2 ^ 48 = (target % 2 ^ 48).toNat) :
    TakesBound s c target (s.boundTrap c a) := by
  refine ⟨_, rfl, rfl, ?_, ?_, rfl, rfl⟩
  · simp only [Ctx.record, hsub, Option.isSome_none, Bool.false_eq_true, if_false, BitVec.toNat_ofNat, ha]
  · simp only [Ctx.record, BitVec.toNat_ofNat]
    omega

theorem State.jump_takesBound {x : Int} (f : Nat → State) (hsub : c.r.sub = none) (hpc : c.r.pc < 2 ^ 48)
    (h : x < c.la.code ∨ c.la.code + c.la.extent < x + 4) : TakesBound s c x (s.jump c x f) := by
  obtain ⟨a, hbad, ha⟩ := State.targetBad_outside (s := s) (core := slotCore c.slot) h
  rw [State.jump, hbad]
  exact State.boundTrap_takes hsub hpc ha

/-- A register target that is no multiple of 4 or lies outside the code extent (R76). -/
theorem State.toReg_takesBound {t : DWord} (f : Nat → State) (hsub : c.r.sub = none) (hpc : c.r.pc < 2 ^ 48)
    (h : t.toNat % 4 ≠ 0 ∨ (t.toNat : Int) < c.la.code ∨ c.la.code + c.la.extent < (t.toNat : Int) + 4) :
    TakesBound s c t.toNat (s.toReg c t fun x => s.jump c x f) := by
  unfold State.toReg
  split
  · exact State.boundTrap_takes hsub hpc (by omega)
  · exact State.jump_takesBound f hsub hpc (h.resolve_left ‹_›)

/-! ## What each of the instructions comes to where it may issue (R172) -/

theorem Ctx.guardQ_of_ne {q : BitVec 3} {neg : Bool} (h : c.q q ≠ neg) : c.guardQ q neg = true := bne_iff_ne.mpr h

section
variable {e : UExt}

theorem exec_bra_of_mayIssue {imm : BitVec 28} (h : MayIssue s c (.ofUni true e [] [])) (hw : (Instr.bra e imm).wf = true) :
    exec (.bra e imm) s = s.jump c (c.rel imm) fun t => s.commitTo c (.ofUni true e [] []) (t, none) [] := by
  rw [exec_bra, execBra, ← wf_bra, hw]
  exact State.issue_go _ h

theorem exec_brq_of_mayIssue {a : BitVec 3} {imm : BitVec 28} (h : MayIssue s c (.ofUni true e (nq a) [])) (hw : (Instr.brq e a imm).wf = true) :
    exec (.brq e a imm) s = if c.q a then s.jump c (c.rel imm) fun t => s.commitTo c (.ofUni true e (nq a) []) (t, none) []
      else .next (s.commit c (.ofUni true e (nq a) []) []) := by
  rw [exec_brq, execBrq, ← wf_brq, hw]
  exact State.issue_go _ h

theorem exec_brnq_of_mayIssue {a : BitVec 3} {imm : BitVec 28} (h : MayIssue s c (.ofUni true e (nq a) [])) (hw : (Instr.brnq e a imm).wf = true) :
    exec (.brnq e a imm) s = if c.q a then .next (s.commit c (.ofUni true e (nq a) []) [])
      else s.jump c (c.rel imm) fun t => s.commitTo c (.ofUni true e (nq a) []) (t, none) [] := by
  rw [exec_brnq, execBrnq, ← wf_brnq, hw]
  refine (State.issue_go _ h).trans ?_
  cases hq : c.q a <;> simp [hq]

theorem exec_loopd_of_mayIssue {d : BitVec 6} {imm : BitVec 28} (h : MayIssue s c (.ofUni true e (ns d) (ns d))) (hw : (Instr.loopd e d imm).wf = true) :
    exec (.loopd e d imm) s = if c.s d - 1 = 0 then .next (s.done c (.ofUni true e (ns d) (ns d)) (wrS d (c.s d - 1)))
      else s.jump c (c.rel imm) fun t =>
        (s.commitTo c (.ofUni true e (ns d) (ns d)) (t, none) []).writeRegs c.slot c.entry (wrS d (c.s d - 1)) := by
  rw [exec_loopd, execLoopd, ← wf_loopd, hw]
  exact State.issue_go _ h

theorem exec_call_of_mayIssue {q : BitVec 3} {neg : Bool} {imm : BitVec 28} (h : MayIssue s c (.ofUni true e (nq q) (ns 63)))
    (hw : (Instr.call e q neg imm).wf = true) :
    exec (.call e q neg imm) s = if c.guardQ q neg then callTo s c (.ofUni true e (nq q) (ns 63)) (c.rel imm)
      else .next (s.commit c (.ofUni true e (nq q) (ns 63)) []) := by
  rw [exec_call, execCall, ← wf_call, hw]
  exact State.issue_go _ h

theorem exec_callr_of_mayIssue {a : BitVec 6} {q : BitVec 3} {neg : Bool} (h : MayIssue s c (.ofUni true e (ns a ++ nq q) (ns 63)))
    (hw : (Instr.callr e a q neg).wf = true) :
    exec (.callr e a q neg) s = if c.guardQ q neg then s.toReg c (c.s a) (callTo s c (.ofUni true e (ns a ++ nq q) (ns 63)))
      else .next (s.commit c (.ofUni true e (ns a ++ nq q) (ns 63)) []) := by
  rw [exec_callr, execCallr, ← wf_callr, hw]
  exact State.issue_go _ h

/-- RET of a value that is no link of a call strand. -/
theorem exec_ret_address {a : BitVec 6} (h : MayIssue s c { Need.ofUni true e (ns a) [] with drains := true }) (hw : (Instr.ret e a).wf = true)
    (hl : (c.s a).getLsbD 0 = false) :
    exec (.ret e a) s = s.toReg c (c.s a) fun x => s.jump c x fun y => s.commitTo c { Need.ofUni true e (ns a) [] with drains := true } (y, none) [] := by
  rw [exec_ret, execRet, ← wf_ret, hw]
  refine (State.issue_go _ h).trans ?_
  simp only [hl, Bool.false_eq_true, if_false]

end

/-! ## The statement -/

/-- A branch that is taken. -/
theorem jump_taken {n : Need} {i : Instr} {target : Int} (hc : s.ctx = some c) (hn : n.writes = [])
    (he : exec i s = s.jump c target fun t => s.commitTo c n (t, none) []) (ht : s.targetBad (slotCore c.slot) c.la target = none) :
    ∃ t w r, exec i s = .next t ∧ Issued (target.toNat, none) id id id s t c n n.writes [] 0 w r ∧ r.fromPc = c.r.pc ∧ True := by
  obtain ⟨w, r, hi, hfrom⟩ := State.commitTo_issued n (target.toNat, none) [] hc
  exact ⟨_, w, r, he.trans (State.jump_good _ ht), hn ▸ hi, hfrom, trivial⟩

/-- A branch that is not taken. -/
theorem commit_passed {n : Need} {i : Instr} (hc : s.ctx = some c) (hn : n.writes = []) (he : exec i s = .next (s.commit c n [])) :
    DidNow s c i n fun _ _ _ => True := by
  obtain ⟨w, r, hd, -⟩ := State.commit_did n [] hc
  exact ⟨_, w, r, he, hn ▸ hd, trivial⟩

/-- LOOPD that ends. -/
theorem loopd_passed {e : UExt} {d : BitVec 6} {imm : BitVec 28} (h : MayIssue s c (.ofUni true e (ns d) (ns d))) (hw : (Instr.loopd e d imm).wf = true)
    (hd : c.s d = 1) : DidNow s c (.loopd e d imm) (.ofUni true e (ns d) (ns d)) fun _ w r => sreg w r d.toNat = 0 := by
  have hz : c.s d - 1 = 0 := by rw [hd]; rfl
  have he := exec_loopd_of_mayIssue h hw
  rw [if_pos hz, hz] at he
  obtain ⟨w, r, hdid, hregs⟩ := State.done_did (n := .ofUni true e (ns d) (ns d)) h.selected (within_wrS d 0)
  exact ⟨_, w, r, he, hdid, hregs.sIs⟩

/-- LOOPD that goes on. -/
theorem loopd_taken {e : UExt} {d : BitVec 6} {imm : BitVec 28} (h : MayIssue s c (.ofUni true e (ns d) (ns d))) (hw : (Instr.loopd e d imm).wf = true)
    (hd : c.s d ≠ 1) (ht : s.targetBad (slotCore c.slot) c.la (c.rel imm) = none) :
    ∃ t w r, exec (.loopd e d imm) s = .next t ∧
      Issued ((c.rel imm).toNat, none) id id id s t c (.ofUni true e (ns d) (ns d)) (ns d) [] 0 w r ∧ r.fromPc = c.r.pc ∧ sreg w r d.toNat = c.s d - 1 := by
  have he := exec_loopd_of_mayIssue h hw
  rw [if_neg (fun hz => hd (by bv_omega)), State.jump_good _ ht] at he
  obtain ⟨w, r, hi, hfrom, hregs⟩ := State.commitTo_writeRegs_issued (.ofUni true e (ns d) (ns d)) ((c.rel imm).toNat, none) [] h.selected (within_wrS d (c.s d - 1))
  exact ⟨_, w, r, he, hi, hfrom, hregs.sIs⟩

end

/-- Settles O22: where an instruction may issue it comes to a jump or to its next instruction; a jump to an address outside the extent takes
FETCH_BOUND. -/
theorem branchResults : Obligations.BranchResults := by
  unfold Obligations.BranchResults
  refine ⟨fun s c e d a imm => ⟨fun h hw ht => jump_taken h.selected rfl (exec_bra_of_mayIssue h hw) ht, fun h => ⟨fun hw => ?brq, fun hw => ?brnq⟩, fun h hw => ?loopd⟩,
    fun s c e q d neg imm hsub hpc => ⟨fun hout => ⟨fun h hw => ?tbra, fun hq h hw => ?tbrq, fun hq h hw => ?tbrnq, fun hd h hw => ?tloopd, fun hg h hw => ?tcall⟩,
      fun hout hg h hw => ?tcallr, fun hl hout h hw => ?tret⟩⟩
  case brq =>
    have he := exec_brq_of_mayIssue h hw
    split
    · rw [if_pos ‹_›] at he
      exact fun ht => jump_taken h.selected rfl he ht
    · rw [if_neg ‹_›] at he
      exact commit_passed h.selected rfl he
  case brnq =>
    have he := exec_brnq_of_mayIssue h hw
    split
    · rw [if_pos ‹_›] at he
      exact commit_passed h.selected rfl he
    · rw [if_neg ‹_›] at he
      exact fun ht => jump_taken h.selected rfl he ht
  case loopd =>
    split
    · exact loopd_passed h hw ‹_›
    · exact loopd_taken h hw ‹_›
  case tbra =>
    rw [exec_bra_of_mayIssue h hw]
    exact State.jump_takesBound _ hsub hpc hout
  case tbrq =>
    rw [exec_brq_of_mayIssue h hw, if_pos hq]
    exact State.jump_takesBound _ hsub hpc hout
  case tbrnq =>
    rw [exec_brnq_of_mayIssue h hw, if_neg (Bool.eq_false_iff.mp hq)]
    exact State.jump_takesBound _ hsub hpc hout
  case tloopd =>
    rw [exec_loopd_of_mayIssue h hw, if_neg (fun hz => hd (by bv_omega))]
    exact State.jump_takesBound _ hsub hpc hout
  case tcall =>
    rw [exec_call_of_mayIssue h hw, if_pos (Ctx.guardQ_of_ne hg)]
    exact State.jump_takesBound _ hsub hpc hout
  case tcallr =>
    rw [exec_callr_of_mayIssue h hw, if_pos (Ctx.guardQ_of_ne hg)]
    exact State.toReg_takesBound _ hsub hpc hout
  case tret =>
    rw [exec_ret_address h hw hl]
    exact State.toReg_takesBound _ hsub hpc hout

end Sys2Proof.Machine
end

section
/-! PROOFS. Results of lane arithmetic that come later: products, quotients, remainders, and rounded float results (O5, O6). -/

namespace Sys2Proof.Machine

section
variable {s : State} {c : Ctx} {e : LExt} {d a b g : BitVec 7} {i : Instr} {wf : Bool}

/-! ## Quotients and remainders (R104) -/

theorem toInt_eq_zero_iff {n : Nat} (x : BitVec n) : x.toInt = 0 ↔ x = 0 := by
  rw [← BitVec.toInt_zero (w := n), BitVec.toInt_inj]
  rfl

theorem toNat_eq_zero_iff {n : Nat} (x : BitVec n) : x.toNat = 0 ↔ x = 0 := by
  rw [← BitVec.toNat_inj]
  simp

theorem sdivBits_eq_quotOf {n : Nat} : (sdivBits : BitVec n → BitVec n → BitVec n) = quotOf := by
  funext x y
  simp only [sdivBits, quotOf, toInt_eq_zero_iff, ← BitVec.neg_one_eq_allOnes]
  rfl

theorem sremBits_eq_remOf {n : Nat} : (sremBits : BitVec n → BitVec n → BitVec n) = remOf := by
  funext x y
  simp only [sremBits, remOf, toInt_eq_zero_iff]

theorem udivBits_eq_quotUOf {n : Nat} : (udivBits : BitVec n → BitVec n → BitVec n) = quotUOf := by
  funext x y
  simp only [udivBits, quotUOf, toNat_eq_zero_iff, ← BitVec.neg_one_eq_allOnes]
  rfl

theorem uremBits_eq_remUOf {n : Nat} : (uremBits : BitVec n → BitVec n → BitVec n) = remUOf := by
  funext x y
  simp only [uremBits, remUOf, toNat_eq_zero_iff]

/-! ## Integer results that come later (R108) -/

/-- A lane instruction of class B whose term is well formed. -/
theorem didLater_of_laneOut {rs ws : List RegName} {f : Ctx → List Wr} {xs : List Wr} (he : exec i s = laneOut true s (.ofLane wf e rs ws) f)
    (hi : i.wf = wf) (hw : i.wf = true) (hm : MayIssue s c (.ofLane true e rs ws)) (hf : f c = xs) :
    DidLater s c i { Need.ofLane true e rs ws with later := true } .ready false xs := by
  rw [← hi, hw] at he
  exact didLater_of_execB he hm hf

/-! ## Rounded float results that come later (R95, R121, R126) -/

/-- Float instructions that round, each with a well-formed term. -/
theorem didLater_of_fpOp {rm : BitVec 3} {srcs : List (BitVec 7)} {op : Fmt → Rm → Bool → List FVal → Nat × FFlags} {is : List (Fk × Instr)}
    (hi : ∀ p ∈ is, exec p.2 s = fpOp p.1 p.2.wf e (warnRounds rm) rm d srcs (op p.1.fmt) s) :
    ∀ p ∈ is, let n := { Need.ofLane true e (p.1.names srcs) (nvs d p.1.regs) with warn := if 5 ≤ rm.toNat then 1 else 0 }
      MayIssue s c n → p.2.wf = true → DidLater s c p.2 { n with later := true } .ready false
        (p.1.results c d (c.active e) srcs (flushed p.1.fmt (p.1.ftz c.w.fpmode) · (op p.1.fmt (rmOf c.w.fpmode rm) (p.1.ftz c.w.fpmode)))) := by
  intro p hp n hm hw
  have he := hi p hp
  rw [hw] at he
  exact didLater_of_execB he hm rfl

end

/-- Settles O5: each instruction is one lane operation of class B, whose function is that of R104 or R115. -/
theorem multiplyAndDivideResults : Obligations.MultiplyAndDivideResults := by
  unfold Obligations.MultiplyAndDivideResults
  intro s c e d a b g
  simp only [List.forall_mem_cons]
  refine ⟨⟨fun h hw => ?_, fun h hw => ?_, fun h hw => ?_, fun h hw => ?_, fun h hw => ?_, fun h hw => ?_, fun h hw => ?_, List.forall_mem_nil _⟩,
    fun h hw => ?_, fun h hw => ?_, fun h hw => ?_, fun h hw => ?_, fun h hw => ?_⟩
  · exact didLater_of_laneOut exec_imul wf_imul hw h rfl
  · exact didLater_of_laneOut exec_imulhi wf_imulhi hw h rfl
  · exact didLater_of_laneOut exec_imulhiu wf_imulhiu hw h rfl
  · exact didLater_of_laneOut exec_idiv wf_idiv hw h (by rw [sdivBits_eq_quotOf]; rfl)
  · exact didLater_of_laneOut exec_idivu wf_idivu hw h (by rw [udivBits_eq_quotUOf]; rfl)
  · exact didLater_of_laneOut exec_irem wf_irem hw h (by rw [sremBits_eq_remOf]; rfl)
  · exact didLater_of_laneOut exec_iremu wf_iremu hw h (by rw [uremBits_eq_remUOf]; rfl)
  · exact didLater_of_laneOut exec_imad wf_imad hw h rfl
  · exact didLater_of_laneOut exec_imulw wf_imulw hw h rfl
  · exact didLater_of_laneOut exec_imulwu wf_imulwu hw h rfl
  · exact didLater_of_laneOut exec_imadw wf_imadw hw h rfl
  · exact didLater_of_laneOut exec_imul64 wf_imul64 hw h rfl

/-- Settles O6: each instruction is one operation on values, flushed, of class B. -/
theorem floatArithmeticResults : Obligations.FloatArithmeticResults := by
  unfold Obligations.FloatArithmeticResults
  intro s c e d a b g rm
  refine ⟨didLater_of_fpOp (op := fun f m z => on2 (f.add m z)) ?_, didLater_of_fpOp (op := fun f m z => on2 fun x y => f.add m z x y.negate) ?_,
    didLater_of_fpOp (op := fun f m z => on2 (f.mul m z)) ?_, didLater_of_fpOp (op := fun f m z => on3 (f.fma m z)) ?_,
    didLater_of_fpOp (op := fun f m z => on2 (f.div m z)) ?_, didLater_of_fpOp (op := fun f m z => on1 (f.sqrt m z)) ?_,
    didLater_of_fpOp (op := fun f m z => on1 (f.div m z FVal.one)) ?_, didLater_of_fpOp (op := fun f m z => on1 (f.rsqrt m z)) ?_⟩ <;>
    simp only [List.forall_mem_cons]
  · exact ⟨exec_faddF64, exec_faddF32, exec_faddF16x2, exec_faddBf16x2, List.forall_mem_nil _⟩
  · exact ⟨exec_fsubF64, exec_fsubF32, exec_fsubF16x2, exec_fsubBf16x2, List.forall_mem_nil _⟩
  · exact ⟨exec_fmulF64, exec_fmulF32, exec_fmulF16x2, exec_fmulBf16x2, List.forall_mem_nil _⟩
  · exact ⟨exec_ffmaF64, exec_ffmaF32, exec_ffmaF16x2, exec_ffmaBf16x2, List.forall_mem_nil _⟩
  · exact ⟨exec_fdivF64, exec_fdivF32, List.forall_mem_nil _⟩
  · exact ⟨exec_fsqrtF64, exec_fsqrtF32, List.forall_mem_nil _⟩
  · exact ⟨exec_frcpF64, exec_frcpF32, List.forall_mem_nil _⟩
  · exact ⟨exec_frsqF64, exec_frsqF32, List.forall_mem_nil _⟩

end Sys2Proof.Machine
end

section
/-! PROOFS. Special operands of float operations: NaNs, infinities and zeros (O8). -/

namespace Sys2Proof.Machine

section
variable {f : Fmt} {rm : Rm} {z : Bool} {a b : FVal}

/-! ## NaNs (R97) -/

theorem snan_pair (a b : FVal) : snan [a, b] = if a.isSnan || b.isSnan then 1 else 0 := by
  simp only [snan, List.any_cons, List.any_nil, Bool.or_false, flagIf, nvF]

theorem FVal.isSnan_of_not_isNan (h : b.isNan = false) : b.isSnan = false := by
  cases b with
  | nan s => cases h
  | inf s => rfl
  | fin s m e => rfl

theorem Fmt.add_nan (h : a.isNan = true ∨ b.isNan = true) : f.add rm z a b = (f.nan, if a.isSnan || b.isSnan then 1 else 0) := by
  unfold Fmt.add
  rw [if_pos (by simpa using h), snan_pair]

theorem Fmt.mul_nan (h : a.isNan = true ∨ b.isNan = true) : f.mul rm z a b = (f.nan, if a.isSnan || b.isSnan then 1 else 0) := by
  rw [Fmt.mul, if_pos (by simpa using h), snan_pair]

theorem Fmt.div_nan (h : a.isNan = true ∨ b.isNan = true) : f.div rm z a b = (f.nan, if a.isSnan || b.isSnan then 1 else 0) := by
  rw [Fmt.div, if_pos (by simpa using h), snan_pair]

/-- FFMA of a product 0 × ∞, whatever the third operand. -/
theorem Fmt.fma_zero_inf {u v : Bool} {e : Int} {g : FVal} :
    f.fma rm z (.fin u 0 e) (.inf v) g = (f.nan, snan [.fin u 0 e, .inf v, g] ||| nvF) := by
  simp [Fmt.fma, FVal.isZero, FVal.neg, flagIf]

theorem or_nvF_and_one (x : FFlags) : (x ||| nvF) &&& 1 = 1 := by
  revert x
  decide

theorem Fmt.minmax_nans {isMax : Bool} (ha : a.isNan = true) (hb : b.isNan = true) :
    f.minmax isMax a b = (f.nan, if a.isSnan || b.isSnan then 1 else 0) := by
  simp [Fmt.minmax, ha, hb, snan_pair]

/-- FMIN and FMAX of a NaN and a number give the number, whichever comes first (R122). -/
theorem Fmt.minmax_nan {isMax : Bool} (ha : a.isNan = true) (hb : b.isNan = false) :
    f.minmax isMax a b = (f.encode b, if a.isSnan then 1 else 0) ∧ f.minmax isMax b a = (f.encode b, if a.isSnan then 1 else 0) := by
  simp [Fmt.minmax, ha, hb, snan_pair, FVal.isSnan_of_not_isNan hb]

/-- With a NaN operand only NE and UNORD hold. -/
theorem fcond_nan {k : Nat} (h : a.isNan = true ∨ b.isNan = true) (hk : k < 8) : fcond k a b = decide (k = 1 ∨ k = 6) := by
  have hnan : (a.isNan || b.isNan) = true := by simpa using h
  interval_cases k <;> simp [fcond, hnan]

/-! ## Zeros (R122) -/

theorem Fmt.encode_zero {s : Bool} {e : Int} : f.encode (.fin s 0 e) = f.sign s := by
  simp [Fmt.encode, Fmt.round]

theorem FVal.lt_zeros {s t : Bool} {e g : Int} : FVal.lt true (.fin s 0 e) (.fin t 0 g) = (s && !t) := by
  simp [FVal.lt, FVal.isZero, FVal.neg]

theorem Fmt.minmax_zeros {isMax s : Bool} {e g : Int} : f.minmax isMax (.fin s 0 e) (.fin (!s) 0 g) = (f.sign (!isMax), 0) := by
  have hflags : snan [.fin s 0 e, .fin (!s) 0 g] = 0 := snan_pair _ _
  simp only [Fmt.minmax, hflags, FVal.isNan, Bool.false_eq_true, if_false, Bool.and_false, FVal.lt_zeros, Fmt.encode_zero]
  cases s <;> cases isMax <;> rfl

end

/-- Settles O8: each clause is one branch of its operation. -/
theorem specialOperandResults : Obligations.SpecialOperandResults := by
  unfold Obligations.SpecialOperandResults
  intro f rm z a b g u v m e e'
  refine ⟨fun h => ⟨Fmt.add_nan h, Fmt.mul_nan h, Fmt.div_nan h⟩, ?_, rfl, rfl, ?_, ?_, rfl, rfl, fun hm => ?_, fun hm => ?_, rfl,
    Fmt.minmax_nans, Fmt.minmax_nan, Fmt.minmax_zeros, Fmt.minmax_zeros, fun ha k hk => ⟨fcond_nan (.inl ha) hk, fcond_nan (.inr ha) hk⟩⟩
  · cases u <;> rfl
  · rw [Fmt.fma_zero_inf]
  · rw [Fmt.fma_zero_inf, or_nvF_and_one]
  · simp [Fmt.div, FVal.isNan, FVal.neg, hm, dzF]
  · simp [Fmt.sqrt, hm, nvF]

end Sys2Proof.Machine
end

section
/-! PROOFS. Rounding: to multiples of a unit, to the magnitudes of a format, and the patterns of those (O9). -/

namespace Sys2Proof.Machine

section
variable {rm : Rm} {neg st : Bool} {v u y : ℝ} {m n sh : Nat} {e q : Int} {r : Nat × Bool}

/-! ## Rounding to a multiple of a unit (R94) -/

/-- A magnitude `v` between the neighbours `lo` and `hi` rounds to `hi`; `odd` says that `lo` is not the even one. -/
def Rm.Up (rm : Rm) (neg : Bool) (v lo hi : ℝ) (odd : Prop) : Prop :=
  (rm = .ne ∧ (lo + hi < 2 * v ∨ (2 * v = lo + hi ∧ odd))) ∨ (rm ≠ .ne ∧ rm.toward neg = false ∧ lo < v)

/-- `r` is a magnitude `v`, which lies between the `n`-th and the next of the magnitudes `g`, rounded to one of them, and whether that is inexact. -/
structure Rm.RoundsTo (rm : Rm) (neg : Bool) (v : ℝ) (g : Nat → ℝ) (n : Nat) (r : Nat × Bool) : Prop where
  lower   : g n ≤ v
  upper   : v < g (n + 1)
  near    : r.1 = n ∨ r.1 = n + 1
  up      : r.1 = n + 1 ↔ rm.Up neg v (g n) (g (n + 1)) (n % 2 = 1)
  inexact : r.2 = true ↔ g n < v

/-- The multiples of a unit. -/
def units (u : ℝ) (n : Nat) : ℝ := n * u

theorem units_succ (u : ℝ) (n : Nat) : units u (n + 1) = (n + 1) * u := by
  rw [units, Nat.cast_succ]

/-- A magnitude is m × 2^e, or lies a little above it where something is left over below the last bit of m. -/
structure Truncates (m : Nat) (e : Int) (st : Bool) (v : ℝ) : Prop where
  exact : st = false → v = m * (2 : ℝ) ^ e
  above : st = true → m * (2 : ℝ) ^ e < v ∧ v < (m + 1) * (2 : ℝ) ^ e

theorem Rm.up_exact {rm : Rm} {neg : Bool} {v lo hi : ℝ} {odd : Prop} (h : v = lo) (hlt : lo < hi) : ¬ rm.Up neg v lo hi odd := by
  rintro (⟨-, h' | ⟨h', -⟩⟩ | ⟨-, -, h'⟩) <;> linarith

theorem Rm.up_scale {rm : Rm} {neg : Bool} {v u lo hi : ℝ} {odd : Prop} (hu : 0 < u) :
    rm.Up neg (v * u) (lo * u) (hi * u) odd ↔ rm.Up neg v lo hi odd := by
  have h1 : lo * u + hi * u < 2 * (v * u) ↔ lo + hi < 2 * v := by
    rw [← add_mul, ← mul_assoc, mul_lt_mul_iff_of_pos_right hu]
  have h2 : 2 * (v * u) = lo * u + hi * u ↔ 2 * v = lo + hi := by
    rw [← add_mul, ← mul_assoc, mul_left_inj' hu.ne']
  simp only [Rm.Up, h1, h2, mul_lt_mul_iff_of_pos_right hu]

theorem Rm.RoundsTo.scale {unit : ℝ} (h : rm.RoundsTo neg v (units unit) n r) (hu : 0 < u) : rm.RoundsTo neg (v * u) (units (unit * u)) n r := by
  have hscale : ∀ k, units (unit * u) k = units unit k * u := fun k => by rw [units, units, mul_assoc]
  refine ⟨?_, ?_, h.near, ?_, ?_⟩
  · rw [hscale]
    exact mul_le_mul_of_nonneg_right h.lower hu.le
  · rw [hscale]
    exact mul_lt_mul_of_pos_right h.upper hu
  · rw [hscale, hscale, Rm.up_scale hu, h.up]
  · rw [hscale, mul_lt_mul_iff_of_pos_right hu, h.inexact]

/-- A magnitude that needs no rounding. -/
theorem Rm.roundsTo_exact {g : Nat → ℝ} (hlt : g n < g (n + 1)) (h : v = g n) : rm.RoundsTo neg v g n (n, false) := by
  refine ⟨h.ge, h ▸ hlt, .inl rfl, ?_, ?_⟩
  · simp [Rm.up_exact h hlt]
  · simp [h]

/-- Where a remainder `r` of `D` units, with or without something left over, lies against its half. -/
theorem halfway_iff {D q r half : Nat} (hhalf : D = 2 * half) (h0 : st = false → y = (D * q + r : Nat))
    (h1 : st = true → ((D * q + r : Nat) : ℝ) < y ∧ y < (D * q + r : Nat) + 1) :
    (half < r ∨ (r = half ∧ (st = true ∨ q % 2 = 1))) ↔
      ((q : ℝ) * D + (q + 1) * D < 2 * y ∨ (2 * y = (q : ℝ) * D + (q + 1) * D ∧ q % 2 = 1)) := by
  have hsum : (q : ℝ) * D + (q + 1) * D = 2 * ((D * q + half : Nat) : ℝ) := by
    push_cast [hhalf]; ring
  have hlt : (D * q + half : Nat) < (D * q + r : Nat) ↔ half < r := by omega
  have heq : (D * q + half : Nat) = (D * q + r : Nat) ↔ r = half := by omega
  rw [hsum, mul_lt_mul_iff_of_pos_left two_pos, mul_right_inj' two_ne_zero]
  cases st with
  | false => rw [h0 rfl, Nat.cast_lt, Nat.cast_inj, hlt, eq_comm (a := D * q + r), heq]; simp
  | true =>
    obtain ⟨hl, hu⟩ := h1 rfl
    have hge : ((D * q + half : Nat) : ℝ) < y ↔ half ≤ r := by
      refine ⟨fun h => ?_, fun h => lt_of_le_of_lt (Nat.cast_le.mpr (by omega)) hl⟩
      have : ((D * q + half : Nat) : ℝ) < (D * q + r + 1 : Nat) := by push_cast at *; linarith
      have := Nat.cast_lt.mp this
      omega
    have hne : y ≠ ((D * q + half : Nat) : ℝ) := by
      intro h
      rw [h] at hl hu
      have h2 : ((D * q + half : Nat) : ℝ) < (D * q + r + 1 : Nat) := by push_cast at *; linarith
      have := Nat.cast_lt.mp hl
      have := Nat.cast_lt.mp h2
      omega
    rw [hge]
    simp only [hne, false_and, or_false, true_or, and_true]
    omega

/-- The integer part and the remainder of a magnitude over 2^sh. -/
theorem roundShift_roundsTo (h0 : st = false → y = m) (h1 : st = true → (m : ℝ) < y ∧ y < m + 1 ∧ 0 < sh) :
    rm.RoundsTo neg y (units ((2 ^ sh : Nat) : ℝ)) (m / 2 ^ sh) (roundShift m sh st rm neg) := by
  have hD : 0 < 2 ^ sh := Nat.two_pow_pos sh
  have hdiv : 2 ^ sh * (m / 2 ^ sh) + m % 2 ^ sh = m := Nat.div_add_mod m (2 ^ sh)
  have hmod := Nat.mod_lt m hD
  have hle : (m : ℝ) ≤ y := by
    cases st with
    | false => exact (h0 rfl).ge
    | true => exact (h1 rfl).1.le
  have hbelow : ((m / 2 ^ sh : Nat) : ℝ) * (2 ^ sh : Nat) ≤ m := by
    rw [← Nat.cast_mul, Nat.cast_le]; exact Nat.div_mul_le_self _ _
  have habove : ((m : ℝ)) + 1 ≤ ((m / 2 ^ sh : Nat) + 1) * (2 ^ sh : Nat) := by
    have : m + 1 ≤ (m / 2 ^ sh + 1) * 2 ^ sh := by rw [add_mul, mul_comm]; omega
    exact_mod_cast this
  have hinexact : (m % 2 ^ sh != 0 || st) = true ↔ ((m / 2 ^ sh : Nat) : ℝ) * (2 ^ sh : Nat) < y := by
    cases st with
    | false =>
      rw [h0 rfl, ← Nat.cast_mul, Nat.cast_lt, Bool.or_false, bne_iff_ne, mul_comm]
      omega
    | true => simpa using lt_of_le_of_lt hbelow (h1 rfl).1
  have hupper : y < ((m / 2 ^ sh : Nat) + 1) * (2 ^ sh : Nat) := by
    cases st with
    | false => rw [h0 rfl]; linarith
    | true => linarith [(h1 rfl).2.1]
  refine ⟨hbelow.trans hle, (units_succ _ _).symm ▸ hupper, ?_, ?_, hinexact⟩
  · exact (ite_eq_or_eq _ _ _).symm
  · have hif : ∀ b : Bool, (if b then m / 2 ^ sh + 1 else m / 2 ^ sh) = m / 2 ^ sh + 1 ↔ b = true := by
      intro b; cases b <;> simp
    unfold roundShift
    dsimp only
    rw [hif, units_succ, units]
    cases rm with
    | z => simp [Rm.Up, Rm.toward]
    | u => cases neg <;> simp [Rm.Up, Rm.toward, hinexact]
    | d => cases neg <;> simp [Rm.Up, Rm.toward, hinexact]
    | ne =>
      by_cases hsh : sh = 0
      · subst hsh
        have hst : st = false := by
          cases st with
          | false => rfl
          | true => exact absurd (h1 rfl).2.2 (lt_irrefl 0)
        simp [Rm.Up, h0 hst, two_mul]
      · obtain ⟨k, rfl⟩ := Nat.exists_eq_succ_of_ne_zero hsh
        have hhalf : 2 ^ (k + 1) = 2 * (2 ^ (k + 1) / 2) := by rw [pow_succ]; omega
        have h := halfway_iff hhalf (y := y) (st := st) (by rwa [hdiv]) (fun h => by rw [hdiv]; exact ⟨(h1 h).1, (h1 h).2.1⟩)
        simpa [Rm.Up] using h


/-- The magnitude m × 2^e over 2^q, rounded: what `Fmt.round` does twice. -/
def shiftTo (m : Nat) (e : Int) (st : Bool) (rm : Rm) (neg : Bool) (q : Int) : Nat × Bool :=
  if e ≤ q then roundShift m (q - e).toNat st rm neg else (m * 2 ^ (e - q).toNat, st)

theorem zpow_toNat {d : Int} (h : 0 ≤ d) : ((2 ^ d.toNat : Nat) : ℝ) = (2 : ℝ) ^ d := by
  rw [Nat.cast_pow, Nat.cast_ofNat, ← zpow_natCast, Int.toNat_of_nonneg h]

theorem zpow_toNat_mul {d e : Int} (h : e ≤ d) : ((2 ^ (d - e).toNat : Nat) : ℝ) * (2 : ℝ) ^ e = (2 : ℝ) ^ d := by
  rw [zpow_toNat (by omega), ← zpow_add₀ two_ne_zero, sub_add_cancel]

theorem shiftTo_roundsTo (h : Truncates m e st v) (hq : st = true → e < q) :
    ∃ n, rm.RoundsTo neg v (units ((2 : ℝ) ^ q)) n (shiftTo m e st rm neg q) := by
  have hu : (0 : ℝ) < 2 ^ e := zpow_pos two_pos e
  unfold shiftTo
  split
  · rename_i hle
    refine ⟨m / 2 ^ (q - e).toNat, ?_⟩
    have hy : v = v / 2 ^ e * 2 ^ e := (div_mul_cancel₀ v hu.ne').symm
    rw [hy, ← zpow_toNat_mul hle]
    refine (roundShift_roundsTo (fun h0 => ?_) fun h1 => ⟨?_, ?_, ?_⟩).scale hu
    · rw [h.exact h0, mul_div_cancel_right₀ _ hu.ne']
    · rw [lt_div_iff₀ hu]; exact (h.above h1).1
    · rw [div_lt_iff₀ hu]; exact (h.above h1).2
    · have := hq h1; omega
  · rename_i hlt
    have hst : st = false := by
      cases st with
      | false => rfl
      | true => exact absurd (hq rfl).le hlt
    refine ⟨m * 2 ^ (e - q).toNat, hst ▸ Rm.roundsTo_exact ?_ ?_⟩
    · rw [units_succ, units]; nlinarith [zpow_pos (two_pos (α := ℝ)) q]
    · rw [units, h.exact hst, Nat.cast_mul, mul_assoc, zpow_toNat_mul (by omega)]

/-! ## The magnitudes of a format (R87) -/

/-- What the proofs ask of a format. -/
structure Fmt.Sound (f : Fmt) : Prop where
  frac  : 1 ≤ f.frac
  width : f.frac + 2 < f.width
  bias  : 1 ≤ f.bias
  high  : f.bias < f.top
  wide  : (f.frac : Int) ≤ f.emax

/-- The exponent of the least magnitude. -/
def Fmt.eleast (f : Fmt) : Int := f.emin - f.frac

/-- The steps of a pattern above the subnormals. -/
def Fmt.binade (f : Fmt) (p : Nat) : Nat := p / 2 ^ f.frac - 1

/-- The magnitude of a pattern, with no bound on its exponent. -/
noncomputable def Fmt.grid (f : Fmt) (p : Nat) : ℝ := (p - f.binade p * 2 ^ f.frac : Nat) * (2 : ℝ) ^ (f.binade p + f.eleast)

variable {f : Fmt}

/-- A significand of the format in a binade: only the first holds those without the leading bit. -/
structure Fmt.Fits (f : Fmt) (k r : Nat) : Prop where
  lead : k = 0 ∨ 2 ^ f.frac ≤ r
  top  : r ≤ 2 ^ (f.frac + 1)

theorem Fmt.grid_of {k r : Nat} (h : f.Fits k r) : f.grid (k * 2 ^ f.frac + r) = r * (2 : ℝ) ^ (k + f.eleast) := by
  obtain ⟨hlead, htop⟩ := h
  have hpos : 0 < 2 ^ f.frac := Nat.two_pow_pos _
  rw [pow_succ] at htop
  rcases htop.lt_or_eq with hlt | heq
  · have hk : f.binade (k * 2 ^ f.frac + r) = k := by
      unfold Fmt.binade
      rw [Nat.mul_comm, Nat.mul_add_div hpos]
      rcases Nat.lt_or_ge r (2 ^ f.frac) with hr | hr
      · rw [Nat.div_eq_of_lt hr]; omega
      · rw [Nat.div_eq_of_lt_le (k := 1) (by omega) (by omega)]; omega
    rw [Fmt.grid, hk, Nat.add_sub_cancel_left]
  · have hk : f.binade (k * 2 ^ f.frac + r) = k + 1 := by
      unfold Fmt.binade
      rw [heq, Nat.mul_comm, ← Nat.mul_add, Nat.mul_div_cancel_left _ hpos]
      rfl
    have hr : k * 2 ^ f.frac + r - (k + 1) * 2 ^ f.frac = 2 ^ f.frac := by rw [heq, add_mul]; omega
    rw [Fmt.grid, hk, hr, heq]
    push_cast
    rw [add_right_comm, zpow_add_one₀ two_ne_zero]
    ring

theorem Fmt.exists_fits (f : Fmt) (p : Nat) : ∃ k r, f.Fits k r ∧ r < 2 ^ (f.frac + 1) ∧ p = k * 2 ^ f.frac + r := by
  have hpos : 0 < 2 ^ f.frac := Nat.two_pow_pos _
  have hdm := Nat.div_add_mod p (2 ^ f.frac)
  have hmod := Nat.mod_lt p hpos
  rcases Nat.eq_zero_or_pos (p / 2 ^ f.frac) with h0 | h1
  · rw [h0] at hdm
    exact ⟨0, p, ⟨.inl rfl, by rw [pow_succ]; omega⟩, by rw [pow_succ]; omega, by omega⟩
  · obtain ⟨k, hk⟩ := Nat.exists_eq_succ_of_ne_zero h1.ne'
    rw [hk, Nat.mul_comm, Nat.succ_mul] at hdm
    exact ⟨k, 2 ^ f.frac + p % 2 ^ f.frac, ⟨.inr (by omega), by rw [pow_succ]; omega⟩, by rw [pow_succ]; omega, by omega⟩

theorem Fmt.grid_strictMono (f : Fmt) : StrictMono f.grid := by
  refine strictMono_nat_of_lt_succ fun p => ?_
  obtain ⟨k, r, h, hlt, rfl⟩ := f.exists_fits p
  rw [add_assoc, Fmt.grid_of h, Fmt.grid_of ⟨h.lead.imp_right (by omega), by omega⟩]
  push_cast
  exact mul_lt_mul_of_pos_right (lt_add_one _) (zpow_pos two_pos _)


/-! ## The pattern of a rounded magnitude -/

/-- The pattern and the flags of a significand rounded to units of 2^lsb: a carry out of the significand, then overflow, then the fields. -/
def Fmt.finish (f : Fmt) (rm : Rm) (neg tiny : Bool) (x : Nat × Bool) (lsb : Int) : Nat × FFlags :=
  let (r, l) := if x.1 = 2 ^ (f.frac + 1) then (2 ^ f.frac, lsb + 1) else (x.1, lsb)
  let ovf := decide (f.emax < l + f.frac) || (!f.ieee && l + f.frac == f.emax && r == 2 ^ (f.frac + 1) - 1)
  if ovf && decide (2 ^ f.frac ≤ r) then
    let toInf := match rm with
      | .ne => true
      | .z => false
      | .u => !neg
      | .d => neg
    (if toInf then (if f.ieee then f.inf neg else f.nan) else f.maxFin neg, ofF ||| nxF)
  else
    let bits := if r < 2 ^ f.frac then r else (l + f.frac + f.bias).toNat * 2 ^ f.frac + (r - 2 ^ f.frac)
    (f.sign neg + bits, flagIf x.2 nxF ||| flagIf (x.2 && tiny) ufF)

/-- Tiny by a significand rounded as if the exponent had no bound: its leading bit lies below `emin`, and it does not round up to it. -/
def Fmt.tinyTop (f : Fmt) (top : Int) (u : Nat) : Bool := decide (top < f.emin) && !(top + 1 == f.emin && u == 2 ^ (f.frac + 1))

theorem Fmt.round_eq {f : Fmt} {ftz : Bool} (hm : m ≠ 0) : f.round rm ftz neg m e st =
    let top : Int := e + Nat.log2 m
    let lsb := max (top - f.frac) f.eleast
    let tiny := f.tinyTop top (shiftTo m e st rm neg (top - f.frac)).1
    if (ftz && tiny) = true then (f.sign neg, ufF ||| nxF) else f.finish rm neg tiny (shiftTo m e st rm neg lsb) lsb := by
  unfold Fmt.round
  rw [if_neg hm]
  rfl

theorem Fmt.Sound.two_le (hf : f.Sound) : 2 ≤ 2 ^ f.frac := Nat.le_self_pow (by have := hf.frac; omega) 2

theorem toInf_eq (rm : Rm) (neg : Bool) : (match rm with
      | .ne => true
      | .z => false
      | .u => !neg
      | .d => neg) = !rm.toward neg := by
  cases rm <;> cases neg <;> rfl

theorem Fmt.maxFin_pos (f : Fmt) : f.maxFin false = if f.ieee then f.top * 2 ^ f.frac - 1 else f.top * 2 ^ f.frac + 2 ^ f.frac - 2 := by
  simp [Fmt.maxFin, Fmt.sign]

/-- A significand with its leading bit in a binade has a pattern beyond the largest finite one exactly if it overflows. -/
theorem Fmt.overflows_iff (hf : f.Sound) {k r : Nat} (hr : 2 ^ f.frac ≤ r) (hlt : r < 2 ^ (f.frac + 1)) :
    (decide (f.emax < k + f.eleast + f.frac) || (!f.ieee && k + f.eleast + f.frac == f.emax && r == 2 ^ (f.frac + 1) - 1)) = true ↔
      f.maxFin false < k * 2 ^ f.frac + r := by
  have htwo := hf.two_le
  have hhigh := hf.high
  have hmul : ∀ a b : Nat, a ≤ b ↔ a * 2 ^ f.frac ≤ b * 2 ^ f.frac := fun a b => (Nat.mul_le_mul_right_iff (by omega)).symm
  have h1 := hmul (k + 1) f.top
  have h2 := hmul (k + 2) f.top
  have h3 := hmul f.top (k + 1)
  have h4 := hmul f.top k
  have h5 := hmul 1 f.top
  simp only [add_mul, one_mul] at h1 h2 h3 h5
  rw [pow_succ] at hlt ⊢
  rw [Fmt.maxFin_pos]
  simp only [Bool.or_eq_true, Bool.and_eq_true, decide_eq_true_eq, beq_iff_eq, Bool.not_eq_true']
  simp only [Fmt.emax, Fmt.eleast, Fmt.emin]
  generalize 2 ^ f.frac = P at *
  generalize k * P = K at *
  generalize f.top * P = T at *
  cases f.ieee <;> simp only [Bool.true_eq_false, Bool.false_eq_true, if_true, if_false, false_and, or_false, true_and] <;> omega

theorem Fmt.bits_eq {k r : Nat} (h : f.Fits k r) :
    (if r < 2 ^ f.frac then r else (k + f.eleast + f.frac + f.bias).toNat * 2 ^ f.frac + (r - 2 ^ f.frac)) = k * 2 ^ f.frac + r := by
  split
  · have hk : k = 0 := h.lead.resolve_right (by omega)
    rw [hk]; omega
  · have he : (k + f.eleast + f.frac + f.bias).toNat = k + 1 := by
      simp only [Fmt.eleast, Fmt.emin]; omega
    rw [he, add_mul]; omega

/-- A significand that fits, and one that has carried into the next binade, end in the pattern that counts the magnitudes up to it. -/
theorem Fmt.finish_of_lt (hf : f.Sound) {k : Nat} {tiny i : Bool} {r : Nat} (h : f.Fits k r) (hlt : r < 2 ^ (f.frac + 1)) :
    (let ovf := decide (f.emax < k + f.eleast + f.frac) || (!f.ieee && k + f.eleast + f.frac == f.emax && r == 2 ^ (f.frac + 1) - 1)
     if ovf && decide (2 ^ f.frac ≤ r) then (if !rm.toward neg then (if f.ieee then f.inf neg else f.nan) else f.maxFin neg, ofF ||| nxF)
     else (f.sign neg + if r < 2 ^ f.frac then r else (k + f.eleast + f.frac + f.bias).toNat * 2 ^ f.frac + (r - 2 ^ f.frac),
       flagIf i nxF ||| flagIf (i && tiny) ufF)) =
      if f.maxFin false < k * 2 ^ f.frac + r then (if rm.toward neg then f.maxFin neg else f.inf neg, ofF ||| nxF)
      else (f.sign neg + (k * 2 ^ f.frac + r), flagIf i nxF ||| flagIf (i && tiny) ufF) := by
  have hinf : (if f.ieee then f.inf neg else f.nan) = f.inf neg := by
    unfold Fmt.inf; split <;> rfl
  have hovf : ((decide (f.emax < k + f.eleast + f.frac) || (!f.ieee && k + f.eleast + f.frac == f.emax && r == 2 ^ (f.frac + 1) - 1)) &&
      decide (2 ^ f.frac ≤ r)) = true ↔ f.maxFin false < k * 2 ^ f.frac + r := by
    by_cases hr : 2 ^ f.frac ≤ r
    · rw [decide_eq_true hr, Bool.and_true, Fmt.overflows_iff hf hr hlt]
    · have hk : k = 0 := h.lead.resolve_right hr
      have htop : 2 ^ f.frac ≤ f.top * 2 ^ f.frac := Nat.le_mul_of_pos_left _ (by have := hf.high; omega)
      have htwo := hf.two_le
      rw [decide_eq_false hr, Bool.and_false, Fmt.maxFin_pos, hk]
      simp only [Bool.false_eq_true, false_iff]
      split <;> omega
  dsimp only
  rw [Fmt.bits_eq h, hinf]
  simp only [hovf]
  cases rm.toward neg <;> rfl

theorem Fmt.finish_eq (hf : f.Sound) {k : Nat} {tiny : Bool} {x : Nat × Bool} (h : f.Fits k x.1) :
    f.finish rm neg tiny x (k + f.eleast) =
      if f.maxFin false < k * 2 ^ f.frac + x.1 then (if rm.toward neg then f.maxFin neg else f.inf neg, ofF ||| nxF)
      else (f.sign neg + (k * 2 ^ f.frac + x.1), flagIf x.2 nxF ||| flagIf (x.2 && tiny) ufF) := by
  unfold Fmt.finish
  rw [toInf_eq]
  by_cases hr : x.1 = 2 ^ (f.frac + 1)
  · have hfits : f.Fits (k + 1) (2 ^ f.frac) := ⟨.inr le_rfl, by rw [pow_succ]; omega⟩
    have hsum : (k + 1) * 2 ^ f.frac + 2 ^ f.frac = k * 2 ^ f.frac + x.1 := by rw [hr, pow_succ, add_mul]; omega
    have h' := Fmt.finish_of_lt (rm := rm) (neg := neg) (tiny := tiny) (i := x.2) hf hfits (Nat.pow_lt_pow_right (by omega) (by omega))
    rw [hsum] at h'
    rw [if_pos hr, show (k : Int) + f.eleast + 1 = (k + 1 : Nat) + f.eleast by push_cast; ring]
    exact h'
  · rw [if_neg hr]
    exact Fmt.finish_of_lt hf h (lt_of_le_of_ne h.top hr)


/-! ## `Fmt.round` on the magnitudes of its format -/

/-- The leading bit of a magnitude. -/
theorem Truncates.log2 (h : Truncates m e st v) (hm : m ≠ 0) : (2 : ℝ) ^ (e + Nat.log2 m) ≤ v ∧ v < (2 : ℝ) ^ (e + Nat.log2 m + 1) := by
  have hu : (0 : ℝ) < 2 ^ e := zpow_pos two_pos e
  have hle : (2 : ℝ) ^ (Nat.log2 m : Int) ≤ m := by
    rw [zpow_natCast]; exact_mod_cast Nat.log2_self_le hm
  have hlt : (m : ℝ) + 1 ≤ (2 : ℝ) ^ ((Nat.log2 m : Int) + 1) := by
    have h' : m + 1 ≤ 2 ^ (Nat.log2 m + 1) := Nat.lt_log2_self
    exact_mod_cast h'
  have hlo : m * (2 : ℝ) ^ e ≤ v := by
    cases st with
    | false => exact (h.exact rfl).ge
    | true => exact (h.above rfl).1.le
  have hhi : v < (m + 1) * (2 : ℝ) ^ e := by
    cases st with
    | false => rw [h.exact rfl]; linarith
    | true => exact (h.above rfl).2
  rw [add_assoc, zpow_add₀ two_ne_zero, zpow_add₀ two_ne_zero, mul_comm, mul_comm (2 ^ e)]
  exact ⟨(mul_le_mul_of_nonneg_right hle hu.le).trans hlo, hhi.trans_le (mul_le_mul_of_nonneg_right hlt hu.le)⟩

theorem zpow_two_le {a b : Int} (h : a ≤ b) : (2 : ℝ) ^ a ≤ 2 ^ b := zpow_le_zpow_right₀ one_le_two h

/-- A count of units of 2^q of a magnitude below 2^(q + j). -/
theorem lt_pow_of_units {q : Int} {j : Nat} (hlow : units (2 ^ q) n ≤ v) (hv : v < (2 : ℝ) ^ (q + j)) : n < 2 ^ j := by
  have h := hlow.trans_lt hv
  rw [units, zpow_add₀ two_ne_zero, mul_comm, mul_lt_mul_iff_of_pos_left (zpow_pos two_pos q), zpow_natCast] at h
  exact_mod_cast h

/-- A count of units of 2^q of a magnitude of 2^(q + j) or more. -/
theorem pow_le_of_units {q : Int} {j : Nat} (hup : v < units (2 ^ q) (n + 1)) (hv : (2 : ℝ) ^ (q + j) ≤ v) : 2 ^ j ≤ n := by
  have h := hv.trans_lt hup
  rw [units, zpow_add₀ two_ne_zero, mul_comm, mul_lt_mul_iff_of_pos_right (zpow_pos two_pos q), zpow_natCast] at h
  exact Nat.lt_succ_iff.mp (by exact_mod_cast h)

/-- The significand of a magnitude in units of the format's last bit there. -/
theorem Fmt.fits_of_units {top : Int} {k : Nat} (hlow : units (2 ^ (k + f.eleast)) n ≤ v) (hup : v < units (2 ^ (k + f.eleast)) (n + 1))
    (hk : k + f.eleast = max (top - f.frac) f.eleast) (h0 : (2 : ℝ) ^ top ≤ v) (h1 : v < (2 : ℝ) ^ (top + 1)) :
    f.Fits k n ∧ n < 2 ^ (f.frac + 1) := by
  have hlt : n < 2 ^ (f.frac + 1) := lt_pow_of_units hlow (h1.trans_le (zpow_two_le (by push_cast; omega)))
  refine ⟨⟨?_, hlt.le⟩, hlt⟩
  rcases Nat.eq_zero_or_pos k with h | h
  · exact .inl h
  · exact .inr (pow_le_of_units hup ((zpow_two_le (by omega)).trans h0))

/-- Rounding to the last bit of a significand is rounding to the magnitudes of the format. -/
theorem Fmt.roundsTo_grid {top : Int} {k : Nat} (h : rm.RoundsTo neg v (units (2 ^ (k + f.eleast))) n r)
    (hk : k + f.eleast = max (top - f.frac) f.eleast) (h0 : (2 : ℝ) ^ top ≤ v) (h1 : v < (2 : ℝ) ^ (top + 1)) (hfrac : 1 ≤ f.frac) :
    rm.RoundsTo neg v f.grid (k * 2 ^ f.frac + n) (k * 2 ^ f.frac + r.1, r.2) := by
  obtain ⟨hfit, hlt⟩ := Fmt.fits_of_units h.lower h.upper hk h0 h1
  have hfit' : f.Fits k (n + 1) := ⟨hfit.lead.imp_right (by omega), hlt⟩
  have hgrid : f.grid (k * 2 ^ f.frac + n) = units (2 ^ (k + f.eleast)) n := Fmt.grid_of hfit
  have hgrid' : f.grid (k * 2 ^ f.frac + n + 1) = units (2 ^ (k + f.eleast)) (n + 1) := by
    rw [add_assoc]; exact Fmt.grid_of hfit'
  have hodd : (k * 2 ^ f.frac + n) % 2 = n % 2 := by
    have heven : 2 ∣ k * 2 ^ f.frac := (dvd_pow_self 2 (by omega)).mul_left k
    omega
  refine ⟨hgrid ▸ h.lower, hgrid' ▸ h.upper, ?_, ?_, ?_⟩
  · exact h.near.imp (by simp only; omega) (by simp only; omega)
  · rw [hgrid, hgrid', hodd, ← h.up]
    simp only
    omega
  · rw [hgrid, ← h.inexact]


/-- R94: a magnitude below the normals that stays there when it is rounded with no bound on the exponent. -/
def Fmt.Tiny (f : Fmt) (rm : Rm) (neg : Bool) (v : ℝ) : Prop :=
  v < 2 ^ f.emin ∧ ¬ rm.Up neg v (2 ^ f.emin - 2 ^ (f.emin - f.frac - 1)) (2 ^ f.emin) True

theorem Rm.not_up_of_le {lo hi : ℝ} {odd : Prop} (h : v ≤ lo) (hlt : lo < hi) : ¬ rm.Up neg v lo hi odd := by
  rintro (⟨-, h' | ⟨h', -⟩⟩ | ⟨-, -, h'⟩) <;> linarith

/-- The last unit below a power of 2. -/
theorem units_last {q : Int} {j : Nat} : units ((2 : ℝ) ^ q) (2 ^ j - 1) = 2 ^ (q + j) - 2 ^ q := by
  rw [units, zpow_add₀ two_ne_zero, zpow_natCast, Nat.cast_sub Nat.one_le_two_pow, Nat.cast_pow, Nat.cast_ofNat, Nat.cast_one]
  ring

theorem units_pow {q : Int} {j : Nat} : units ((2 : ℝ) ^ q) (2 ^ j) = 2 ^ (q + j) := by
  rw [units, zpow_add₀ two_ne_zero, zpow_natCast, Nat.cast_pow, Nat.cast_ofNat, mul_comm]

theorem units_mono {u : ℝ} (hu : 0 ≤ u) {a b : Nat} (h : a ≤ b) : units u a ≤ units u b :=
  mul_le_mul_of_nonneg_right (Nat.cast_le.mpr h) hu

theorem Fmt.tinyTop_iff {top : Int} (h : rm.RoundsTo neg v (units (2 ^ (top - f.frac))) n r) (h0 : (2 : ℝ) ^ top ≤ v)
    (h1 : v < (2 : ℝ) ^ (top + 1)) : f.tinyTop top r.1 = true ↔ f.Tiny rm neg v := by
  have hL : (0 : ℝ) < 2 ^ f.emin := zpow_pos two_pos _
  have hu : (0 : ℝ) < 2 ^ (top - f.frac) := zpow_pos two_pos _
  have hstep : (2 : ℝ) ^ f.emin - 2 ^ (f.emin - f.frac - 1) < 2 ^ f.emin := sub_lt_self _ (zpow_pos two_pos _)
  unfold Fmt.tinyTop Fmt.Tiny
  rw [Bool.and_eq_true, decide_eq_true_eq, Bool.not_eq_true', Bool.and_eq_false_iff, beq_eq_false_iff_ne, beq_eq_false_iff_ne]
  rcases lt_trichotomy (top + 1) f.emin with hlt | heq | hgt
  · have hv : v ≤ 2 ^ f.emin - 2 ^ (f.emin - f.frac - 1) := by
      have e1 : v < 2 ^ (f.emin - 1) := h1.trans_le (zpow_two_le (by omega))
      have e2 : (2 : ℝ) ^ (f.emin - f.frac - 1) ≤ 2 ^ (f.emin - 1) := zpow_two_le (by omega)
      have e3 : (2 : ℝ) ^ f.emin = 2 ^ (f.emin - 1) + 2 ^ (f.emin - 1) := by
        rw [← two_mul, ← zpow_one_add₀ two_ne_zero]; congr 1; ring
      linarith
    exact iff_of_true ⟨by omega, .inl hlt.ne⟩ ⟨hv.trans_lt hstep, Rm.not_up_of_le hv hstep⟩
  · have htop : top - f.frac + (f.frac + 1 : Nat) = f.emin := by push_cast; omega
    have hlast : units ((2 : ℝ) ^ (top - f.frac)) (2 ^ (f.frac + 1) - 1) = 2 ^ f.emin - 2 ^ (f.emin - f.frac - 1) := by
      rw [units_last, htop]; congr 2; omega
    have hnext : units ((2 : ℝ) ^ (top - f.frac)) (2 ^ (f.frac + 1)) = 2 ^ f.emin := by rw [units_pow, htop]
    have hlt : n < 2 ^ (f.frac + 1) := lt_pow_of_units (q := top - f.frac) h.lower (by rw [htop, ← heq]; exact h1)
    have hup : r.1 = 2 ^ (f.frac + 1) ↔ rm.Up neg v (2 ^ f.emin - 2 ^ (f.emin - f.frac - 1)) (2 ^ f.emin) True := by
      rcases (Nat.le_sub_one_of_lt hlt).lt_or_eq with hn | hn
      · refine iff_of_false (by have := h.near; omega) (Rm.not_up_of_le (h.upper.le.trans ?_) hstep)
        rw [← hlast]
        exact units_mono hu.le hn
      · have hsucc : n + 1 = 2 ^ (f.frac + 1) := by omega
        have hodd : n % 2 = 1 := by rw [pow_succ] at hsucc; omega
        have h' := h.up
        rw [hsucc, hnext, hn, hlast] at h'
        rw [h', ← hn]
        simp only [hodd]
    rw [← hup]
    exact ⟨fun hh => ⟨heq ▸ h1, hh.2.resolve_left (not_not.mpr heq)⟩, fun hh => ⟨by omega, .inr hh.2⟩⟩
  · refine iff_of_false (fun hh => by omega) (fun hh => ?_)
    have := (zpow_two_le (show f.emin ≤ top by omega)).trans h0
    linarith [hh.1]

/-- What `Fmt.round` gives: the pattern of a magnitude of the format that is `v` rounded, or the overflow, or the flush of R96. -/
theorem Fmt.round_roundsTo {ftz : Bool} (hf : f.Sound) (hm : m ≠ 0) (h : Truncates m e st v) (hst : st = true → f.frac < Nat.log2 m) :
    ∃ p q i tiny, rm.RoundsTo neg v f.grid p (q, i) ∧ (tiny = true ↔ f.Tiny rm neg v) ∧ f.round rm ftz neg m e st =
      if (ftz && tiny) = true then (f.sign neg, ufF ||| nxF)
      else if f.maxFin false < q then (if rm.toward neg then f.maxFin neg else f.inf neg, ofF ||| nxF)
      else (f.sign neg + q, flagIf i nxF ||| flagIf (i && tiny) ufF) := by
  obtain ⟨h0, h1⟩ := h.log2 hm
  rw [Fmt.round_eq hm]
  set top : Int := e + Nat.log2 m with htop
  obtain ⟨k, hk⟩ : ∃ k : Nat, (k : Int) + f.eleast = max (top - f.frac) f.eleast := ⟨(max (top - f.frac) f.eleast - f.eleast).toNat, by omega⟩
  obtain ⟨n, hn⟩ := shiftTo_roundsTo (rm := rm) (neg := neg) (q := k + f.eleast) h (fun hs => by have := hst hs; omega)
  obtain ⟨n', hn'⟩ := shiftTo_roundsTo (rm := rm) (neg := neg) (q := top - f.frac) h (fun hs => by have := hst hs; omega)
  have hfits : f.Fits k (shiftTo m e st rm neg (k + f.eleast)).1 := by
    obtain ⟨hfit, hlt⟩ := Fmt.fits_of_units hn.lower hn.upper hk h0 h1
    rcases hn.near with hr | hr <;> rw [hr]
    exacts [hfit, ⟨hfit.lead.imp_right (by omega), hlt⟩]
  refine ⟨_, _, _, _, Fmt.roundsTo_grid hn hk h0 h1 hf.frac, Fmt.tinyTop_iff hn' h0 h1, ?_⟩
  dsimp only
  rw [← hk, Fmt.finish_eq hf hfits]


/-! ## Patterns and their magnitudes -/

theorem Fmt.Sound.pow_width (hf : f.Sound) : 2 ^ (f.width - 1) = (f.top + 1) * 2 ^ f.frac := by
  have hw := hf.width
  have hsub : f.top + 1 = 2 ^ (f.width - 1 - f.frac) := Nat.sub_add_cancel Nat.one_le_two_pow
  rw [hsub, ← pow_add]
  congr 1
  omega

theorem Fmt.Sound.maxFin_lt (hf : f.Sound) : f.maxFin false < (f.top + 1) * 2 ^ f.frac := by
  have htwo := hf.two_le
  rw [Fmt.maxFin_pos, add_mul, one_mul]
  split <;> omega

/-- The last unit of the largest finite magnitude. -/
theorem Fmt.Sound.maxFin_fits (hf : f.Sound) : ∃ k r, f.Fits k r ∧ r < 2 ^ (f.frac + 1) ∧ f.maxFin false = k * 2 ^ f.frac + r ∧
    (k : Int) + f.eleast = f.emax - f.frac := by
  have htwo := hf.two_le
  obtain ⟨t, ht⟩ : ∃ t, f.top = t + 2 := ⟨f.top - 2, by have := hf.high; have := hf.bias; omega⟩
  rw [Fmt.maxFin_pos, ht]
  unfold Fmt.emax Fmt.eleast Fmt.emin
  rw [ht]
  cases f.ieee with
  | true =>
    refine ⟨t, 2 ^ (f.frac + 1) - 1, ⟨.inr ?_, ?_⟩, ?_, ?_, ?_⟩
    · rw [pow_succ]; omega
    · omega
    · rw [pow_succ]; omega
    · rw [pow_succ, add_mul, if_pos rfl]; omega
    · rw [if_pos rfl]; push_cast; omega
  | false =>
    refine ⟨t + 1, 2 ^ (f.frac + 1) - 2, ⟨.inr ?_, ?_⟩, ?_, ?_, ?_⟩
    · rw [pow_succ]; omega
    · omega
    · rw [pow_succ]; omega
    · rw [pow_succ, add_mul, add_mul, if_neg Bool.false_ne_true]; omega
    · rw [if_neg Bool.false_ne_true]; push_cast; omega

theorem Fmt.Sound.grid_maxFin_succ (hf : f.Sound) : f.grid (f.maxFin false + 1) = f.grid (f.maxFin false) + 2 ^ (f.emax - f.frac) := by
  obtain ⟨k, r, hfit, hlt, hmax, hk⟩ := hf.maxFin_fits
  rw [hmax, add_assoc, Fmt.grid_of hfit, Fmt.grid_of ⟨hfit.lead.imp_right (by omega), hlt⟩, hk]
  push_cast
  ring

/-- The fields of a pattern, and what they decode to. -/
theorem Fmt.decode_fields (hf : f.Sound) {s : Bool} {p : Nat} (hlt : p < (f.top + 1) * 2 ^ f.frac) : f.decode (f.sign s + p) =
    if f.ieee && p / 2 ^ f.frac == f.top then (if p % 2 ^ f.frac = 0 then .inf s else .nan (p % 2 ^ f.frac / 2 ^ (f.frac - 1) == 0))
    else if !f.ieee && p / 2 ^ f.frac == f.top && p % 2 ^ f.frac == 2 ^ f.frac - 1 then .nan false
    else if p / 2 ^ f.frac = 0 then .fin s (p % 2 ^ f.frac) (1 - f.bias - f.frac)
    else .fin s (2 ^ f.frac + p % 2 ^ f.frac) ((p / 2 ^ f.frac : Nat) - f.bias - f.frac) := by
  have hpos : 0 < 2 ^ f.frac := Nat.two_pow_pos _
  have hdiv : p / 2 ^ f.frac < f.top + 1 := (Nat.div_lt_iff_lt_mul hpos).mpr hlt
  have hsgn : f.sign s = (if s then 1 else 0) * (f.top + 1) * 2 ^ f.frac := by
    cases s <;> simp [Fmt.sign, hf.pow_width]
  have hs : ((f.sign s + p) / 2 ^ (f.width - 1) % 2 == 1) = s := by
    rw [← hf.pow_width] at hlt
    cases s with
    | false => simp [Fmt.sign, Nat.div_eq_of_lt hlt]
    | true => simp [Fmt.sign, Nat.add_div_left _ (Nat.two_pow_pos _), Nat.div_eq_of_lt hlt]
  have he : (f.sign s + p) / 2 ^ f.frac % (f.top + 1) = p / 2 ^ f.frac := by
    rw [hsgn, Nat.mul_comm _ (2 ^ f.frac), Nat.mul_add_div hpos, Nat.mul_comm _ (f.top + 1), Nat.mul_add_mod, Nat.mod_eq_of_lt hdiv]
  have hm : (f.sign s + p) % 2 ^ f.frac = p % 2 ^ f.frac := by
    rw [hsgn, Nat.mul_comm _ (2 ^ f.frac), Nat.mul_add_mod]
  unfold Fmt.decode
  simp only [hs, he, hm]

/-- A finite pattern, by its sign and its magnitude's pattern. -/
theorem Fmt.decode_sign_add (hf : f.Sound) {s : Bool} {p : Nat} (hp : p ≤ f.maxFin false) :
    f.decode (f.sign s + p) = .fin s (p - f.binade p * 2 ^ f.frac) (f.binade p + f.eleast) := by
  have hdm := Nat.div_add_mod p (2 ^ f.frac)
  have hspecial : (f.ieee = true → p / 2 ^ f.frac ≠ f.top) ∧ (f.ieee = false → p / 2 ^ f.frac = f.top → p % 2 ^ f.frac ≠ 2 ^ f.frac - 1) := by
    have htwo := hf.two_le
    have htop : 2 ^ f.frac ≤ f.top * 2 ^ f.frac := Nat.le_mul_of_pos_left _ (by have := hf.high; omega)
    rw [Fmt.maxFin_pos] at hp
    refine ⟨fun hi he => ?_, fun hi he => ?_⟩ <;> rw [he, Nat.mul_comm] at hdm
    · rw [if_pos hi] at hp; omega
    · rw [if_neg (by simp [hi])] at hp; omega
  have hinf : (f.ieee && p / 2 ^ f.frac == f.top) = false := by
    rw [Bool.and_eq_false_imp]
    exact fun hi => beq_eq_false_iff_ne.mpr (hspecial.1 hi)
  have hnan : (!f.ieee && p / 2 ^ f.frac == f.top && p % 2 ^ f.frac == 2 ^ f.frac - 1) = false := by
    rw [Bool.and_eq_false_imp]
    intro h
    rw [Bool.and_eq_true, Bool.not_eq_true', beq_iff_eq] at h
    exact beq_eq_false_iff_ne.mpr (hspecial.2 h.1 h.2)
  rw [Fmt.decode_fields hf (hp.trans_lt hf.maxFin_lt), hinf, hnan]
  simp only [Bool.false_eq_true, if_false]
  unfold Fmt.binade Fmt.eleast Fmt.emin
  split
  · rename_i h0
    rw [h0, Nat.mul_zero, Nat.zero_add] at hdm
    rw [h0, hdm]
    simp
  · rename_i h0
    obtain ⟨k, hk⟩ := Nat.exists_eq_succ_of_ne_zero h0
    rw [hk, Nat.mul_comm, Nat.succ_mul] at hdm
    rw [hk, Nat.succ_sub_one]
    congr 1
    · omega
    · push_cast; ring

theorem Fmt.decode_of_le (hf : f.Sound) {p : Nat} (hp : p ≤ f.maxFin false) :
    f.decode p = .fin false (p - f.binade p * 2 ^ f.frac) (f.binade p + f.eleast) := by
  have h := Fmt.decode_sign_add (s := false) hf hp
  rwa [Fmt.sign, if_neg Bool.false_ne_true, Nat.zero_add] at h

/-- The magnitude that a finite pattern holds. -/
theorem Fmt.mag_of_le (hf : f.Sound) {p : Nat} (hp : p ≤ f.maxFin false) : (f.mag p : ℝ) = f.grid p := by
  rw [Fmt.mag, Fmt.decode_of_le hf hp, FVal.mag, Fmt.grid]
  push_cast
  rfl

/-! ## Rounding to one of rising magnitudes (R94) -/

/-- Toward zero: the last magnitude that is not above. -/
theorem Rm.RoundsTo.toward_eq {g : Nat → ℝ} {p k : Nat} {i : Bool} (h : rm.RoundsTo neg v g p (k, i)) (hrm : rm ≠ .ne) (ht : rm.toward neg = true) : k = p := by
  refine h.near.resolve_right fun hk => ?_
  have hup := h.up.mp hk
  simp [Rm.Up, hrm, ht] at hup

section
variable {g : Nat → ℝ} {p k : Nat} {i : Bool} (hg : StrictMono g) (h : rm.RoundsTo neg v g p (k, i))
include hg h

theorem Rm.RoundsTo.le_of_le {j : Nat} (hj : g j ≤ v) : j ≤ p :=
  Nat.lt_succ_iff.mp (hg.lt_iff_lt.mp (hj.trans_lt h.upper))

theorem Rm.RoundsTo.le_of_lt {j : Nat} (hj : v < g (j + 1)) : p ≤ j :=
  Nat.lt_succ_iff.mp (hg.lt_iff_lt.mp (h.lower.trans_lt hj))

/-- One of the magnitudes rounds to itself. -/
theorem Rm.RoundsTo.eq_of_eq {j : Nat} (hj : v = g j) : k = j ∧ i = false := by
  have hp : p = j := le_antisymm (h.le_of_lt hg (hj ▸ hg (Nat.lt_succ_self j))) (h.le_of_le hg hj.ge)
  subst hp
  refine ⟨h.near.resolve_right fun hk => ?_, Bool.eq_false_iff.mpr fun hi => ?_⟩
  · exact Rm.up_exact hj (hg (Nat.lt_succ_self p)) (h.up.mp hk)
  · exact (h.inexact.mp hi).ne hj.symm

theorem Rm.RoundsTo.inexact_iff : i = true ↔ g k ≠ v := by
  refine ⟨fun hi hk => ?_, fun hk => ?_⟩
  · exact Bool.false_ne_true ((h.eq_of_eq hg hk.symm).2.symm.trans hi)
  · by_contra hi
    have hp : v = g p := le_antisymm (not_lt.mp fun hlt => hi (h.inexact.mpr hlt)) h.lower
    exact hk ((h.eq_of_eq hg hp).1 ▸ hp.symm)

/-- To nearest: no magnitude lies nearer, and of two equally near the even one is taken. -/
theorem Rm.RoundsTo.nearest (hrm : rm = .ne) (j : Nat) : |g k - v| ≤ |g j - v| ∧ (j ≠ k → |g k - v| = |g j - v| → k % 2 = 0) := by
  have hlow := h.lower
  have hupp := h.upper
  have hup := h.up
  simp only [Rm.Up, hrm, true_and, ne_eq, not_true, false_and, or_false] at hup
  have hside : g j ≤ g p ∨ g (p + 1) ≤ g j := (Nat.lt_or_ge p j).symm.imp (fun hj => hg.monotone hj) (fun hj => hg.monotone hj)
  have habs : |g j - v| = if g j ≤ g p then v - g j else g j - v := by
    split
    · rw [abs_sub_comm, abs_of_nonneg (by linarith)]
    · rw [abs_of_nonneg (by linarith [hside.resolve_left ‹_›])]
  rcases h.near with hk | hk <;> simp only at hk
  · have hno : ¬ k = p + 1 := by omega
    rw [hup, not_or, not_and', not_lt] at hno
    obtain ⟨hmid, htie⟩ := hno
    rw [hk, abs_sub_comm (g p), abs_of_nonneg (by linarith), habs]
    split
    · rename_i hjp
      refine ⟨by linarith, fun hne heq => absurd (hg.injective (by linarith : g j = g p)) hne⟩
    · have hj := hside.resolve_left ‹_›
      refine ⟨by linarith, fun _ heq => ?_⟩
      by_contra hodd
      exact htie (by omega) (by linarith)
  · have hmid := hup.mp hk
    have hle : g p + g (p + 1) ≤ 2 * v := hmid.elim (fun hlt => hlt.le) fun ht => ht.1.ge
    rw [hk, abs_of_nonneg (by linarith), habs]
    split
    · rename_i hjp
      refine ⟨by linarith, fun _ heq => ?_⟩
      have := (hmid.resolve_left (by linarith)).2
      omega
    · have hj := hside.resolve_left ‹_›
      refine ⟨by linarith, fun hne heq => absurd (hg.injective (by linarith : g j = g (p + 1))) hne⟩

/-- Away from zero: the first magnitude that is not below. -/
theorem Rm.RoundsTo.away_le_iff (hrm : rm ≠ .ne) (ht : rm.toward neg = false) (j : Nat) : k ≤ j ↔ v ≤ g j := by
  have hup : k = p + 1 ↔ g p < v := by simpa [Rm.Up, hrm, ht] using h.up
  have hnear := h.near
  simp only at hnear
  by_cases hlt : g p < v
  · rw [hup.mpr hlt]
    exact ⟨fun hj => h.upper.le.trans (hg.monotone hj), fun hj => hg.lt_iff_lt.mp (hlt.trans_le hj)⟩
  · have hk : k = p := hnear.resolve_right fun hk => hlt (hup.mp hk)
    rw [hk]
    exact ⟨fun hj => (not_lt.mp hlt).trans (hg.monotone hj), fun hj => hg.le_iff_le.mp (h.lower.trans hj)⟩

theorem Rm.RoundsTo.nearest_gt_iff (hrm : rm = .ne) (j : Nat) :
    j < k ↔ g j + g (j + 1) < 2 * v ∨ (2 * v = g j + g (j + 1) ∧ j % 2 = 1) := by
  have hlow := h.lower
  have hupp := h.upper
  have hnear := h.near
  have hup := h.up
  have hstep := hg (Nat.lt_succ_self j)
  simp only [Rm.Up, hrm, true_and, ne_eq, not_true, false_and, or_false] at hup hnear
  rcases lt_trichotomy j p with hj | rfl | hj
  · have := hg.monotone hj
    exact iff_of_true (by omega) (.inl (by linarith))
  · rw [← hup]; omega
  · have := hg.monotone hj
    exact iff_of_false (by omega) (by rintro (h' | ⟨h', -⟩) <;> linarith)

theorem Rm.RoundsTo.toward_gt_iff (hrm : rm ≠ .ne) (ht : rm.toward neg = true) (j : Nat) : j < k ↔ g (j + 1) ≤ v := by
  rw [h.toward_eq hrm ht]
  exact ⟨fun hj => (hg.monotone hj).trans h.lower, fun hj => h.le_of_le hg hj⟩

end

/-! ## `Fmt.Rounds` (R94, R96) -/

theorem Fmt.tiny_iff : f.Tiny rm neg v ↔
    (rm = .ne → v < (((2 ^ f.emin : ℚ) - 2 ^ (f.emin - f.frac - 2) : ℚ) : ℝ)) ∧ (rm ≠ .ne → rm.toward neg = true → v < ((2 ^ f.emin : ℚ) : ℝ)) ∧
      (rm ≠ .ne → rm.toward neg = false → v ≤ (((2 ^ f.emin : ℚ) - 2 ^ (f.emin - f.frac - 1) : ℚ) : ℝ)) := by
  have hpos : (0 : ℝ) < 2 ^ (f.emin - f.frac - 2) := zpow_pos two_pos _
  have htwice : (2 : ℝ) ^ (f.emin - f.frac - 1) = 2 * 2 ^ (f.emin - f.frac - 2) := by
    rw [← zpow_one_add₀ two_ne_zero]; congr 1; ring
  unfold Fmt.Tiny
  push_cast
  rw [htwice]
  by_cases hrm : rm = .ne
  · simp only [Rm.Up, hrm, ne_eq, not_true, false_and, or_false, true_and, and_true, false_imp_iff, forall_const]
    exact ⟨fun hh => lt_of_not_ge fun hle => hh.2 ((lt_or_eq_of_le (by linarith)).imp id Eq.symm),
      fun hh => ⟨by linarith, by rintro (h' | h') <;> linarith⟩⟩
  · cases ht : rm.toward neg
    · simp only [Rm.Up, hrm, ht, ne_eq, not_false_iff, true_and, false_and, false_or, Bool.false_eq_true, false_imp_iff, forall_const, not_lt]
      exact ⟨fun hh => hh.2, fun hh => ⟨by linarith, hh⟩⟩
    · simp only [Rm.Up, hrm, ht, ne_eq, not_false_iff, true_and, false_and, false_or, Bool.true_eq_false, false_imp_iff, forall_const, and_true]

theorem Fmt.beyond_iff (hf : f.Sound) {p q : Nat} {i : Bool} (h : rm.RoundsTo neg v f.grid p (q, i)) : f.maxFin false < q ↔
    (rm = .ne → ((f.mag (f.maxFin false) + (2 : ℚ) ^ (f.emax - f.frac) / 2 : ℚ) : ℝ) < v ∨
      (v = ((f.mag (f.maxFin false) + (2 : ℚ) ^ (f.emax - f.frac) / 2 : ℚ) : ℝ) ∧ f.maxFin false % 2 = 1)) ∧
    (rm ≠ .ne → rm.toward neg = true → ((f.mag (f.maxFin false) + (2 : ℚ) ^ (f.emax - f.frac) : ℚ) : ℝ) ≤ v) ∧
    (rm ≠ .ne → rm.toward neg = false → (f.mag (f.maxFin false) : ℝ) < v) := by
  have hnext := hf.grid_maxFin_succ
  push_cast
  rw [Fmt.mag_of_le hf le_rfl, ← hnext]
  by_cases hrm : rm = .ne
  · rw [h.nearest_gt_iff f.grid_strictMono hrm, hnext]
    simp only [hrm, ne_eq, not_true, false_imp_iff, and_true, forall_const]
    refine or_congr (by constructor <;> intro <;> linarith) (and_congr_left' (by constructor <;> intro <;> linarith))
  · cases ht : rm.toward neg
    · rw [← not_le, h.away_le_iff f.grid_strictMono hrm ht, not_le]
      simp [hrm]
    · rw [h.toward_gt_iff f.grid_strictMono hrm ht]
      simp [hrm]

/-- What is tiny does not overflow. -/
theorem Fmt.Tiny.not_beyond (hf : f.Sound) {p q : Nat} {i : Bool} (ht : f.Tiny rm neg v) (h : rm.RoundsTo neg v f.grid p (q, i)) :
    q ≤ f.maxFin false := by
  have htwo := hf.two_le
  have htop : 2 * 2 ^ f.frac ≤ f.top * 2 ^ f.frac := Nat.mul_le_mul_right _ (by have := hf.high; have := hf.bias; omega)
  have hgrid : f.grid (2 ^ f.frac) = 2 ^ f.emin := by
    have hfits : f.Fits 0 (2 ^ f.frac) := ⟨.inl rfl, Nat.pow_le_pow_right two_pos (by omega)⟩
    have hg := Fmt.grid_of hfits
    rw [Nat.zero_mul, Nat.zero_add, Nat.cast_pow, Nat.cast_ofNat, ← zpow_natCast, ← zpow_add₀ two_ne_zero] at hg
    rw [hg, Fmt.eleast]
    congr 1
    push_cast
    ring
  have hp : p < 2 ^ f.frac := f.grid_strictMono.lt_iff_lt.mp (h.lower.trans_lt (hgrid ▸ ht.1))
  have hnear := h.near
  simp only at hnear
  rw [Fmt.maxFin_pos]
  split <;> omega

/-- A magnitude rounded to those of a format, with the flush and the overflow, is what `Fmt.Rounds` asks. -/
theorem Rm.RoundsTo.rounds (hf : f.Sound) {p q : Nat} {i tiny ftz : Bool} (h : rm.RoundsTo neg v f.grid p (q, i)) (ht : tiny = true ↔ f.Tiny rm neg v) :
    f.Rounds rm ftz neg v (if (ftz && tiny) = true then (f.sign neg, ufF ||| nxF)
      else if f.maxFin false < q then (if rm.toward neg then f.maxFin neg else f.inf neg, ofF ||| nxF)
      else (f.sign neg + q, flagIf i nxF ||| flagIf (i && tiny) ufF)) := by
  have hmono := f.grid_strictMono
  unfold Fmt.Rounds
  simp only [← Fmt.tiny_iff, ← Fmt.beyond_iff hf h, ← ht]
  refine ⟨fun hz hy => if_pos (by rw [hz, hy]; rfl), fun hb => ?_, fun hz hb => ?_⟩
  · have hy : tiny = false := Bool.eq_false_iff.mpr fun hy => absurd ((ht.mp hy).not_beyond hf h) (not_le.mpr hb)
    rw [if_neg (by simp [hy]), if_pos hb]
  · rw [if_neg (by simpa using hz), if_neg hb]
    have hq := not_lt.mp hb
    have hmag : ∀ j, j ≤ f.maxFin false → (f.mag j : ℝ) = f.grid j := fun j hj => Fmt.mag_of_le hf hj
    refine ⟨q, hq, rfl, fun hrm j hj => ?_, fun hrm hto => ?_, fun hrm hto => ?_, fun he => ?_, fun hne hy => ?_, fun hne hy => ?_⟩
    · rw [hmag q hq, hmag j hj]
      exact h.nearest hmono hrm j
    · have hqp := h.toward_eq hrm hto
      rw [hmag q hq, hqp]
      exact ⟨h.lower, fun j hj hle => h.le_of_le hmono (hmag j hj ▸ hle)⟩
    · rw [hmag q hq]
      exact ⟨(h.away_le_iff hmono hrm hto q).mp le_rfl, fun j hj hle => (h.away_le_iff hmono hrm hto j).mpr (hmag j hj ▸ hle)⟩
    · rw [(h.eq_of_eq hmono ((hmag q hq).symm.trans he).symm).2]
      simp [flagIf]
    · rw [(h.inexact_iff hmono).mpr (hmag q hq ▸ hne), hy]
      rfl
    · rw [(h.inexact_iff hmono).mpr (hmag q hq ▸ hne), Bool.eq_false_iff.mpr hy]
      rfl

theorem Fmt.round_rounds {ftz : Bool} (hf : f.Sound) (hm : m ≠ 0) (h : Truncates m e st v) (hst : st = true → f.frac < Nat.log2 m) :
    f.Rounds rm ftz neg v (f.round rm ftz neg m e st) := by
  obtain ⟨p, q, i, tiny, hr, ht, he⟩ := Fmt.round_roundsTo (rm := rm) (neg := neg) (ftz := ftz) hf hm h hst
  rw [he]
  exact hr.rounds hf ht

/-! ## Patterns are what their values encode to (R87) -/

/-- A magnitude of the format rounds to its pattern with no flag. -/
theorem Fmt.round_grid (hf : f.Sound) {p : Nat} (hm : m ≠ 0) (h : m * (2 : ℝ) ^ e = f.grid p) (hp : p ≤ f.maxFin false) :
    f.round rm false neg m e = (f.sign neg + p, 0) := by
  obtain ⟨k, q, i, tiny, hr, -, he⟩ := Fmt.round_roundsTo (rm := rm) (neg := neg) (ftz := false) (st := false) hf hm ⟨fun _ => rfl, fun h => absurd h Bool.false_ne_true⟩
    (fun h => absurd h Bool.false_ne_true)
  obtain ⟨rfl, rfl⟩ := hr.eq_of_eq f.grid_strictMono h
  rw [he, if_neg (by simp), if_neg (not_lt.mpr hp)]
  simp [flagIf]

theorem Fmt.encode_decode_sign_add (hf : f.Sound) {s : Bool} {p : Nat} (hp : p ≤ f.maxFin false) :
    f.encode (f.decode (f.sign s + p)) = f.sign s + p := by
  rw [Fmt.decode_sign_add hf hp, Fmt.encode]
  by_cases hz : p - f.binade p * 2 ^ f.frac = 0
  · have hp0 : p = 0 := f.grid_strictMono.injective (by simp [Fmt.grid, hz])
    simp [hp0, Fmt.round]
  · rw [Fmt.round_grid hf hz rfl hp]

/-- The pattern beyond the finite ones that is no NaN is that of the infinity. -/
theorem Fmt.encode_decode_beyond (hf : f.Sound) {s : Bool} {p : Nat} (hp : f.maxFin false < p) (hlt : p < (f.top + 1) * 2 ^ f.frac)
    (hnan : (f.decode (f.sign s + p)).isNan = false) : f.encode (f.decode (f.sign s + p)) = f.sign s + p := by
  have htwo := hf.two_le
  rw [Fmt.maxFin_pos] at hp
  rw [add_mul, one_mul] at hlt
  have htop : f.top * 2 ^ f.frac ≤ p := by split at hp <;> omega
  have he : p / 2 ^ f.frac = f.top := Nat.div_eq_of_lt_le htop (by rw [Nat.succ_mul]; exact hlt)
  have hdm := Nat.div_add_mod p (2 ^ f.frac)
  rw [he, Nat.mul_comm] at hdm
  rw [Fmt.decode_fields hf (by rw [add_mul, one_mul]; exact hlt), he] at hnan ⊢
  cases hi : f.ieee with
  | true =>
    simp only [hi, Bool.true_and, beq_self_eq_true, if_true] at hnan ⊢
    by_cases hm : p % 2 ^ f.frac = 0
    · rw [if_pos hm, Fmt.encode, Fmt.inf, if_pos hi]
      omega
    · rw [if_neg hm] at hnan
      cases hnan
  | false =>
    rw [if_neg (by simp [hi])] at hp
    have hm : p % 2 ^ f.frac = 2 ^ f.frac - 1 := by omega
    simp [hi, hm, FVal.isNan] at hnan

theorem Fmt.encode_decode (hf : f.Sound) {x : Nat} (hx : x < 2 ^ f.width) (hnan : (f.decode x).isNan = false) : f.encode (f.decode x) = x := by
  obtain ⟨s, p, hlt, rfl⟩ : ∃ s p, p < 2 ^ (f.width - 1) ∧ x = f.sign s + p := by
    have hw : 2 ^ f.width = 2 ^ (f.width - 1) + 2 ^ (f.width - 1) := by
      rw [← two_mul, ← pow_succ', Nat.sub_add_cancel (by have := hf.width; omega)]
    rcases Nat.lt_or_ge x (2 ^ (f.width - 1)) with h | h
    · exact ⟨false, x, h, by simp [Fmt.sign]⟩
    · exact ⟨true, x - 2 ^ (f.width - 1), by omega, by simp [Fmt.sign]; omega⟩
  rcases Nat.lt_or_ge (f.maxFin false) p with hp | hp
  · exact Fmt.encode_decode_beyond hf hp (hf.pow_width ▸ hlt) hnan
  · exact Fmt.encode_decode_sign_add hf hp

end

/-- The formats of R87. -/
theorem Fmt.sound_of_mem {f : Fmt} (h : f ∈ [fmt64, fmt32, fmt16, fmtB16, fmtE4M3, fmtE5M2]) : f.Sound := by
  simp only [List.mem_cons, List.not_mem_nil, or_false] at h
  rcases h with rfl | rfl | rfl | rfl | rfl | rfl <;> exact ⟨by decide, by decide, by decide, by decide, by decide⟩

/-- Settles O9: the significand rounded to the last bit of its binade is the magnitude rounded to those of the format. -/
theorem roundingIsCorrect : Obligations.RoundingIsCorrect := by
  unfold Obligations.RoundingIsCorrect
  intro f hf
  have hs := Fmt.sound_of_mem hf
  exact ⟨fun rm z neg st m e v hm h0 h1 => Fmt.round_rounds hs hm ⟨h0, fun h => (h1 h).2⟩ fun h => (h1 h).1, fun x hx hnan => Fmt.encode_decode hs hx hnan⟩

end Sys2Proof.Machine
end

section
/-! PROOFS. Float operations: exact values, one rounding, order, integral values and conversions (O10). -/

namespace Sys2Proof.Machine

section
variable {f : Fmt} {rm : Rm} {z s t : Bool} {m n : Nat} {e g : Int}

/-! ## Exact values -/

/-- The value of an exact dyadic number. -/
def Dy.val (d : Dy) : ℚ := d.m * 2 ^ d.e

theorem Dy.val_eq_zero {d : Dy} : d.val = 0 ↔ d.m = 0 := by
  rw [Dy.val, mul_eq_zero, or_iff_left (zpow_ne_zero _ two_ne_zero), Int.cast_eq_zero]

theorem Dy.val_neg {d : Dy} : d.val < 0 ↔ d.m < 0 := by
  rw [Dy.val, mul_neg_iff]
  simp [zpow_pos (two_pos (α := ℚ)), (zpow_pos (two_pos (α := ℚ)) d.e).le.not_gt]

theorem Dy.abs_val (d : Dy) : |d.val| = d.m.natAbs * 2 ^ d.e := by
  rw [Dy.val, abs_mul, abs_of_pos (zpow_pos (two_pos (α := ℚ)) d.e), Nat.cast_natAbs, Int.cast_abs]

theorem zpow_sub_min_mul {a b : Int} (h : b ≤ a) : (2 : ℚ) ^ (a - b).toNat * 2 ^ b = 2 ^ a := by
  rw [← zpow_natCast, Int.toNat_of_nonneg (by omega), ← zpow_add₀ two_ne_zero, sub_add_cancel]

@[simp] theorem Dy.val_add (a b : Dy) : (Dy.add a b).val = a.val + b.val := by
  simp only [Dy.val, Dy.add]
  push_cast
  rw [add_mul, mul_assoc, mul_assoc, zpow_sub_min_mul (min_le_left _ _), zpow_sub_min_mul (min_le_right _ _)]

@[simp] theorem Dy.val_mul (a b : Dy) : (Dy.mul a b).val = a.val * b.val := by
  simp only [Dy.val, Dy.mul]
  rw [zpow_add₀ two_ne_zero]
  push_cast
  ring

theorem Dy.lt_iff {a b : Dy} : Dy.lt a b = true ↔ a.val < b.val := by
  have hneg : (⟨-b.m, b.e⟩ : Dy).val = -b.val := by simp [Dy.val]
  rw [Dy.lt, decide_eq_true_eq, ← Dy.val_neg, Dy.val_add, hneg, ← sub_eq_add_neg, sub_neg]

theorem signedM_eq (s : Bool) (m : Nat) : ((signedM s m : Int) : ℚ) = if s then -(m : ℚ) else m := by
  cases s <;> simp [signedM]

theorem signedM_mul (s t : Bool) (m n : Nat) : signedM (s != t) (m * n) = signedM s m * signedM t n := by
  cases s <;> cases t <;> simp [signedM]

theorem FVal.val_fin : (FVal.fin s m e).val = signedM s m * 2 ^ e := by
  rw [signedM_eq, FVal.val]
  split <;> ring

@[simp] theorem FVal.val_dy (x : FVal) : x.dy.val = x.val := by
  cases x with
  | nan s => simp [FVal.dy, FVal.val, Dy.val]
  | inf s => simp [FVal.dy, FVal.val, Dy.val]
  | fin s m e => rw [FVal.val_fin]; rfl

theorem FVal.val_fin_eq_zero : (FVal.fin s m e).val = 0 ↔ m = 0 := by
  rw [← FVal.val_dy, Dy.val_eq_zero]
  cases s <;> simp [FVal.dy, signedM]

theorem FVal.val_fin_neg (hm : m ≠ 0) : decide ((FVal.fin s m e).val < 0) = s := by
  rw [← FVal.val_dy, Bool.decide_congr Dy.val_neg]
  have := Nat.pos_of_ne_zero hm
  cases s <;> simp [FVal.dy, signedM, this]

theorem FVal.abs_val_fin : |(FVal.fin s m e).val| = m * 2 ^ e := by
  rw [← FVal.val_dy, Dy.abs_val]
  cases s <;> simp [FVal.dy, signedM]

theorem FVal.val_mul_fin : (FVal.fin s m e).val * (FVal.fin t n g).val = (FVal.fin (s != t) (m * n) (e + g)).val := by
  rw [FVal.val_fin, FVal.val_fin, FVal.val_fin, signedM_mul, zpow_add₀ two_ne_zero]
  push_cast
  ring

/-! ## One rounding (R94) -/

/-- `r` is an exact value, rounded once, where zero has the sign given. -/
def Fmt.RoundsValue (f : Fmt) (rm : Rm) (z : Bool) (v : ℚ) (zero : Bool) (r : Nat × FFlags) : Prop :=
  (v ≠ 0 → f.Rounds rm z (decide (v < 0)) ((|v| : ℚ) : ℝ) r) ∧ (v = 0 → r = (f.sign zero, 0))

theorem Truncates.of_exact {v : ℝ} (h : v = m * 2 ^ e) : Truncates m e false v := ⟨fun _ => h, fun h => absurd h Bool.false_ne_true⟩

theorem Fmt.round_rounds_exact (hf : f.Sound) (hm : m ≠ 0) : f.Rounds rm z s ((m * 2 ^ e : ℚ) : ℝ) (f.round rm z s m e) :=
  Fmt.round_rounds hf hm (.of_exact (by push_cast; rfl)) fun h => absurd h Bool.false_ne_true

theorem Fmt.round_zero : f.round rm z s 0 e = (f.sign s, 0) := by
  simp [Fmt.round]

theorem Fmt.round_roundsValue (hf : f.Sound) : f.RoundsValue rm z (FVal.fin s m e).val s (f.round rm z s m e) := by
  refine ⟨fun hv => ?_, fun hv => ?_⟩
  · have hm : m ≠ 0 := fun h => hv (FVal.val_fin_eq_zero.mpr h)
    rw [FVal.val_fin_neg hm, FVal.abs_val_fin]
    exact Fmt.round_rounds_exact hf hm
  · rw [FVal.val_fin_eq_zero.mp hv, Fmt.round_zero]

theorem Fmt.roundInt_roundsValue (hf : f.Sound) (d : Dy) (zero : Bool) : f.RoundsValue rm z d.val zero (f.roundInt rm z d.m d.e zero) := by
  unfold Fmt.roundInt
  refine ⟨fun hv => ?_, fun hv => if_pos (Dy.val_eq_zero.mp hv)⟩
  have hm : d.m ≠ 0 := fun h => hv (Dy.val_eq_zero.mpr h)
  rw [if_neg hm, Bool.decide_congr Dy.val_neg, Dy.abs_val]
  exact Fmt.round_rounds_exact hf (Int.natAbs_ne_zero.mpr hm)

/-! ## Sums and products (R95, R121) -/

theorem Fmt.add_roundsValue (hf : f.Sound) : f.RoundsValue rm z ((FVal.fin s m e).val + (FVal.fin t n g).val)
    (if m = 0 ∧ n = 0 ∧ s = t then s else rm == .d) (f.add rm z (.fin s m e) (.fin t n g)) := by
  have hadd : f.add rm z (.fin s m e) (.fin t n g) = f.roundInt rm z (Dy.add (FVal.fin s m e).dy (FVal.fin t n g).dy).m
      (Dy.add (FVal.fin s m e).dy (FVal.fin t n g).dy).e (if m = 0 ∧ n = 0 ∧ s = t then s else rm == .d) := by
    simp [Fmt.add, FVal.isNan, FVal.isZero, FVal.neg, and_assoc]
  rw [hadd, ← FVal.val_dy, ← FVal.val_dy (.fin t n g), ← Dy.val_add]
  exact Fmt.roundInt_roundsValue hf _ _

theorem Fmt.mul_roundsValue (hf : f.Sound) :
    f.RoundsValue rm z ((FVal.fin s m e).val * (FVal.fin t n g).val) (s != t) (f.mul rm z (.fin s m e) (.fin t n g)) := by
  rw [FVal.val_mul_fin]
  exact Fmt.round_roundsValue hf

theorem Fmt.fma_roundsValue (hf : f.Sound) {u : Bool} {k : Nat} {h : Int} :
    f.RoundsValue rm z ((FVal.fin s m e).val * (FVal.fin t n g).val + (FVal.fin u k h).val)
      (if m * n = 0 ∧ k = 0 ∧ (s != t) = u then u else rm == .d) (f.fma rm z (.fin s m e) (.fin t n g) (.fin u k h)) := by
  have hfma : f.fma rm z (.fin s m e) (.fin t n g) (.fin u k h) = f.roundInt rm z (Dy.add (FVal.fin (s != t) (m * n) (e + g)).dy (FVal.fin u k h).dy).m
      (Dy.add (FVal.fin (s != t) (m * n) (e + g)).dy (FVal.fin u k h).dy).e (if m * n = 0 ∧ k = 0 ∧ (s != t) = u then u else rm == .d) := by
    have hzero : (if m * n = 0 ∧ k = 0 ∧ (s != t) = u then u else rm == .d) = if m * n = 0 ∧ k = 0 ∧ (s != t) = u then s != t else rm == .d :=
      if_ctx_congr Iff.rfl (fun hc => hc.2.2.symm) fun _ => rfl
    rw [hzero]
    simp [Fmt.fma, FVal.isNan, FVal.isZero, FVal.neg, FVal.dy, and_assoc]
  rw [hfma, FVal.val_mul_fin, ← FVal.val_dy, ← FVal.val_dy (.fin u k h), ← Dy.val_add]
  exact Fmt.roundInt_roundsValue hf _ _

/-! ## Quotients and roots (R126) -/

theorem Truncates.of_div (a : Nat) (hn : n ≠ 0) : Truncates (a / n) e (a % n != 0) ((a : ℝ) / n * 2 ^ e) := by
  have hn' : (0 : ℝ) < n := Nat.cast_pos.mpr (Nat.pos_of_ne_zero hn)
  have hu : (0 : ℝ) < 2 ^ e := zpow_pos two_pos e
  have hdm := Nat.div_add_mod a n
  refine ⟨fun h => ?_, fun h => ⟨?_, ?_⟩⟩
  · rw [Nat.cast_div (Nat.dvd_of_mod_eq_zero (by simpa using h)) hn'.ne']
  · refine mul_lt_mul_of_pos_right ((lt_div_iff₀ hn').mpr ?_) hu
    rw [← Nat.cast_mul, Nat.cast_lt, Nat.mul_comm]
    have hne : a % n ≠ 0 := by simpa using h
    omega
  · refine mul_lt_mul_of_pos_right ((div_lt_iff₀ hn').mpr ?_) hu
    rw [← Nat.cast_succ, ← Nat.cast_mul, Nat.cast_lt, Nat.mul_comm]
    exact Nat.lt_mul_div_succ a (Nat.pos_of_ne_zero hn)

theorem lt_log2_of_pow_le {k x : Nat} (h : 2 ^ (k + 1) ≤ x) : k < Nat.log2 x :=
  (Nat.le_log2 (Nat.two_pow_pos _ |>.trans_le h).ne').mpr h

theorem FVal.val_div (hm : m ≠ 0) (hn : n ≠ 0) : decide ((FVal.fin s m e).val / (FVal.fin t n g).val < 0) = (s != t) ∧
    |(FVal.fin s m e).val / (FVal.fin t n g).val| = m * 2 ^ e / (n * 2 ^ g) := by
  have hm' : (0 : ℚ) < m := Nat.cast_pos.mpr (Nat.pos_of_ne_zero hm)
  have hn' : (0 : ℚ) < n := Nat.cast_pos.mpr (Nat.pos_of_ne_zero hn)
  have hpos : (0 : ℚ) < m * 2 ^ e / (n * 2 ^ g) := by positivity
  refine ⟨?_, by rw [abs_div, FVal.abs_val_fin, FVal.abs_val_fin]⟩
  cases s <;> cases t <;> simp [FVal.val, neg_div, div_neg, hpos, hpos.le]

theorem Fmt.div_roundsValue (hf : f.Sound) (hn : n ≠ 0) :
    f.RoundsValue rm z ((FVal.fin s m e).val / (FVal.fin t n g).val) (s != t) (f.div rm z (.fin s m e) (.fin t n g)) := by
  have hb : (FVal.fin t n g).val ≠ 0 := fun h => hn (FVal.val_fin_eq_zero.mp h)
  by_cases hm : m = 0
  · refine ⟨fun hv => absurd (by rw [FVal.val_fin_eq_zero.mpr hm, zero_div]) hv, fun _ => ?_⟩
    simp [Fmt.div, FVal.isNan, FVal.neg, hm, hn]
  · obtain ⟨hneg, habs⟩ := FVal.val_div (s := s) (t := t) (e := e) (g := g) hm hn
    refine ⟨fun _ => ?_, fun hv => absurd ((div_eq_zero_iff.mp hv).resolve_right hb) fun h => hm (FVal.val_fin_eq_zero.mp h)⟩
    have hdiv : f.div rm z (.fin s m e) (.fin t n g) = f.round rm z (s != t) (m * 2 ^ (f.frac + 4 + Nat.log2 n) / n) (e - g - (f.frac + 4 + Nat.log2 n : Nat))
        (m * 2 ^ (f.frac + 4 + Nat.log2 n) % n != 0) := by
      simp [Fmt.div, FVal.isNan, FVal.neg, hm, hn]
    have hbits : 2 ^ (f.frac + 1) ≤ m * 2 ^ (f.frac + 4 + Nat.log2 n) / n := by
      rw [Nat.le_div_iff_mul_le (Nat.pos_of_ne_zero hn)]
      calc 2 ^ (f.frac + 1) * n ≤ 2 ^ (f.frac + 1) * 2 ^ (Nat.log2 n + 1) := Nat.mul_le_mul_left _ Nat.lt_log2_self.le
        _ ≤ 2 ^ (f.frac + 4 + Nat.log2 n) := by rw [← pow_add]; exact Nat.pow_le_pow_right two_pos (by omega)
        _ ≤ m * 2 ^ (f.frac + 4 + Nat.log2 n) := Nat.le_mul_of_pos_left _ (Nat.pos_of_ne_zero hm)
    rw [hdiv, hneg, habs]
    refine Fmt.round_rounds hf ((Nat.two_pow_pos _).trans_le hbits).ne' ?_ fun _ => lt_log2_of_pow_le hbits
    have hval : ((m * 2 ^ e / (n * 2 ^ g) : ℚ) : ℝ) =
        ((m * 2 ^ (f.frac + 4 + Nat.log2 n) : Nat) : ℝ) / n * 2 ^ (e - g - (f.frac + 4 + Nat.log2 n : Nat)) := by
      rw [zpow_sub₀ two_ne_zero, zpow_sub₀ two_ne_zero, zpow_natCast]
      push_cast
      field_simp
    rw [hval]
    exact Truncates.of_div _ hn

theorem isqrt_spec (N : Nat) : ∀ k r, r * r ≤ N → N < (r + 2 ^ k) * (r + 2 ^ k) → isqrt N k r = Nat.sqrt N
  | 0, r, hlow, hup => (Nat.eq_sqrt.mpr ⟨hlow, hup⟩)
  | k + 1, r, hlow, hup => by
    rw [isqrt]
    split
    · exact isqrt_spec N k _ ‹_› (by rwa [add_assoc, ← two_mul, ← pow_succ'])
    · exact isqrt_spec N k r hlow (not_le.mp ‹_›)

theorem isqrt_eq_sqrt {N k : Nat} (h : N < 2 ^ k * 2 ^ k) : isqrt N k 0 = Nat.sqrt N :=
  isqrt_spec N k 0 (Nat.zero_le _) (by simpa using h)

/-- The integer part of a square root. -/
theorem Truncates.of_sqrt {y : ℝ} {r : Nat} {st : Bool} (hlow : (r : ℝ) * r ≤ y) (hup : y < (r + 1) * (r + 1)) (hst : st = true ↔ (r : ℝ) * r ≠ y) :
    Truncates r e st (Real.sqrt y * 2 ^ e) := by
  have hu : (0 : ℝ) < 2 ^ e := zpow_pos two_pos e
  refine ⟨fun h => ?_, fun h => ⟨?_, ?_⟩⟩
  · have hy : (r : ℝ) * r = y := not_not.mp fun hne => by simp [hst.mpr hne] at h
    rw [← hy, Real.sqrt_mul_self (Nat.cast_nonneg r)]
  · refine mul_lt_mul_of_pos_right ((Real.lt_sqrt (Nat.cast_nonneg r)).mpr ?_) hu
    rw [sq]
    exact lt_of_le_of_ne hlow (hst.mp h)
  · refine mul_lt_mul_of_pos_right ((Real.sqrt_lt' (by positivity)).mpr ?_) hu
    rwa [sq]

theorem lt_pow_log2_half (N : Nat) : N < 2 ^ (Nat.log2 N / 2 + 1) * 2 ^ (Nat.log2 N / 2 + 1) := by
  rw [← pow_add]
  exact Nat.lt_log2_self.trans_le (Nat.pow_le_pow_right two_pos (by omega))

theorem sqrt_mul_zpow {y : ℝ} (hy : 0 ≤ y) (j : Int) : Real.sqrt (y * 2 ^ (2 * j)) = Real.sqrt y * 2 ^ j := by
  rw [mul_comm 2 j, zpow_mul, Real.sqrt_mul hy, zpow_ofNat, Real.sqrt_sq (zpow_pos two_pos j).le]

theorem Fmt.sqrt_rounds (hf : f.Sound) (hm : m ≠ 0) : f.Rounds rm z false (Real.sqrt (m * (2 : ℝ) ^ e)) (f.sqrt rm z (.fin false m e)) := by
  unfold Fmt.sqrt
  dsimp only
  rw [if_neg hm, if_neg Bool.false_ne_true]
  set k := 2 * (f.frac + 4) + (if e % 2 = 0 then 0 else 1) with hk
  have heven : e - k = 2 * ((e - k) / 2) := by split at hk <;> omega
  have hroot : isqrt (m * 2 ^ k) (Nat.log2 (m * 2 ^ k) / 2 + 1) 0 = Nat.sqrt (m * 2 ^ k) := isqrt_eq_sqrt (lt_pow_log2_half _)
  have hval : m * (2 : ℝ) ^ e = ((m * 2 ^ k : Nat) : ℝ) * 2 ^ (2 * ((e - k) / 2)) := by
    rw [← heven, zpow_sub₀ two_ne_zero, zpow_natCast]
    push_cast
    field_simp
  have hbits : 2 ^ (f.frac + 1) ≤ Nat.sqrt (m * 2 ^ k) := by
    rw [Nat.le_sqrt, ← pow_add]
    exact (Nat.pow_le_pow_right two_pos (by omega)).trans (Nat.le_mul_of_pos_left _ (Nat.pos_of_ne_zero hm))
  rw [hroot, hval, sqrt_mul_zpow (Nat.cast_nonneg _)]
  refine Fmt.round_rounds hf ((Nat.two_pow_pos _).trans_le hbits).ne' (.of_sqrt ?_ ?_ ?_) fun _ => lt_log2_of_pow_le hbits
  · exact_mod_cast Nat.sqrt_le _
  · exact_mod_cast Nat.lt_succ_sqrt _
  · rw [bne_iff_ne, ne_eq, ne_eq, ← Nat.cast_mul, Nat.cast_inj]

/-- The mantissa and the even exponent that FRSQ takes. -/
theorem exists_even_exponent (m : Nat) (e : Int) : ∃ n j, (if e % 2 = 0 then (m, e) else (2 * m, e - 1)) = (n, 2 * j) ∧
    (n : ℝ) * 2 ^ (2 * j) = m * 2 ^ e ∧ (m ≠ 0 → n ≠ 0) := by
  split
  · obtain ⟨j, hj⟩ : ∃ j, e = 2 * j := ⟨e / 2, by omega⟩
    exact ⟨m, j, by rw [hj], by rw [hj], id⟩
  · obtain ⟨j, hj⟩ : ∃ j, e = 2 * j + 1 := ⟨e / 2, by omega⟩
    refine ⟨2 * m, j, by rw [hj, add_sub_cancel_right], ?_, by omega⟩
    rw [hj, zpow_add_one₀ two_ne_zero]
    push_cast
    ring

theorem Fmt.rsqrt_rounds (hf : f.Sound) (hm : m ≠ 0) : f.Rounds rm z false (1 / Real.sqrt (m * (2 : ℝ) ^ e)) (f.rsqrt rm z (.fin false m e)) := by
  obtain ⟨n, j, hpair, hval, hne⟩ := exists_even_exponent m e
  have hn := hne hm
  have hn' : (0 : ℝ) < n := Nat.cast_pos.mpr (Nat.pos_of_ne_zero hn)
  unfold Fmt.rsqrt
  dsimp only
  rw [if_neg hm, if_neg Bool.false_ne_true, hpair]
  dsimp only
  rw [Int.mul_ediv_cancel_left _ two_ne_zero, ← hval]
  set k := f.frac + 4 + Nat.log2 n / 2 + 1 with hk
  have hroot : isqrt (2 ^ (2 * k) / n) (k + 1) 0 = Nat.sqrt (2 ^ (2 * k) / n) := by
    refine isqrt_eq_sqrt ((Nat.div_le_self _ _).trans_lt ?_)
    rw [← pow_add]
    exact Nat.pow_lt_pow_right one_lt_two (by omega)
  have hbits : 2 ^ (f.frac + 1) ≤ Nat.sqrt (2 ^ (2 * k) / n) := by
    rw [Nat.le_sqrt, Nat.le_div_iff_mul_le (Nat.pos_of_ne_zero hn)]
    calc 2 ^ (f.frac + 1) * 2 ^ (f.frac + 1) * n ≤ 2 ^ (f.frac + 1) * 2 ^ (f.frac + 1) * 2 ^ (Nat.log2 n + 1) := Nat.mul_le_mul_left _ Nat.lt_log2_self.le
      _ ≤ 2 ^ (2 * k) := by rw [← pow_add, ← pow_add]; exact Nat.pow_le_pow_right two_pos (by omega)
  have hinv : 1 / Real.sqrt ((n : ℝ) * 2 ^ (2 * j)) = Real.sqrt (((2 ^ (2 * k) : Nat) : ℝ) / n) * 2 ^ (-j - k) := by
    rw [sqrt_mul_zpow hn'.le, Real.sqrt_div' _ hn'.le, zpow_sub₀ two_ne_zero, zpow_neg, zpow_natCast, Nat.cast_pow, Nat.cast_ofNat, mul_comm 2 k, pow_mul,
      Real.sqrt_sq (by positivity)]
    field_simp
  rw [hroot, hinv]
  set r := Nat.sqrt (2 ^ (2 * k) / n) with hr
  refine Fmt.round_rounds hf ((Nat.two_pow_pos _).trans_le hbits).ne' (.of_sqrt ?_ ?_ ?_) fun _ => lt_log2_of_pow_le hbits
  · rw [le_div_iff₀ hn']
    exact_mod_cast (Nat.le_div_iff_mul_le (Nat.pos_of_ne_zero hn)).mp (Nat.sqrt_le _)
  · rw [div_lt_iff₀ hn']
    exact_mod_cast (Nat.div_lt_iff_lt_mul (Nat.pos_of_ne_zero hn)).mp (Nat.lt_succ_sqrt _)
  · rw [bne_iff_ne, ne_eq, ne_eq, eq_div_iff hn'.ne', ← Nat.cast_mul, ← Nat.cast_mul, Nat.cast_inj]

/-! ## Order and exact sums (R97, R102) -/

theorem FVal.lt_iff : FVal.lt false (.fin s m e) (.fin t n g) = true ↔ (FVal.fin s m e).val < (FVal.fin t n g).val := by
  unfold FVal.lt
  dsimp only
  split
  · rename_i h
    simp only [Bool.and_eq_true, FVal.isZero, beq_iff_eq] at h
    rw [FVal.val_fin_eq_zero.mpr h.1, FVal.val_fin_eq_zero.mpr h.2]
    simp
  · rw [Dy.lt_iff, FVal.val_dy, FVal.val_dy]

theorem FVal.val_mul : (FVal.mul (.fin s m e) (.fin t n g)).val = (FVal.fin s m e).val * (FVal.fin t n g).val :=
  FVal.val_mul_fin.symm

theorem Dy.val_foldl_add (xs : List FVal) (d : Dy) : (xs.foldl (fun a x => Dy.add a x.dy) d).val = d.val + (xs.map FVal.val).sum := by
  induction xs generalizing d with
  | nil => simp
  | cons x xs ih => rw [List.foldl_cons, ih, Dy.val_add, FVal.val_dy, List.map_cons, List.sum_cons, add_assoc]

theorem FVal.val_of_dy {d : Dy} {zero : Bool} : (FVal.fin (if d.m = 0 then zero else decide (d.m < 0)) d.m.natAbs d.e).val = d.val := by
  rw [FVal.val_fin, Dy.val]
  congr 2
  unfold signedM
  by_cases h0 : d.m = 0
  · simp [h0]
  · by_cases hneg : d.m < 0 <;> simp only [h0, hneg, if_false, decide_true, decide_false, if_true, Bool.false_eq_true] <;> omega

theorem FVal.sum_finite {xs : List FVal} (h : ∀ x ∈ xs, x.special = false) :
    (FVal.sum xs).special = false ∧ (FVal.sum xs).val = (xs.map FVal.val).sum := by
  have hnan : xs.any FVal.isNan = false := List.any_eq_false.mpr fun x hx => by
    have := h x hx
    cases x <;> simp_all [FVal.special, FVal.isNan]
  have hinf : ∀ b, (xs.any fun x => x == .inf b) = false := fun b => List.any_eq_false.mpr fun x hx => by
    have := h x hx
    cases x <;> simp_all [FVal.special]
  unfold FVal.sum
  simp only [hnan, hinf, Bool.and_false, Bool.or_false, Bool.false_eq_true, if_false]
  refine ⟨rfl, ?_⟩
  rw [FVal.val_of_dy, Dy.val_foldl_add]
  simp [Dy.val]

end
end Sys2Proof.Machine
end

section
/-! PROOFS. Integral values and conversions (O10). -/

namespace Sys2Proof.Machine

section
variable {f : Fmt} {rm : Rm} {s : Bool} {m n : Nat} {e : Int}

/-! ## Rounding to an integer (R94, R124) -/

theorem toIntegral_roundsTo (rm : Rm) (neg : Bool) (m : Nat) (e : Int) :
    ∃ n, rm.RoundsTo neg ((m : ℝ) * 2 ^ e) (units 1) n (toIntegral rm neg m e) := by
  have hone : (2 : ℝ) ^ (0 : Int) = 1 := zpow_zero 2
  unfold toIntegral
  split
  · refine ⟨m * 2 ^ e.toNat, Rm.roundsTo_exact ?_ ?_⟩
    · rw [units_succ, units]; linarith
    · rw [units, mul_one, Nat.cast_mul, zpow_toNat ‹_›]
  · obtain ⟨n, hn⟩ := shiftTo_roundsTo (rm := rm) (neg := neg) (q := 0) (.of_exact (m := m) (e := e) rfl) fun h => absurd h Bool.false_ne_true
    rw [shiftTo, if_pos (by omega), zero_sub, hone] at hn
    exact ⟨n, hn⟩

theorem units_one_strictMono : StrictMono (units 1) := fun a b h => by
  simpa [units] using h

/-- Rounding to the multiples of 1 is rounding to an integer. -/
theorem Rm.RoundsTo.roundsInt {neg : Bool} {v : ℚ} {r : Nat × Bool} (h : rm.RoundsTo neg (v : ℝ) (units 1) n r) : rm.RoundsInt neg v r.1 := by
  obtain ⟨k, i⟩ := r
  have hcast : ∀ j : Nat, units 1 j = ((j : ℚ) : ℝ) := fun j => by simp [units]
  obtain ⟨hlow, hupp, hnear, hup, -⟩ := h
  rw [hcast, Rat.cast_le] at hlow
  rw [hcast, Rat.cast_lt, Nat.cast_succ] at hupp
  have hmid : units 1 n + units 1 (n + 1) < 2 * (v : ℝ) ↔ (n : ℚ) + (n + 1) < 2 * v := by
    rw [hcast, hcast, Nat.cast_succ]; exact_mod_cast Iff.rfl
  have htie : 2 * (v : ℝ) = units 1 n + units 1 (n + 1) ↔ 2 * v = (n : ℚ) + (n + 1) := by
    rw [hcast, hcast, Nat.cast_succ]; exact_mod_cast Iff.rfl
  simp only [Rm.Up, hmid, htie] at hup hnear
  simp only [hcast, Rat.cast_lt] at hup
  refine ⟨fun hrm => ?_, fun hrm ht => ?_, fun hrm ht => ?_⟩
  · simp only [hrm, true_and, ne_eq, not_true, false_and, or_false] at hup
    rcases hnear with rfl | rfl
    · have hno : ¬ ((k : ℚ) + (k + 1) < 2 * v ∨ 2 * v = k + (k + 1) ∧ k % 2 = 1) := fun hh => absurd (hup.mpr hh) (by omega)
      rw [not_or, not_lt] at hno
      rw [abs_sub_comm, abs_of_nonneg (by linarith)]
      refine ⟨by linarith, fun heq => ?_⟩
      by_contra hodd
      exact hno.2 ⟨by linarith, by omega⟩
    · have hmid' := hup.mp rfl
      have hle : (n : ℚ) + (n + 1) ≤ 2 * v := hmid'.elim (fun hlt => hlt.le) fun ht => ht.1.ge
      rw [Nat.cast_succ, abs_of_nonneg (by linarith)]
      refine ⟨by linarith, fun heq => ?_⟩
      have := (hmid'.resolve_left (by linarith)).2
      omega
  · simp only [hrm, ht, false_and, Bool.true_eq_false, and_false, or_false, iff_false] at hup
    rw [hnear.resolve_right hup]
    exact ⟨hlow, hupp⟩
  · simp only [hrm, ht, false_and, ne_eq, not_false_iff, true_and, false_or] at hup
    rcases hnear with rfl | rfl
    · exact ⟨not_lt.mp fun hlt => absurd (hup.mpr hlt) (by omega), by linarith⟩
    · have := hup.mp rfl
      rw [Nat.cast_succ]
      exact ⟨hupp.le, by linarith⟩

theorem toIntegral_roundsInt (rm : Rm) (s : Bool) (m : Nat) (e : Int) : rm.RoundsInt s (FVal.fin s m e).mag (toIntegral rm s m e).1 ∧
    ((toIntegral rm s m e).2 = true ↔ ((toIntegral rm s m e).1 : ℚ) ≠ (FVal.fin s m e).mag) := by
  obtain ⟨n, hn⟩ := toIntegral_roundsTo rm s m e
  have hv : ((m : ℝ) * 2 ^ e) = (((FVal.fin s m e).mag : ℚ) : ℝ) := by
    rw [FVal.mag]; push_cast; rfl
  rw [hv] at hn
  generalize toIntegral rm s m e = r at hn ⊢
  refine ⟨hn.roundsInt, ?_⟩
  rw [Rm.RoundsTo.inexact_iff units_one_strictMono hn, units, mul_one, ← Rat.cast_natCast, ne_eq, ne_eq, Rat.cast_inj]

/-! ## FFLOOR to FRINT (R124) -/

/-- A significand of the format, at an exponent that it has, is one of its magnitudes. -/
theorem Fmt.exists_grid (hf : f.Sound) (hi : f.ieee = true) (k : Nat) (hm : m < 2 ^ (f.frac + 1)) (he : (k : Int) + f.eleast + f.frac ≤ f.emax) :
    ∃ p, p ≤ f.maxFin false ∧ f.grid p = m * (2 : ℝ) ^ (k + f.eleast) := by
  have hemax : f.emax = (f.top : Int) - 1 - f.bias := by
    have := hf.high
    rw [Fmt.emax, if_pos hi]
    omega
  have hmax : f.maxFin false = f.top * 2 ^ f.frac - 1 := by rw [Fmt.maxFin_pos, if_pos hi]
  have hpos : 0 < 2 ^ f.frac := Nat.two_pow_pos _
  induction k generalizing m with
  | zero =>
    have hfits : f.Fits 0 m := ⟨.inl rfl, hm.le⟩
    have hle : 2 * 2 ^ f.frac ≤ f.top * 2 ^ f.frac := Nat.mul_le_mul_right _ (by have := hf.high; have := hf.bias; omega)
    rw [pow_succ] at hm
    exact ⟨0 * 2 ^ f.frac + m, by omega, Fmt.grid_of hfits⟩
  | succ k ih =>
    rcases Nat.lt_or_ge m (2 ^ f.frac) with hlt | hge
    · obtain ⟨p, hp, hgrid⟩ := ih (m := 2 * m) (by rw [pow_succ]; omega) (by push_cast at he; omega)
      refine ⟨p, hp, hgrid.trans ?_⟩
      push_cast
      rw [add_right_comm, zpow_add_one₀ two_ne_zero]
      ring
    · have hle : (k + 3) * 2 ^ f.frac ≤ f.top * 2 ^ f.frac := by
        refine Nat.mul_le_mul_right _ ?_
        rw [hemax, Fmt.eleast, Fmt.emin] at he
        push_cast at he
        omega
      have hfits : f.Fits (k + 1) m := ⟨.inr hge, hm.le⟩
      rw [pow_succ] at hm
      rw [add_mul] at hle
      exact ⟨(k + 1) * 2 ^ f.frac + m, by rw [add_mul]; omega, Fmt.grid_of hfits⟩

theorem Fmt.encode_grid (hf : f.Sound) {p : Nat} (hp : p ≤ f.maxFin false) (h : f.grid p = m * (2 : ℝ) ^ e) : f.encode (.fin s m e) = f.sign s + p := by
  rw [Fmt.encode]
  by_cases hm : m = 0
  · have hp0 : p = 0 := f.grid_strictMono.injective (h.trans (by simp [hm, Fmt.grid]))
    rw [hm, hp0, Fmt.round_zero, Nat.add_zero]
  · rw [Fmt.round_grid hf hm h.symm hp]

/-- A value that the format has decodes again from its pattern, sign and magnitude. -/
theorem Fmt.decode_encode (hf : f.Sound) (hi : f.ieee = true) (hm : m < 2 ^ (f.frac + 1)) (hlow : f.eleast ≤ e) (hhigh : e + f.frac ≤ f.emax) :
    f.mag (f.encode (.fin s m e)) = m * 2 ^ e ∧ (f.decode (f.encode (.fin s m e))).neg = s := by
  obtain ⟨k, hk⟩ : ∃ k : Nat, (k : Int) + f.eleast = e := ⟨(e - f.eleast).toNat, by omega⟩
  obtain ⟨p, hp, hgrid⟩ := Fmt.exists_grid hf hi k hm (by omega)
  rw [hk] at hgrid
  rw [Fmt.encode_grid hf hp hgrid, Fmt.mag, Fmt.decode_sign_add hf hp]
  refine ⟨?_, rfl⟩
  have hmag : (((FVal.fin s (p - f.binade p * 2 ^ f.frac) (f.binade p + f.eleast)).mag : ℚ) : ℝ) = ((m * 2 ^ e : ℚ) : ℝ) := by
    rw [FVal.mag]
    push_cast
    exact hgrid
  exact Rat.cast_injective hmag

/-- A magnitude below 1 unit in the last place of the largest integers that the format counts by ones rounds to an integer that it has. -/
theorem toIntegral_lt (hm : m < 2 ^ (f.frac + 1)) (he : e < 0) : (toIntegral rm s m e).1 < 2 ^ (f.frac + 1) := by
  obtain ⟨n, hn⟩ := toIntegral_roundsTo rm s m e
  have hv : (m : ℝ) * 2 ^ e < 2 ^ ((0 : Int) + f.frac) := by
    have h1 : (m : ℝ) < 2 ^ (f.frac + 1) := by exact_mod_cast hm
    have h2 : (2 : ℝ) ^ e ≤ 2 ^ (-1 : Int) := zpow_two_le (by omega)
    have h3 : (0 : ℝ) < 2 ^ e := zpow_pos two_pos e
    calc (m : ℝ) * 2 ^ e < 2 ^ (f.frac + 1) * 2 ^ e := mul_lt_mul_of_pos_right h1 h3
      _ ≤ 2 ^ (f.frac + 1) * 2 ^ (-1 : Int) := mul_le_mul_of_nonneg_left h2 (by positivity)
      _ = 2 ^ ((0 : Int) + f.frac) := by rw [zero_add, zpow_natCast, pow_succ, zpow_neg_one]; ring
  have hlt : n < 2 ^ f.frac := lt_pow_of_units (q := 0) (by rw [zpow_zero]; exact hn.lower) hv
  rw [pow_succ]
  have := hn.near
  omega

theorem Fmt.integral_rounds (hf : f.Sound) (hi : f.ieee = true) (nx : Bool) (hm : m < 2 ^ (f.frac + 1)) (hlow : f.emin - f.frac ≤ e)
    (hhigh : e + f.frac ≤ f.emax) : ∃ i : Nat, rm.RoundsInt s (FVal.fin s m e).mag i ∧ f.mag (f.integral rm nx (.fin s m e)).1 = i ∧
      (f.decode (f.integral rm nx (.fin s m e)).1).neg = s ∧
      (f.integral rm nx (.fin s m e)).2 = if nx = true ∧ (i : ℚ) ≠ (FVal.fin s m e).mag then nxF else 0 := by
  obtain ⟨hint, hinexact⟩ := toIntegral_roundsInt rm s m e
  refine ⟨_, hint, ?_⟩
  unfold Fmt.integral
  dsimp only
  by_cases he : 0 ≤ e
  · have hval : (toIntegral rm s m e) = (m * 2 ^ e.toNat, false) := if_pos he
    have hmag : ((m * 2 ^ e.toNat : Nat) : ℚ) = m * 2 ^ e := by
      rw [Nat.cast_mul, Nat.cast_pow, Nat.cast_ofNat, ← zpow_natCast, Int.toNat_of_nonneg he]
    obtain ⟨h1, h2⟩ := Fmt.decode_encode (s := s) hf hi hm hlow hhigh
    rw [if_pos he, hval]
    refine ⟨h1.trans hmag.symm, h2, ?_⟩
    simp [FVal.mag, hmag]
  · have hwide := hf.wide
    have hbias := hf.bias
    obtain ⟨h1, h2⟩ := Fmt.decode_encode (s := s) (e := 0) hf hi (toIntegral_lt (rm := rm) (s := s) hm (not_le.mp he))
      (by rw [Fmt.eleast, Fmt.emin]; omega) (by omega)
    rw [if_neg he]
    refine ⟨by rw [h1, zpow_zero, mul_one], h2, ?_⟩
    simp only [flagIf, Bool.and_eq_true, hinexact]

/-! ## Conversions to floats and integers (R100) -/

variable {src dst x : Nat} {sat : Bool}

theorem convert_float (ha : (cvRead (cvOf src) x).1 = .fin s m e) (hd : cvOf dst = .flt f) : convert src dst rm sat x =
    if (sat && !cvSatFree src dst && (f.round rm false s m e).2.getLsbD 2) = true then (f.maxFin s, (f.round rm false s m e).2)
    else f.round rm false s m e := by
  have hof : ∀ y : FFlags, (y &&& ofF != 0) = y.getLsbD 2 := by decide
  rw [convert, ha, hd]
  simp only [cvWrite, toFloat, hof]

theorem convert_float_rounds (hf : f.Sound) (ha : (cvRead (cvOf src) x).1 = .fin s m e) (hd : cvOf dst = .flt f) :
    (m ≠ 0 → f.Rounds rm false s ((FVal.fin s m e).mag : ℝ) (convert src dst rm false x)) ∧ (m = 0 → convert src dst rm false x = (f.sign s, 0)) := by
  rw [convert_float ha hd]
  refine ⟨fun hm => Fmt.round_rounds_exact hf hm, fun hm => ?_⟩
  rw [hm, Fmt.round_zero]
  rfl

theorem cvRead_int_none (h : src < 7) : (cvRead (cvOf src) x).2 = none := by
  interval_cases src <;> rfl

theorem le_of_cvOf_int {w : Nat} {signed : Bool} (h : cvOf dst = .int w signed) : 7 ≤ dst := by
  by_contra hlt
  have : dst < 7 := by omega
  interval_cases dst <;> cases h

theorem cvSatFree_int (hs : src < 7) (hd : 7 ≤ dst) : cvSatFree src dst = false := by
  have hne : ∀ k, k < 7 → (dst == k) = false := fun k hk => beq_eq_false_iff_ne.mpr (by omega)
  have hsne : ∀ k, 7 ≤ k → (src == k) = false := fun k hk => beq_eq_false_iff_ne.mpr (by omega)
  simp [cvSatFree, cvExact, hne, hsne, hd, Nat.not_le.mpr hs, Nat.not_le.mpr (show 6 < dst by omega)]

theorem intMin_le_intMax (w : Nat) (signed : Bool) : intMin w signed ≤ intMax w signed := by
  have hw : (1 : Int) ≤ 2 ^ w := by exact_mod_cast Nat.one_le_two_pow
  have hw' : (1 : Int) ≤ 2 ^ (w - 1) := by exact_mod_cast Nat.one_le_two_pow
  cases signed <;> simp only [intMin, intMax, if_true, if_false, Bool.false_eq_true] <;> omega

theorem toInt_fin {w : Nat} {signed : Bool} : toInt w signed rm sat (.fin s m e) =
    let y : Int := if s then -((toIntegral rm s m e).1 : Int) else (toIntegral rm s m e).1
    if y < intMin w signed then (intPat w (if sat || signed then intMin w signed else intMax w signed), nvF)
    else if intMax w signed < y then (intPat w (if sat || !signed then intMax w signed else intMin w signed), nvF)
    else (intPat w y, flagIf (toIntegral rm s m e).2 nxF) := by
  cases sat <;> cases signed <;> rfl

/-- A conversion to an integer format gives the rounded integer, or, out of range, a bound of the format and NV. -/
theorem toInt_rounds (rm : Rm) (s : Bool) (m : Nat) (e : Int) (sat : Bool) (w : Nat) (signed : Bool) : ∃ i : Nat, rm.RoundsInt s (FVal.fin s m e).mag i ∧
    let y : Int := if s then -(i : Int) else i
    let lo := intMin w signed
    let hi := intMax w signed
    let r := toInt w signed rm sat (.fin s m e)
    (lo ≤ y → y ≤ hi → r = ((y % 2 ^ w).toNat, if (i : ℚ) = (FVal.fin s m e).mag then 0 else nxF)) ∧
      (y < lo → r = (((if sat || signed then lo else hi) % 2 ^ w).toNat, nvF)) ∧
      (hi < y → r = (((if sat || !signed then hi else lo) % 2 ^ w).toNat, nvF)) := by
  obtain ⟨hint, hinexact⟩ := toIntegral_roundsInt rm s m e
  have hle := intMin_le_intMax w signed
  refine ⟨_, hint, fun hlow hhigh => ?_, fun hlow => ?_, fun hhigh => ?_⟩
  · have hnx : flagIf (toIntegral rm s m e).2 nxF = if ((toIntegral rm s m e).1 : ℚ) = (FVal.fin s m e).mag then 0 else nxF := by
      rw [flagIf, if_congr hinexact rfl rfl, ite_not]
    rw [← hnx]
    exact toInt_fin.trans ((if_neg (not_lt.mpr hlow)).trans (if_neg (not_lt.mpr hhigh)))
  · exact toInt_fin.trans (if_pos hlow)
  · have hno : ¬ (if s then -((toIntegral rm s m e).1 : Int) else (toIntegral rm s m e).1) < intMin w signed := not_lt.mpr (hle.trans hhigh.le)
    exact toInt_fin.trans ((if_neg hno).trans (if_pos hhigh))

theorem convert_int {w : Nat} {signed : Bool} (ha : (cvRead (cvOf src) x).1 = .fin s m e) (hs : src < 7) (hd : cvOf dst = .int w signed) :
    convert src dst rm sat x = toInt w signed rm sat (.fin s m e) := by
  rw [convert, ha, hd, cvRead_int_none hs, cvSatFree_int hs (le_of_cvOf_int hd), Bool.not_false, Bool.and_true]
  rfl

/-! ## DS8 (R91 to R93) -/

theorem ds8Val_mag (c : Nat) : (ds8Val c).mag = (ds8Units c).natAbs / 64 := by
  rw [ds8Val, FVal.mag, show (2 : ℚ) ^ (-6 : Int) = 1 / 64 by norm_num]
  ring

theorem ds8Val_eq_zero (c : Nat) : (ds8Val c).val = 0 ↔ ds8Units c = 0 := by
  rw [ds8Val, FVal.val_fin_eq_zero, Int.natAbs_eq_zero]

/-- Every code's magnitude is one that DS8's canonical codes have. -/
theorem natAbs_ds8Units_mem : ∀ c, c < 256 → (ds8Units c).natAbs ∈ ds8Mags := by
  decide +kernel

/-- DS8 has a code of each sign for each of its magnitudes. -/
theorem ds8Units_ds8Code : ∀ r ∈ ds8Mags, ∀ s : Bool, ds8Units (ds8Code (signedM s r)) = signedM s r := by
  decide +kernel

theorem ds8Mags_bounds : 0 ∈ ds8Mags ∧ 128 ∈ ds8Mags := by
  decide +kernel

/-- A fold that keeps one of its two operands, the one that stands higher in an order, ends in the highest. -/
theorem foldl_pick {α : Type} {op : α → α → α} {R : α → α → Prop} (hmem : ∀ a b, op a b = a ∨ op a b = b) (hl : ∀ a b, R a (op a b))
    (hr : ∀ a b, R b (op a b)) (hrefl : ∀ a, R a a) (htrans : ∀ a b d, R a b → R b d → R a d) (xs : List α) (a : α) :
    xs.foldl op a ∈ a :: xs ∧ ∀ x ∈ a :: xs, R x (xs.foldl op a) := by
  induction xs generalizing a with
  | nil => simpa using hrefl a
  | cons y ys ih =>
    obtain ⟨hin, hall⟩ := ih (op a y)
    simp only [List.foldl_cons, List.mem_cons, forall_eq_or_imp] at hin hall ⊢
    refine ⟨?_, htrans _ _ _ (hl a y) hall.1, htrans _ _ _ (hr a y) hall.1, hall.2⟩
    rcases hin with hin | hin
    · exact (hmem a y).imp (fun h => hin.trans h) fun h => .inl (hin.trans h)
    · exact .inr (.inr hin)

/-- The magnitude m × 2^e in units of 2^−6, as a quotient. -/
def ds8Num (m : Nat) (e : Int) : Nat := if 0 ≤ e + 6 then m * 2 ^ (e + 6).toNat else m
def ds8Den (e : Int) : Nat := if 0 ≤ e + 6 then 1 else 2 ^ (-(e + 6)).toNat

/-- The neighbours of n / d among the magnitudes of DS8. -/
def ds8Below (n d : Nat) : Nat := (ds8Mags.filter fun x => x * d ≤ n).foldl max 0
def ds8Above (n d : Nat) : Nat := (ds8Mags.filter fun x => n ≤ x * d).foldl min 128

theorem ds8Den_pos (e : Int) : 0 < ds8Den e := by
  unfold ds8Den
  split
  exacts [one_pos, Nat.two_pow_pos _]

theorem ds8Num_eq (m : Nat) (e : Int) : (ds8Num m e : ℚ) = 64 * (m * 2 ^ e) * ds8Den e := by
  have hsix : (2 : ℚ) ^ (e + 6) = 64 * 2 ^ e := by rw [zpow_add₀ two_ne_zero]; norm_num; ring
  unfold ds8Num ds8Den
  split
  · rename_i h
    rw [Nat.cast_mul, Nat.cast_pow, Nat.cast_ofNat, ← zpow_natCast, Int.toNat_of_nonneg h, hsix]
    push_cast
    ring
  · rw [Nat.cast_pow, Nat.cast_ofNat, ← zpow_natCast, Int.toNat_of_nonneg (by omega), zpow_neg, hsix]
    have : (0 : ℚ) < 2 ^ e := zpow_pos two_pos e
    field_simp

theorem ds8Below_spec (n d : Nat) : ds8Below n d ∈ ds8Mags ∧ ds8Below n d * d ≤ n ∧ ∀ x ∈ ds8Mags, x * d ≤ n → x ≤ ds8Below n d := by
  obtain ⟨hmem, hall⟩ : ds8Below n d ∈ 0 :: (ds8Mags.filter fun x => x * d ≤ n) ∧ ∀ x ∈ 0 :: (ds8Mags.filter fun x => x * d ≤ n), x ≤ ds8Below n d :=
    foldl_pick (R := (· ≤ ·)) max_choice le_max_left le_max_right le_refl (fun _ _ _ => le_trans) _ 0
  have hin : ds8Below n d ∈ ds8Mags ∧ ds8Below n d * d ≤ n := by
    rcases List.mem_cons.mp hmem with h | h
    · rw [h]; exact ⟨ds8Mags_bounds.1, by omega⟩
    · simpa using List.mem_filter.mp h
  exact ⟨hin.1, hin.2, fun x hx hle => hall x (List.mem_cons_of_mem _ (List.mem_filter.mpr ⟨hx, by simpa using hle⟩))⟩

theorem ds8Above_spec {n d : Nat} (h : n ≤ 128 * d) : ds8Above n d ∈ ds8Mags ∧ n ≤ ds8Above n d * d ∧ ∀ x ∈ ds8Mags, n ≤ x * d → ds8Above n d ≤ x := by
  obtain ⟨hmem, hall⟩ : ds8Above n d ∈ 128 :: (ds8Mags.filter fun x => n ≤ x * d) ∧ ∀ x ∈ 128 :: (ds8Mags.filter fun x => n ≤ x * d), ds8Above n d ≤ x :=
    foldl_pick (R := (· ≥ ·)) min_choice min_le_left min_le_right le_refl (fun _ _ _ => ge_trans) _ 128
  have hin : ds8Above n d ∈ ds8Mags ∧ n ≤ ds8Above n d * d := by
    rcases List.mem_cons.mp hmem with h' | h'
    · rw [h']; exact ⟨ds8Mags_bounds.2, h⟩
    · simpa using List.mem_filter.mp h'
  exact ⟨hin.1, hin.2, fun x hx hle => hall x (List.mem_cons_of_mem _ (List.mem_filter.mpr ⟨hx, by simpa using hle⟩))⟩

/-- Which neighbour DS8 rounds to. -/
def ds8Picks (rm : Rm) (s : Bool) (n d : Nat) : Nat :=
  if (match rm with
      | .ne => decide ((ds8Below n d + ds8Above n d) * d < 2 * n)
      | .z => false
      | .u => !s
      | .d => s) then ds8Above n d else ds8Below n d

theorem ds8Round_fin : ds8Round rm (.fin s m e) =
    if 128 * ds8Den e < ds8Num m e then (if s then 0x88 else 0x00, ofF ||| nxF)
    else (ds8Code (signedM s (ds8Picks rm s (ds8Num m e) (ds8Den e))), flagIf (ds8Picks rm s (ds8Num m e) (ds8Den e) * ds8Den e != ds8Num m e) nxF) := rfl

theorem ds8Picks_mem {d : Nat} (h : n ≤ 128 * d) : ds8Picks rm s n d ∈ ds8Mags := by
  unfold ds8Picks
  generalize (match rm with
      | .ne => decide ((ds8Below n d + ds8Above n d) * d < 2 * n)
      | .z => false
      | .u => !s
      | .d => s) = up
  cases up
  exacts [(ds8Below_spec n d).1, (ds8Above_spec h).1]

/-- `lo` and `hi` are the neighbours of a magnitude among those of DS8's codes. -/
structure Ds8Between (lo hi a : ℚ) : Prop where
  lower : lo ≤ a
  upper : a ≤ hi
  below : ∀ c, c < 256 → (ds8Val c).mag ≤ a → (ds8Val c).mag ≤ lo
  above : ∀ c, c < 256 → a ≤ (ds8Val c).mag → hi ≤ (ds8Val c).mag

theorem ds8Between_of_le {d : Nat} {a : ℚ} (hd : 0 < d) (hn : (n : ℚ) = 64 * a * d) (h : n ≤ 128 * d) :
    Ds8Between ((ds8Below n d : ℚ) / 64) ((ds8Above n d : ℚ) / 64) a := by
  have hd' : (0 : ℚ) < d := Nat.cast_pos.mpr hd
  have hle : ∀ x : Nat, x * d ≤ n ↔ (x : ℚ) / 64 ≤ a := fun x => by
    rw [div_le_iff₀ (by norm_num), mul_comm a, ← mul_le_mul_iff_of_pos_right hd', ← hn, ← Nat.cast_mul, Nat.cast_le]
  have hge : ∀ x : Nat, n ≤ x * d ↔ a ≤ (x : ℚ) / 64 := fun x => by
    rw [le_div_iff₀ (by norm_num), mul_comm a, ← mul_le_mul_iff_of_pos_right hd', ← hn, ← Nat.cast_mul, Nat.cast_le]
  obtain ⟨-, hlow, hmax⟩ := ds8Below_spec n d
  obtain ⟨-, hupp, hmin⟩ := ds8Above_spec h
  refine ⟨(hle _).mp hlow, (hge _).mp hupp, fun c hc h' => ?_, fun c hc h' => ?_⟩ <;> rw [ds8Val_mag] at h' ⊢
  · exact div_le_div_of_nonneg_right (Nat.cast_le.mpr (hmax _ (natAbs_ds8Units_mem c hc) ((hle _).mpr h'))) (by norm_num)
  · exact div_le_div_of_nonneg_right (Nat.cast_le.mpr (hmin _ (natAbs_ds8Units_mem c hc) ((hge _).mpr h'))) (by norm_num)

/-- R93: of the two neighbours the nearer is taken, of two equally near the smaller; or the one toward or away from zero. -/
theorem Ds8Between.picked {lo hi a y : ℚ} (h : Ds8Between lo hi a) (hne : rm = .ne → y = if lo + hi < 2 * a then hi else lo)
    (hdir : rm ≠ .ne → y = if rm.toward s = true then lo else hi) (c : Nat) (hc : c < 256) :
    (rm = .ne → |y - a| ≤ |(ds8Val c).mag - a| ∧ (|y - a| = |(ds8Val c).mag - a| → y ≤ (ds8Val c).mag)) ∧
      (rm ≠ .ne → rm.toward s = true → y ≤ a ∧ ((ds8Val c).mag ≤ a → (ds8Val c).mag ≤ y)) ∧
      (rm ≠ .ne → rm.toward s = false → a ≤ y ∧ (a ≤ (ds8Val c).mag → y ≤ (ds8Val c).mag)) := by
  obtain ⟨hlow, hupp, hbelow, habove⟩ := h
  replace hbelow := hbelow c hc
  replace habove := habove c hc
  generalize (ds8Val c).mag = o at hbelow habove ⊢
  have hside : o ≤ lo ∨ hi ≤ o := (le_total o a).imp hbelow habove
  have habs : |o - a| = if o ≤ lo then a - o else o - a := by
    split
    · rw [abs_sub_comm, abs_of_nonneg (by linarith)]
    · rw [abs_of_nonneg (by linarith [hside.resolve_left ‹_›])]
  refine ⟨fun hrm => ?_, fun hrm ht => ?_, fun hrm ht => ?_⟩
  · rw [hne hrm, habs]
    split
    · rw [abs_of_nonneg (by linarith)]
      split
      · exact ⟨by linarith, fun _ => by linarith⟩
      · have := hside.resolve_left ‹_›
        exact ⟨by linarith, fun _ => by linarith⟩
    · rw [abs_sub_comm, abs_of_nonneg (by linarith)]
      split
      · exact ⟨by linarith, fun _ => by linarith⟩
      · have := hside.resolve_left ‹_›
        exact ⟨by linarith, fun _ => by linarith⟩
  · rw [hdir hrm, if_pos ht]
    exact ⟨hlow, hbelow⟩
  · rw [hdir hrm, if_neg (by simp [ht])]
    exact ⟨hupp, habove⟩

theorem ds8Picks_eq {d : Nat} {a : ℚ} (hd : 0 < d) (hn : (n : ℚ) = 64 * a * d) :
    (rm = .ne → ((ds8Picks rm s n d : Nat) : ℚ) / 64 = if (ds8Below n d : ℚ) / 64 + (ds8Above n d : ℚ) / 64 < 2 * a then (ds8Above n d : ℚ) / 64
      else (ds8Below n d : ℚ) / 64) ∧
    (rm ≠ .ne → ((ds8Picks rm s n d : Nat) : ℚ) / 64 = if rm.toward s = true then (ds8Below n d : ℚ) / 64 else (ds8Above n d : ℚ) / 64) := by
  have hd' : (0 : ℚ) < d := Nat.cast_pos.mpr hd
  have hmid : (ds8Below n d + ds8Above n d) * d < 2 * n ↔ (ds8Below n d : ℚ) / 64 + (ds8Above n d : ℚ) / 64 < 2 * a := by
    rw [← add_div, div_lt_iff₀ (by norm_num), ← mul_lt_mul_iff_of_pos_right hd',
      show 2 * a * 64 * (d : ℚ) = 2 * n by rw [hn]; ring]
    exact_mod_cast Iff.rfl
  refine ⟨fun hrm => ?_, fun hrm => ?_⟩
  · subst hrm
    have hpick : ds8Picks .ne s n d = if (ds8Below n d + ds8Above n d) * d < 2 * n then ds8Above n d else ds8Below n d := by
      simp only [ds8Picks, decide_eq_true_eq]
    rw [hpick, if_congr hmid rfl rfl]
    split <;> rfl
  · cases rm with
    | ne => exact absurd rfl hrm
    | z => rfl
    | u => cases s <;> rfl
    | d => cases s <;> rfl

/-- A conversion to DS8 (R93, R100). -/
theorem ds8Round_rounds (rm : Rm) (s : Bool) (m : Nat) (e : Int) : let a := FVal.fin s m e; let r := ds8Round rm a
    (2 < a.mag → r = (if s then 0x88 else 0x00, ofF ||| nxF)) ∧
      (a.mag ≤ 2 → let y := ds8Val r.1
        (y.val = 0 → r.1 = 0x77) ∧ (y.val ≠ 0 → y.neg = s) ∧ (r.2 = if y.mag = a.mag then 0 else nxF) ∧
        ∀ c, c < 256 → let o := (ds8Val c).mag
          (rm = .ne → |y.mag - a.mag| ≤ |o - a.mag| ∧ (|y.mag - a.mag| = |o - a.mag| → y.mag ≤ o)) ∧
          (rm ≠ .ne → rm.toward s = true → y.mag ≤ a.mag ∧ (o ≤ a.mag → o ≤ y.mag)) ∧
          (rm ≠ .ne → rm.toward s = false → a.mag ≤ y.mag ∧ (a.mag ≤ o → y.mag ≤ o))) := by
  have hd := ds8Den_pos e
  have hd' : (0 : ℚ) < ds8Den e := Nat.cast_pos.mpr hd
  have hn : (ds8Num m e : ℚ) = 64 * (FVal.fin s m e).mag * ds8Den e := ds8Num_eq m e
  have hover : 128 * ds8Den e < ds8Num m e ↔ 2 < (FVal.fin s m e).mag := by
    rw [← Nat.cast_lt (α := ℚ), hn]
    push_cast
    rw [mul_lt_mul_iff_of_pos_right hd']
    constructor <;> intro <;> linarith
  intro a r
  refine ⟨fun hlt => ds8Round_fin.trans (if_pos (hover.mpr hlt)), fun hle => ?_⟩
  have hno : ¬ 128 * ds8Den e < ds8Num m e := fun hlt => absurd (hover.mp hlt) (not_lt.mpr hle)
  have hr : r = _ := ds8Round_fin.trans (if_neg hno)
  have hmem := ds8Picks_mem (rm := rm) (s := s) (not_lt.mp hno)
  have hunits := ds8Units_ds8Code _ hmem s
  obtain ⟨hne, hdir⟩ := ds8Picks_eq (rm := rm) (s := s) hd hn
  have hbetween := ds8Between_of_le hd hn (not_lt.mp hno)
  have hexact : (ds8Picks rm s (ds8Num m e) (ds8Den e) * ds8Den e != ds8Num m e) = true ↔
      ((ds8Picks rm s (ds8Num m e) (ds8Den e) : Nat) : ℚ) / 64 ≠ a.mag := by
    rw [bne_iff_ne, ne_eq, ne_eq, ← Nat.cast_inj (R := ℚ), hn, Nat.cast_mul, mul_left_inj' hd'.ne', div_eq_iff (by norm_num), mul_comm a.mag]
  rw [hr]
  generalize ds8Picks rm s (ds8Num m e) (ds8Den e) = k at *
  have hmag : (ds8Val (ds8Code (signedM s k))).mag = (k : ℚ) / 64 := by
    rw [ds8Val_mag, hunits]
    cases s <;> simp [signedM]
  refine ⟨fun hz => ?_, fun hnz => ?_, ?_, ?_⟩
  · rw [ds8Val_eq_zero, hunits] at hz
    dsimp only
    rw [hz]
    decide +kernel
  · rw [ne_eq, ds8Val_eq_zero, hunits] at hnz
    rw [ds8Val, FVal.neg, hunits]
    cases s <;> simp_all [signedM]
    omega
  · dsimp only
    rw [hmag, flagIf, if_congr hexact rfl rfl, ite_not]
  · dsimp only
    rw [hmag]
    exact hbetween.picked hne hdir

end

/-- Settles O10: each operation computes its exact value and rounds it once; an integral value and a conversion are the value rounded to what their
format has. -/
theorem floatOperationsAreCorrect : Obligations.FloatOperationsAreCorrect := by
  unfold Obligations.FloatOperationsAreCorrect
  intro f hmem rm z s t u m n k e g h
  have hf := Fmt.sound_of_mem hmem
  refine ⟨Fmt.add_roundsValue hf, Fmt.mul_roundsValue hf, Fmt.fma_roundsValue hf, Fmt.div_roundsValue hf, fun hm => ⟨Fmt.sqrt_rounds hf hm, Fmt.rsqrt_rounds hf hm⟩,
    by simp [Fmt.sqrt], by simp [Fmt.rsqrt], FVal.lt_iff, FVal.val_mul, fun xs => FVal.sum_finite, fun nx hi hm => Fmt.integral_rounds hf hi nx hm,
    fun src dst x sat ha => ⟨fun hd => ?_, fun w signed hs hd => ?_, fun hd => ?_⟩⟩
  · obtain ⟨h1, h2⟩ := convert_float_rounds (rm := rm) hf ha hd
    refine ⟨h1, h2, ?_⟩
    rw [convert_float ha hd, convert_float ha hd]
    rfl
  · rw [convert_int ha hs hd]
    exact toInt_rounds rm s m e sat w signed
  · have hr : convert src dst rm sat x = ds8Round rm (.fin s m e) := by
      rw [convert, ha, hd]
      rfl
    rw [hr]
    exact ds8Round_rounds rm s m e

end Sys2Proof.Machine
end

section
/-! PROOFS. Matrix arithmetic: what an MMA writes, and its checksum test (O31). -/

namespace Sys2Proof.Machine

/-! ## Matrices and the flags of their elements -/

section
variable {α β : Type} {m n i j : Nat}

@[simp] theorem Mat.at_gen {f : Nat → Nat → α} {d : α} (hi : i < m) (hj : j < n) : (Mat.gen m n f).at d i j = f i j := by
  simp [Mat.at, Mat.gen, List.getD, hi, hj]

theorem Mat.gen_congr {f g : Nat → Nat → α} (h : ∀ i < m, ∀ j < n, f i j = g i j) : Mat.gen m n f = Mat.gen m n g :=
  List.map_congr_left fun i hi => List.map_congr_left fun j hj => h i (List.mem_range.mp hi) j (List.mem_range.mp hj)

theorem Mat.map_gen {f : Nat → Nat → α} (g : α → β) : ((Mat.gen m n f).map fun row => row.map g) = Mat.gen m n fun i j => g (f i j) := by
  simp [Mat.gen, Function.comp_def]

/-- The flags of a list of results. -/
def orAll (xs : List FFlags) : FFlags := xs.foldl (fun x y => x ||| y) 0

theorem foldl_or (xs : List FFlags) (a : FFlags) : xs.foldl (fun x y => x ||| y) a = a ||| orAll xs := by
  induction xs generalizing a with
  | nil => simp [orAll]
  | cons x xs ih =>
    have hzero : (0 : FFlags) ||| x = x := BitVec.zero_or
    rw [orAll, List.foldl_cons, List.foldl_cons, ih, ih (0 ||| x), hzero, BitVec.or_assoc]

theorem orAll_append (xs ys : List FFlags) : orAll (xs ++ ys) = orAll xs ||| orAll ys := by
  rw [orAll, List.foldl_append, foldl_or, ← orAll]

theorem orAll_flatMap (xs : List α) (f : α → List FFlags) : orAll (xs.flatMap f) = orAll (xs.map fun x => orAll (f x)) := by
  induction xs with
  | nil => rfl
  | cons x xs ih =>
    rw [List.flatMap_cons, orAll_append, ih, List.map_cons, ← List.singleton_append, orAll_append]
    simp [orAll]

/-- The flags of a matrix of results, row by row. -/
theorem Mat.foldl_flags (f : Nat → Nat → α × FFlags) :
    (Mat.gen m n f).foldl (fun a row => row.foldl (fun g x => g ||| x.2) a) 0 =
      orAll ((List.range m).flatMap fun i => (List.range n).map fun j => (f i j).2) := by
  simp only [orAll, Mat.gen, List.foldl_map, List.foldl_flatMap]

end

/-! ## Integers of a format (R266) -/

theorem intOf_eight (x : Nat) : intOf 8 true x = (BitVec.ofNat 8 x).toInt := by
  rw [intOf, BitVec.toInt_eq_toNat_cond, BitVec.toNat_ofNat]
  simp only [Bool.true_and, decide_eq_true_eq]
  split <;> split <;> omega

theorem intOf_32 (x : Nat) : intOf 32 true x = (BitVec.ofNat 32 x).toInt := by
  rw [intOf, BitVec.toInt_eq_toNat_cond, BitVec.toNat_ofNat]
  simp only [Bool.true_and, decide_eq_true_eq]
  split <;> split <;> omega

theorem intPat_eq (w : Nat) (n : Int) : intPat w n = (BitVec.ofInt w n).toNat := by
  rw [intPat, BitVec.toNat_ofInt]
  push_cast
  rfl

/-! ## Groups (R102) -/

theorem groupsOf_range {α : Type} {n : Nat} (hn : 0 < n) (q fuel : Nat) (hq : q ≤ fuel) (f : Nat → α) :
    groupsOf n fuel ((List.range (q * n)).map f) = (List.range q).map fun g => (List.range n).map fun x => f (g * n + x) := by
  induction q generalizing fuel f with
  | zero => cases fuel <;> simp [groupsOf]
  | succ q ih =>
    obtain ⟨k, rfl⟩ := Nat.exists_eq_succ_of_ne_zero (show fuel ≠ 0 by omega)
    have hsplit : (List.range ((q + 1) * n)).map f = (List.range n).map f ++ (List.range (q * n)).map fun x => f (n + x) := by
      rw [Nat.succ_mul, Nat.add_comm, List.range_add, List.map_append, List.map_map]
      rfl
    have hcons : ∀ xs : List α, xs ≠ [] → groupsOf n (k + 1) xs = xs.take n :: groupsOf n k (xs.drop n) := fun xs hxs => by
      cases xs with
      | nil => exact absurd rfl hxs
      | cons x xs => rfl
    have hne : (List.range n).map f ++ (List.range (q * n)).map (fun x => f (n + x)) ≠ [] := by simp [hn.ne']
    rw [hsplit, hcons _ hne, List.take_left' (by simp), List.drop_left' (by simp), ih k (by omega), List.range_succ_eq_map, List.map_cons, List.map_map]
    congr 1
    · simp
    · refine List.map_congr_left fun g _ => List.map_congr_left fun x _ => congrArg f ?_
      simp only [Nat.succ_mul]
      omega

theorem mmaElem_append (f : Fmt) (xs ys : List (List (FVal × FVal))) (acc : Nat) :
    (mmaElem f (xs ++ ys) acc).1 = (mmaElem f ys (mmaElem f xs acc).1).1 ∧
      (mmaElem f (xs ++ ys) acc).2 = (mmaElem f xs acc).2 ||| (mmaElem f ys (mmaElem f xs acc).1).2 := by
  induction xs generalizing acc with
  | nil => simp [mmaElem]
  | cons x xs ih =>
    simp only [List.cons_append, mmaElem, (ih _).1, (ih _).2, true_and]
    ac_rfl

/-- C's element after the first groups. -/
def accUpto (f : Fmt) (group : Nat → List (FVal × FVal)) (acc n : Nat) : Nat :=
  (List.range n).foldl (fun acc g => (accAdd f acc (FVal.sum ((group g).map fun p => p.1.mul p.2))).1) acc

/-- The element and its flags, group by group. -/
theorem mmaElem_range (f : Fmt) (group : Nat → List (FVal × FVal)) (acc n : Nat) : mmaElem f ((List.range n).map group) acc =
    (accUpto f group acc n, orAll ((List.range n).map fun g =>
      (accAdd f (accUpto f group acc g) (FVal.sum ((group g).map fun p => p.1.mul p.2))).2 ||| groupNV (group g))) := by
  induction n with
  | zero => rfl
  | succ n ih =>
    obtain ⟨h1, h2⟩ := mmaElem_append f ((List.range n).map group) [group n] acc
    rw [List.range_succ, List.map_append, List.map_append, orAll_append]
    rw [List.map_cons, List.map_nil]
    refine Prod.ext (h1.trans ?_) (h2.trans ?_) <;> rw [ih]
    · simp [accUpto, List.range_succ, mmaElem]
    · simp [mmaElem, orAll]

theorem groupNV_eq (ps : List (FVal × FVal)) : groupNV ps =
    if (∃ p ∈ ps, p.1.isNan = false ∧ p.2.isNan = false ∧ (p.1.mul p.2).isNan = true) ∨
      ((∃ p ∈ ps, p.1.mul p.2 = .inf false) ∧ ∃ p ∈ ps, p.1.mul p.2 = .inf true) then 1 else 0 := by
  simp only [groupNV, flagIf, nvF, Bool.or_eq_true, Bool.and_eq_true, List.any_map, List.any_eq_true, Function.comp, Bool.not_eq_true', beq_iff_eq, and_assoc]

/-! ## What an MMA writes (R102, R103, R267) -/

section
variable {o : MmaOp} {A B C : Nat → Nat → Nat} {M N K i j : Nat}

/-- A group of products of a row of A and a column of B. -/
def mmaGroupAt (fmt : Nat) (A B : Nat → Nat → Nat) (i j g : Nat) : List (FVal × FVal) :=
  (List.range (mmaGroup fmt)).map fun x => (mmaVal fmt (A i (g * mmaGroup fmt + x)), mmaVal fmt (B (g * mmaGroup fmt + x) j))

/-- Element (i, j) of the result. -/
def mmaResult (fmt : Nat) (A B C : Nat → Nat → Nat) (K i j : Nat) : Nat :=
  if fmt = 7 then (BitVec.ofInt 32 ((BitVec.ofNat 32 (C i j)).toInt + ((List.range K).map fun k => (BitVec.ofNat 8 (A i k)).toInt * (BitVec.ofNat 8 (B k j)).toInt).sum)).toNat
  else accUpto (mmaAcc fmt) (mmaGroupAt fmt A B i j) (C i j) (K / mmaGroup fmt)

/-- The flags of the accumulations of element (i, j), group by group. -/
def mmaElemFlags (fmt : Nat) (A B C : Nat → Nat → Nat) (K i j : Nat) : List FFlags :=
  (List.range (K / mmaGroup fmt)).map fun g =>
    (accAdd (mmaAcc fmt) (accUpto (mmaAcc fmt) (mmaGroupAt fmt A B i j) (C i j) g) (FVal.sum ((mmaGroupAt fmt A B i j g).map fun p => p.1.mul p.2))).2 |||
      groupNV (mmaGroupAt fmt A B i j g)

theorem mmaGroup_pos (fmt : Nat) : 0 < mmaGroup fmt := by
  unfold mmaGroup
  split <;> decide

/-- An element of a floating format, and its flags. -/
theorem mmaElem_at (fmt : Nat) (hK : K % mmaGroup fmt = 0) : mmaElem (mmaAcc fmt) (groupsOf (mmaGroup fmt) K ((List.range K).map fun x =>
      (mmaVal fmt (A i x), mmaVal fmt (B x j)))) (C i j) =
    (accUpto (mmaAcc fmt) (mmaGroupAt fmt A B i j) (C i j) (K / mmaGroup fmt), orAll (mmaElemFlags fmt A B C K i j)) := by
  have hgroups := groupsOf_range (mmaGroup_pos fmt) (K / mmaGroup fmt) K (Nat.div_le_self _ _) fun x => (mmaVal fmt (A i x), mmaVal fmt (B x j))
  rw [Nat.div_mul_cancel (Nat.dvd_of_mod_eq_zero hK)] at hgroups
  rw [hgroups]
  exact mmaElem_range _ (mmaGroupAt fmt A B i j) _ _

theorem MmaOp.compute_gen (hK : K % mmaGroup o.fmt = 0) : o.compute (Mat.gen M K A) (Mat.gen K N B) (Mat.gen M N C) M N K =
    (Mat.gen M N (mmaResult o.fmt A B C K), if o.fmt = 7 then 0 else
      orAll ((List.range M).flatMap fun i => (List.range N).flatMap fun j => mmaElemFlags o.fmt A B C K i j)) := by
  unfold MmaOp.compute
  by_cases h7 : o.fmt = 7
  · rw [if_pos h7, if_pos h7]
    refine Prod.ext (Mat.gen_congr fun i hi j hj => ?_) rfl
    have hprod : ((List.range K).map fun x => intOf 8 true ((Mat.gen M K A).at 0 i x) * intOf 8 true ((Mat.gen K N B).at 0 x j)) =
        (List.range K).map fun k => (BitVec.ofNat 8 (A i k)).toInt * (BitVec.ofNat 8 (B k j)).toInt :=
      List.map_congr_left fun x hx => by rw [Mat.at_gen hi (List.mem_range.mp hx), Mat.at_gen (List.mem_range.mp hx) hj, intOf_eight, intOf_eight]
    rw [mmaResult, if_pos h7, ← hprod, Mat.at_gen hi hj, intOf_32, intPat_eq]
  · rw [if_neg h7, if_neg h7]
    have helem : (Mat.gen M N fun i j => mmaElem (mmaAcc o.fmt) (groupsOf (mmaGroup o.fmt) K ((List.range K).map fun x =>
          (mmaVal o.fmt ((Mat.gen M K A).at 0 i x), mmaVal o.fmt ((Mat.gen K N B).at 0 x j)))) ((Mat.gen M N C).at 0 i j)) =
        Mat.gen M N fun i j => (mmaResult o.fmt A B C K i j, orAll (mmaElemFlags o.fmt A B C K i j)) := by
      refine Mat.gen_congr fun i hi j hj => ?_
      have hops : ((List.range K).map fun x => (mmaVal o.fmt ((Mat.gen M K A).at 0 i x), mmaVal o.fmt ((Mat.gen K N B).at 0 x j))) =
          (List.range K).map fun x => (mmaVal o.fmt (A i x), mmaVal o.fmt (B x j)) :=
        List.map_congr_left fun x hx => by rw [Mat.at_gen hi (List.mem_range.mp hx), Mat.at_gen (List.mem_range.mp hx) hj]
      rw [hops, Mat.at_gen hi hj, mmaElem_at _ hK, mmaResult, if_neg h7]
    dsimp only
    rw [helem, Mat.map_gen, Mat.foldl_flags]
    refine Prod.ext rfl ?_
    simp only [orAll_flatMap]

/-! ## The checksum test (R269, R270) -/

/-- The record's address: the first bad column, or with none the first bad row. -/
def firstBad (bad : List Nat → List Nat → Bool) (m n : Nat) : Option Nat :=
  ((List.range n).find? fun j => bad (List.range m) [j]).or (((List.range m).find? fun i => bad [i] (List.range n)).map fun i => 0x80000000 + i)

section
variable {bad : List Nat → List Nat → Bool} {m n : Nat}

theorem firstBad_column {j : Nat} (hj : j < n) (h : bad (List.range m) [j] = true) (hmin : ∀ k, k < j → bad (List.range m) [k] = false) :
    firstBad bad m n = some j := by
  have hfind : ((List.range n).find? fun j => bad (List.range m) [j]) = some j :=
    List.find?_range_eq_some.mpr ⟨h, List.mem_range.mpr hj, fun k hk => by rw [hmin k hk]; rfl⟩
  rw [firstBad, hfind, Option.some_or]

theorem find?_columns_none (h : ∀ j, j < n → bad (List.range m) [j] = false) : ((List.range n).find? fun j => bad (List.range m) [j]) = none :=
  List.find?_range_eq_none.mpr fun j hj => by rw [h j hj]; rfl

theorem firstBad_row {i : Nat} (hcols : ∀ j, j < n → bad (List.range m) [j] = false) (hi : i < m) (h : bad [i] (List.range n) = true)
    (hmin : ∀ k, k < i → bad [k] (List.range n) = false) : firstBad bad m n = some (2 ^ 31 + i) := by
  have hfind : ((List.range m).find? fun i => bad [i] (List.range n)) = some i :=
    List.find?_range_eq_some.mpr ⟨h, List.mem_range.mpr hi, fun k hk => by rw [hmin k hk]; rfl⟩
  rw [firstBad, find?_columns_none hcols, hfind]
  rfl

theorem firstBad_none (hcols : ∀ j, j < n → bad (List.range m) [j] = false) (hrows : ∀ i, i < m → bad [i] (List.range n) = false) :
    firstBad bad m n = none := by
  have hfind : ((List.range m).find? fun i => bad [i] (List.range n)) = none :=
    List.find?_range_eq_none.mpr fun i hi => by rw [hrows i hi]; rfl
  rw [firstBad, find?_columns_none hcols, hfind]
  rfl

end

/-- A line of the checksum test fails, on the matrices as they stand. -/
def MmaOp.bad (o : MmaOp) (tol : Word) (a b old new : Mat Nat) (k : Nat) (is js : List Nat) : Bool :=
  if o.fmt = 7 then
    intPat 32 ((is.flatMap fun i => js.map fun j => intOf 32 true (new.at 0 i j) - intOf 32 true (old.at 0 i j)).sum) !=
      intPat 32 ((is.flatMap fun i => js.flatMap fun j => (List.range k).map fun x => intOf 8 true (a.at 0 i x) * intOf 8 true (b.at 0 x j)).sum)
  else
    let els (c : Mat Nat) := is.flatMap fun i => js.map fun j => (mmaAcc o.fmt).decode (c.at 0 i j)
    tolOf tol != .inf false && checkFails (tolOf tol) (els new) (els old) (is.flatMap fun i => js.flatMap fun j => (List.range k).map fun x =>
      (mmaVal o.fmt (a.at 0 i x)).mul (mmaVal o.fmt (b.at 0 x j)))

theorem MmaOp.check_eq (o : MmaOp) (tol : Word) (a b old new : Mat Nat) (m n k : Nat) :
    o.check tol a b old new m n k = firstBad (o.bad tol a b old new k) m n := by
  unfold MmaOp.check MmaOp.bad
  by_cases h7 : o.fmt = 7
  · simp only [if_pos h7]
    rfl
  · simp only [if_neg h7]
    by_cases ht : tolOf tol = .inf false
    · rw [if_pos (by simp [ht])]
      exact (firstBad_none (fun j _ => by simp [ht]) fun i _ => by simp [ht]).symm
    · rw [if_neg (by simpa using ht)]
      simp only [bne_iff_ne.mpr ht, Bool.true_and]
      rfl

theorem checkFails_iff (tol : FVal) (new old prods : List FVal) : checkFails tol new old prods = true ↔
    let ef := (FVal.sum (new ++ old.map FVal.negate)).to32
    let sf := (FVal.sum prods).to32
    let tf := (FVal.sum (old.map FVal.abs ++ prods.map FVal.abs)).to32
    ef.special = false ∧ sf.special = false ∧ tf.special = false ∧ (∀ x ∈ new ++ old, x.isNan = false) ∧
      FVal.lt false (tol.mul tf).to32 (FVal.sum [ef, sf.negate]).to32.abs = true := by
  have hnan : (∀ x ∈ new ++ old, x.isNan = false) ↔ new.any FVal.isNan = false ∧ old.any FVal.isNan = false := by
    simp only [List.any_eq_false, List.mem_append, or_imp, forall_and, Bool.not_eq_true]
  dsimp only
  rw [hnan, checkFails]
  split
  · rename_i h
    simp only [Bool.or_eq_true] at h
    refine iff_of_false Bool.false_ne_true ?_
    rintro ⟨h1, h2, h3, ⟨h4, h5⟩, -⟩
    simp [h1, h2, h3, h4, h5] at h
  · rename_i h
    simp only [Bool.not_eq_true, Bool.or_eq_false_iff] at h
    simp [h]

/-- R269: a line of the test fails. -/
def mmaFails (fmt : Nat) (tol : Word) (A B C E : Nat → Nat → Nat) (K : Nat) (is js : List Nat) : Prop :=
  if fmt = 7 then
    BitVec.ofInt 32 ((is.flatMap fun i => js.map fun j => (BitVec.ofNat 32 (E i j)).toInt - (BitVec.ofNat 32 (C i j)).toInt).sum) ≠
      BitVec.ofInt 32 ((is.flatMap fun i => js.flatMap fun j => (List.range K).map fun k => (BitVec.ofNat 8 (A i k)).toInt * (BitVec.ofNat 8 (B k j)).toInt).sum)
  else
    let old := is.flatMap fun i => js.map fun j => (mmaAcc fmt).decode (C i j)
    let new := is.flatMap fun i => js.map fun j => (mmaAcc fmt).decode (E i j)
    let prods := is.flatMap fun i => js.flatMap fun j => (List.range K).map fun k => (mmaVal fmt (A i k)).mul (mmaVal fmt (B k j))
    tolOf tol ≠ .inf false ∧
      (let ef := (FVal.sum (new ++ old.map FVal.negate)).to32
       let sf := (FVal.sum prods).to32
       let tf := (FVal.sum (old.map FVal.abs ++ prods.map FVal.abs)).to32
       ef.special = false ∧ sf.special = false ∧ tf.special = false ∧ (∀ x ∈ new ++ old, x.isNan = false) ∧
         FVal.lt false ((tolOf tol).mul tf).to32 (FVal.sum [ef, sf.negate]).to32.abs = true)

section
variable {E : Nat → Nat → Nat} {is js : List Nat} (his : ∀ i ∈ is, i < M) (hjs : ∀ j ∈ js, j < N)
include his hjs

theorem line_congr {α : Type} {f g : Nat → Nat → α} (h : ∀ i < M, ∀ j < N, f i j = g i j) :
    (is.flatMap fun i => js.map fun j => f i j) = is.flatMap fun i => js.map fun j => g i j :=
  List.flatMap_congr fun i hi => List.map_congr_left fun j hj => h i (his i hi) j (hjs j hj)

theorem products_congr {α : Type} {f g : Nat → Nat → Nat → α} (h : ∀ i < M, ∀ j < N, ∀ k < K, f i j k = g i j k) :
    (is.flatMap fun i => js.flatMap fun j => (List.range K).map fun k => f i j k) = is.flatMap fun i => js.flatMap fun j => (List.range K).map fun k => g i j k :=
  List.flatMap_congr fun i hi => List.flatMap_congr fun j hj => List.map_congr_left fun k hk => h i (his i hi) j (hjs j hj) k (List.mem_range.mp hk)

theorem MmaOp.bad_gen (tol : Word) : o.bad tol (Mat.gen M K A) (Mat.gen K N B) (Mat.gen M N C) (Mat.gen M N E) K is js = true ↔
    mmaFails o.fmt tol A B C E K is js := by
  unfold MmaOp.bad mmaFails
  by_cases h7 : o.fmt = 7
  · rw [if_pos h7, if_pos h7, line_congr his hjs (g := fun i j => (BitVec.ofNat 32 (E i j)).toInt - (BitVec.ofNat 32 (C i j)).toInt)
      fun i hi j hj => by rw [Mat.at_gen hi hj, Mat.at_gen hi hj, intOf_32, intOf_32],
      products_congr his hjs (g := fun i j k => (BitVec.ofNat 8 (A i k)).toInt * (BitVec.ofNat 8 (B k j)).toInt)
      fun i hi j hj k hk => by rw [Mat.at_gen hi hk, Mat.at_gen hk hj, intOf_eight, intOf_eight],
      bne_iff_ne, intPat_eq, intPat_eq, ne_eq, BitVec.toNat_inj]
  · rw [if_neg h7, if_neg h7]
    have hels : ∀ X : Nat → Nat → Nat, (is.flatMap fun i => js.map fun j => (mmaAcc o.fmt).decode ((Mat.gen M N X).at 0 i j)) =
        is.flatMap fun i => js.map fun j => (mmaAcc o.fmt).decode (X i j) := fun X =>
      line_congr his hjs fun i hi j hj => by rw [Mat.at_gen hi hj]
    dsimp only
    rw [hels, hels, products_congr his hjs (g := fun i j k => (mmaVal o.fmt (A i k)).mul (mmaVal o.fmt (B k j)))
      fun i hi j hj k hk => by rw [Mat.at_gen hi hk, Mat.at_gen hk hj],
      Bool.and_eq_true, bne_iff_ne, checkFails_iff]

end

/-- The test of a whole product reports the first column that fails, with none the first row. -/
theorem MmaOp.check_gen {E : Nat → Nat → Nat} (tol : Word) :
    let r := o.check tol (Mat.gen M K A) (Mat.gen K N B) (Mat.gen M N C) (Mat.gen M N E) M N K
    let column (j : Nat) : Prop := mmaFails o.fmt tol A B C E K (List.range M) [j]
    let row (i : Nat) : Prop := mmaFails o.fmt tol A B C E K [i] (List.range N)
    (∀ j, j < N → column j → (∀ k, k < j → ¬ column k) → r = some j) ∧
      ((∀ j, j < N → ¬ column j) → ∀ i, i < M → row i → (∀ k, k < i → ¬ row k) → r = some (2 ^ 31 + i)) ∧
      ((∀ j, j < N → ¬ column j) → (∀ i, i < M → ¬ row i) → r = none) := by
  intro r column row
  have hr : r = _ := MmaOp.check_eq o tol _ _ _ _ M N K
  have hcol : ∀ j, j < N → (o.bad tol (Mat.gen M K A) (Mat.gen K N B) (Mat.gen M N C) (Mat.gen M N E) K (List.range M) [j] = true ↔ column j) := fun j hj =>
    MmaOp.bad_gen (fun i hi => List.mem_range.mp hi) (by simpa using hj) tol
  have hrow : ∀ i, i < M → (o.bad tol (Mat.gen M K A) (Mat.gen K N B) (Mat.gen M N C) (Mat.gen M N E) K [i] (List.range N) = true ↔ row i) := fun i hi =>
    MmaOp.bad_gen (by simpa using hi) (fun j hj => List.mem_range.mp hj) tol
  have hcol' : ∀ j, j < N → ¬ column j → _ = false := fun j hj h => Bool.eq_false_iff.mpr fun hb => h ((hcol j hj).mp hb)
  have hrow' : ∀ i, i < M → ¬ row i → _ = false := fun i hi h => Bool.eq_false_iff.mpr fun hb => h ((hrow i hi).mp hb)
  rw [hr]
  exact ⟨fun j hj h hmin => firstBad_column hj ((hcol j hj).mpr h) fun k hk => hcol' k (hk.trans hj) (hmin k hk),
    fun hcols i hi h hmin => firstBad_row (fun j hj => hcol' j hj (hcols j hj)) hi ((hrow i hi).mpr h) fun k hk => hrow' k (hk.trans hi) (hmin k hk),
    fun hcols hrows => firstBad_none (fun j hj => hcol' j hj (hcols j hj)) fun i hi => hrow' i hi (hrows i hi)⟩

end

theorem tolOf_eq (x : Word) : tolOf x = match fmt32.decode x.toNat with
    | .inf false => .inf false
    | .fin false m e => .fin false m e
    | _ => .fin false 0 0 := by
  unfold tolOf
  cases fmt32.decode x.toNat with
  | nan s => rfl
  | inf s => cases s <;> rfl
  | fin s m e => cases s <;> rfl

theorem FVal.to32_eq (v : FVal) : v.to32 = match v with
    | .fin z m e => fmt32.decode (fmt32.round .ne false z m e).1
    | v => v := by
  cases v <;> rfl

/-- Element widths and group sizes by format (R266). -/
theorem mma_sizes {fmt : Nat} (h : fmt < 8) : 2 ^ mmaEW fmt = (if fmt = 0 then 8 else if fmt = 1 then 4 else if fmt < 4 then 2 else 1) ∧
    2 ^ mmaEC fmt = (if fmt = 0 then 8 else 4) ∧ mmaGroup fmt = if fmt = 0 then 1 else if fmt = 1 then 2 else if fmt < 4 then 4 else 8 := by
  interval_cases fmt <;> decide

theorem MmaOp.fits_groups {o : MmaOp} {w : Wave} (h : o.fits w = true) : shapeCols (w.shapeOf o.ta) % mmaGroup o.fmt = 0 := by
  simp only [MmaOp.fits, Bool.and_eq_true, beq_iff_eq] at h
  exact h.1.2

/-- Settles O31: the operands are matrices of the tiles' elements, the result is that of the groups, and the test reports its first failing line. -/
theorem mmaArithmetic : Obligations.MmaArithmetic := by
  unfold Obligations.MmaArithmetic
  intro o tick slot w hfits hfmt M N K ew ec G raw A B C int8 factors group step upto invalid el flags single tol fails column row
  obtain ⟨hew, hec, hG⟩ := mma_sizes hfmt
  have hK : K % mmaGroup o.fmt = 0 := MmaOp.fits_groups hfits
  have hops : o.operands tick slot w = (Mat.gen M K A, Mat.gen K N B, Mat.gen M N C) := by
    unfold MmaOp.operands
    rw [hew, hec]
    rfl
  have hel : mmaResult o.fmt A B C K = el := by
    funext i j
    unfold mmaResult mmaGroupAt
    rw [hG]
    rfl
  have hflags : (if o.fmt = 7 then 0 else orAll ((List.range M).flatMap fun i => (List.range N).flatMap fun j => mmaElemFlags o.fmt A B C K i j)) = flags := by
    unfold mmaElemFlags mmaGroupAt
    simp only [groupNV_eq]
    rw [hG]
    rfl
  have hfails : mmaFails o.fmt w.mmatol A B C el K = fails := by
    funext is js
    unfold mmaFails
    simp only [tolOf_eq, FVal.to32_eq]
    rfl
  have hresult : o.result tick slot w = ([.t o.tc ((List.range M).flatMap fun i => (List.range N).flatMap fun j =>
      (addrs (256 * i + ec * j) ec).zip (leBytes ec (el i j))), .fp flags], o.check w.mmatol (Mat.gen M K A) (Mat.gen K N B) (Mat.gen M N C) (Mat.gen M N el) M N K) := by
    have hbytes : ((List.range M).flatMap fun i => (List.range N).flatMap fun j => elemBytes (2 ^ mmaEC o.fmt) i j ((Mat.gen M N el).at 0 i j)) =
        (List.range M).flatMap fun i => (List.range N).flatMap fun j => (addrs (256 * i + ec * j) ec).zip (leBytes ec (el i j)) :=
      List.flatMap_congr fun i hi => List.flatMap_congr fun j hj => by
        rw [Mat.at_gen (List.mem_range.mp hi) (List.mem_range.mp hj), elemBytes, hec]
    have hcompute : o.compute (Mat.gen M K A) (Mat.gen K N B) (Mat.gen M N C) M N K = (Mat.gen M N el, flags) := by
      rw [MmaOp.compute_gen hK, hel, hflags]
    unfold MmaOp.result
    rw [hops]
    dsimp only [MmaOp.dims]
    rw [hcompute, hbytes]
  have hcheck := MmaOp.check_gen (o := o) (A := A) (B := B) (C := C) (M := M) (N := N) (K := K) (E := el) w.mmatol
  rw [hfails] at hcheck
  rw [hresult]
  exact ⟨rfl, hcheck⟩

end Sys2Proof.Machine
end

section
/-! PROOFS. Scaled accumulation and block quantisation (O32). -/

namespace Sys2Proof.Machine

/-! ## A tile instruction whose result comes later -/

theorem didLater_of_defer {s : State} {c : Ctx} {i : Instr} {n : Need} {xs : List Wr} (h : s.ctx = some c) (he : exec i s = .next (s.defer c n xs)) :
    DidLater s c i n .ready false xs := by
  obtain ⟨w, r, hd, -⟩ := State.commit_did n [n.flight c .ready xs] h
  exact ⟨_, w, r, he, hd⟩

theorem State.tilePoison_none {s : State} (h : s.poisonT = []) (c : Ctx) (t : Nat) (os : List Nat) : s.tilePoison c t os = none := by
  rw [State.tilePoison, h]
  rfl

section
variable {s : State} {c : Ctx} {e : UExt} {tc ta tb : BitVec 3}

/-! ## SCACC (R103, R271) -/

section
variable {q : BitVec 3} {neg : Bool} {ra rb : BitVec 6}

theorem exec_scacc_of_mayIssue (hp : s.poisonT = [])
    (h : MayIssue s c { Need.tile true e (nq q) (nt tc) with later := true, names := nt ta ++ nt tb }) (hw : (Instr.scacc e tc ta tb q neg ra rb).wf = true)
    (hfit : scaccFits c.w tc.toNat ta.toNat tb.toNat (c.q q != neg) ra.toNat rb.toNat = true) (hc : s.tileBusy c.slot tc.toNat true = false)
    (ha : s.tileBusy c.slot ta.toNat false = false) (hb : s.tileBusy c.slot tb.toNat false = false) :
    exec (.scacc e tc ta tb q neg ra rb) s = .next (s.defer c { Need.tile true e (nq q) (nt tc) with later := true, names := nt ta ++ nt tb }
      (scaccWrites s.tick c.slot c.w tc.toNat ta.toNat tb.toNat (c.q q != neg) ra.toNat rb.toNat)) := by
  rw [exec_scacc, execScacc, ← wf_scacc, hw]
  refine (State.issue_go _ h).trans ?_
  simp only [hfit, hc, ha, hb, Bool.not_true, Bool.false_eq_true, if_false, Bool.or_self, State.tilePoison_none hp, Option.or_none, ite_self]

end

theorem scaccWrites_eq (tick slot : Nat) (w : Wave) (tc tp ts : Nat) (bit : Bool) (ra rb : Nat) :
    let sum (i j : Nat) : Nat × FFlags := accAdd fmt32 (tileElem tick slot w tc 4 i j)
      (if bit = false then .fin false 0 0 else if tileElem tick slot w ts 1 ra i = 255 ∨ tileElem tick slot w ts 1 rb j = 255 then .nan false
        else scaled (fmt32.decode (tileElem tick slot w tp 4 i j)) (tileElem tick slot w ts 1 ra i) (tileElem tick slot w ts 1 rb j))
    scaccWrites tick slot w tc tp ts bit ra rb = [.t tc ((List.range (shapeRows (w.shapeOf tc))).flatMap fun i =>
        (List.range (shapeCols (w.shapeOf tc))).flatMap fun j => elemBytes 4 i j (sum i j).1),
      .fp (orAll ((List.range (shapeRows (w.shapeOf tc))).flatMap fun i => (List.range (shapeCols (w.shapeOf tc))).map fun j => (sum i j).2))] := by
  intro sum
  have hsum : (Mat.gen (shapeRows (w.shapeOf tc)) (shapeCols (w.shapeOf tc)) fun i j =>
      let a := tileElem tick slot w ts 1 ra i
      let b := tileElem tick slot w ts 1 rb j
      let g : FVal := if !bit then .fin false 0 0 else if a = 255 ∨ b = 255 then .nan false
        else scaled (fmt32.decode (tileElem tick slot w tp 4 i j)) a b
      accAdd fmt32 (tileElem tick slot w tc 4 i j) g) = Mat.gen (shapeRows (w.shapeOf tc)) (shapeCols (w.shapeOf tc)) sum := by
    cases bit <;> rfl
  unfold scaccWrites
  dsimp only at hsum ⊢
  rw [hsum, Mat.foldl_flags]
  congr 2
  exact List.flatMap_congr fun i hi => List.flatMap_congr fun j hj => by rw [Mat.at_gen (List.mem_range.mp hi) (List.mem_range.mp hj)]

theorem scaled_eq (p : FVal) (a b : Nat) : scaled p a b = match p with
    | .fin z m ex => .fin z m (ex + a + b - 254)
    | v => v := by
  cases p <;> rfl

/-! ## The scale of a block (R101) -/

/-- The binade of a positive exact number. -/
theorem Dy.binade {d : Dy} (h : 0 < d.m) : (2 : ℚ) ^ (d.e + Nat.log2 d.m.natAbs) ≤ d.val ∧ d.val < 2 ^ (d.e + Nat.log2 d.m.natAbs + 1) := by
  have hval : d.val = d.m.natAbs * 2 ^ d.e := by rw [← Dy.abs_val, abs_of_nonneg (by rw [Dy.val]; positivity)]
  have hu : (0 : ℚ) < 2 ^ d.e := zpow_pos two_pos _
  have hne : d.m.natAbs ≠ 0 := by omega
  have hlow : ((2 ^ Nat.log2 d.m.natAbs : Nat) : ℚ) ≤ d.m.natAbs := Nat.cast_le.mpr (Nat.log2_self_le hne)
  have hupp : (d.m.natAbs : ℚ) < (2 ^ (Nat.log2 d.m.natAbs + 1) : Nat) := Nat.cast_lt.mpr Nat.lt_log2_self
  rw [hval, add_assoc, zpow_add₀ two_ne_zero, zpow_add₀ two_ne_zero d.e, mul_comm ((d.m.natAbs : Nat) : ℚ)]
  refine ⟨mul_le_mul_of_nonneg_left ?_ hu.le, mul_lt_mul_of_pos_left ?_ hu⟩
  · rw [zpow_natCast]
    exact_mod_cast hlow
  · exact_mod_cast hupp

/-- R101: the code is the least whose scale holds the largest magnitude. -/
theorem scaleCode_spec {fm mx : Dy} (hf : 0 < fm.m) (hm : 0 < mx.m) : mx.val ≤ fm.val * 2 ^ ((scaleCode fm mx : Int) - 127) ∧
    (scaleCode fm mx = 0 ∨ fm.val * 2 ^ ((scaleCode fm mx : Int) - 128) < mx.val) := by
  obtain ⟨hf0, hf1⟩ := Dy.binade hf
  obtain ⟨hm0, hm1⟩ := Dy.binade hm
  have hfpos : 0 < fm.val := (zpow_pos two_pos _).trans_le hf0
  obtain ⟨k, hcode, hle, hlt⟩ : ∃ k : Int, scaleCode fm mx = (max 0 (127 + k)).toNat ∧ mx.val ≤ fm.val * 2 ^ k ∧ fm.val * 2 ^ (k - 1) < mx.val := by
    set k0 : Int := (mx.e + Nat.log2 mx.m.natAbs) - (fm.e + Nat.log2 fm.m.natAbs) with hk0
    have hshift : Dy.lt ⟨fm.m, fm.e + k0⟩ mx = true ↔ fm.val * 2 ^ k0 < mx.val := by
      have hval : (⟨fm.m, fm.e + k0⟩ : Dy).val = fm.val * 2 ^ k0 := by
        simp only [Dy.val, zpow_add₀ (two_ne_zero (α := ℚ)), mul_assoc]
      rw [Dy.lt_iff, hval]
    by_cases h : fm.val * 2 ^ k0 < mx.val
    · refine ⟨k0 + 1, ?_, ?_, by rwa [add_sub_cancel_right]⟩
      · rw [scaleCode, ← hk0]
        simp only [hshift.mpr h, if_true]
      · calc mx.val ≤ 2 ^ (mx.e + Nat.log2 mx.m.natAbs + 1) := hm1.le
          _ = 2 ^ (fm.e + Nat.log2 fm.m.natAbs) * 2 ^ (k0 + 1) := by rw [← zpow_add₀ two_ne_zero]; congr 1; omega
          _ ≤ fm.val * 2 ^ (k0 + 1) := mul_le_mul_of_nonneg_right hf0 (zpow_pos two_pos _).le
    · refine ⟨k0, ?_, not_lt.mp h, ?_⟩
      · rw [scaleCode, ← hk0]
        simp only [Bool.eq_false_iff.mpr fun hb => h (hshift.mp hb), Bool.false_eq_true, if_false]
      · calc fm.val * 2 ^ (k0 - 1) < 2 ^ (fm.e + Nat.log2 fm.m.natAbs + 1) * 2 ^ (k0 - 1) := mul_lt_mul_of_pos_right hf1 (zpow_pos two_pos _)
          _ = 2 ^ (mx.e + Nat.log2 mx.m.natAbs) := by rw [← zpow_add₀ two_ne_zero]; congr 1; omega
          _ ≤ mx.val := hm0
  rcases le_total 0 (127 + k) with h | h
  · have hk : (scaleCode fm mx : Int) = 127 + k := by rw [hcode, max_eq_right h, Int.toNat_of_nonneg h]
    rw [hk]
    exact ⟨by rwa [add_sub_cancel_left], .inr (by rwa [show 127 + k - 128 = k - 1 by ring])⟩
  · have hz : scaleCode fm mx = 0 := by rw [hcode, max_eq_left h]; rfl
    refine ⟨hle.trans (mul_le_mul_of_nonneg_left ?_ hfpos.le), .inl hz⟩
    rw [hz]
    exact zpow_le_zpow_right₀ one_le_two (by push_cast; omega)

/-! ## A block (R101, R272) -/

/-- A magnitude of an FP32 value in units of 2^−149. -/
def mag149 : FVal → Nat
  | .fin _ m e => m * 2 ^ (e + 149).toNat
  | _ => 0

/-- The largest magnitude of a format of QUANT, its float format, and its NaN and +0 (R272). -/
def quantMax (fmt : BitVec 4) : Nat := if fmt = 4 then 448 else if fmt = 5 then 57344 else 2
def quantFloat (fmt : BitVec 4) : Fmt := if fmt = 4 then fmtE4M3 else fmtE5M2
def quantNan (fmt : BitVec 4) : Nat := if fmt = 6 then 0x77 else (quantFloat fmt).nan
def quantZero (fmt : BitVec 4) : Nat := if fmt = 6 then 0x77 else 0

/-- An element rounded at a scale. -/
def quantRounded (fmt : BitVec 4) (code : Nat) : FVal → Nat × FFlags
  | .fin z m e => if fmt = 6 then ds8Round .ne (.fin z m (e - (code - 127))) else (quantFloat fmt).round .ne false z m (e - (code - 127))
  | _ => (0, 0)

theorem decode32_exponent {x : Nat} {s : Bool} {m : Nat} {e : Int} (h : fmt32.decode x = .fin s m e) : -149 ≤ e := by
  unfold Fmt.decode at h
  dsimp only at h
  split at h
  · split at h <;> cases h
  · split at h
    · cases h
    · have hbias : (fmt32.bias : Int) = 127 := rfl
      have hfrac : (fmt32.frac : Int) = 23 := rfl
      split at h <;> cases h <;> rw [hbias, hfrac] <;> omega

theorem mag149_eq (x : Nat) : (mag149 (fmt32.decode x) : ℚ) = (fmt32.decode x).mag * 2 ^ (149 : Int) := by
  cases h : fmt32.decode x with
  | nan s => simp [mag149, FVal.mag]
  | inf s => simp [mag149, FVal.mag]
  | fin s m e =>
    have he := decode32_exponent h
    rw [mag149, FVal.mag, Nat.cast_mul, Nat.cast_pow, Nat.cast_ofNat, ← zpow_natCast, Int.toNat_of_nonneg (by omega), zpow_add₀ two_ne_zero, mul_assoc]

/-- The magnitude as an exact number, and the larger of two. -/
def FVal.absDy (v : FVal) : Dy := ⟨(v.dy.m.natAbs : Int), v.dy.e⟩
def Dy.larger (a d : Dy) : Dy := if Dy.lt a d then d else a

theorem FVal.absDy_val (v : FVal) : v.absDy.val = v.mag := by
  cases v with
  | nan s => simp [FVal.absDy, FVal.dy, Dy.val, FVal.mag]
  | inf s => simp [FVal.absDy, FVal.dy, Dy.val, FVal.mag]
  | fin s m e => cases s <;> simp [FVal.absDy, FVal.dy, Dy.val, FVal.mag, signedM]

/-- The largest magnitude of a block. -/
def blockMax (vs : List FVal) : Dy := (vs.map FVal.absDy).foldl Dy.larger ⟨0, 0⟩

theorem blockMax_spec (vs : List FVal) : 0 ≤ (blockMax vs).m ∧ (∀ v ∈ vs, v.mag ≤ (blockMax vs).val) ∧
    ((blockMax vs).val = 0 ∨ ∃ v ∈ vs, v.mag = (blockMax vs).val) := by
  obtain ⟨hmem, hall⟩ : blockMax vs ∈ ⟨0, 0⟩ :: vs.map FVal.absDy ∧ ∀ d ∈ ⟨0, 0⟩ :: vs.map FVal.absDy, d.val ≤ (blockMax vs).val := by
    refine foldl_pick (R := fun a b : Dy => a.val ≤ b.val) (fun a b => (ite_eq_or_eq _ _ _).symm) (fun a b => ?_) (fun a b => ?_) (fun a => le_rfl) (fun _ _ _ => le_trans) _ _
    · split
      · exact (Dy.lt_iff.mp ‹_›).le
      · exact le_rfl
    · split
      · exact le_rfl
      · exact not_lt.mp fun h => ‹¬ _› (Dy.lt_iff.mpr h)
  refine ⟨?_, fun v hv => ?_, ?_⟩
  · rcases List.mem_cons.mp hmem with h | h
    · rw [h]
    · obtain ⟨v, -, hv⟩ := List.mem_map.mp h
      rw [← hv]
      exact Int.natCast_nonneg _
  · rw [← FVal.absDy_val]
    exact hall _ (List.mem_cons_of_mem _ (List.mem_map_of_mem hv))
  · rcases List.mem_cons.mp hmem with h | h
    · left
      rw [h, Dy.val_eq_zero]
    · obtain ⟨v, hv, he⟩ := List.mem_map.mp h
      exact .inr ⟨v, hv, by rw [← he, FVal.absDy_val]⟩

section
variable {fmt : BitVec 4} {xs : List Word}

/-- The formats of QUANT (R272). -/
theorem quantFmt_cases (h4 : 4 ≤ fmt.toNat) (h6 : fmt.toNat ≤ 6) : fmt = 4 ∨ fmt = 5 ∨ fmt = 6 := by
  have : fmt.toNat = 4 ∨ fmt.toNat = 5 ∨ fmt.toNat = 6 := by omega
  exact this.imp (fun h => BitVec.eq_of_toNat_eq h) fun h => h.imp (fun h => BitVec.eq_of_toNat_eq h) fun h => BitVec.eq_of_toNat_eq h

theorem foldl_eq_blockMax (vs : List FVal) :
    vs.foldl (fun a v => let d : Dy := ⟨(v.dy.m.natAbs : Int), v.dy.e⟩; if Dy.lt a d then d else a) ⟨0, 0⟩ = blockMax vs := by
  rw [blockMax, List.foldl_map]
  rfl

/-- The exact largest value of a format of QUANT. -/
def quantDy (fmt : BitVec 4) : Dy := ⟨quantMax fmt, 0⟩

theorem quantBlock_special (hf : fmt = 4 ∨ fmt = 5 ∨ fmt = 6) (h : (xs.map fun x => fmt32.decode x.toNat).any FVal.special = true) :
    quantBlock fmt.toNat xs = (0xFF, xs.map fun _ => quantNan fmt, nvF) := by
  unfold quantBlock
  dsimp only
  rw [if_pos h]
  rcases hf with rfl | rfl | rfl <;> rfl

theorem quantBlock_finite (hf : fmt = 4 ∨ fmt = 5 ∨ fmt = 6) (h : (xs.map fun x => fmt32.decode x.toNat).any FVal.special = false) :
    let vs := xs.map fun x => fmt32.decode x.toNat
    let code := scaleCode (quantDy fmt) (blockMax vs)
    quantBlock fmt.toNat xs = if (blockMax vs).m = 0 then (0, xs.map fun _ => quantZero fmt, 0)
      else (code, vs.map fun v => (quantRounded fmt code v).1, orAll (vs.map fun v => (quantRounded fmt code v).2 &&& nxF)) := by
  intro vs code
  have hrs : ∀ g : FVal → Nat × FFlags, (∀ z m e, g (.fin z m e) = quantRounded fmt code (.fin z m e)) → vs.map g = vs.map (quantRounded fmt code) := by
    intro g hg
    refine List.map_congr_left fun v hv => ?_
    have hv' := (List.any_eq_false.mp h) v hv
    cases v with
    | fin z m e => exact hg z m e
    | nan b => exact absurd rfl hv'
    | inf b => exact absurd rfl hv'
  unfold quantBlock
  rw [if_neg (by rw [h]; exact Bool.false_ne_true), foldl_eq_blockMax]
  dsimp only
  by_cases hz : (blockMax vs).m = 0
  · rw [if_pos hz, if_pos hz]
    rcases hf with rfl | rfl | rfl <;> rfl
  · rw [if_neg hz, if_neg hz]
    have hgoal : ∀ g : FVal → Nat × FFlags, (∀ z m e, g (.fin z m e) = quantRounded fmt code (.fin z m e)) →
        (code, (vs.map g).map (·.1), (vs.map g).foldl (fun a r => a ||| (r.2 &&& nxF)) 0) =
          (code, vs.map fun v => (quantRounded fmt code v).1, orAll (vs.map fun v => (quantRounded fmt code v).2 &&& nxF)) := by
      intro g hg
      rw [hrs g hg, orAll, List.map_map, List.foldl_map (l := vs), List.foldl_map (l := vs)]
      rfl
    rcases hf with rfl | rfl | rfl <;> exact hgoal _ fun z m e => rfl

/-- R101: what a block's code and its elements are. -/
def QuantChosen (fmt : BitVec 4) (x : Nat → FVal) (code : Nat) (el : Nat → Nat) : Prop :=
  ((∃ k, k < 32 ∧ (x k).special = true) → code = 255 ∧ ∀ k, k < 32 → el k = quantNan fmt) ∧
  (¬ (∃ k, k < 32 ∧ (x k).special = true) → (∀ k, k < 32 → mag149 (x k) ≤ quantMax fmt * 2 ^ (code + 22)) ∧
    (code = 0 ∨ ∃ k, k < 32 ∧ quantMax fmt * 2 ^ (code + 21) < mag149 (x k)) ∧
    ∀ k, k < 32 → el k = if ((List.range 32).all fun j => mag149 (x j) == 0) = true then quantZero fmt else (quantRounded fmt code (x k)).1)

/-- The flags of a block: NV for a NaN or an infinity, NX for an element that is not exact. -/
def QuantFlags (fmt : BitVec 4) (x : Nat → FVal) (code : Nat) (flags : FFlags) : Prop :=
  ∀ n, n < 6 → (flags.getLsbD n = true ↔ (n = 0 ∧ ∃ k, k < 32 ∧ (x k).special = true) ∨
    (n = 4 ∧ ¬ (∃ k, k < 32 ∧ (x k).special = true) ∧ ∃ k, k < 32 ∧ (quantRounded fmt code (x k)).2.getLsbD 4 = true))

theorem orAll_getLsbD (fs : List FFlags) (n : Nat) : (orAll fs).getLsbD n = true ↔ ∃ y ∈ fs, y.getLsbD n = true := by
  induction fs with
  | nil => simp [orAll]
  | cons y ys ih =>
    rw [orAll, List.foldl_cons, foldl_or, BitVec.getLsbD_or, Bool.or_eq_true, ih]
    simp

theorem nvF_getLsbD {n : Nat} (h : n < 6) : nvF.getLsbD n = true ↔ n = 0 := by
  interval_cases n <;> decide

theorem and_nxF_getLsbD {n : Nat} (h : n < 6) (y : FFlags) : (y &&& nxF).getLsbD n = true ↔ n = 4 ∧ y.getLsbD 4 = true := by
  have hbit : nxF.getLsbD n = decide (n = 4) := by interval_cases n <;> decide
  rw [BitVec.getLsbD_and, hbit, Bool.and_eq_true, decide_eq_true_eq, and_comm]
  exact and_congr_right fun hn => by rw [hn]

/-- The units of 2^−149 of the largest value of a format at a scale. -/
theorem quantDy_units (fmt : BitVec 4) (code j : Nat) :
    ((quantMax fmt * 2 ^ (code + j) : Nat) : ℚ) = (quantDy fmt).val * 2 ^ ((code : Int) + j - 149) * 2 ^ (149 : Int) := by
  rw [mul_assoc, ← zpow_add₀ two_ne_zero, sub_add_cancel]
  simp only [quantDy, Dy.val, zpow_zero, mul_one, Int.cast_natCast]
  rw [← Nat.cast_add, zpow_natCast]
  push_cast
  rfl

theorem quantMax_pos (fmt : BitVec 4) : 0 < quantMax fmt := by
  unfold quantMax
  split
  · decide
  · split <;> decide

theorem ds8Round_zero_flags (s : Bool) (e : Int) : (ds8Round .ne (.fin s 0 e)).2 = 0 := by
  have hzero : (FVal.fin s 0 e).mag = 0 := by simp [FVal.mag]
  have hcode : (ds8Val 0x77).mag = 0 := by
    rw [ds8Val_mag, show ds8Units 0x77 = 0 by decide]
    simp
  obtain ⟨-, -, hflags, hnear⟩ := (ds8Round_rounds .ne s 0 e).2 (by rw [hzero]; norm_num)
  have hle := ((hnear 0x77 (by decide)).1 rfl).1
  rw [hzero, hcode, sub_zero, sub_zero, abs_zero] at hle
  rw [hflags, if_pos ((abs_nonpos_iff.mp hle).trans hzero.symm)]

/-- A zero is exact. -/
theorem quantRounded_zero {fmt : BitVec 4} {code : Nat} {v : FVal} (hv : v.special = false) (hz : v.mag = 0) : (quantRounded fmt code v).2 = 0 := by
  cases v with
  | nan s => rfl
  | inf s => rfl
  | fin s m e =>
    have hm : m = 0 := by
      rw [FVal.mag, mul_eq_zero, or_iff_left (zpow_ne_zero _ two_ne_zero)] at hz
      exact_mod_cast hz
    subst hm
    rw [quantRounded, apply_ite Prod.snd, ds8Round_zero_flags, Fmt.round_zero, ite_self]

section
variable {fmt : BitVec 4} {X : Nat → Word} (hf : fmt = 4 ∨ fmt = 5 ∨ fmt = 6)
include hf

theorem quantBlock_special_chosen (h : ∃ k, k < 32 ∧ (fmt32.decode (X k).toNat).special = true) :
    let b := quantBlock fmt.toNat ((List.range 32).map X)
    QuantChosen fmt (fun k => fmt32.decode (X k).toNat) b.1 (fun k => b.2.1.getD k 0) ∧ b.2.1.length = 32 ∧
      QuantFlags fmt (fun k => fmt32.decode (X k).toNat) b.1 b.2.2 := by
  have hany : (((List.range 32).map X).map fun x => fmt32.decode x.toNat).any FVal.special = true := by
    simpa [List.any_eq_true] using h
  rw [quantBlock_special hf hany]
  refine ⟨⟨fun _ => ⟨rfl, fun k hk => ?_⟩, fun hno => absurd h hno⟩, by simp, fun n hn => ?_⟩
  · simp [List.getD, hk]
  · rw [nvF_getLsbD hn]
    simp [h]

theorem quantBlock_finite_chosen (h : ¬ ∃ k, k < 32 ∧ (fmt32.decode (X k).toNat).special = true) :
    let b := quantBlock fmt.toNat ((List.range 32).map X)
    QuantChosen fmt (fun k => fmt32.decode (X k).toNat) b.1 (fun k => b.2.1.getD k 0) ∧ b.2.1.length = 32 ∧
      QuantFlags fmt (fun k => fmt32.decode (X k).toNat) b.1 b.2.2 := by
  have hany : (((List.range 32).map X).map fun x => fmt32.decode x.toNat).any FVal.special = false := by
    rw [Bool.eq_false_iff]
    simpa [List.any_eq_true] using h
  have hblock := quantBlock_finite hf hany
  dsimp only at hblock
  set vs := ((List.range 32).map X).map fun x => fmt32.decode x.toNat with hvs
  have hmem : ∀ v, v ∈ vs ↔ ∃ k, k < 32 ∧ fmt32.decode (X k).toNat = v := by simp [hvs]
  obtain ⟨hnonneg, hall, hsome⟩ := blockMax_spec vs
  have hunits : ∀ k, (mag149 (fmt32.decode (X k).toNat) : ℚ) = (fmt32.decode (X k).toNat).mag * 2 ^ (149 : Int) := fun k => mag149_eq _
  have hscale : (0 : ℚ) < 2 ^ (149 : Int) := zpow_pos two_pos _
  have hmagz : ∀ k, mag149 (fmt32.decode (X k).toNat) = 0 ↔ (fmt32.decode (X k).toNat).mag = 0 := fun k => by
    rw [← Nat.cast_eq_zero (R := ℚ), hunits, mul_eq_zero, or_iff_left hscale.ne']
  have hnn : ∀ k, 0 ≤ (fmt32.decode (X k).toNat).mag := fun k => nonneg_of_mul_nonneg_left ((hunits k).symm ▸ Nat.cast_nonneg _) hscale
  have hle_max : ∀ k, k < 32 → (fmt32.decode (X k).toNat).mag ≤ (blockMax vs).val := fun k hk => hall _ ((hmem _).mpr ⟨k, hk, rfl⟩)
  have hzero : ((List.range 32).all fun j => mag149 (fmt32.decode (X j).toNat) == 0) = true ↔ (blockMax vs).m = 0 := by
    simp only [List.all_eq_true, List.mem_range, beq_iff_eq, hmagz]
    rw [← Dy.val_eq_zero]
    refine ⟨fun hk => hsome.elim id ?_, fun hz k hk => le_antisymm (hz ▸ hle_max k hk) (hnn k)⟩
    rintro ⟨v, hv, he⟩
    obtain ⟨k, hk', rfl⟩ := (hmem v).mp hv
    exact he.symm.trans (hk k hk')
  have hfinite : ∀ k, k < 32 → (fmt32.decode (X k).toNat).special = false := fun k hk => Bool.eq_false_iff.mpr fun hb => h ⟨k, hk, hb⟩
  by_cases hz : (blockMax vs).m = 0
  · rw [if_pos hz] at hblock
    rw [hblock]
    have hmag : ∀ k, k < 32 → (fmt32.decode (X k).toNat).mag = 0 := fun k hk => le_antisymm (Dy.val_eq_zero.mpr hz ▸ hle_max k hk) (hnn k)
    refine ⟨⟨fun ho => absurd ho h, fun _ => ⟨fun k hk => ?_, .inl rfl, fun k hk => ?_⟩⟩, by simp, fun n hn => ?_⟩
    · rw [(hmagz k).mpr (hmag k hk)]
      exact Nat.zero_le _
    · rw [if_pos (hzero.mpr hz)]
      simp [List.getD, hk]
    · refine iff_of_false (by simp) ?_
      rintro (⟨-, ho⟩ | ⟨-, -, k, hk, hb⟩)
      · exact h ho
      · rw [quantRounded_zero (hfinite k hk) (hmag k hk)] at hb
        simp at hb
  · rw [if_neg hz] at hblock
    obtain ⟨hle, hlt⟩ := scaleCode_spec (fm := quantDy fmt) (mx := blockMax vs) (Nat.cast_pos.mpr (quantMax_pos fmt)) (lt_of_le_of_ne hnonneg (Ne.symm hz))
    generalize scaleCode (quantDy fmt) (blockMax vs) = code at hblock hle hlt
    rw [hblock]
    refine ⟨⟨fun ho => absurd ho h, fun _ => ⟨fun k hk => ?_, ?_, fun k hk => ?_⟩⟩, by simp [hvs], fun n hn => ?_⟩
    · rw [← Nat.cast_le (α := ℚ), hunits, quantDy_units, show (code : Int) + (22 : Nat) - 149 = code - 127 by push_cast; ring]
      exact mul_le_mul_of_nonneg_right ((hle_max k hk).trans hle) hscale.le
    · refine hlt.imp id fun hlt => ?_
      obtain ⟨v, hv, he⟩ := hsome.resolve_left fun h0 => hz (Dy.val_eq_zero.mp h0)
      obtain ⟨k, hk, rfl⟩ := (hmem v).mp hv
      refine ⟨k, hk, ?_⟩
      rw [← Nat.cast_lt (α := ℚ), hunits, quantDy_units, show (code : Int) + (21 : Nat) - 149 = code - 128 by push_cast; ring, he]
      exact mul_lt_mul_of_pos_right hlt hscale
    · rw [if_neg fun hb => hz (hzero.mp hb)]
      simp [hvs, List.getD, hk]
    · rw [orAll_getLsbD]
      simp only [List.mem_map, hmem]
      constructor
      · rintro ⟨y, ⟨v, ⟨k, hk, rfl⟩, rfl⟩, hb⟩
        obtain ⟨hn4, hb4⟩ := (and_nxF_getLsbD hn _).mp hb
        exact .inr ⟨hn4, h, k, hk, hb4⟩
      · rintro (⟨-, ho⟩ | ⟨hn4, -, k, hk, hb⟩)
        · exact absurd ho h
        · exact ⟨_, ⟨_, ⟨k, hk, rfl⟩, rfl⟩, (and_nxF_getLsbD hn _).mpr ⟨hn4, hb⟩⟩

/-- What QUANT chooses for a block. -/
theorem quantBlock_chosen : let b := quantBlock fmt.toNat ((List.range 32).map X)
    QuantChosen fmt (fun k => fmt32.decode (X k).toNat) b.1 (fun k => b.2.1.getD k 0) ∧ b.2.1.length = 32 ∧
      QuantFlags fmt (fun k => fmt32.decode (X k).toNat) b.1 b.2.2 := by
  by_cases h : ∃ k, k < 32 ∧ (fmt32.decode (X k).toNat).special = true
  · exact quantBlock_special_chosen hf h
  · exact quantBlock_finite_chosen hf h

end

end

/-! ## QUANT (R272) -/

theorem exec_quant_of_mayIssue {col : Bool} {r : BitVec 6} {fmt : BitVec 4} (hp : s.poisonT = [])
    (h : MayIssue s c { Need.tile true e [] (nt tc ++ nt tb) with later := true, names := nt ta }) (hw : (Instr.quant e tc ta tb fmt col r).wf = true)
    (hfit : quantFits c.w tc.toNat ta.toNat tb.toNat col r.toNat = true) (hc : s.tileBusy c.slot tc.toNat true = false)
    (hb : s.tileBusy c.slot tb.toNat true = false) (ha : s.tileBusy c.slot ta.toNat false = false) :
    exec (.quant e tc ta tb fmt col r) s = .next (s.defer c { Need.tile true e [] (nt tc ++ nt tb) with later := true, names := nt ta }
      (quantWrites s.tick c.slot c.w fmt.toNat tc.toNat ta.toNat tb.toNat col r.toNat)) := by
  rw [exec_quant, execQuant, ← wf_quant, hw]
  refine (State.issue_go _ h).trans ?_
  simp only [hfit, hc, ha, hb, Bool.not_true, Bool.false_eq_true, if_false, Bool.or_self, State.tilePoison_none hp]

end

theorem leNat_lt (bs : List Byte) : leNat bs < 256 ^ bs.length := by
  induction bs with
  | nil => exact Nat.one_pos
  | cons b bs ih =>
    have hb := b.isLt
    rw [leNat, List.length_cons, Nat.pow_succ]
    omega

theorem tileElem_lt (tick slot : Nat) (w : Wave) (t i k : Nat) : tileElem tick slot w t 4 i k < 2 ^ 32 := by
  have h := leNat_lt ((addrs (256 * i + 4 * k) 4).map (w.tileByte tick slot t))
  rwa [List.length_map, addrs_length] at h

theorem elemBytes_one (i k x : Nat) : elemBytes 1 i k x = [(256 * i + k, BitVec.ofNat 8 x)] := by
  simp [elemBytes, addrs, leBytes]

theorem mem_zipIdx_getD {l : List Nat} {k : Nat} (h : k < l.length) : (l.getD k 0, k) ∈ l.zipIdx := by
  rw [List.mk_mem_zipIdx_iff_getElem?, List.getD_eq_getElem _ _ h, List.getElem?_eq_getElem h]

section
variable (tick slot : Nat) (w : Wave) (fmt td ts tq : Nat) (col : Bool) (r : Nat)

/-- Element `k` of block `b` of line `l` of QUANT's source: a line is a row, with .COL a column. -/
def quantSource (l b k : Nat) : Nat := if col then tileElem tick slot w ts 4 (32 * b + k) l else tileElem tick slot w ts 4 l (32 * b + k)

/-- The code, the elements and the flags of that block. -/
def quantBlockAt (l b : Nat) : Nat × List Nat × FFlags :=
  quantBlock fmt ((List.range 32).map fun k => BitVec.ofNat 32 (quantSource tick slot w ts col l b k))

/-- QUANT's blocks: 32 elements each of every line. -/
def QuantBlocks (l b : Nat) : Prop :=
  l < (if col then shapeCols (w.shapeOf ts) else shapeRows (w.shapeOf ts)) ∧ b < (if col then shapeRows (w.shapeOf ts) else shapeCols (w.shapeOf ts)) / 32

/-- QUANT's blocks with what it writes for each. -/
def quantResults : List ((Nat × Nat) × Nat × List Nat × FFlags) :=
  ((List.range (if col then shapeCols (w.shapeOf ts) else shapeRows (w.shapeOf ts))).flatMap fun l =>
    (List.range ((if col then shapeRows (w.shapeOf ts) else shapeCols (w.shapeOf ts)) / 32)).map fun b => (l, b)).map
      fun p => (p, quantBlockAt tick slot w fmt ts col p.1 p.2)

theorem mem_quantResults {z : (Nat × Nat) × Nat × List Nat × FFlags} : z ∈ quantResults tick slot w fmt ts col ↔
    ∃ l b, QuantBlocks w ts col l b ∧ ((l, b), quantBlockAt tick slot w fmt ts col l b) = z := by
  simp only [quantResults, QuantBlocks, List.mem_map, List.mem_flatMap, List.mem_range]
  constructor
  · rintro ⟨_, ⟨l, hl, b, hb, rfl⟩, rfl⟩
    exact ⟨l, b, ⟨hl, hb⟩, rfl⟩
  · rintro ⟨l, b, ⟨hl, hb⟩, rfl⟩
    exact ⟨_, ⟨l, hl, b, hb, rfl⟩, rfl⟩

theorem quantWrites_eq : quantWrites tick slot w fmt td ts tq col r =
    [.t td ((quantResults tick slot w fmt ts col).flatMap fun z => (z.2.2.1.zipIdx).flatMap fun y =>
        elemBytes 1 (if col then 32 * z.1.2 + y.2 else z.1.1) (if col then z.1.1 else 32 * z.1.2 + y.2) y.1),
      .t tq ((quantResults tick slot w fmt ts col).flatMap fun z => elemBytes 1 (r + z.1.2) z.1.1 z.2.1),
      .fp (orAll ((quantResults tick slot w fmt ts col).map (·.2.2.2)))] := by
  rw [orAll, List.foldl_map]
  cases col <;> rfl

/-- Each block's code and elements stand among QUANT's writes, and its flags are those of all blocks. -/
theorem quantWrites_spec : ∃ (els scales : List (Nat × Byte)) (flags : FFlags),
    quantWrites tick slot w fmt td ts tq col r = [.t td els, .t tq scales, .fp flags] ∧
    (∀ l b, QuantBlocks w ts col l b → (256 * (r + b) + l, BitVec.ofNat 8 (quantBlockAt tick slot w fmt ts col l b).1) ∈ scales ∧
      ∀ k, k < (quantBlockAt tick slot w fmt ts col l b).2.1.length → (if col then 256 * (32 * b + k) + l else 256 * l + (32 * b + k),
        BitVec.ofNat 8 ((quantBlockAt tick slot w fmt ts col l b).2.1.getD k 0)) ∈ els) ∧
    ∀ n, flags.getLsbD n = true ↔ ∃ l b, QuantBlocks w ts col l b ∧ (quantBlockAt tick slot w fmt ts col l b).2.2.getLsbD n = true := by
  refine ⟨_, _, _, quantWrites_eq tick slot w fmt td ts tq col r, fun l b hlb => ?_, fun n => ?_⟩
  · have hz := (mem_quantResults tick slot w fmt ts col).mpr ⟨l, b, hlb, rfl⟩
    refine ⟨List.mem_flatMap.mpr ⟨_, hz, ?_⟩, fun k hk => List.mem_flatMap.mpr ⟨_, hz, List.mem_flatMap.mpr ⟨_, mem_zipIdx_getD hk, ?_⟩⟩⟩
    · rw [elemBytes_one]
      exact List.mem_singleton_self _
    · rw [elemBytes_one]
      cases col <;> exact List.mem_singleton_self _
  · simp only [orAll_getLsbD, List.mem_map, mem_quantResults]
    constructor
    · rintro ⟨_, ⟨_, ⟨l, b, hlb, rfl⟩, rfl⟩, hn⟩
      exact ⟨l, b, hlb, hn⟩
    · rintro ⟨l, b, hlb, hn⟩
      exact ⟨_, ⟨_, ⟨l, b, hlb, rfl⟩, rfl⟩, hn⟩

end

/-- The block that QUANT reads is the block of its source's elements. -/
theorem quantBlockAt_chosen {fmt : BitVec 4} (hf : fmt = 4 ∨ fmt = 5 ∨ fmt = 6) (tick slot : Nat) (w : Wave) (ts : Nat) (col : Bool) (l b : Nat) :
    let x (k : Nat) : FVal := fmt32.decode (quantSource tick slot w ts col l b k)
    let z := quantBlockAt tick slot w fmt.toNat ts col l b
    QuantChosen fmt x z.1 (fun k => z.2.1.getD k 0) ∧ z.2.1.length = 32 ∧ QuantFlags fmt x z.1 z.2.2 := by
  have hx : ∀ k, (BitVec.ofNat 32 (quantSource tick slot w ts col l b k)).toNat = quantSource tick slot w ts col l b k := fun k => by
    rw [BitVec.toNat_ofNat, Nat.mod_eq_of_lt]
    unfold quantSource
    split <;> exact tileElem_lt ..
  have h := quantBlock_chosen (X := fun k => BitVec.ofNat 32 (quantSource tick slot w ts col l b k)) hf
  simp only [hx] at h
  exact h

/-- Settles O32: SCACC's element is C's plus the scaled partial sum; QUANT's block takes the least code that holds its largest magnitude. -/
theorem scaleAndQuantiseResults : Obligations.ScaleAndQuantiseResults := by
  unfold Obligations.ScaleAndQuantiseResults
  intro s c e tc ta tb q neg col ra rb r fmt hp raw holds
  refine ⟨?_, ?_⟩
  · intro n M N sum hmay hwf hfit hc ha hb
    have hexec := exec_scacc_of_mayIssue hp hmay hwf hfit hc ha hb
    rw [scaccWrites_eq] at hexec
    simp only [scaled_eq] at hexec
    exact didLater_of_defer hmay.selected hexec
  · intro n rows cols x mag fmax f8 rounded odd chosen hmay hwf hfit hc hb ha isBlock
    have hf : fmt = 4 ∨ fmt = 5 ∨ fmt = 6 := by
      rw [wf_quant, Bool.and_eq_true, Bool.and_eq_true, decide_eq_true_eq, decide_eq_true_eq] at hwf
      exact quantFmt_cases hwf.1.2 hwf.2
    have hexec := exec_quant_of_mayIssue hp hmay hwf hfit hc hb ha
    obtain ⟨els, scales, flags, hwrites, hblocks, hflags⟩ := quantWrites_spec s.tick c.slot c.w fmt.toNat tc.toNat ta.toNat tb.toNat col r.toNat
    rw [hwrites] at hexec
    have hchosen := fun l b => quantBlockAt_chosen hf s.tick c.slot c.w ta.toNat col l b
    refine ⟨els, scales, flags, fun l b => (quantBlockAt s.tick c.slot c.w fmt.toNat ta.toNat col l b).1,
      fun l b k => (quantBlockAt s.tick c.slot c.w fmt.toNat ta.toNat col l b).2.1.getD k 0, didLater_of_defer hmay.selected hexec, fun l b hlb => ?_, fun n hn => ?_⟩
    · obtain ⟨hch, hlen, -⟩ := hchosen l b
      obtain ⟨hscale, hels⟩ := hblocks l b hlb
      exact ⟨hch, hscale, fun k hk => hels k (hlen.symm ▸ hk)⟩
    · rw [hflags]
      constructor
      · rintro ⟨l, b, hlb, hbit⟩
        obtain ⟨-, -, hfl⟩ := hchosen l b
        rcases (hfl n hn).mp hbit with ⟨h0, hodd⟩ | ⟨h4, hno, k, hk, hb⟩
        · exact .inl ⟨h0, l, b, hlb, hodd⟩
        · exact .inr ⟨h4, l, b, k, hlb, hno, hk, hb⟩
      · rintro (⟨h0, l, b, hlb, hodd⟩ | ⟨h4, l, b, k, hlb, hno, hk, hb⟩)
        · obtain ⟨-, -, hfl⟩ := hchosen l b
          exact ⟨l, b, hlb, (hfl n hn).mpr (.inl ⟨h0, hodd⟩)⟩
        · obtain ⟨-, -, hfl⟩ := hchosen l b
          exact ⟨l, b, hlb, (hfl n hn).mpr (.inr ⟨h4, hno, k, hk, hb⟩)⟩

end Sys2Proof.Machine
end
